-- ==== Sys2Proof/Word.lean ====
section
/-! DEFINITION. The word types of the TKZ-7204 and the names of its agents. -/

namespace Sys2Proof

/-- A scalar register's contents (00 R4). -/
abbrev Word := BitVec 64

/-- The smallest addressable unit. -/
abbrev Byte := BitVec 8

/-- A vector register's contents, 2048 bits (08 R184). -/
abbrev Vec := BitVec 2048

/-- A predicate register's contents, one bit per byte of a vector register (12 R260). -/
abbrev Pred := BitVec 256

/-- An instruction word (07 R153). -/
abbrev IWord := BitVec 48

/-- The four engines of a bank, in the order S, L, C, W (00 "Engines and banks", 07 R143). -/
inductive Engine where
  | S | L | C | W
  deriving DecidableEq, Repr

/-- The number of an engine in a cause code and in TSTATE (00 R10, 17 Table 17.7). -/
def Engine.num : Engine → Nat
  | .S => 0 | .L => 1 | .C => 2 | .W => 3

/-- A die, 0-3 (00 R1). -/
abbrev Die := Fin 4

/-- A cluster of the device, die × 9 + cluster (00 R1). -/
abbrev ClusterId := Fin 36

/-- A core of the device, die × 72 + its index within the die (00 R1). -/
abbrev CoreId := Fin 288

/-- A bank of the device, core × 2 + bank (00 R4). -/
abbrev BankId := Fin 576

/-- The core that holds a bank (00 R4). -/
def coreOf (b : BankId) : CoreId := ⟨b.val / 2, by omega⟩

/-- The die that holds a core (00 R1). -/
def dieOfCore (c : CoreId) : Die := ⟨c.val / 72, by omega⟩

/-- The die that holds a bank (00 R1). -/
def dieOf (b : BankId) : Die := dieOfCore (coreOf b)

/-- The cluster that holds a core (00 R1). -/
def clusterOfCore (c : CoreId) : ClusterId := ⟨c.val / 8, by omega⟩

/-- The cluster that holds a bank (00 R1). -/
def clusterOf (b : BankId) : ClusterId := clusterOfCore (coreOf b)

/-- The die that holds a cluster (00 R1). -/
def dieOfCluster (c : ClusterId) : Die := ⟨c.val / 9, by omega⟩

/-- A cause: its group, kind and engine (00 R10). -/
structure Cause where
  group : Nat
  kind : Nat
  engine : Engine
  deriving DecidableEq, Repr

/-- The numeric value of a cause code, 64 × g + 4 × k + e (00 R10). -/
def Cause.code (c : Cause) : Nat := 64 * c.group + 4 * c.kind + c.engine.num

end Sys2Proof
end

