-- ==== Sys2Proof/Syntax.lean ====
section
/-! DEFINITION. The steps of the TKZ-7204: one constructor of `Instr` per row of the table of operations and events.
The first 156 are the instruction words (07 R158); the others are the events of the device (95). -/

namespace Sys2Proof

/-- The vector element types with their codes 0-7 (08 Table 8.2). -/
inductive VTy where
  | fp32 | bf16 | fp16 | e4m3 | e5m2 | i32 | i16 | i8
  deriving DecidableEq, Repr

/-- The sync fields of every word: pop bits [45:43] and push [42:41] (07 R154). -/
structure Sync where
  pop : BitVec 3
  push : BitVec 2
  deriving DecidableEq, Repr

/-- The ordering fields of every L and W word: stream [34:32] and mask [31:24] (04 R92). -/
structure Ord where
  stream : BitVec 3
  mask : BitVec 8
  deriving DecidableEq, Repr

/-- The S words without operands (07 Table 7.2 SR with every field zero). -/
structure S0 where
  sy : Sync
  deriving DecidableEq, Repr

/-- Format SR with rd, ra and rb (07 Table 7.2). -/
structure SRrr where
  sy : Sync
  (rd ra rb : BitVec 5)
  deriving DecidableEq, Repr

/-- Format SR with rd and ra (PWRACQ, SLOTWAIT). -/
structure SRr where
  sy : Sync
  (rd ra : BitVec 5)
  deriving DecidableEq, Repr

/-- Format SR with ra alone (FPUSH, 09 R220). -/
structure SRa where
  sy : Sync
  (ra : BitVec 5)
  deriving DecidableEq, Repr

/-- Format SI (07 Table 7.2). -/
structure SImm where
  sy : Sync
  (rd ra : BitVec 5)
  (imm : BitVec 25)
  deriving DecidableEq, Repr

/-- Format SI of SLLI, SRLI and SRAI, whose imm25[24:6] is zero (09 R203). -/
structure SShift where
  sy : Sync
  (rd ra : BitVec 5)
  (sh : BitVec 6)
  deriving DecidableEq, Repr

/-- Format SL (07 Table 7.2). -/
structure SLi where
  sy : Sync
  (rd : BitVec 5)
  (imm : BitVec 30)
  deriving DecidableEq, Repr

/-- Format SB (07 Table 7.2). -/
structure SBr where
  sy : Sync
  (ra rb : BitVec 5)
  (off : BitVec 25)
  deriving DecidableEq, Repr

/-- Format SJ (07 Table 7.2). -/
structure SJal where
  sy : Sync
  (rd : BitVec 5)
  (off : BitVec 30)
  deriving DecidableEq, Repr

/-- Format LOOPB: counter, rotate bits (bit 0 vector, bit 1 predicate) and offset (09 R207). -/
structure SLoop where
  sy : Sync
  (counter : BitVec 5)
  (m : BitVec 2)
  (off : BitVec 26)
  deriving DecidableEq, Repr

/-- Format SC of CRD: rd and the control register number (09 R210). -/
structure SCrd where
  sy : Sync
  (rd : BitVec 5)
  (cr : BitVec 13)
  deriving DecidableEq, Repr

/-- Format SC of CWR, CSET and CCLR: ra and the number (09 R210). -/
structure SCwr where
  sy : Sync
  (ra : BitVec 5)
  (cr : BitVec 13)
  deriving DecidableEq, Repr

/-- TRAP's immediate (09 R214). -/
structure STrap where
  sy : Sync
  (imm : BitVec 25)
  deriving DecidableEq, Repr

/-- WAITEV: rd, ra and the event mask imm25[4:0] (09 R216). -/
structure SWait where
  sy : Sync
  (rd ra : BitVec 5)
  (mask : BitVec 5)
  deriving DecidableEq, Repr

/-- Format XLATE: rights bit 0 read, bit 1 write (01 R24). -/
structure SXlate where
  sy : Sync
  (hd : BitVec 4)
  (ra : BitVec 5)
  (rights : BitVec 2)
  deriving DecidableEq, Repr

/-- Format SH of HLOCAL: windows 0-3 (09 R217). -/
structure SHlocal where
  sy : Sync
  (hd : BitVec 4)
  (base ext : BitVec 5)
  (win : BitVec 2)
  deriving DecidableEq, Repr

/-- Format SH of HINV (09 R218). -/
structure SHinv where
  sy : Sync
  (hd : BitVec 4)
  deriving DecidableEq, Repr

/-- Format SG (09 R218). -/
structure SHget where
  sy : Sync
  (rd : BitVec 5)
  (hd : BitVec 4)
  (word : BitVec 1)
  deriving DecidableEq, Repr

/-- Format SY of YSET and YGET (09 R219). -/
structure SYfield where
  sy : Sync
  (y : BitVec 3)
  (field : BitVec 5)
  (s : BitVec 5)
  deriving DecidableEq, Repr

/-- Format SY of YCLR (09 R219). -/
structure SYclr where
  sy : Sync
  (y : BitVec 3)
  deriving DecidableEq, Repr

/-- Format FPUSHI (09 R220). -/
structure SFpushi where
  sy : Sync
  (imm : BitVec 30)
  deriving DecidableEq, Repr

/-- Format MEM with a scalar register (10 R229). -/
structure MemS where
  sy : Sync
  od : Ord
  (reg : BitVec 5)
  (h : BitVec 4)
  (idx : BitVec 5)
  (rep : BitVec 5)
  (step : BitVec 4)
  deriving DecidableEq, Repr

/-- Format MEM with a vector register (10 R230). -/
structure MemV where
  sy : Sync
  od : Ord
  (reg : BitVec 6)
  (h : BitVec 4)
  (idx : BitVec 5)
  (rep : BitVec 5)
  (step : BitVec 4)
  deriving DecidableEq, Repr

/-- Format ATOM (07 Table 7.3). -/
structure Atom where
  sy : Sync
  od : Ord
  (res : BitVec 5)
  (h : BitVec 4)
  (idx opnd : BitVec 5)
  (scope : BitVec 3)
  deriving DecidableEq, Repr

/-- Format ATOM without a result (SEMSIG, 10 R234). -/
structure AtomN where
  sy : Sync
  od : Ord
  (h : BitVec 4)
  (idx opnd : BitVec 5)
  (scope : BitVec 3)
  deriving DecidableEq, Repr

/-- Format ATOM of DISCARD and WBACK (02 R55). -/
structure PageR where
  sy : Sync
  od : Ord
  (h : BitVec 4)
  (idx opnd : BitVec 5)
  deriving DecidableEq, Repr

/-- Format ATOM of PGRSV, PGREL and PGMIG (02 R55). -/
structure PageP where
  sy : Sync
  od : Ord
  (res : BitVec 5)
  (h : BitVec 4)
  (opnd : BitVec 5)
  deriving DecidableEq, Repr

/-- Format ATOM of COMMIT and RETRACT (16 R345). -/
structure SlotOp where
  sy : Sync
  od : Ord
  (res : BitVec 5)
  (h : BitVec 4)
  (idx opnd : BitVec 5)
  deriving DecidableEq, Repr

/-- Format COPY; lvl 0 scratchpad, 1 marver slice (11 R248). -/
structure CopyW where
  sy : Sync
  od : Ord
  (y : BitVec 3)
  (h : BitVec 4)
  (loc org mc : BitVec 5)
  (lvl : BitVec 1)
  deriving DecidableEq, Repr

/-- Format GATHER; cnt is n - 1 (11 R255). -/
structure GatherW where
  sy : Sync
  od : Ord
  (vi : BitVec 6)
  (h : BitVec 4)
  (y : BitVec 3)
  (loc : BitVec 5)
  (cnt : BitVec 5)
  deriving DecidableEq, Repr

/-- Format CL (12 R264). -/
structure CLocal where
  sy : Sync
  (v : BitVec 6)
  (sa : BitVec 5)
  (off : BitVec 10)
  (rep : BitVec 5)
  (step : BitVec 4)
  deriving DecidableEq, Repr

/-- Format CV with two vector sources and a mod field (12 R266). -/
structure CBin where
  sy : Sync
  (vd va vb : BitVec 6)
  (pr : BitVec 4)
  (ty : VTy)
  (rep : BitVec 5)
  (md : BitVec 5)
  deriving DecidableEq, Repr

/-- Format CV with one vector source and a mod field (12 R266). -/
structure CUn where
  sy : Sync
  (vd va : BitVec 6)
  (pr : BitVec 4)
  (ty : VTy)
  (rep : BitVec 5)
  (md : BitVec 5)
  deriving DecidableEq, Repr

/-- VCVT: source type, rounding and NaN mode (12 R269). -/
structure CCvt where
  sy : Sync
  (vd va : BitVec 6)
  (src : VTy)
  (pr : BitVec 4)
  (ty : VTy)
  (rep : BitVec 5)
  (rnd : BitVec 3)
  (nan : Bool)
  deriving DecidableEq, Repr

/-- VQNT: element code, scaling and NaN mode (12 R270). -/
structure CQnt where
  sy : Sync
  (vd va vb : BitVec 6)
  (elem : BitVec 3)
  (nx : Bool)
  (rep : BitVec 5)
  (nan : Bool)
  deriving DecidableEq, Repr

/-- VDQNT: element code and scaling (12 R270). -/
structure CDqnt where
  sy : Sync
  (vd va vb : BitVec 6)
  (elem : BitVec 3)
  (nx : Bool)
  (rep : BitVec 5)
  deriving DecidableEq, Repr

/-- VCMP (12 R271). -/
structure CCmp where
  sy : Sync
  (pd : BitVec 4)
  (va vb : BitVec 6)
  (pr : BitVec 4)
  (ty : VTy)
  (rep : BitVec 5)
  (rel : BitVec 3)
  deriving DecidableEq, Repr

/-- Format CV with two vector sources and mod zero (12 R272, R273, R278). -/
structure CTri where
  sy : Sync
  (vd va vb : BitVec 6)
  (pr : BitVec 4)
  (ty : VTy)
  (rep : BitVec 5)
  deriving DecidableEq, Repr

/-- Format CV with one vector source and mod zero (12 R275, R277). -/
structure CMov where
  sy : Sync
  (vd va : BitVec 6)
  (pr : BitVec 4)
  (ty : VTy)
  (rep : BitVec 5)
  deriving DecidableEq, Repr

/-- Format CI of VMOVI (12 R275). -/
structure CMovi where
  sy : Sync
  (vd : BitVec 6)
  (imm : BitVec 16)
  (ty : VTy)
  (rep : BitVec 5)
  deriving DecidableEq, Repr

/-- VFROMS (12 R275). -/
structure CFroms where
  sy : Sync
  (vd : BitVec 6)
  (sa : BitVec 5)
  (pr : BitVec 4)
  (ty : VTy)
  (rep : BitVec 5)
  deriving DecidableEq, Repr

/-- VTOS (12 R276). -/
structure CTos where
  sy : Sync
  (sd : BitVec 5)
  (va : BitVec 6)
  (sl : BitVec 5)
  (ty : VTy)
  deriving DecidableEq, Repr

/-- VSLIDE and VBCAST: the scalar stands in the vb field (12 R278). -/
structure CSlide where
  sy : Sync
  (vd va : BitVec 6)
  (sk : BitVec 5)
  (pr : BitVec 4)
  (ty : VTy)
  (rep : BitVec 5)
  deriving DecidableEq, Repr

/-- VIOTA (12 R278). -/
structure CIota where
  sy : Sync
  (vd : BitVec 6)
  (pr : BitVec 4)
  (ty : VTy)
  (rep : BitVec 5)
  deriving DecidableEq, Repr

/-- PAND, POR and PXOR (12 R279). -/
structure PBin where
  sy : Sync
  (pd pa pb : BitVec 4)
  (pr : BitVec 4)
  (ty : VTy)
  (rep : BitVec 5)
  deriving DecidableEq, Repr

/-- PNOT (12 R279). -/
structure PUn where
  sy : Sync
  (pd pa : BitVec 4)
  (pr : BitVec 4)
  (ty : VTy)
  (rep : BitVec 5)
  deriving DecidableEq, Repr

/-- PSET (12 R279). -/
structure PSetW where
  sy : Sync
  (pd : BitVec 4)
  (sk : BitVec 5)
  (pr : BitVec 4)
  (ty : VTy)
  (rep : BitVec 5)
  deriving DecidableEq, Repr

/-- RBSET: the vector base and the predicate base (12 R280). -/
structure Rbset where
  sy : Sync
  (v : BitVec 6)
  (p : BitVec 3)
  deriving DecidableEq, Repr

/-- SLACK (12 R281). -/
structure SlackW where
  sy : Sync
  (n : BitVec 8)
  deriving DecidableEq, Repr

/-- Format CM of MMA and MMAT; n is K-steps - 1 (13 R288). -/
structure MmaW where
  sy : Sync
  (acc : BitVec 2)
  (sa sb : BitVec 5)
  (n : BitVec 5)
  deriving DecidableEq, Repr

/-- Format CM of ACLR (13 R291). -/
structure AclrW where
  sy : Sync
  (acc : BitVec 2)
  deriving DecidableEq, Repr

/-- Format ARD; rows is n - 1 (13 R292). -/
structure ArdW where
  sy : Sync
  (acc : BitVec 2)
  (v : BitVec 6)
  (row : BitVec 7)
  (ty : VTy)
  (rows : BitVec 5)
  (rnd : BitVec 3)
  deriving DecidableEq, Repr

/-- Format ARD of AWR, whose rounding field is zero (13 R292). -/
structure AwrW where
  sy : Sync
  (acc : BitVec 2)
  (v : BitVec 6)
  (row : BitVec 7)
  (ty : VTy)
  (rows : BitVec 5)
  deriving DecidableEq, Repr

/-- Format ASTS (13 R293). -/
structure AstsW where
  sy : Sync
  (acc : BitVec 2)
  (sa : BitVec 5)
  (ty : VTy)
  (rnd : BitVec 3)
  deriving DecidableEq, Repr

/-- A user queue, 0-63 (19 R405). -/
abbrev QueueId := Fin 64

/-- A slot grid, 0-15 (16 R330). -/
abbrev GridId := Fin 16

/-- A conversation, 0-8191 (16 R333). -/
abbrev ConvId := Fin 8192

/-- A fabric port, die × 6 + port (19 R397). -/
abbrev PortId := Fin 24

/-- A fabric endpoint (19 R399). -/
abbrev EndpointId := Nat

/-- A grid descriptor (16 Table 16.1). -/
structure GridDesc where
  period : Nat
  phase : Nat
  guardTime : Nat
  cap : Vector Nat 4
  maxtok : Nat
  fill : Vector (BitVec 32) 16
  rom : Bool
  trapmiss : Bool
  template : Word
  batch : Vector Word 4
  seq : Vector Word 4
  asn : BitVec 12
  deriving DecidableEq, Repr

/-- An ingress group as the fabric delivered it: the sender, the bytes, and whether its tokens are poison (16 R338, R339). -/
structure Ingress where
  sender : EndpointId
  bytes : List Byte
  poison : Bool
  deriving DecidableEq, Repr

/-- One column's two sensor readings, in quarters of a degree (18 R389). -/
structure Reading where
  core : Fin 72
  t0 : Nat
  t1 : Nat
  deriving DecidableEq, Repr

/-- The host fields of a queue control block (19 Table 19.4). -/
structure QueueParms where
  ringVa : Word
  sizelog : Nat
  prio : Nat
  asn : BitVec 12
  deriving DecidableEq, Repr

/-- What a host gives a new pool (02 Table 2.1). -/
structure PoolParms where
  owner : BitVec 12
  limit : Nat
  late64 : List Nat
  late256 : List Nat
  deriving DecidableEq, Repr

/-- One L2 traffic filter and the die's log ring (20 R423). -/
structure FilterParms where
  idx : Fin 4
  enabled : Bool
  base : Nat
  mask : Nat
  reqLo : Nat
  reqHi : Nat
  ops : BitVec 9
  hits : Bool
  misses : Bool
  ringPa : Nat
  ringLog : Nat
  deriving DecidableEq, Repr

/-- A register that a debugger writes, and its value (20 R421). -/
inductive DebugTarget where
  | sreg (r : BitVec 5) (x : Word)
  | vreg (r : BitVec 6) (x : Vec)
  | preg (r : BitVec 4) (x : Pred)
  | yfield (y : BitVec 3) (f : BitVec 5) (x : BitVec 32)
  | accWord (a : BitVec 2) (row : Nat) (col : Nat) (x : BitVec 32)
  | ctl (cr : BitVec 13) (x : Word)
  deriving DecidableEq, Repr

/-- An error location (20 Table 20.1). -/
inductive ErrLoc where
  | frame (n : Nat)
  | storageSet (d : Die) (n : Nat)
  | remoteSet (d : Die) (n : Nat)
  | dieBlock (d : Die) (n : Nat)
  | core (c : CoreId)
  | gafferMem
  deriving DecidableEq, Repr

/-- The signed configuration image (20 R424). -/
structure SignedImage where
  firmware : List (List Byte)
  helper : List (List Byte)
  retirement : List ErrLoc
  certKey : BitVec 256
  commanders : List (BitVec 256)
  vendorSig : BitVec 512
  identitySig : BitVec 512
  deriving DecidableEq, Repr

/-- What the hardware answers during a start: the four PUF responses and whether links, HBM, cores and ports come up,
with the TIME that is taken (20 Table 20.8). -/
structure StartEnv where
  puf : List (List Byte)
  links : Bool
  hbm : Bool
  cores : Bool
  ports : Bool
  time : Nat
  deriving DecidableEq, Repr

/-- An access of a fabric endpoint by physical address (19 R403). -/
inductive EpAccess where
  | read (pa : Nat) (n : Nat)
  | write (pa : Nat) (bytes : List Byte)
  deriving DecidableEq, Repr

/-- The steps of the device: one constructor per row of the table. -/
inductive Instr where
  /-- NOP: Has no effect beyond its sync fields. (R208) -/
  | nop (a : S0)
  /-- ADD: Writes the 64-bit sum of two scalar registers. (R203) -/
  | add (a : SRrr)
  /-- SUB: Writes the 64-bit difference of two scalar registers. (R203) -/
  | sub (a : SRrr)
  /-- MUL: Writes the low 64 bits of the product. (R203) -/
  | mul (a : SRrr)
  /-- MULH: Writes the high 64 bits of the signed 128-bit product. (R203) -/
  | mulh (a : SRrr)
  /-- MULHU: Writes the high 64 bits of the unsigned 128-bit product. (R203) -/
  | mulhu (a : SRrr)
  /-- DIV: Writes the signed quotient truncated toward zero, never trapping. (R204) -/
  | div (a : SRrr)
  /-- DIVU: Writes the unsigned quotient, never trapping. (R204) -/
  | divu (a : SRrr)
  /-- REM: Writes the signed remainder with the sign of the dividend. (R204) -/
  | rem (a : SRrr)
  /-- REMU: Writes the unsigned remainder. (R204) -/
  | remu (a : SRrr)
  /-- AND: Writes the bitwise and of two scalar registers. (R203) -/
  | and (a : SRrr)
  /-- OR: Writes the bitwise or of two scalar registers. (R203) -/
  | or (a : SRrr)
  /-- XOR: Writes the bitwise exclusive or of two scalar registers. (R203) -/
  | xor (a : SRrr)
  /-- SLL: Shifts left by the low six bits of the second operand. (R203) -/
  | sll (a : SRrr)
  /-- SRL: Shifts right with zero fill by the low six bits of the second operand. (R203) -/
  | srl (a : SRrr)
  /-- SRA: Shifts right with sign fill by the low six bits of the second operand. (R203) -/
  | sra (a : SRrr)
  /-- SLT: Writes 1 if the first operand is less than the second, signed. (R203) -/
  | slt (a : SRrr)
  /-- SLTU: Writes 1 if the first operand is less than the second, unsigned. (R203) -/
  | sltu (a : SRrr)
  /-- MIN: Writes the signed minimum of two scalar registers. (R203) -/
  | min (a : SRrr)
  /-- MAX: Writes the signed maximum of two scalar registers. (R203) -/
  | max (a : SRrr)
  /-- ADDI: Adds a sign-extended 25-bit immediate. (R203) -/
  | addi (a : SImm)
  /-- ANDI: Ands with a sign-extended immediate. (R203) -/
  | andi (a : SImm)
  /-- ORI: Ors with a sign-extended immediate. (R203) -/
  | ori (a : SImm)
  /-- XORI: Exclusive-ors with a sign-extended immediate. (R203) -/
  | xori (a : SImm)
  /-- SLLI: Shifts left by an immediate amount. (R203) -/
  | slli (a : SShift)
  /-- SRLI: Shifts right with zero fill by an immediate amount. (R203) -/
  | srli (a : SShift)
  /-- SRAI: Shifts right with sign fill by an immediate amount. (R203) -/
  | srai (a : SShift)
  /-- SLTI: Writes 1 if the operand is less than the immediate, signed. (R203) -/
  | slti (a : SImm)
  /-- LI: Loads a sign-extended 30-bit immediate. (R205) -/
  | li (a : SLi)
  /-- LIH: Replaces the bits above 30 of a register with a shifted immediate. (R205) -/
  | lih (a : SLi)
  /-- BEQ: Branches when two registers are equal. (R206) -/
  | beq (a : SBr)
  /-- BNE: Branches when two registers differ. (R206) -/
  | bne (a : SBr)
  /-- BLT: Branches on signed less than. (R206) -/
  | blt (a : SBr)
  /-- BGE: Branches on signed greater or equal. (R206) -/
  | bge (a : SBr)
  /-- BLTU: Branches on unsigned less than. (R206) -/
  | bltu (a : SBr)
  /-- BGEU: Branches on unsigned greater or equal. (R206) -/
  | bgeu (a : SBr)
  /-- JAL: Writes the link index and jumps by an offset. (R206) -/
  | jal (a : SJal)
  /-- JALR: Writes the link index and jumps to a register index plus immediate. (R206) -/
  | jalr (a : SImm)
  /-- LOOPB: Decrements a counter, queues any rotate entry, and branches while nonzero. (R207) -/
  | loopb (a : SLoop)
  /-- END: Ends the task once streams, copies and C writes are done. (R208) -/
  | endt (a : S0)
  /-- CRD: Reads a control register into a scalar register. (R210) -/
  | crd (a : SCrd)
  /-- CWR: Writes a control register from a scalar register. (R210) -/
  | cwr (a : SCwr)
  /-- CSET: Sets bits of a control register in one indivisible read-modify-write. (R210) -/
  | cset (a : SCwr)
  /-- CCLR: Clears bits of a control register in one indivisible read-modify-write. (R210) -/
  | cclr (a : SCwr)
  /-- TRAP: Raises the software trap 5.15.S with TVAL set from its immediate. (R214) -/
  | trap (a : STrap)
  /-- ERET: Returns from the task's handler, restoring tokens and re-injecting saved state. (R365) -/
  | eret (a : S0)
  /-- WAITEV: Waits for a masked pending event or a deadline and returns the events taken. (R216) -/
  | waitev (a : SWait)
  /-- XLATE: Translates a VA through the die translation cache into a handle register. (R25) -/
  | xlate (a : SXlate)
  /-- HLOCAL: Makes a local handle over a sub-range of a local window. (R217) -/
  | hlocal (a : SHlocal)
  /-- HINV: Sets a handle register invalid. (R218) -/
  | hinv (a : SHinv)
  /-- HGET: Reads one word of a handle register. (R218) -/
  | hget (a : SHget)
  /-- YSET: Writes one field of a layout register. (R219) -/
  | yset (a : SYfield)
  /-- YGET: Reads one field of a layout register. (R219) -/
  | yget (a : SYfield)
  /-- YCLR: Clears every field of a layout register. (R219) -/
  | yclr (a : SYclr)
  /-- FPUSH: Appends a register's low 32 bits to the format queue, waiting if full. (R220) -/
  | fpush (a : SRa)
  /-- FPUSHI: Appends an immediate format word to the format queue, waiting if full. (R220) -/
  | fpushi (a : SFpushi)
  /-- PWRACQ: Sets the task's power class, waiting for budget headroom on a raise. (R222) -/
  | pwracq (a : SRr)
  /-- PWRREL: Returns the task's power class to its declared class. (R222) -/
  | pwrrel (a : S0)
  /-- SLOTWAIT: Waits for the next frontier advance of a grid and returns its boundary. (R223) -/
  | slotwait (a : SRr)
  /-- CTXQ: Reads the frontier, miss count or status of a conversation from its lehr. (R224) -/
  | ctxq (a : SRrr)
  /-- YIELD: Offers the task for pre-emption to a waiting launch of equal or higher priority. (R209) -/
  | yield (a : S0)
  /-- LDB: Loads a sign-extended byte. (R229) -/
  | ldb (a : MemS)
  /-- LDBU: Loads a zero-extended byte. (R229) -/
  | ldbu (a : MemS)
  /-- LDH: Loads a sign-extended halfword. (R229) -/
  | ldh (a : MemS)
  /-- LDHU: Loads a zero-extended halfword. (R229) -/
  | ldhu (a : MemS)
  /-- LDW: Loads a sign-extended word. (R229) -/
  | ldw (a : MemS)
  /-- LDWU: Loads a zero-extended word. (R229) -/
  | ldwu (a : MemS)
  /-- LDD: Loads a doubleword. (R229) -/
  | ldd (a : MemS)
  /-- VLD: Loads 256 bytes into a vector register. (R230) -/
  | vld (a : MemV)
  /-- VLDS: Loads eight 32-byte segments at a pitch into a vector register. (R230) -/
  | vlds (a : MemV)
  /-- VLDB: Broadcasts an 8-byte unit into every unit of a vector register. (R230) -/
  | vldb (a : MemV)
  /-- CPIN: Copies a tensor window into local storage, optionally multicast. (R248) -/
  | cpin (a : CopyW)
  /-- CPGATHER: Gathers indexed tensor rows into the own scratchpad. (R255) -/
  | cpgather (a : GatherW)
  /-- SEMWAIT: Waits at the point of coherence until a semaphore count reaches a value. (R234) -/
  | semwait (a : Atom)
  /-- BARWAIT: Waits at the point of coherence until a barrier phase differs from a value. (R234) -/
  | barwait (a : Atom)
  /-- WLTAKE: Takes an item from a work list, waiting or receiving done. (R326) -/
  | wltake (a : Atom)
  /-- VLDL: Loads 256 bytes from the scratchpad reservation into a vector register. (R264) -/
  | vldl (a : CLocal)
  /-- VSTL: Stores a vector register to the scratchpad reservation. (R264) -/
  | vstl (a : CLocal)
  /-- VLDM: Loads 256 bytes from the marver reservation into a vector register. (R264) -/
  | vldm (a : CLocal)
  /-- VSTM: Stores a vector register to the marver reservation. (R264) -/
  | vstm (a : CLocal)
  /-- VADD: Adds lanes, rounded once or wrapped or saturated. (R266) -/
  | vadd (a : CBin)
  /-- VSUB: Subtracts lanes. (R266) -/
  | vsub (a : CBin)
  /-- VMUL: Multiplies lanes. (R266) -/
  | vmul (a : CBin)
  /-- VFMA: Fused multiply-add of lanes with one rounding. (R266) -/
  | vfma (a : CBin)
  /-- VMIN: Lesser lane under totalOrder or signed compare. (R266) -/
  | vmin (a : CTri)
  /-- VMAX: Greater lane under totalOrder or signed compare. (R266) -/
  | vmax (a : CTri)
  /-- VABS: Absolute value of lanes. (R266) -/
  | vabs (a : CUn)
  /-- VDIV: Correctly rounded lane division. (R268) -/
  | vdiv (a : CBin)
  /-- VRCP: Correctly rounded reciprocal of lanes. (R268) -/
  | vrcp (a : CUn)
  /-- VRSQ: Correctly rounded reciprocal square root of lanes. (R268) -/
  | vrsq (a : CUn)
  /-- VEXP2: Correctly rounded base-2 exponential of lanes. (R268) -/
  | vexp2 (a : CUn)
  /-- VLOG2: Correctly rounded base-2 logarithm of lanes. (R268) -/
  | vlog2 (a : CUn)
  /-- VSQRT: Correctly rounded square root of lanes. (R268) -/
  | vsqrt (a : CUn)
  /-- VCVT: Converts lanes from a source type to the destination type. (R269) -/
  | vcvt (a : CCvt)
  /-- VQNT: Quantises FP32 lanes into MX or NX blocks with scales. (R270) -/
  | vqnt (a : CQnt)
  /-- VDQNT: Dequantises MX or NX blocks into FP32 lanes. (R270) -/
  | vdqnt (a : CDqnt)
  /-- VCMP: Compares lanes and writes a predicate. (R271) -/
  | vcmp (a : CCmp)
  /-- VSEL: Selects each lane from one of two registers by predicate. (R272) -/
  | vsel (a : CTri)
  /-- VAND: Bitwise and of two registers. (R273) -/
  | vand (a : CTri)
  /-- VOR: Bitwise or of two registers. (R273) -/
  | vor (a : CTri)
  /-- VXOR: Bitwise exclusive or of two registers. (R273) -/
  | vxor (a : CTri)
  /-- VSHL: Shifts integer lanes left, optionally saturating. (R274) -/
  | vshl (a : CBin)
  /-- VSHR: Shifts integer lanes right with zero fill. (R274) -/
  | vshr (a : CTri)
  /-- VSHRA: Shifts integer lanes right with sign fill. (R274) -/
  | vshra (a : CTri)
  /-- VMOV: Copies lanes under a merge mask. (R275) -/
  | vmov (a : CMov)
  /-- VMOVI: Fills every lane with an immediate. (R275) -/
  | vmovi (a : CMovi)
  /-- VFROMS: Fills active lanes from a scalar register. (R275) -/
  | vfroms (a : CFroms)
  /-- VTOS: Copies one lane to a scalar register. (R276) -/
  | vtos (a : CTos)
  /-- VREDADD: Sums lanes in a fixed tree. (R277) -/
  | vredadd (a : CUn)
  /-- VREDMAX: Reduces lanes to their greatest. (R277) -/
  | vredmax (a : CMov)
  /-- VREDMIN: Reduces lanes to their least. (R277) -/
  | vredmin (a : CMov)
  /-- VARGMAX: Returns the index of the lowest greatest active lane. (R277) -/
  | vargmax (a : CMov)
  /-- VPERM: Permutes lanes by an index register. (R278) -/
  | vperm (a : CTri)
  /-- VSLIDE: Slides lanes by a scalar amount with zero fill. (R278) -/
  | vslide (a : CSlide)
  /-- VBCAST: Broadcasts one lane to all lanes. (R278) -/
  | vbcast (a : CSlide)
  /-- VIOTA: Writes each lane's index. (R278) -/
  | viota (a : CIota)
  /-- PAND: And of two predicates. (R279) -/
  | pand (a : PBin)
  /-- POR: Or of two predicates. (R279) -/
  | por (a : PBin)
  /-- PXOR: Exclusive or of two predicates. (R279) -/
  | pxor (a : PBin)
  /-- PNOT: Complement of a predicate. (R279) -/
  | pnot (a : PUn)
  /-- PSET: Sets lanes below a scalar count active. (R279) -/
  | pset (a : PSetW)
  /-- RBSET: Sets the vector and predicate rotation bases. (R280) -/
  | rbset (a : Rbset)
  /-- SLACK: Sets the region slack for later local loads. (R281) -/
  | slack (a : SlackW)
  /-- MMA: Checks, pops a format word and runs K-steps of A times B into an accumulator. (R289) -/
  | mma (a : MmaW)
  /-- MMAT: As MMA with a transposed A element plane. (R289) -/
  | mmat (a : MmaW)
  /-- ACLR: Clears an accumulator. (R291) -/
  | aclr (a : AclrW)
  /-- ARD: Reads accumulator rows into vector registers with conversion. (R292) -/
  | ard (a : ArdW)
  /-- AWR: Writes vector registers into accumulator rows. (R292) -/
  | awr (a : AwrW)
  /-- ASTS: Stores a whole converted accumulator into the scratchpad reservation. (R293) -/
  | asts (a : AstsW)
  /-- STB: Stores a byte as a sub-word store. (R229) -/
  | stb (a : MemS)
  /-- STH: Stores a halfword as a sub-word store. (R229) -/
  | sth (a : MemS)
  /-- STW: Stores a word as a sub-word store. (R229) -/
  | stw (a : MemS)
  /-- STD: Stores a doubleword, clearing poison. (R229) -/
  | std (a : MemS)
  /-- VST: Stores 256 bytes from a vector register. (R230) -/
  | vst (a : MemV)
  /-- VSTS: Stores eight 32-byte segments at a pitch. (R230) -/
  | vsts (a : MemV)
  /-- AADD: Atomic add returning the old value. (R232) -/
  | aadd (a : Atom)
  /-- AMIN: Atomic signed minimum. (R232) -/
  | amin (a : Atom)
  /-- AMAX: Atomic signed maximum. (R232) -/
  | amax (a : Atom)
  /-- AAND: Atomic and. (R232) -/
  | aand (a : Atom)
  /-- AOR: Atomic or. (R232) -/
  | aor (a : Atom)
  /-- AXOR: Atomic exclusive or. (R232) -/
  | axor (a : Atom)
  /-- ASWAP: Atomic swap. (R232) -/
  | aswap (a : Atom)
  /-- ACAS: Atomic compare-and-swap, writing only on success. (R232) -/
  | acas (a : Atom)
  /-- AFADD: Atomic add of two FP32 halves, illegal in deterministic mode. (R233) -/
  | afadd (a : Atom)
  /-- SEMSIG: Adds to a semaphore count at its point of coherence. (R234) -/
  | semsig (a : AtomN)
  /-- BARARV: Arrives at a barrier, completing a phase when enough have arrived. (R234) -/
  | bararv (a : Atom)
  /-- CPOUT: Copies local storage out to a tensor window. (R248) -/
  | cpout (a : CopyW)
  /-- CPSCATTER: Scatters scratchpad rows to indexed tensor rows. (R255) -/
  | cpscatter (a : GatherW)
  /-- DISCARD: Drops every unbacked line of a range back to absent. (R57) -/
  | discard (a : PageR)
  /-- WBACK: Writes dirty backed lines of a range to HBM. (R58) -/
  | wback (a : PageR)
  /-- PGRSV: Reserves lines in the page's pool. (R59) -/
  | pgrsv (a : PageP)
  /-- PGREL: Releases unpinned reserved lines of the page's pool. (R59) -/
  | pgrel (a : PageP)
  /-- PGMIG: Moves an unbacked page to another die and pool. (R60) -/
  | pgmig (a : PageP)
  /-- WLAPPEND: Appends an item to a work list and serves waiters. (R325) -/
  | wlappend (a : Atom)
  /-- COMMIT: Commits a speak slot of a conversation at its lehr. (R346) -/
  | commit (a : SlotOp)
  /-- RETRACT: Withdraws committed unplayed speak slots from a slot onward. (R347) -/
  | retract (a : SlotOp)
  /-- WORD_DISPATCH: The dispatcher places up to two words in their queues, capturing operands. (R162) -/
  | wordDispatch (b : BankId)
  /-- ILLEGAL_WORD: A marked illegal word reaches its queue head and raises its group-0 cause. (R160) -/
  | illegalWord (b : BankId) (e : Engine)
  /-- FETCH_FAULT: An instruction fetch from an untranslatable, non-X or poisoned page raises its cause. (R29) -/
  | fetchFault (b : BankId)
  /-- HANDLE_LAND: An XLATE, HLOCAL or HINV result lands in its handle register after its fixed latency. (R25) -/
  | handleLand (b : BankId)
  /-- WALK_COMPLETE: A page walk ends and writes its result to pending handles and captures. (R27) -/
  | walkComplete (tag : Nat)
  /-- INVALIDATION_RELEASE: Accesses in the range have completed, so held lookups are released and completion reported. (R35) -/
  | invalidationRelease (d : Die) (id : Nat)
  /-- ALLOCATION_ANSWER: The home L2 answers an unbacked allocation request with hit, granted or refused. (R49) -/
  | allocationAnswer (b : BankId)
  /-- LATE_FRAME_CONVERSION: A refused allocation under LF = 1 converts the page to a backed frame. (R52) -/
  | lateFrameConversion (b : BankId)
  /-- REMOTE_FILL: A line returned by a home L2 is installed in the remote partition. (R79) -/
  | remoteFill (d : Die) (line : Nat)
  /-- OPERATION_COMPLETE: An L, W or copy operation completes, counting in QDONE and pushing its token. (R97) -/
  | operationComplete (b : BankId) (uid : Nat)
  /-- FABRIC_WAIT_POLL: The fabric port repeats the read of a waiting fabric-window object every 2 µs. (R235) -/
  | fabricWaitPoll (b : BankId) (uid : Nat)
  /-- COPY_ROW_ISSUE: The copy unit checks and issues a row piece of a copy. (R249) -/
  | copyRowIssue (b : BankId) (e : Engine)
  /-- COPY_ROW_LAND: A copy row lands at a destination. (R248) -/
  | copyRowLand (b : BankId) (uid : Nat) (row : Nat)
  /-- C_WRITE_LAND: A C write lands in its register, accumulator or local storage at its landing cycle. (R172) -/
  | cWriteLand (b : BankId)
  /-- LATE_LOAD_ARRIVAL: The data of a late local load arrives and lands. (R174) -/
  | lateLoadArrival (b : BankId)
  /-- SLACK_EXPIRY: Slack runs out after a late load's nominal landing and C freezes. (R174) -/
  | slackExpiry (b : BankId)
  /-- IDLE_ENGINE_CYCLE: C counts an engine cycle without issuing while the bank is blocked on C. (R171) -/
  | idleEngineCycle (b : BankId)
  /-- ROTATE_ENTRY: C processes a rotate entry and decrements the rotation bases. (R177) -/
  | rotateEntry (b : BankId)
  /-- KSTEP_WRITE: A K-step's result is written to the accumulator 8 core clocks after it ends. (R290) -/
  | kstepWrite (b : BankId)
  /-- DRAIN_COMPLETE: A cut bank finishes draining and is delivered to the gaffer complex or its handler. (R359) -/
  | drainComplete (b : BankId)
  /-- RESUME: Firmware answers a cause so the bank becomes ready as it was left. (R361) -/
  | resume (b : BankId)
  /-- REFRESH: Firmware retranslates stale, faulted or pending captures and resumes the bank. (R361) -/
  | refresh (b : BankId)
  /-- ANSWER_END: Firmware ends the task at the cut. (R361) -/
  | answerEnd (b : BankId)
  /-- PREEMPTION_SAVE_END: A pre-empted bank's save completes and the bank goes to the slot task. (R371) -/
  | preemptionSaveEnd (b : BankId)
  /-- RESTORE: A freed bank restores and re-injects a pre-empted task. (R373) -/
  | restore (b : BankId)
  /-- LAUNCH: A ring LAUNCH entry's record is checked and submitted to the dies. (R301) -/
  | launch (q : QueueId)
  /-- LAUNCH_ELIGIBLE: A launch's waits are satisfied on a die and it enters its priority FIFO. (R305) -/
  | launchEligible (d : Die) (l : Nat)
  /-- LAUNCH_AGEING: A waiting launch moves up one FIFO after each full millisecond. (R306) -/
  | launchAgeing (d : Die) (l : Nat)
  /-- TASK_PLACEMENT: The launch unit places a task or gang on the coolest candidate core. (R309) -/
  | taskPlacement (d : Die)
  /-- PLACEMENT_THERMAL_TIMEOUT: After 1 ms a task blocked by temperature skips the threshold step. (R309) -/
  | placementThermalTimeout (d : Die) (l : Nat)
  /-- LAUNCH_RETIRE: All of a launch's tasks on a die have ended and DONE is signalled. (R311) -/
  | launchRetire (d : Die) (l : Nat)
  /-- CHAIN_FETCH: The command core fetches a chained record at NEXT. (R312) -/
  | chainFetch (l : Nat)
  /-- SHADOW_START: A shadow bank starts fetching when its chained wait is satisfied. (R312) -/
  | shadowStart (b : BankId)
  /-- FHINT_HOLD_EXPIRY: A frequency-hint hold ends when classes are reached or 100 µs pass. (R410) -/
  | fhintHoldExpiry (d : Die) (l : Nat)
  /-- GRID_CONFIGURE: A host sets a stopped grid's descriptor. (R330) -/
  | gridConfigure (g : GridId) (desc : GridDesc)
  /-- GRID_START: A host starts a grid, which is checked and scheduled. (R332) -/
  | gridStart (g : GridId)
  /-- GRID_STOP: A host stops a grid, effective at its next boundary. (R332) -/
  | gridStop (g : GridId)
  /-- CONV_OPEN: A host opens a conversation, effective at the next boundary. (R336) -/
  | convOpen (m : ConvId) (recVa : Word)
  /-- CONV_CLOSE: A host closes a conversation. (R336) -/
  | convClose (m : ConvId)
  /-- SLOT_BOUNDARY: At boundary n the lehr closes listen slots, plays speak slots, advances frontiers and launches. (R340) -/
  | slotBoundary (d : Die) (g : GridId)
  /-- INGRESS_GROUP: The lehr tests and stages an ingress group. (R339) -/
  | ingressGroup (d : Die) (grp : Ingress)
  /-- FREQ_REQUEST_TAKEUP: The power core takes up a class request and sets the cluster's target. (R383) -/
  | freqRequestTakeup (b : BankId)
  /-- RAIL_STEP: VDIE moves one 10 mV step of a change. (R379) -/
  | railStep (d : Die)
  /-- CLOCK_SWITCH_END: A cluster's clock switch ends and the change may be resolved. (R379) -/
  | clockSwitchEnd (d : Die)
  /-- STALLRATIO_SAMPLE: Every 10 µs the power core samples STALLRATIO and adjusts policy targets. (R382) -/
  | stallratioSample (c : ClusterId) (stalled : Nat) (busy : Nat)
  /-- BUDGET_GRANT: A queued headroom request is granted from the die current budget. (R386) -/
  | budgetGrant (d : Die)
  /-- SENSOR_REFRESH: Every 100 µs sensors are read, THERM events set and CAP adjusted. (R391) -/
  | sensorRefresh (d : Die) (readings : List Reading)
  /-- MARVER_RAIL_WINDOW: Every 100 ms the marver rail steps by the corrected error count. (R393) -/
  | marverRailWindow (d : Die)
  /-- UNDERVOLT_HOLD_END: The 1 s hold after an undervolt error ends. (R394) -/
  | undervoltHoldEnd (d : Die)
  /-- SET_POINT_RESTORE: SP doubles after each 60 s without an uncorrectable error. (R394) -/
  | setPointRestore (d : Die)
  /-- LANE_SHED: A port sheds lanes and retrains. (R401) -/
  | laneShed (p : PortId)
  /-- LANE_RESTORE: A port restores lanes and retrains. (R401) -/
  | laneRestore (p : PortId)
  /-- LINK_RETRAINED: Retraining ends and the replay buffer is resent in order. (R401) -/
  | linkRetrained (p : PortId)
  /-- FABRIC_COMPLETION_ERROR: A refused or timed-out fabric access returns 5.4 and cuts the bank. (R400) -/
  | fabricCompletionError (b : BankId) (uid : Nat) (reason : Nat)
  /-- TIME_MESSAGE: A time message from the master adjusts the TIME rate. (R402) -/
  | timeMessage (master : Word)
  /-- DOORBELL: A doorbell write sets a queue's tail or puts it in error. (R407) -/
  | doorbell (q : QueueId) (tail : BitVec 32)
  /-- RING_NOP: A NOP ring entry has no effect. (R405) -/
  | ringNop (q : QueueId)
  /-- RING_SIGNAL: A SIGNAL ring entry signals a semaphore once earlier launches retire. (R405) -/
  | ringSignal (q : QueueId)
  /-- RING_UNKNOWN_TYPE: An unknown ring entry type puts the queue in error. (R405) -/
  | ringUnknownType (q : QueueId)
  /-- QUEUE_CREATE: Mailbox request creating a user queue. (R412) -/
  | queueCreate (q : QueueId) (parms : QueueParms)
  /-- QUEUE_RESET: Mailbox request resetting a queue, clearing ERR and HEAD and TAIL. (R413) -/
  | queueReset (q : QueueId)
  /-- QUEUE_DESTROY: Mailbox request destroying a queue. (R412) -/
  | queueDestroy (q : QueueId)
  /-- POOL_CREATE: Mailbox request creating an unbacked pool. (R46) -/
  | poolCreate (d : Die) (pool : BitVec 8) (parms : PoolParms)
  /-- POOL_SET_LIMIT: Mailbox request setting a pool's LIMIT, tearing down lines above it. (R50) -/
  | poolSetLimit (d : Die) (pool : BitVec 8) (limit : Nat)
  /-- POOL_WITHDRAW: A host withdraws a pool, whose lines leave under teardown. (R429) -/
  | poolWithdraw (d : Die) (pool : BitVec 8)
  /-- PAGE_TABLE_CHANGE: Mailbox request to change page tables, starting an invalidation. (R33) -/
  | pageTableChange (asn : BitVec 12) (va : Word) (level : BitVec 2) (entry : Word)
  /-- SET_THERMAL_LIMITS: Mailbox request setting a die's thermal limits. (R389) -/
  | setThermalLimits (d : Die) (place : Nat) (throttle : Nat) (critical : Nat)
  /-- SET_BUDGET: Mailbox request setting a die's current budget. (R385) -/
  | setBudget (d : Die) (budget : Nat)
  /-- SET_TRAFFIC_FILTER: Mailbox request setting an L2 traffic filter and log ring. (R423) -/
  | setTrafficFilter (d : Die) (parms : FilterParms)
  /-- HALT: Debug request stopping a bank at its next core clock. (R419) -/
  | halt (b : BankId)
  /-- STOPSEQ: Debug request arming a stop at a sequence number. (R419) -/
  | stopseq (b : BankId) (e : Engine) (q : BitVec 16)
  /-- BREAK: Debug request arming a stop at an instruction index. (R419) -/
  | brk (b : BankId) (idx : Word)
  /-- DEBUG_DISARM: Debug request withdrawing an armed STOPSEQ or BREAK. (R421) -/
  | debugDisarm (b : BankId)
  /-- DEBUG_STOP_MATCH: An armed stop matches at a queue head and raises 5.5.S. (R419) -/
  | debugStopMatch (b : BankId)
  /-- STATUS: Debug request returning the stop and quiesced status of a bank. (R420) -/
  | status (b : BankId)
  /-- DEBUG_WRITE: Debug request writing registers of a quiesced bank. (R421) -/
  | debugWrite (b : BankId) (tgt : DebugTarget)
  /-- ERROR_WINDOW_EXPIRY: A location's 24-hour window ends below 4 and the record is dropped. (R415) -/
  | errorWindowExpiry (loc : ErrLoc)
  /-- DEVICE_START: A start runs the boot steps from signed images. (R425) -/
  | deviceStart (env : StartEnv)
  /-- WRITE_IMAGE: Minimal-mode request writing a new signed image. (R426) -/
  | writeImage (img : SignedImage)
  /-- ATTEST: A host nonce is answered with a signed attestation. (R427) -/
  | attest (host : EndpointId) (nonce : BitVec 256)
  /-- COMMANDER_SIGNATURE: A host's signature over the device nonce grants or is refused commander rights. (R427) -/
  | commanderSignature (host : EndpointId) (sig : BitVec 512)
  /-- COMMANDER_RELEASE: A host releases its commander rights. (R427) -/
  | commanderRelease (host : EndpointId)
  /-- WAITEV_DEADLINE: The TIME deadline of a waiting WAITEV with mask bit 0 is reached and the wait ends with bit 0 in its result. (R216) -/
  | waitevDeadline (b : BankId)
  /-- CTXQ_ANSWER: The home die's lehr answers a CTXQ request, and the value returns to the waiting S head. (R224) -/
  | ctxqAnswer (b : BankId)
  /-- FABRIC_ENDPOINT_ACCESS: A host or another fabric endpoint reads or writes device memory or control pages by physical address, or is refused. (R403) -/
  | fabricEndpointAccess (ep : EndpointId) (acc : EpAccess)
  /-- RING_FETCH_FAULT: Core 2's fetch of a ring entry faults, and the queue enters error with ERR 2. (R406) -/
  | ringFetchFault (q : QueueId)
  /-- BOARD_CAP_CHANGE: Board power lowers or restores the board cap, lowering or raising a die's CAP. (R378) -/
  | boardCapChange (d : Die) (cap : Nat)
  /-- MARVER_RAIL_STEP: A 1 µs step of the marver rail VMRV ends, after which recovery or tuning may take the next step. (R392) -/
  | marverRailStep (d : Die)
  /-- PATROL_SCRUB: The scrubber reads and corrects a unit of a storage level. (R85) -/
  | patrolScrub (unit : Nat)
  /-- FLIT_RETRANSMIT: A flit with a failed CRC is resent from the replay buffer. (R397) -/
  | flitRetransmit (p : PortId)
  /-- TIME_SYNC_LOSS: No time message for 10 ms makes the device free-run and sends a host event. (R402) -/
  | timeSyncLoss
  /-- QUEUE_SCHEDULE: Core 2 maps and unmaps queues on hardware slots by effective priority. (R408) -/
  | queueSchedule
  /-- START_WATCHDOG: Two seconds pass without ready and the start fails with reason 7. (R425) -/
  | startWatchdog
  /-- FULL_START: Minimal-mode request for one full start. (R426) -/
  | fullStart
  /-- POWER_LOSS: Power is lost, ending any running start with its start-failure count kept and ending commander rights. (R428) -/
  | powerLoss
  deriving DecidableEq, Repr

end Sys2Proof
end

