-- ==== Sys2Proof/Machine/State.lean ====
section
/-! DEFINITION. The state of the device as plain data, the reasons a step can stop, and the state after reset. -/

namespace Sys2Proof.Machine

open Sys2Proof

/-- Why a step stops. -/
inductive Fault where
  /-- Raised by FABRIC_ENDPOINT_ACCESS when a commander, or an endpoint in a page exported to it, names a physical address in a hole of 01
  Table 1.1 or 1.2 outside the control pages; the spec says the address does not exist and gives the access no outcome. DESIGN CHOICE (log
  entry 66). Safe. -/
  | physicalHole
  deriving DecidableEq, Repr

/-- Why a step has no meaning. -/
inductive Refusal where
  /-- Raised by an arm of `exec` that has no meaning yet. Safe. -/
  | notModelled (mnemonic : String)
  deriving DecidableEq, Repr

/-- STATE of a handle (01 Table 1.6). -/
inductive HSt where
  | invalid | pending | valid | faulted
  deriving DecidableEq, Repr

/-- A handle register: the fields of 01 Tables 1.5 and 1.6, and with them the translation, the walk tag of a pending
handle, the VA translated, the rights asked for and the leaf's LF, which programs cannot read (01 R17, R20, R26). -/
structure Handle where
  st : HSt
  isLocal : Bool
  size : BitVec 2
  rd : Bool
  wr : Bool
  unbacked : Bool
  home : BitVec 2
  fkind : BitVec 4
  gen : BitVec 8
  window : BitVec 3
  extent : BitVec 32
  base : BitVec 52
  loc : Nat
  tag : Nat
  va : Word
  reqR : Bool
  reqW : Bool
  lf : Bool
  deriving DecidableEq, Repr

/-- A handle as a queue entry captures it, with the stale mark of an invalidation (01 R26, R34, R35). -/
structure Capture where
  h : Handle
  stale : Bool
  deriving DecidableEq, Repr

/-- A layout record: 24 fields of 32 bits (11 R240). -/
abbrev Layout := Vector (BitVec 32) 24

/-- Where the access at a head stands once it has passed its check: not yet, waiting at the home L2 for a page that is locked,
its allocation request sent for an offset and its lines, answered so that it may issue, or refused with the page's late-frame
conversion to come (02 R49, R52). -/
inductive AllocSt where
  | none | arrived | asked (o : Nat) (lines : List Nat) | granted | late (o : Nat)
  deriving DecidableEq, Repr

/-- A write to a scalar or a physical vector register that an operation makes: a whole register, or segment `k` of one (10 R230). `rep`
is the repetition that brings it. -/
inductive RegW where
  | s (r : BitVec 5) (x : Word)
  | v (r : Fin 64) (x : Vec) (rep : Nat)
  | seg (r : Fin 64) (k : Nat) (bs : List Byte) (rep : Nat)
  deriving DecidableEq, Repr

/-- Bytes to be stored at a location. `did` are the 8-byte units of it that have been performed already, a bit each from its first
unit on (04 R116; log entry 61). -/
structure Put where
  loc : Nat
  bytes : List Byte
  did : Nat := 0
  deriving DecidableEq, Repr

/-- How the bytes of a load become the value of its register (10 R229-R231). -/
inductive LoadForm where
  | zext | sext | vec | bcast | seg
  deriving DecidableEq, Repr

/-- A part of a load that is read when its operation completes: the register write that it belongs to, its location, its bytes
as read at the issue, and the 8-byte units to read again, a bit each from its first unit on (04 R96, R111; log entry 61). -/
structure Late where
  index : Nat
  loc : Nat
  bytes : List Byte
  form : LoadForm
  mask : Nat
  deriving DecidableEq, Repr

/-- What a queue place holds: a word, a word marked illegal, a fetch fault, or a rotate entry (07 R160, R177; 17 R357). -/
inductive Payload where
  | word (i : Instr)
  | illegal (kind : Nat) (raw : IWord)
  | fetchFault (kind : Nat)
  | rotate (m : BitVec 2)
  deriving DecidableEq, Repr

/-- A queue entry (17 Table 17.9). `uid` counts dispatched words; the sequence number is `uid` modulo 2^16 (17 R356). `late` are the
parts of a load still to be read, `done` the registers of a repeated load that have been written (10 R229), `idxs` the indices of
a scatter as read (11 R255), `full` tells that it waits at its head for room in its stream (04 R118), and `since` are the TIMEs at which
its accesses passed, in their order (19 R400). -/
structure Entry where
  what : Payload
  uid : Nat
  idx : Word
  rep : Nat
  seg : Nat
  caps : List Word
  vals : List Word
  cap : Option Capture
  lay : Option Layout
  popped : Bool
  preds : List Nat
  alloc : AllocSt
  got : List RegW
  puts : List Put
  late : List Late
  done : List (BitVec 5)
  idxs : Option (List Nat)
  answer : Option Word
  full : Bool := false
  since : List Nat := []
  deriving DecidableEq, Repr

/-- An L, W or copy operation that has issued and not completed (04 R97). `scope` is the effective scope of a
synchronising operation (04 R104); `blocks` are the 128-byte blocks it reaches (04 R98); `dest` the scalar registers it writes; `pend` tells that it is performed
when it completes (log entry 61), `spent` that it has completed in a drain and only registers are still to be written, behind words
that a cut left unissued (04 R121); `ent` its queue entry, for a withdrawal (10 R236). -/
structure Op where
  uid : Nat
  eng : Engine
  stream : BitVec 3
  isCopy : Bool
  scope : Option Nat
  blocks : List Nat
  dest : List (BitVec 5)
  loads : List RegW
  puts : List Put
  push : BitVec 2
  waiting : Bool
  fabric : Bool
  pend : Bool
  spent : Bool
  ent : Entry
  deriving DecidableEq, Repr

/-- A handle result that has not landed (01 R25, R35 step 4). -/
structure HLand where
  reg : BitVec 4
  h : Handle
  push : BitVec 2
  deriving DecidableEq, Repr

/-- What a C write in flight writes when it lands, by physical name; `nothing` is a write that s0 or p0 discards (07 R156, R172; 17
Table 17.9). -/
inductive FlightTgt where
  | v (r : Fin 64) (x : Vec) (mask : Pred)
  | p (r : Fin 16) (x : Pred) (mask : Pred)
  | s (r : BitVec 5) (x : Word)
  | acc (a : Fin 4) (ws : List (Nat × BitVec 32))
  | accClear (a : Fin 4)
  | store
  | nothing
  deriving DecidableEq, Repr

/-- A C write in flight (07 R172-R174). `due` is the engine cycle of its nominal landing, `slackEnd` the cycle at which
its slack runs out, `arrived` whether its data is there, `expired` whether its slack has run out and C is frozen, `last`
whether its word has issued all its repetitions. For a local load, `addr` is its local address, `loc` its location, `relook` the
8-byte units that are read when it lands, a bit each (04 R111; log entry 61), and `ent` its entry, which stands again after a
trap at its landing (03 R86). -/
structure Flight where
  uid : Nat
  due : Nat
  tgt : FlightTgt
  arrived : Bool
  slackEnd : Nat
  expired : Bool
  poison : Bool
  last : Bool
  push : BitVec 2
  idx : Word
  rep : Nat
  addr : Word
  loc : Nat
  relook : Nat
  ent : Option Entry
  deriving DecidableEq, Repr

/-- An MMA or MMAT that the matrix engine holds (13 R290, R297). `k` is the next K-step, `started` whether its trailers
were read, `nextNs` the TIME at which its next result is written, `endNs` the TIME at which its last K-step ends. -/
structure Mma where
  uid : Nat
  acc : Fin 4
  transposed : Bool
  pa : Nat
  pb : Nat
  n : Nat
  k : Nat
  fw : BitVec 32
  gA : List (BitVec 32)
  gB : List (BitVec 32)
  badA : List Bool
  badB : List Bool
  started : Bool
  nextNs : Nat
  endNs : Nat
  push : BitVec 2
  deriving DecidableEq, Repr

/-- One row of a copy on its way to one destination (11 R248, R249): its stores and the units it poisons, and what they come from:
the row's bytes and poisoned byte ranges, and the parts of the source and of the destination as location, byte of the row and
length. A folded row keeps no source. `sent` is the TIME of its issue (19 R400). -/
structure RowFlight where
  row : Nat
  dst : Nat
  puts : List Put
  poison : List Nat
  bytes : List Byte
  bad : List (Nat × Nat)
  src : List (Nat × Nat × Nat)
  parts : List (Nat × Nat × Nat)
  sent : Nat := 0
  deriving DecidableEq, Repr

/-- A copy that has issued its first row (11 R249, R256). `dsts` are its destinations, as cores of the cluster, `idxs` the
indices of a gather or scatter as read, and `arrivals` the destinations whose arrival has been made. -/
structure CopyOp where
  uid : Nat
  eng : Engine
  isIn : Bool
  lay : Layout
  cap : Capture
  la : Word
  org : Word
  lvl : Nat
  dsts : List Nat
  idxs : Option (List Nat)
  cursor : Nat
  flights : List RowFlight
  arrivals : List Nat
  deriving DecidableEq, Repr

/-- Why a bank is being cut (17 R357, R362, R371). -/
inductive CutKind where
  | cause (c : Cause)
  | preempt
  | switch
  deriving DecidableEq, Repr

/-- How firmware answers a cause (17 R361). -/
inductive Answer where
  | resume | refresh | endTask
  deriving DecidableEq, Repr

/-- What the S head waits for (09 R216, R222-R224). -/
inductive HeadWait where
  | none
  | slot (grid : Nat)
  | ctxq (conv item : Word)
  | power (cls : Nat)
  deriving DecidableEq, Repr

/-- What a bank is doing (00 R4; 14 R312; 17 R360-R362; 18 R385). -/
inductive BankSt where
  | free | unfunded | shadow | running | ready | switchedOut | preempted
  deriving DecidableEq, Repr

/-- What a bank knows of its task (09 Table 9.5; 16 Table 16.11). -/
structure TaskInfo where
  launch : Nat
  index : BitVec 32
  prio : Nat
  det : Bool
  gang : Bool
  lidx : Vector (BitVec 16) 6
  lext : Vector (BitVec 16) 6
  isSlot : Bool
  grid : Nat
  slotCount : BitVec 16
  started : Nat
  deriving DecidableEq, Repr

/-- The queue and replay image of a handler entry (17 R363, Table 17.9), with the saved tokens. `uid` is the number of the handler's
first word. `srPend` are the writes of SRSTATE that
stand among the saved C entries or after them, and `sr` is, where there are any, the sequence of the entries before them (08 Table
8.11). `frameNo` is the number of the frame that the entry wrote. -/
structure HImage where
  qS : List Entry
  qL : List Entry
  qC : List Entry
  qW : List Entry
  flights : List Flight
  mma : List Mma
  copies : List CopyOp
  ops : List Op
  tok : Vector Nat 12
  rsv : Vector Nat 12
  pc : Word
  uid : Nat
  ctl : Bool
  stopFetch : Bool
  swait : HeadWait
  sr : BitVec 32
  srPend : List (Nat × BitVec 32)
  frameNo : Nat := 0
  deriving DecidableEq, Repr

/-- The turn of a bank's agents in the model's own schedule. -/
inductive Slot where
  | dispatch | S | L | C | W | events
  deriving DecidableEq, Repr

/-- One bank: a resident task context (00 R4). `srPend` are writes of SRSTATE that C takes up before its first word
dispatched after them (08 Table 8.11); `readySince` the TIME since which it waits for the core, `cutAt` the TIME of its last cut
and `frameNo` the number of its last frame, whose queue and replay image is a free value (17 R362, R367, R368). `awaits` tells that firmware has not
answered the bank's cause, `answer` holds an answer that takes effect after a restore (17 R360, R361, R372). `upset` are the errors in its registers,
queues, FIFOs and stream state, each with the engine that meets it, its TVAL and whether it is a single-bit error (03 R84, R85, R90;
17 R355; log entry 60). `fq` holds each format word with the number of the word that pushed it (09 R220, R221). `failed` are the fabric accesses whose error returned during a cut: entry, engine and TVAL (19 R400; 17 R358).
`stopSeq` and `brk` are the armed stops, `halt` a HALT that waits for the task's start (20 R419, R428). -/
structure Bank where
  status : BankSt
  task : Option TaskInfo
  asn : BitVec 12
  code : Word
  s : Vector Word 32
  v : Vector Vec 64
  p : Vector Pred 16
  h : Vector Handle 16
  y : Vector Layout 8
  acc : Vector (Vector (BitVec 32) 12288) 4
  fq : List (Nat × BitVec 32)
  qS : List Entry
  qL : List Entry
  qC : List Entry
  qW : List Entry
  tok : Vector Nat 12
  rsv : Vector Nat 12
  qiss : Vector (BitVec 16) 8
  qdone : Vector (BitVec 16) 8
  qxstall : BitVec 32
  pc : Word
  uid : Nat
  ctl : Bool
  stopFetch : Bool
  reach : Vector (List Nat) 8
  ops : List Op
  copies : List CopyOp
  hland : List HLand
  flights : List Flight
  engcyc : Nat
  slack : Nat
  rbv : Nat
  rbp : Nat
  mma : List Mma
  srstate : BitVec 32
  srPend : List (Nat × BitVec 32)
  mstat : Word
  merrlog : Word
  evpend : Word
  pwrDecl : Nat
  pwrCls : Nat
  activity : List (Nat × Nat)
  freqreq : Word
  freqReason : Nat
  freqResult : Nat
  freqStand : Option Nat
  freqPend : Option (Nat × Nat)
  tcause : Word
  tval : Word
  tstate : Word
  tvec : Word
  tsave : Word
  swait : HeadWait
  cut : Option CutKind
  image : Option HImage
  kind : Nat
  awaits : Bool
  answer : Option Answer
  heldMiss : Option Word
  spBase : Nat
  spSize : Nat
  mvBase : Nat
  mvSize : Nat
  wroteV : Bool
  wroteAcc : List (Fin 4)
  stopSeq : List (Engine × BitVec 16)
  brk : List Word
  halt : Bool
  upset : List (Engine × Word × Bool)
  failed : List (Entry × Engine × Word)
  stopped : Bool
  readySince : Nat
  cutAt : Nat
  frameNo : Nat
  slot : Slot
  deriving DecidableEq, Repr

/-- A core's own state beside its banks: which bank executes, the bank-conflict matrix and its snapshot (20 R422),
the core clock of its last snapshot and the bank
that took it, the conflicts of the latest core clock that counted any, each with that clock and its row (20 R428), the column sensors (18
R389), and whether it is retired (20 R418). -/
structure CoreSt where
  run : Option (Fin 2)
  bcm : Vector (Vector (BitVec 32) 32) 8
  bcRow : Vector (BitVec 32) 8
  bcSnap : Word
  snapAt : Option (Nat × Fin 2)
  fresh : List (Nat × Fin 8)
  temp0 : Nat
  temp1 : Nat
  retired : Bool
  deriving DecidableEq, Repr

/-- The state of a unit that is not a correct unit (03 R84, R85). -/
inductive Ecc where
  | single | uncorrectable | poison
  deriving DecidableEq, Repr

/-- Memory: the listed bytes in rising order of address; an unlisted byte reads 0 (log entry 2). -/
abbrev Memory := List Host.Cell

/-- A remote-partition line, with what is wrong with its own 8-byte units (03 R78-R81, R84). -/
structure RLine where
  die : Die
  line : Nat
  epoch : Nat
  bytes : List Byte
  ecc : List (Nat × Ecc)
  deriving DecidableEq, Repr

/-- An unbacked line that holds a tag (02 R42). -/
inductive LineSt where
  | pinned | lost
  deriving DecidableEq, Repr

/-- A pool (02 Table 2.1). -/
structure Pool where
  die : Die
  num : BitVec 8
  owner : BitVec 12
  limit : Nat
  r : Nat
  p : Nat
  late64 : List Nat
  late256 : List Nat
  nlate : BitVec 32
  nlost : BitVec 32
  withdrawn : Bool
  deriving DecidableEq, Repr

/-- A forwarding entry from an old place to a new one, kept until an invalidation is complete; `orphan` where no leaf
names the new place, which is then given back: a frame to the late reserve of the pool that it came from (02 R52, R60, R430). -/
structure Forward where
  src : Nat
  len : Nat
  dst : Nat
  inval : Nat
  orphan : Bool
  pool : Option (Die × Nat) := none
  deriving DecidableEq, Repr

/-- A SEMWAIT or BARWAIT waiting at its object's point of coherence (10 R235). `met` is the value for which its
condition held, `unread` tells that its first read is still to be performed (04 R96; log entry 61). -/
structure SyncWait where
  bank : BankId
  uid : Nat
  loc : Nat
  isBar : Bool
  val : Word
  met : Option Word
  unread : Bool := false
  deriving DecidableEq, Repr

/-- A WLTAKE registered with a compaction unit (15 R326). -/
structure WlWait where
  bank : BankId
  uid : Nat
  group : Nat
  list : Nat
  answer : Option Word
  deriving DecidableEq, Repr

/-- A SEMWAIT that a launch unit makes for a wait of a launch record on a die (14 R305): its address space and VA, and the location that
the VA had. `met` tells that its condition has held, `done` that it has completed. -/
structure LaunchWait where
  launch : Nat
  die : Die
  k : Nat
  asn : BitVec 12
  va : Nat
  loc : Nat
  val : Nat
  met : Bool
  done : Bool
  deriving DecidableEq, Repr

/-- An access that waits at a home L2 for a page that is being converted or moved, or has waited there and is not performed yet: its
bank, engine and entry, and the page (02 R52). -/
structure Arrival where
  bank : BankId
  eng : Engine
  uid : Nat
  page : Nat
  len : Nat
  deriving DecidableEq, Repr

/-- The storage levels (03 R66) and what their controllers hold. `fills` are remote lines on their way (03 R79), `locks`
the locked pages as base and length (02 R52), `latent` the units logged as latent poison uncovered by a write (03 R89). `ecc` is by 8-byte
unit, as the levels and the L2 hold it, `hbmEcc` by 32-byte unit, as the HBM controller holds it, and `tagEcc` by L2 and line, with
whether the tag's error is a single-bit error (03 R84). `out` are the sets that are left out of use (20 R414, R416). -/
structure Store where
  mem : Memory
  hbm : Memory
  dirty : List Nat
  ecc : List (Nat × Ecc)
  hbmEcc : List (Nat × Ecc)
  tagEcc : List (Die × Nat × Bool)
  out : List ErrLoc
  remote : List RLine
  fills : List RLine
  epoch : Vector Nat 4
  lines : List (Nat × LineSt)
  pools : List Pool
  retiredLines : Vector Nat 4
  forwards : List Forward
  locks : List (Nat × Nat)
  latent : List Nat
  arrivals : List Arrival
  waits : List SyncWait
  lwaits : List LaunchWait
  wlWaits : List WlWait
  deriving DecidableEq, Repr

/-- A translation cache entry: a clean leaf (01 R24). -/
structure DtcEntry where
  die : Die
  asn : BitVec 12
  page : Nat
  big : Bool
  leaf : Word
  deriving DecidableEq, Repr

/-- A cached table pointer: level of the table it names, prefix of the VA, its entry (01 R24). -/
structure PtrEntry where
  die : Die
  asn : BitVec 12
  level : Nat
  pre : Nat
  entry : Word
  deriving DecidableEq, Repr

/-- A walk in flight (01 R24, R27). -/
structure Walk where
  tag : Nat
  die : Die
  asn : BitVec 12
  va : Word
  deriving DecidableEq, Repr

/-- An invalidation in progress; `dies` have not yet reported (01 R35). `pgmig` is the PGMIG that waits for it (02 R60), and `old` are the
unbacked pages that the leaves named before the change that it is of (02 R430). -/
structure Inval where
  id : Nat
  asn : BitVec 12
  base : Nat
  len : Nat
  dies : List Die
  pgmig : Option (BankId × Nat)
  old : List Nat := []
  deriving DecidableEq, Repr

/-- Translation: the roots of the address spaces, the die caches, walks and invalidations (01). -/
structure Xl where
  roots : List (BitVec 12 × Nat)
  dtc : List DtcEntry
  ptrs : List PtrEntry
  walks : List Walk
  invals : List Inval
  next : Nat
  deriving DecidableEq, Repr

/-- Where a launch stands on one die (14 R305-R311). -/
inductive LSt where
  | off | waiting | held | eligible | placedAll | retired
  deriving DecidableEq, Repr

/-- A launch on one die: its state, FIFO, when it became eligible, how many tasks it has there, placed and ended, and
since when its next task waits at step 2 of 14 R309, and for how long it did so before. -/
structure LDie where
  st : LSt
  fifo : Nat
  since : Nat
  aged : Nat
  tasks : Nat
  placed : Nat
  ended : Nat
  hotSince : Option Nat
  hotNs : Nat
  skipHot : Bool
  order : Nat
  deriving DecidableEq, Repr

/-- The reservations of a gang task: the task's place among those of its die, its core, and base and size in the scratchpad
and the marver slice. They stay until every task of the gang has ended (11 R250, 14 R310). -/
structure GangRes where
  die : Die
  ord : Nat
  core : CoreId
  spBase : Nat
  spSize : Nat
  mvBase : Nat
  mvSize : Nat
  ended : Bool
  deriving DecidableEq, Repr

/-- A launch (14 R300-R312): its record, submitting queue and HEAD there, address space, per-die state, the launch whose DONE it waits
for, whether its NEXT has been followed, the reservations of its gangs, and, for a slot launch, the slot miss that its tasks
start with and the TVAL of the 4.0.S that they take (16 R344). -/
structure Launch where
  id : Nat
  raw : BitVec 2048
  queue : Option QueueId
  head : BitVec 32
  asn : BitVec 12
  byLehr : Bool
  dies : Vector LDie 4
  chain : Option Nat
  followed : Bool
  res : List GangRes
  missed : Bool
  missTrap : Option Word
  deriving DecidableEq, Repr

/-- The launch units (14). -/
structure LaunchSt where
  list : List Launch
  next : Nat
  orders : Nat
  deriving DecidableEq, Repr

/-- A grid (16 R330-R332, R342): the boundary at which it stops, and per die the next boundary, the last boundary run, the slot launches made, the first slot not handed to a
launch, and the running slot launch. -/
structure Grid where
  desc : Option GridDesc
  started : Bool
  stopping : Option Nat
  next : Vector Nat 4
  last : Vector (Option Nat) 4
  made : Vector Nat 4
  firstSlot : Vector Nat 4
  running : Vector (Option Nat) 4
  deriving DecidableEq, Repr

/-- A conversation: its host fields, translated addresses and live state (16 Tables 16.2, 16.3; R334, R336, R339). -/
structure Conv where
  m : ConvId
  grid : GridId
  asn : BitVec 12
  recVa : Word
  recLoc : Nat
  listenVa : Word
  speakVa : Word
  cullVa : Word
  cull : Nat
  ingress : Word
  egress : Word
  pending : Bool
  closing : Option Nat
  effective : Bool
  isOpen : Bool
  frontier : Nat
  committed : BitVec 16
  withdrawn : BitVec 16
  close : BitVec 4
  rplay : Bool
  overrun : Bool
  missed : Bool
  heard : Bool
  misses : BitVec 32
  rcount : BitVec 32
  culseq : Word
  inglate : BitVec 32
  ingbad : BitVec 32
  named : Bool
  corrupt : Bool
  staged : Option (List (BitVec 32))
  deriving DecidableEq, Repr

/-- A group that a lehr sent to an egress endpoint: its 80 bytes, the header of 16 Table 16.6 and 16 tokens (16 R338, R340). -/
structure Egress where
  conv : ConvId
  endpoint : Word
  bytes : List Byte
  deriving DecidableEq, Repr

/-- The lehrs (16). -/
structure Lehr where
  grids : Vector Grid 16
  convs : List Conv
  egress : List Egress
  dropped : Vector Nat 4
  deriving DecidableEq, Repr

/-- A change of a cluster's class in progress (18 R379). `switched` tells whether its clock has switched. -/
structure Change where
  cluster : ClusterId
  target : Nat
  up : Bool
  switched : Bool
  deriving DecidableEq, Repr

/-- A request for headroom (18 R386): the bank, the class asked for, and whether its task has priority 7. -/
structure HeadReq where
  bank : BankId
  cls : Nat
  urgent : Bool
  placement : Bool
  deriving DecidableEq, Repr

/-- The power state of a die (18). Temperatures are in quarters of a degree, VMRV in 5 mV units. `wanted` are the clusters
whose class is to change, in the order in which the changes arose, each with the banks whose requests had come before and were not taken
up (R379). -/
structure PwrDie where
  vdie : Nat
  cap : Nat
  boardCap : Nat
  budget : Nat
  heads : List HeadReq
  change : Option Change
  wanted : List (ClusterId × List BankId)
  place : Nat
  throttle : Nat
  critical : Nat
  vmrv : Nat
  railUp : Nat
  railDown : Nat
  sp : Nat
  spConf : Nat
  hold : Bool
  holdFrom : Nat
  calmFrom : Nat
  corrected : Nat
  deriving DecidableEq, Repr

/-- The power state of a cluster (18 R377, R380-R382); `asked` is the TIME at which its last FREQREQ arrived (18 R396). -/
structure PwrCluster where
  cls : Nat
  target : Nat
  policy : Nat
  sample : BitVec 32
  ratio : BitVec 16
  xin : Nat
  xout : Nat
  xpeak : Nat
  asked : Option Nat := none
  deriving DecidableEq, Repr

/-- Power, clocks and rails (18). -/
structure Power where
  dies : Vector PwrDie 4
  clusters : Vector PwrCluster 36
  freqOrder : List BankId
  deriving DecidableEq, Repr

/-- A fabric port (19 R397, R401): lanes now and wanted, flits in the replay buffer and those marked for resending, the flits that
wait at their sources, the corrected errors of its lanes, each with its lane and TIME, its use in percent, and since when it has been
so. -/
structure Port where
  lanes : Nat
  goal : Nat
  training : Bool
  replay : List Nat
  resent : List Nat
  held : List Nat
  errs : List (Fin 4 × Nat)
  use : Nat
  useSince : Nat
  deriving DecidableEq, Repr

/-- The fabric and device time (19). `rate` is TIME's rate against nominal in ppm, `frac` the part of a
nanosecond that it has counted, in millionths. `laneLimit` is core 7's threshold of a lane's corrected errors, `none` before it is
set (19 R401). -/
structure Fabric where
  ports : Vector Port 24
  rate : Int
  frac : Nat
  lastMessage : Nat
  freeRun : Bool
  laneLimit : Option Nat
  deriving DecidableEq, Repr

/-- STATE of a queue control block (19 Table 19.4). -/
inductive QSt where
  | unmapped | pending | mapped | error
  deriving DecidableEq, Repr

/-- A queue control block (19 Table 19.4) with core 2's times (19 R408) and the launches it has submitted. `fetched` tells that core 2 has
fetched an entry since it was created or reset, and `signals` are the SIGNAL entries that it has fetched and not performed: address
space, VA, and the launches submitted before (19 Table 19.3). -/
structure Qcb where
  parms : QueueParms
  head : BitVec 32
  tail : BitVec 32
  rejIdx : BitVec 32
  rej : Nat
  err : Nat
  st : QSt
  slot : Option (Fin 32)
  eff : Nat
  pendSince : Nat
  mapSince : Nat
  emptySince : Nat
  subs : List Nat
  fetched : Bool := false
  signals : List (BitVec 12 × Nat × List Nat) := []
  deriving DecidableEq, Repr

/-- What a debugger reads of a bank: a register, a queue entry, a C write in flight, an MMA, a copy, or its streams and tokens (20 R421). -/
inductive DebugItem where
  | sreg (r : BitVec 5)
  | vreg (r : BitVec 6)
  | preg (r : BitVec 4)
  | yfield (y : BitVec 3) (f : BitVec 5)
  | accWord (a : BitVec 2) (row col : Nat)
  | ctl (cr : BitVec 13)
  | handle (h : BitVec 4)
  | format (k : Nat)
  | entry (e : Engine) (k : Nat)
  | flight (k : Nat)
  | mma (k : Nat)
  | copy (k : Nat)
  | streams
  deriving DecidableEq, Repr

/-- What a debugger is answered (20 R421). `none` is an item that the bank does not hold. -/
inductive DebugValue where
  | word (x : Nat)
  | entry (x : Entry)
  | flight (x : Flight)
  | mma (x : Mma)
  | copy (x : CopyOp)
  | streams (issued done tokens reserved : List Nat)
  | none
  deriving DecidableEq, Repr

/-- What the device reports to hosts (14 R301, R305, R311; 16 R342; 17 R361; 19 R402, R407). -/
inductive Report where
  | reject (q : Option QueueId) (reason : Nat)
  | waitFailed (launch : Nat) (d : Die)
  | doneFailed (launch : Nat) (d : Die)
  | taskEnded (launch : Nat) (code : Nat)
  | gridNoLaunch (g : GridId) (d : Die)
  | gridStopped (g : GridId)
  | queueError (q : QueueId)
  | syncLoss
  | refused (op : Nat)
  | critical (d : Die)
  | dieBlock (d : Die) (n : Nat)
  | latentPoison (unit : Nat)
  | lineLost (unit : Nat)
  | chainEnded (q : Option QueueId) (reason : Nat)
  | uncorrectable (unit : Nat) (rail : Bool)
  | signalFailed (q : QueueId)
  | data (ep : EndpointId) (bytes : List Byte)
  | refusedAccess (ep : EndpointId)
  | poolState (d : Die) (num : BitVec 8) (owner : BitVec 12) (counts : List Nat)
  | gafferMem
  | ready
  | startFailed (reason : Nat)
  | debugValue (n : BankId) (item : DebugItem) (x : DebugValue)
  deriving DecidableEq, Repr

/-- An error record (20 R415). -/
structure ErrRec where
  loc : ErrLoc
  count : Nat
  first : Nat
  lasting : Bool
  deriving DecidableEq, Repr

/-- A die's traffic log ring: its address, the logarithm of its size, the next entry, and the entries dropped (20 R423). -/
structure LogRing where
  pa : Nat
  log : Nat
  next : Nat
  dropped : Nat
  deriving DecidableEq, Repr

/-- A message in the mailbox of a gaffer core (19 R411). -/
structure Msg where
  sender : BitVec 8
  type : BitVec 8
  payload : BitVec 192
  deriving DecidableEq, Repr

/-- The gaffer complex (19 R411, R412; 20). `free64` and `free256` are the free lists of frames of core 3 (20 R417). `inbox` are
the cores' mailboxes, `senders` the messages that wait at their senders for one that is full, `request` the request in the
command mailbox that is not answered, by its endpoint, sequence number and operation, `reply` the last reply as sequence number
and status, `mbox` the request area as written, `qcbPa` where die 0's HBM keeps the control blocks (19 R406), and of core 2's mapping
decisions `qAt` the 10 µs of TIME in which the last of every 10 µs were made (19 R408); `bells` are the doorbells that have arrived behind a request for core 2, in their order (19 R413). -/
structure Gaffer where
  causes : List (BankId × Nat)
  reports : List Report
  status : Word
  records : List ErrRec
  retired : List ErrLoc
  free64 : List Nat
  free256 : List Nat
  filters : Vector (Vector (Option FilterParms) 4) 4
  rings : Vector LogRing 4
  queues : Vector (Option Qcb) 64
  inbox : Vector (List Msg) 8
  senders : List (Fin 8 × Msg)
  request : Option (EndpointId × Word × Instr)
  reply : Option (Word × Nat)
  mbox : Memory
  qcbPa : Nat
  qAt : Nat
  bells : List (QueueId × BitVec 32) := []
  deriving DecidableEq, Repr

/-- How far a start has come (20 R425, R426). -/
inductive BootMode where
  | off | starting | ready | minimal
  deriving DecidableEq, Repr

/-- An attestation as the device answers it: the hashes of the firmware parts and of the retirement record, the nonce, TIME, and the
signature (20 R427). -/
structure Attested where
  host : EndpointId
  hashes : List (List Byte)
  nonce : BitVec 256
  time : Nat
  sig : BitVec 512
  deriving DecidableEq, Repr

/-- Start-up, identity and commanders (20 R424-R427). `failNext` tells that the next start counts as failed (20 Table 20.1). -/
structure Boot where
  mode : BootMode
  image : Option SignedImage
  fails : Nat
  reason : Nat
  seed : List Byte
  commanders : List EndpointId
  nonces : List (EndpointId × BitVec 256)
  nonceNext : Nat
  badSigs : Nat
  exports : List (EndpointId × Nat × Nat)
  attested : List Attested
  failNext : Bool
  deriving DecidableEq, Repr

/-- An item of the agenda: an event, one engine of a bank taking its head, or what happens around the programs and has no row of
its own (log entries 3, 61 and 62): an L2 evicts a line (03 R78); a unit of a level, of HBM or of a remote copy, a tag of an L2, a
bank's state or a gaffer memory meets an error (03 R84, R90; 20 R414); an access of a load or store, a unit of one, or a unit of a row
is performed before its operation completes (04 R113, R116; 10 R229); a requester loses a scratchpad bank in a core clock (20 R422); a word enters or
leaves a crossing FIFO (18 R380); a flit is sent, or acknowledged by its receiver, at a port, a lane counts a corrected error, a
port's use changes, and core 7 sets its threshold (19 R397, R401); an endpoint writes a request into the command mailbox, or
exports a page (19 R403, R412); a debugger reads an item of a bank (20 R421); power is lost between the steps of a start (20 R428); and
core 3 puts a frame on its free list (20 R417). -/
inductive Act where
  | event (i : Instr)
  | issue (b : BankId) (e : Engine)
  | evict (line : Nat)
  | unitError (u : Nat) (x : Ecc)
  | hbmError (u : Nat) (x : Ecc)
  | copyError (d : Die) (u : Nat) (x : Ecc)
  | tagError (d : Die) (line : Nat) (single : Bool)
  | part (b : BankId) (uid k : Nat)
  | rowPart (b : BankId) (uid k : Nat)
  | bankError (b : BankId) (e : Engine) (structure' : Fin 8) (index : BitVec 16) (single : Bool)
  | gafferError (weight : Nat)
  | bankConflict (c : CoreId) (row : Fin 8) (k : Fin 32)
  | crossing (c : ClusterId) (out enter : Bool)
  | flit (p : Fin 24) (id : Nat)
  | flitAck (p : Fin 24)
  | laneError (p : Fin 24) (lane : Fin 4)
  | portUse (p : Fin 24) (percent : Nat)
  | laneLimit (n : Nat)
  | request (ep : EndpointId) (seq : Word) (i : Instr)
  | lend (giver ep : EndpointId) (pa len : Nat)
  | debugRead (ep : EndpointId) (n : BankId) (item : DebugItem)
  | startLost
  | freeFrame (pa : Nat) (big : Bool)
  deriving DecidableEq, Repr

/-- The state of the device. The first nine fields are the model's own: the agenda, the bank and the entry that an instruction acts on, the turn
(a core, or 288 for the rest of the device), the pace, the delays of loads, the choices where the rules allow more than one order, and the count of
free values (log entries 3, 4, 61). `saves` are the pre-empted tasks by the
number of their bank, `frames` those tasks as their save areas were written (17 R371), `incoming` the tasks placed in banks that a pre-emption still saves (14 R314). -/
structure State where
  agenda : List (Nat × Act)
  cur : BankId
  active : Option Entry
  turn : Fin 289
  pace : Nat
  delays : List Bool
  choices : List Nat
  free : Nat
  time : Nat
  banks : Vector Bank 576
  cores : Vector CoreSt 288
  saves : List (Nat × Bank)
  frames : List (Nat × Bank)
  incoming : List (Nat × Bank)
  store : Store
  xl : Xl
  launches : LaunchSt
  lehr : Lehr
  power : Power
  fabric : Fabric
  gaffer : Gaffer
  boot : Boot
  deriving DecidableEq, Repr

/-- A handle at reset: every field 0, STATE invalid (01 Tables 1.5, 1.6). -/
def Handle.reset : Handle where
  st := .invalid
  isLocal := false
  size := 0
  rd := false
  wr := false
  unbacked := false
  home := 0
  fkind := 0
  gen := 0
  window := 0
  extent := 0
  base := 0
  loc := 0
  tag := 0
  va := 0
  reqR := false
  reqW := false
  lf := false

/-- A bank after reset: it holds no task; registers hold the values of log entry 1. -/
def Bank.reset : Bank where
  status := .free
  task := none
  asn := 0
  code := 0
  s := Vector.replicate 32 0
  v := Vector.replicate 64 0
  p := Vector.replicate 16 0
  h := Vector.replicate 16 Handle.reset
  y := Vector.replicate 8 (Vector.replicate 24 0)
  acc := Vector.replicate 4 (Vector.replicate 12288 0)
  fq := []
  qS := []
  qL := []
  qC := []
  qW := []
  tok := Vector.replicate 12 0
  rsv := Vector.replicate 12 0
  qiss := Vector.replicate 8 0
  qdone := Vector.replicate 8 0
  qxstall := 0
  pc := 0
  uid := 0
  ctl := false
  stopFetch := false
  reach := Vector.replicate 8 []
  ops := []
  copies := []
  hland := []
  flights := []
  engcyc := 0
  slack := 0
  rbv := 0
  rbp := 0
  mma := []
  srstate := 1
  srPend := []
  mstat := 0
  merrlog := 0
  evpend := 0
  pwrDecl := 0
  pwrCls := 0
  activity := []
  freqreq := 0
  freqReason := 0
  freqResult := 0
  freqStand := none
  freqPend := none
  tcause := 0
  tval := 0
  tstate := 0
  tvec := 0
  tsave := 0
  swait := .none
  cut := none
  image := none
  kind := 0
  awaits := false
  answer := none
  heldMiss := none
  spBase := 0
  spSize := 0
  mvBase := 0
  mvSize := 0
  wroteV := false
  wroteAcc := []
  stopSeq := []
  brk := []
  halt := false
  upset := []
  failed := []
  stopped := false
  readySince := 0
  cutAt := 0
  frameNo := 0
  slot := .dispatch

/-- A core after reset (20 R422: the matrix is zero; log entry 1). -/
def CoreSt.reset : CoreSt where
  run := none
  bcm := Vector.replicate 8 (Vector.replicate 32 0)
  bcRow := Vector.replicate 8 0
  bcSnap := 0
  snapAt := none
  fresh := []
  temp0 := 0
  temp1 := 0
  retired := false

/-- A launch on a die that takes no part in it. -/
def LDie.off : LDie where
  st := .off
  fifo := 0
  since := 0
  aged := 0
  tasks := 0
  placed := 0
  ended := 0
  hotSince := none
  hotNs := 0
  skipHot := false
  order := 0

/-- A grid that no host has set. -/
def Grid.reset : Grid where
  desc := none
  started := false
  stopping := none
  next := Vector.replicate 4 0
  last := Vector.replicate 4 none
  made := Vector.replicate 4 0
  firstSlot := Vector.replicate 4 0
  running := Vector.replicate 4 none

/-- A die's power state at start-up (18 R377, R378, R385, Table 18.8, R392, R393; log entry 1). -/
def PwrDie.reset : PwrDie where
  vdie := 60
  cap := 7
  boardCap := 7
  budget := 800
  heads := []
  change := none
  wanted := []
  place := 380
  throttle := 420
  critical := 460
  vmrv := 150
  railUp := 0
  railDown := 0
  sp := 32
  spConf := 32
  hold := false
  holdFrom := 0
  calmFrom := 0
  corrected := 0

/-- A cluster's power state at start-up: no bank holds a task, so F0 (18 R377). -/
def PwrCluster.reset : PwrCluster where
  cls := 0
  target := 0
  policy := 0
  sample := 0
  ratio := 0
  xin := 0
  xout := 0
  xpeak := 0

/-- A port with its four lanes up and nothing in its replay buffer (19 R397). -/
def Port.reset : Port where
  lanes := 4
  goal := 4
  training := false
  replay := []
  resent := []
  held := []
  errs := []
  use := 0
  useSince := 0

/-- The device right after reset. -/
def State.reset : State where
  agenda := []
  cur := 0
  active := none
  turn := 0
  pace := 1
  delays := []
  choices := []
  free := 0
  time := 0
  banks := Vector.replicate 576 Bank.reset
  cores := Vector.replicate 288 CoreSt.reset
  saves := []
  frames := []
  incoming := []
  store := {
    mem := [], hbm := [], dirty := [], ecc := [], hbmEcc := [], tagEcc := [], out := [], remote := [], fills := [], epoch := Vector.replicate 4 0, lines := [],
    pools := [], retiredLines := Vector.replicate 4 0, forwards := [], locks := [], latent := [], arrivals := [], waits := [],
    lwaits := [], wlWaits := [] }
  xl := { roots := [], dtc := [], ptrs := [], walks := [], invals := [], next := 0 }
  launches := { list := [], next := 0, orders := 0 }
  lehr := { grids := Vector.replicate 16 Grid.reset, convs := [], egress := [], dropped := Vector.replicate 4 0 }
  power := {
    dies := Vector.replicate 4 PwrDie.reset, clusters := Vector.replicate 36 PwrCluster.reset, freqOrder := [] }
  fabric := {
    ports := Vector.replicate 24 Port.reset, rate := 0, frac := 0, lastMessage := 0, freeRun := false, laneLimit := none }
  gaffer := {
    causes := [], reports := [], status := 0, records := [], retired := [], free64 := [], free256 := [],
    filters := Vector.replicate 4 (Vector.replicate 4 none),
    rings := Vector.replicate 4 { pa := 0, log := 12, next := 0, dropped := 0 },
    queues := Vector.replicate 64 none, inbox := Vector.replicate 8 [], senders := [], request := none, reply := none
    mbox := [], qcbPa := 0x17FFFFE000, qAt := 0 }
  boot := {
    mode := .off, image := none, fails := 0, reason := 0, seed := [], commanders := [], nonces := [], nonceNext := 0,
    badSigs := 0, exports := [], attested := [], failNext := false }

end Sys2Proof.Machine
end

