-- ==== Sys2Proof/WellFormed.lean ====
section
/-! DEFINITION. Which instruction words are well formed: the checks of 07 R161 that do not lie in a raw field, by the kind
of the cause that a failing one raises. Events have no encoding and no check. -/

namespace Sys2Proof

/-- The floating element types (12 R266). -/
def VTy.isFloat : VTy → Bool
  | .fp32 | .bf16 | .fp16 | .e4m3 | .e5m2 => true
  | .i32 | .i16 | .i8 => false

/-- The types F3 of 12 R266. -/
def VTy.isF3 : VTy → Bool
  | .fp32 | .bf16 | .fp16 => true
  | .e4m3 | .e5m2 | .i32 | .i16 | .i8 => false

/-- The element width in bytes (08 Table 8.2). -/
def VTy.width : VTy → Nat
  | .fp32 | .i32 => 4
  | .bf16 | .fp16 | .i16 => 2
  | .e4m3 | .e5m2 | .i8 => 1

/-- The beats of an ARD or AWR (13 Table 13.4). -/
def beats (ty : VTy) (rows : BitVec 5) : Nat :=
  let n := rows.toNat + 1
  match ty.width with
  | 4 => 2 * n
  | 2 => n
  | _ => (n + 1) / 2

/-- mod [3:0] (07 R157). -/
def low4 (md : BitVec 5) : BitVec 4 := md.extractLsb' 0 4

/-- mod [2:0] (07 R157). -/
def low3 (md : BitVec 5) : BitVec 3 := md.extractLsb' 0 3

/-- No reserved or unused field is nonzero, beyond the raw fields (07 Table 7.10 kind 1; 12 R263, R266-R270, R274, R277). -/
def Instr.zeroOk : Instr → Bool
  | .nop _ => true
  | .add _ => true
  | .sub _ => true
  | .mul _ => true
  | .mulh _ => true
  | .mulhu _ => true
  | .div _ => true
  | .divu _ => true
  | .rem _ => true
  | .remu _ => true
  | .and _ => true
  | .or _ => true
  | .xor _ => true
  | .sll _ => true
  | .srl _ => true
  | .sra _ => true
  | .slt _ => true
  | .sltu _ => true
  | .min _ => true
  | .max _ => true
  | .addi _ => true
  | .andi _ => true
  | .ori _ => true
  | .xori _ => true
  | .slli _ => true
  | .srli _ => true
  | .srai _ => true
  | .slti _ => true
  | .li _ => true
  | .lih _ => true
  | .beq _ => true
  | .bne _ => true
  | .blt _ => true
  | .bge _ => true
  | .bltu _ => true
  | .bgeu _ => true
  | .jal _ => true
  | .jalr _ => true
  | .loopb _ => true
  | .endt _ => true
  | .crd _ => true
  | .cwr _ => true
  | .cset _ => true
  | .cclr _ => true
  | .trap _ => true
  | .eret _ => true
  | .waitev _ => true
  | .xlate _ => true
  | .hlocal _ => true
  | .hinv _ => true
  | .hget _ => true
  | .yset _ => true
  | .yget _ => true
  | .yclr _ => true
  | .fpush _ => true
  | .fpushi _ => true
  | .pwracq _ => true
  | .pwrrel _ => true
  | .slotwait _ => true
  | .ctxq _ => true
  | .yield _ => true
  | .ldb _ => true
  | .ldbu _ => true
  | .ldh _ => true
  | .ldhu _ => true
  | .ldw _ => true
  | .ldwu _ => true
  | .ldd _ => true
  | .vld _ => true
  | .vlds _ => true
  | .vldb _ => true
  | .cpin _ => true
  | .cpgather _ => true
  | .semwait _ => true
  | .barwait _ => true
  | .wltake _ => true
  | .vldl _ => true
  | .vstl _ => true
  | .vldm _ => true
  | .vstm _ => true
  | .vadd a => a.ty.isFloat || low4 a.md == 0
  | .vsub a => a.ty.isFloat || low4 a.md == 0
  | .vmul a => a.md.getLsbD 3 == false && (a.ty.isFloat || low4 a.md == 0)
  | .vfma a => a.ty.isFloat || low4 a.md == 0
  | .vmin _ => true
  | .vmax _ => true
  | .vabs a => if a.ty.isFloat then a.md == 0 else low4 a.md == 0
  | .vdiv a => a.md.getLsbD 3 == false && (a.ty.isFloat || low4 a.md == 0)
  | .vrcp a => a.md.getLsbD 3 == false && a.md.getLsbD 4 == false && (a.ty.isFloat || low4 a.md == 0)
  | .vrsq a => a.md.getLsbD 3 == false && a.md.getLsbD 4 == false && (a.ty.isFloat || low4 a.md == 0)
  | .vexp2 a => a.md.getLsbD 3 == false && a.md.getLsbD 4 == false && (a.ty.isFloat || low4 a.md == 0)
  | .vlog2 a => a.md.getLsbD 3 == false && a.md.getLsbD 4 == false && (a.ty.isFloat || low4 a.md == 0)
  | .vsqrt a => a.md.getLsbD 3 == false && a.md.getLsbD 4 == false && (a.ty.isFloat || low4 a.md == 0)
  | .vcvt a => !a.nan || (a.ty == .e4m3 && a.src.isFloat)
  | .vqnt a => !a.nan || a.elem == 0
  | .vdqnt _ => true
  | .vcmp _ => true
  | .vsel _ => true
  | .vand _ => true
  | .vor _ => true
  | .vxor _ => true
  | .vshl a => low4 a.md == 0
  | .vshr _ => true
  | .vshra _ => true
  | .vmov _ => true
  | .vmovi _ => true
  | .vfroms _ => true
  | .vtos _ => true
  | .vredadd a => if a.ty.isFloat then a.md == 0 else low4 a.md == 0
  | .vredmax _ => true
  | .vredmin _ => true
  | .vargmax _ => true
  | .vperm _ => true
  | .vslide _ => true
  | .vbcast _ => true
  | .viota _ => true
  | .pand _ => true
  | .por _ => true
  | .pxor _ => true
  | .pnot _ => true
  | .pset _ => true
  | .rbset _ => true
  | .slack _ => true
  | .mma _ => true
  | .mmat _ => true
  | .aclr _ => true
  | .ard _ => true
  | .awr _ => true
  | .asts _ => true
  | .stb _ => true
  | .sth _ => true
  | .stw _ => true
  | .std _ => true
  | .vst _ => true
  | .vsts _ => true
  | .aadd _ => true
  | .amin _ => true
  | .amax _ => true
  | .aand _ => true
  | .aor _ => true
  | .axor _ => true
  | .aswap _ => true
  | .acas _ => true
  | .afadd _ => true
  | .semsig _ => true
  | .bararv _ => true
  | .cpout _ => true
  | .cpscatter _ => true
  | .discard _ => true
  | .wback _ => true
  | .pgrsv _ => true
  | .pgrel _ => true
  | .pgmig _ => true
  | .wlappend _ => true
  | .commit _ => true
  | .retract _ => true
  | .wordDispatch _ => true
  | .illegalWord _ _ => true
  | .fetchFault _ => true
  | .handleLand _ => true
  | .walkComplete _ => true
  | .invalidationRelease _ _ => true
  | .allocationAnswer _ => true
  | .lateFrameConversion _ => true
  | .remoteFill _ _ => true
  | .operationComplete _ _ => true
  | .fabricWaitPoll _ _ => true
  | .patrolScrub _ => true
  | .copyRowIssue _ _ => true
  | .copyRowLand _ _ _ => true
  | .cWriteLand _ => true
  | .lateLoadArrival _ => true
  | .slackExpiry _ => true
  | .idleEngineCycle _ => true
  | .rotateEntry _ => true
  | .kstepWrite _ => true
  | .drainComplete _ => true
  | .resume _ => true
  | .refresh _ => true
  | .answerEnd _ => true
  | .preemptionSaveEnd _ => true
  | .restore _ => true
  | .launch _ => true
  | .launchEligible _ _ => true
  | .launchAgeing _ _ => true
  | .taskPlacement _ => true
  | .placementThermalTimeout _ _ => true
  | .launchRetire _ _ => true
  | .chainFetch _ => true
  | .shadowStart _ => true
  | .fhintHoldExpiry _ _ => true
  | .gridConfigure _ _ => true
  | .gridStart _ => true
  | .gridStop _ => true
  | .convOpen _ _ => true
  | .convClose _ => true
  | .slotBoundary _ _ => true
  | .ingressGroup _ _ => true
  | .freqRequestTakeup _ => true
  | .railStep _ => true
  | .clockSwitchEnd _ => true
  | .stallratioSample _ _ _ => true
  | .budgetGrant _ => true
  | .sensorRefresh _ _ => true
  | .marverRailWindow _ => true
  | .undervoltHoldEnd _ => true
  | .setPointRestore _ => true
  | .flitRetransmit _ => true
  | .laneShed _ => true
  | .laneRestore _ => true
  | .linkRetrained _ => true
  | .fabricCompletionError _ _ _ => true
  | .timeMessage _ => true
  | .timeSyncLoss => true
  | .doorbell _ _ => true
  | .queueSchedule => true
  | .ringNop _ => true
  | .ringSignal _ => true
  | .ringUnknownType _ => true
  | .queueCreate _ _ => true
  | .queueReset _ => true
  | .queueDestroy _ => true
  | .poolCreate _ _ _ => true
  | .poolSetLimit _ _ _ => true
  | .poolWithdraw _ _ => true
  | .pageTableChange _ _ _ _ => true
  | .setThermalLimits _ _ _ _ => true
  | .setBudget _ _ => true
  | .setTrafficFilter _ _ => true
  | .halt _ => true
  | .stopseq _ _ _ => true
  | .brk _ _ => true
  | .debugDisarm _ => true
  | .debugStopMatch _ => true
  | .status _ => true
  | .debugWrite _ _ => true
  | .errorWindowExpiry _ => true
  | .deviceStart _ => true
  | .startWatchdog => true
  | .writeImage _ => true
  | .fullStart => true
  | .attest _ _ => true
  | .commanderSignature _ _ => true
  | .commanderRelease _ => true
  | .waitevDeadline _ => true
  | .ctxqAnswer _ => true
  | .fabricEndpointAccess _ _ => true
  | .ringFetchFault _ => true
  | .boardCapChange _ _ => true
  | .marverRailStep _ => true
  | .powerLoss => true

/-- Every field value is in range, beyond the raw fields (07 Table 7.10 kind 2). -/
def Instr.rangeOk : Instr → Bool
  | .nop _ => true
  | .add _ => true
  | .sub _ => true
  | .mul _ => true
  | .mulh _ => true
  | .mulhu _ => true
  | .div _ => true
  | .divu _ => true
  | .rem _ => true
  | .remu _ => true
  | .and _ => true
  | .or _ => true
  | .xor _ => true
  | .sll _ => true
  | .srl _ => true
  | .sra _ => true
  | .slt _ => true
  | .sltu _ => true
  | .min _ => true
  | .max _ => true
  | .addi _ => true
  | .andi _ => true
  | .ori _ => true
  | .xori _ => true
  | .slli _ => true
  | .srli _ => true
  | .srai _ => true
  | .slti _ => true
  | .li _ => true
  | .lih _ => true
  | .beq _ => true
  | .bne _ => true
  | .blt _ => true
  | .bge _ => true
  | .bltu _ => true
  | .bgeu _ => true
  | .jal _ => true
  | .jalr _ => true
  | .loopb _ => true
  | .endt _ => true
  | .crd _ => true
  | .cwr _ => true
  | .cset _ => true
  | .cclr _ => true
  | .trap _ => true
  | .eret _ => true
  | .waitev _ => true
  | .xlate _ => true
  | .hlocal _ => true
  | .hinv _ => true
  | .hget _ => true
  | .yset a => a.field.toNat ≤ 23
  | .yget a => a.field.toNat ≤ 23
  | .yclr _ => true
  | .fpush _ => true
  | .fpushi _ => true
  | .pwracq _ => true
  | .pwrrel _ => true
  | .slotwait _ => true
  | .ctxq _ => true
  | .yield _ => true
  | .ldb _ => true
  | .ldbu _ => true
  | .ldh _ => true
  | .ldhu _ => true
  | .ldw _ => true
  | .ldwu _ => true
  | .ldd _ => true
  | .vld _ => true
  | .vlds a => a.idx.toNat ≠ 31
  | .vldb _ => true
  | .cpin _ => true
  | .cpgather _ => true
  | .semwait a => a.scope.toNat ≤ 5
  | .barwait a => a.scope.toNat ≤ 5
  | .wltake a => a.scope.toNat ≤ 5
  | .vldl _ => true
  | .vstl _ => true
  | .vldm _ => true
  | .vstm _ => true
  | .vadd a => !a.ty.isFloat || (low3 a.md).toNat ≤ 5
  | .vsub a => !a.ty.isFloat || (low3 a.md).toNat ≤ 5
  | .vmul a => !a.ty.isFloat || (low3 a.md).toNat ≤ 5
  | .vfma a => !a.ty.isFloat || (low3 a.md).toNat ≤ 5
  | .vmin _ => true
  | .vmax _ => true
  | .vabs _ => true
  | .vdiv a => a.ty.isF3 && (low3 a.md).toNat ≤ 5
  | .vrcp a => a.ty.isF3 && (low3 a.md).toNat ≤ 5
  | .vrsq a => a.ty.isF3 && (low3 a.md).toNat ≤ 5
  | .vexp2 a => a.ty.isF3 && (low3 a.md).toNat ≤ 5
  | .vlog2 a => a.ty.isF3 && (low3 a.md).toNat ≤ 5
  | .vsqrt a => a.ty.isF3 && (low3 a.md).toNat ≤ 5
  | .vcvt a => a.rnd.toNat ≤ 5
  | .vqnt _ => true
  | .vdqnt _ => true
  | .vcmp a => a.rel.toNat ≤ 5
  | .vsel _ => true
  | .vand _ => true
  | .vor _ => true
  | .vxor _ => true
  | .vshl a => !a.ty.isFloat
  | .vshr a => !a.ty.isFloat
  | .vshra a => !a.ty.isFloat
  | .vmov _ => true
  | .vmovi _ => true
  | .vfroms _ => true
  | .vtos _ => true
  | .vredadd _ => true
  | .vredmax _ => true
  | .vredmin _ => true
  | .vargmax _ => true
  | .vperm _ => true
  | .vslide _ => true
  | .vbcast _ => true
  | .viota a => !a.ty.isFloat
  | .pand _ => true
  | .por _ => true
  | .pxor _ => true
  | .pnot _ => true
  | .pset _ => true
  | .rbset a => a.v.toNat ≤ 47
  | .slack _ => true
  | .mma _ => true
  | .mmat _ => true
  | .aclr _ => true
  | .ard a => a.rnd.toNat ≤ 5 && a.row.toNat + a.rows.toNat ≤ 95
  | .awr a => a.row.toNat + a.rows.toNat ≤ 95
  | .asts a => a.rnd.toNat ≤ 5
  | .stb _ => true
  | .sth _ => true
  | .stw _ => true
  | .std _ => true
  | .vst _ => true
  | .vsts a => a.idx.toNat ≠ 31
  | .aadd a => a.scope.toNat ≤ 5
  | .amin a => a.scope.toNat ≤ 5
  | .amax a => a.scope.toNat ≤ 5
  | .aand a => a.scope.toNat ≤ 5
  | .aor a => a.scope.toNat ≤ 5
  | .axor a => a.scope.toNat ≤ 5
  | .aswap a => a.scope.toNat ≤ 5
  | .acas a => a.scope.toNat ≤ 5
  | .afadd a => a.scope.toNat ≤ 5
  | .semsig a => a.scope.toNat ≤ 5
  | .bararv a => a.scope.toNat ≤ 5
  | .cpout _ => true
  | .cpscatter _ => true
  | .discard _ => true
  | .wback _ => true
  | .pgrsv _ => true
  | .pgrel _ => true
  | .pgmig _ => true
  | .wlappend a => a.scope.toNat ≤ 5
  | .commit _ => true
  | .retract _ => true
  | .wordDispatch _ => true
  | .illegalWord _ _ => true
  | .fetchFault _ => true
  | .handleLand _ => true
  | .walkComplete _ => true
  | .invalidationRelease _ _ => true
  | .allocationAnswer _ => true
  | .lateFrameConversion _ => true
  | .remoteFill _ _ => true
  | .operationComplete _ _ => true
  | .fabricWaitPoll _ _ => true
  | .patrolScrub _ => true
  | .copyRowIssue _ _ => true
  | .copyRowLand _ _ _ => true
  | .cWriteLand _ => true
  | .lateLoadArrival _ => true
  | .slackExpiry _ => true
  | .idleEngineCycle _ => true
  | .rotateEntry _ => true
  | .kstepWrite _ => true
  | .drainComplete _ => true
  | .resume _ => true
  | .refresh _ => true
  | .answerEnd _ => true
  | .preemptionSaveEnd _ => true
  | .restore _ => true
  | .launch _ => true
  | .launchEligible _ _ => true
  | .launchAgeing _ _ => true
  | .taskPlacement _ => true
  | .placementThermalTimeout _ _ => true
  | .launchRetire _ _ => true
  | .chainFetch _ => true
  | .shadowStart _ => true
  | .fhintHoldExpiry _ _ => true
  | .gridConfigure _ _ => true
  | .gridStart _ => true
  | .gridStop _ => true
  | .convOpen _ _ => true
  | .convClose _ => true
  | .slotBoundary _ _ => true
  | .ingressGroup _ _ => true
  | .freqRequestTakeup _ => true
  | .railStep _ => true
  | .clockSwitchEnd _ => true
  | .stallratioSample _ _ _ => true
  | .budgetGrant _ => true
  | .sensorRefresh _ _ => true
  | .marverRailWindow _ => true
  | .undervoltHoldEnd _ => true
  | .setPointRestore _ => true
  | .flitRetransmit _ => true
  | .laneShed _ => true
  | .laneRestore _ => true
  | .linkRetrained _ => true
  | .fabricCompletionError _ _ _ => true
  | .timeMessage _ => true
  | .timeSyncLoss => true
  | .doorbell _ _ => true
  | .queueSchedule => true
  | .ringNop _ => true
  | .ringSignal _ => true
  | .ringUnknownType _ => true
  | .queueCreate _ _ => true
  | .queueReset _ => true
  | .queueDestroy _ => true
  | .poolCreate _ _ _ => true
  | .poolSetLimit _ _ _ => true
  | .poolWithdraw _ _ => true
  | .pageTableChange _ _ _ _ => true
  | .setThermalLimits _ _ _ _ => true
  | .setBudget _ _ => true
  | .setTrafficFilter _ _ => true
  | .halt _ => true
  | .stopseq _ _ _ => true
  | .brk _ _ => true
  | .debugDisarm _ => true
  | .debugStopMatch _ => true
  | .status _ => true
  | .debugWrite _ _ => true
  | .errorWindowExpiry _ => true
  | .deviceStart _ => true
  | .startWatchdog => true
  | .writeImage _ => true
  | .fullStart => true
  | .attest _ _ => true
  | .commanderSignature _ _ => true
  | .commanderRelease _ => true
  | .waitevDeadline _ => true
  | .ctxqAnswer _ => true
  | .fabricEndpointAccess _ _ => true
  | .ringFetchFault _ => true
  | .boardCapChange _ _ => true
  | .marverRailStep _ => true
  | .powerLoss => true

/-- No repetition passes its register file (07 R178, Table 7.10 kind 3). -/
def Instr.repOk : Instr → Bool
  | .nop _ => true
  | .add _ => true
  | .sub _ => true
  | .mul _ => true
  | .mulh _ => true
  | .mulhu _ => true
  | .div _ => true
  | .divu _ => true
  | .rem _ => true
  | .remu _ => true
  | .and _ => true
  | .or _ => true
  | .xor _ => true
  | .sll _ => true
  | .srl _ => true
  | .sra _ => true
  | .slt _ => true
  | .sltu _ => true
  | .min _ => true
  | .max _ => true
  | .addi _ => true
  | .andi _ => true
  | .ori _ => true
  | .xori _ => true
  | .slli _ => true
  | .srli _ => true
  | .srai _ => true
  | .slti _ => true
  | .li _ => true
  | .lih _ => true
  | .beq _ => true
  | .bne _ => true
  | .blt _ => true
  | .bge _ => true
  | .bltu _ => true
  | .bgeu _ => true
  | .jal _ => true
  | .jalr _ => true
  | .loopb _ => true
  | .endt _ => true
  | .crd _ => true
  | .cwr _ => true
  | .cset _ => true
  | .cclr _ => true
  | .trap _ => true
  | .eret _ => true
  | .waitev _ => true
  | .xlate _ => true
  | .hlocal _ => true
  | .hinv _ => true
  | .hget _ => true
  | .yset _ => true
  | .yget _ => true
  | .yclr _ => true
  | .fpush _ => true
  | .fpushi _ => true
  | .pwracq _ => true
  | .pwrrel _ => true
  | .slotwait _ => true
  | .ctxq _ => true
  | .yield _ => true
  | .ldb a => a.reg.toNat + a.rep.toNat ≤ 31
  | .ldbu a => a.reg.toNat + a.rep.toNat ≤ 31
  | .ldh a => a.reg.toNat + a.rep.toNat ≤ 31
  | .ldhu a => a.reg.toNat + a.rep.toNat ≤ 31
  | .ldw a => a.reg.toNat + a.rep.toNat ≤ 31
  | .ldwu a => a.reg.toNat + a.rep.toNat ≤ 31
  | .ldd a => a.reg.toNat + a.rep.toNat ≤ 31
  | .vld a => a.reg.toNat + a.rep.toNat ≤ 63
  | .vlds a => a.reg.toNat + a.rep.toNat ≤ 63
  | .vldb a => a.reg.toNat + a.rep.toNat ≤ 63
  | .cpin _ => true
  | .cpgather _ => true
  | .semwait _ => true
  | .barwait _ => true
  | .wltake _ => true
  | .vldl a => a.v.toNat + a.rep.toNat ≤ 63
  | .vstl a => a.v.toNat + a.rep.toNat ≤ 63
  | .vldm a => a.v.toNat + a.rep.toNat ≤ 63
  | .vstm a => a.v.toNat + a.rep.toNat ≤ 63
  | .vadd a => a.vd.toNat + a.rep.toNat ≤ 63 && a.va.toNat + a.rep.toNat ≤ 63 && a.vb.toNat + a.rep.toNat ≤ 63
  | .vsub a => a.vd.toNat + a.rep.toNat ≤ 63 && a.va.toNat + a.rep.toNat ≤ 63 && a.vb.toNat + a.rep.toNat ≤ 63
  | .vmul a => a.vd.toNat + a.rep.toNat ≤ 63 && a.va.toNat + a.rep.toNat ≤ 63 && a.vb.toNat + a.rep.toNat ≤ 63
  | .vfma a => a.vd.toNat + a.rep.toNat ≤ 63 && a.va.toNat + a.rep.toNat ≤ 63 && a.vb.toNat + a.rep.toNat ≤ 63
  | .vmin a => a.vd.toNat + a.rep.toNat ≤ 63 && a.va.toNat + a.rep.toNat ≤ 63 && a.vb.toNat + a.rep.toNat ≤ 63
  | .vmax a => a.vd.toNat + a.rep.toNat ≤ 63 && a.va.toNat + a.rep.toNat ≤ 63 && a.vb.toNat + a.rep.toNat ≤ 63
  | .vabs a => a.vd.toNat + a.rep.toNat ≤ 63 && a.va.toNat + a.rep.toNat ≤ 63
  | .vdiv a => a.vd.toNat + a.rep.toNat ≤ 63 && a.va.toNat + a.rep.toNat ≤ 63 && a.vb.toNat + a.rep.toNat ≤ 63
  | .vrcp a => a.vd.toNat + a.rep.toNat ≤ 63 && a.va.toNat + a.rep.toNat ≤ 63
  | .vrsq a => a.vd.toNat + a.rep.toNat ≤ 63 && a.va.toNat + a.rep.toNat ≤ 63
  | .vexp2 a => a.vd.toNat + a.rep.toNat ≤ 63 && a.va.toNat + a.rep.toNat ≤ 63
  | .vlog2 a => a.vd.toNat + a.rep.toNat ≤ 63 && a.va.toNat + a.rep.toNat ≤ 63
  | .vsqrt a => a.vd.toNat + a.rep.toNat ≤ 63 && a.va.toNat + a.rep.toNat ≤ 63
  | .vcvt a => a.vd.toNat + a.rep.toNat ≤ 63 && a.va.toNat + a.rep.toNat ≤ 63
  | .vqnt a => a.vd.toNat + a.rep.toNat ≤ 63 && a.va.toNat + a.rep.toNat ≤ 63 && a.vb.toNat + a.rep.toNat ≤ 63
  | .vdqnt a => a.vd.toNat + a.rep.toNat ≤ 63 && a.va.toNat + a.rep.toNat ≤ 63 && a.vb.toNat + a.rep.toNat ≤ 63
  | .vcmp a => a.pd.toNat + a.rep.toNat ≤ 15 && a.va.toNat + a.rep.toNat ≤ 63 && a.vb.toNat + a.rep.toNat ≤ 63
  | .vsel a => a.vd.toNat + a.rep.toNat ≤ 63 && a.va.toNat + a.rep.toNat ≤ 63 && a.vb.toNat + a.rep.toNat ≤ 63
  | .vand a => a.vd.toNat + a.rep.toNat ≤ 63 && a.va.toNat + a.rep.toNat ≤ 63 && a.vb.toNat + a.rep.toNat ≤ 63
  | .vor a => a.vd.toNat + a.rep.toNat ≤ 63 && a.va.toNat + a.rep.toNat ≤ 63 && a.vb.toNat + a.rep.toNat ≤ 63
  | .vxor a => a.vd.toNat + a.rep.toNat ≤ 63 && a.va.toNat + a.rep.toNat ≤ 63 && a.vb.toNat + a.rep.toNat ≤ 63
  | .vshl a => a.vd.toNat + a.rep.toNat ≤ 63 && a.va.toNat + a.rep.toNat ≤ 63 && a.vb.toNat + a.rep.toNat ≤ 63
  | .vshr a => a.vd.toNat + a.rep.toNat ≤ 63 && a.va.toNat + a.rep.toNat ≤ 63 && a.vb.toNat + a.rep.toNat ≤ 63
  | .vshra a => a.vd.toNat + a.rep.toNat ≤ 63 && a.va.toNat + a.rep.toNat ≤ 63 && a.vb.toNat + a.rep.toNat ≤ 63
  | .vmov a => a.vd.toNat + a.rep.toNat ≤ 63 && a.va.toNat + a.rep.toNat ≤ 63
  | .vmovi a => a.vd.toNat + a.rep.toNat ≤ 63
  | .vfroms a => a.vd.toNat + a.rep.toNat ≤ 63
  | .vtos _ => true
  | .vredadd a => a.vd.toNat + a.rep.toNat ≤ 63 && a.va.toNat + a.rep.toNat ≤ 63
  | .vredmax a => a.vd.toNat + a.rep.toNat ≤ 63 && a.va.toNat + a.rep.toNat ≤ 63
  | .vredmin a => a.vd.toNat + a.rep.toNat ≤ 63 && a.va.toNat + a.rep.toNat ≤ 63
  | .vargmax a => a.vd.toNat + a.rep.toNat ≤ 63 && a.va.toNat + a.rep.toNat ≤ 63
  | .vperm a => a.vd.toNat + a.rep.toNat ≤ 63 && a.va.toNat + a.rep.toNat ≤ 63 && a.vb.toNat + a.rep.toNat ≤ 63
  | .vslide a => a.vd.toNat + a.rep.toNat ≤ 63 && a.va.toNat + a.rep.toNat ≤ 63
  | .vbcast a => a.vd.toNat + a.rep.toNat ≤ 63 && a.va.toNat + a.rep.toNat ≤ 63
  | .viota a => a.vd.toNat + a.rep.toNat ≤ 63
  | .pand a => a.pd.toNat + a.rep.toNat ≤ 15 && a.pa.toNat + a.rep.toNat ≤ 15 && a.pb.toNat + a.rep.toNat ≤ 15
  | .por a => a.pd.toNat + a.rep.toNat ≤ 15 && a.pa.toNat + a.rep.toNat ≤ 15 && a.pb.toNat + a.rep.toNat ≤ 15
  | .pxor a => a.pd.toNat + a.rep.toNat ≤ 15 && a.pa.toNat + a.rep.toNat ≤ 15 && a.pb.toNat + a.rep.toNat ≤ 15
  | .pnot a => a.pd.toNat + a.rep.toNat ≤ 15 && a.pa.toNat + a.rep.toNat ≤ 15
  | .pset a => a.pd.toNat + a.rep.toNat ≤ 15
  | .rbset _ => true
  | .slack _ => true
  | .mma _ => true
  | .mmat _ => true
  | .aclr _ => true
  | .ard a => a.v.toNat + beats a.ty a.rows ≤ 64
  | .awr a => a.v.toNat + beats a.ty a.rows ≤ 64
  | .asts _ => true
  | .stb a => a.reg.toNat + a.rep.toNat ≤ 31
  | .sth a => a.reg.toNat + a.rep.toNat ≤ 31
  | .stw a => a.reg.toNat + a.rep.toNat ≤ 31
  | .std a => a.reg.toNat + a.rep.toNat ≤ 31
  | .vst a => a.reg.toNat + a.rep.toNat ≤ 63
  | .vsts a => a.reg.toNat + a.rep.toNat ≤ 63
  | .aadd _ => true
  | .amin _ => true
  | .amax _ => true
  | .aand _ => true
  | .aor _ => true
  | .axor _ => true
  | .aswap _ => true
  | .acas _ => true
  | .afadd _ => true
  | .semsig _ => true
  | .bararv _ => true
  | .cpout _ => true
  | .cpscatter _ => true
  | .discard _ => true
  | .wback _ => true
  | .pgrsv _ => true
  | .pgrel _ => true
  | .pgmig _ => true
  | .wlappend _ => true
  | .commit _ => true
  | .retract _ => true
  | .wordDispatch _ => true
  | .illegalWord _ _ => true
  | .fetchFault _ => true
  | .handleLand _ => true
  | .walkComplete _ => true
  | .invalidationRelease _ _ => true
  | .allocationAnswer _ => true
  | .lateFrameConversion _ => true
  | .remoteFill _ _ => true
  | .operationComplete _ _ => true
  | .fabricWaitPoll _ _ => true
  | .patrolScrub _ => true
  | .copyRowIssue _ _ => true
  | .copyRowLand _ _ _ => true
  | .cWriteLand _ => true
  | .lateLoadArrival _ => true
  | .slackExpiry _ => true
  | .idleEngineCycle _ => true
  | .rotateEntry _ => true
  | .kstepWrite _ => true
  | .drainComplete _ => true
  | .resume _ => true
  | .refresh _ => true
  | .answerEnd _ => true
  | .preemptionSaveEnd _ => true
  | .restore _ => true
  | .launch _ => true
  | .launchEligible _ _ => true
  | .launchAgeing _ _ => true
  | .taskPlacement _ => true
  | .placementThermalTimeout _ _ => true
  | .launchRetire _ _ => true
  | .chainFetch _ => true
  | .shadowStart _ => true
  | .fhintHoldExpiry _ _ => true
  | .gridConfigure _ _ => true
  | .gridStart _ => true
  | .gridStop _ => true
  | .convOpen _ _ => true
  | .convClose _ => true
  | .slotBoundary _ _ => true
  | .ingressGroup _ _ => true
  | .freqRequestTakeup _ => true
  | .railStep _ => true
  | .clockSwitchEnd _ => true
  | .stallratioSample _ _ _ => true
  | .budgetGrant _ => true
  | .sensorRefresh _ _ => true
  | .marverRailWindow _ => true
  | .undervoltHoldEnd _ => true
  | .setPointRestore _ => true
  | .flitRetransmit _ => true
  | .laneShed _ => true
  | .laneRestore _ => true
  | .linkRetrained _ => true
  | .fabricCompletionError _ _ _ => true
  | .timeMessage _ => true
  | .timeSyncLoss => true
  | .doorbell _ _ => true
  | .queueSchedule => true
  | .ringNop _ => true
  | .ringSignal _ => true
  | .ringUnknownType _ => true
  | .queueCreate _ _ => true
  | .queueReset _ => true
  | .queueDestroy _ => true
  | .poolCreate _ _ _ => true
  | .poolSetLimit _ _ _ => true
  | .poolWithdraw _ _ => true
  | .pageTableChange _ _ _ _ => true
  | .setThermalLimits _ _ _ _ => true
  | .setBudget _ _ => true
  | .setTrafficFilter _ _ => true
  | .halt _ => true
  | .stopseq _ _ _ => true
  | .brk _ _ => true
  | .debugDisarm _ => true
  | .debugStopMatch _ => true
  | .status _ => true
  | .debugWrite _ _ => true
  | .errorWindowExpiry _ => true
  | .deviceStart _ => true
  | .startWatchdog => true
  | .writeImage _ => true
  | .fullStart => true
  | .attest _ _ => true
  | .commanderSignature _ _ => true
  | .commanderRelease _ => true
  | .waitevDeadline _ => true
  | .ctxqAnswer _ => true
  | .fabricEndpointAccess _ _ => true
  | .ringFetchFault _ => true
  | .boardCapChange _ _ => true
  | .marverRailStep _ => true
  | .powerLoss => true

/-- A well-formed instruction (07 R161). -/
def Instr.wf (i : Instr) : Bool := i.zeroOk && i.rangeOk && i.repOk

end Sys2Proof
end

