-- ==== Sys2Proof/Machine/Num.lean ====
section
/-! DEFINITION. Exact values, the formats of 08, and the one rounding of every result. -/

namespace Sys2Proof.Machine

open Sys2Proof

/-- An exact value. `fin neg m e st` is ±(m + t) × 2^e with t = 0, or with some 0 < t < 1 where `st` is set: a value known
between two neighbours of a much finer grid than any rounding needs. -/
inductive Num where
  | nan
  | inf (neg : Bool)
  | fin (neg : Bool) (m : Nat) (e : Int) (st : Bool)
  deriving DecidableEq, Repr

/-- How a floating format uses its top exponent (08 Table 8.1). -/
inductive Specials where
  | ieee | nanOnly | none
  deriving DecidableEq, Repr

/-- A floating format: exponent bits, mantissa bits, bias, special encodings, canonical NaN (08 Tables 8.1, 8.7). -/
structure Fmt where
  eb : Nat
  mb : Nat
  bias : Int
  sp : Specials
  cnan : Nat
  deriving DecidableEq, Repr

/-- The formats of 08 Table 8.1. -/
def fmtFp32 : Fmt := { eb := 8, mb := 23, bias := 127, sp := .ieee, cnan := 0x7FC00000 }
/-- BF16. -/
def fmtBf16 : Fmt := { eb := 8, mb := 7, bias := 127, sp := .ieee, cnan := 0x7FC0 }
/-- FP16. -/
def fmtFp16 : Fmt := { eb := 5, mb := 10, bias := 15, sp := .ieee, cnan := 0x7E00 }
/-- FP8 E4M3. -/
def fmtE4m3 : Fmt := { eb := 4, mb := 3, bias := 7, sp := .nanOnly, cnan := 0x7F }
/-- FP8 E5M2. -/
def fmtE5m2 : Fmt := { eb := 5, mb := 2, bias := 15, sp := .ieee, cnan := 0x7E }
/-- FP6 E3M2. -/
def fmtE3m2 : Fmt := { eb := 3, mb := 2, bias := 3, sp := .none, cnan := 0 }
/-- FP6 E2M3. -/
def fmtE2m3 : Fmt := { eb := 2, mb := 3, bias := 1, sp := .none, cnan := 0 }
/-- FP4 E2M1. -/
def fmtE2m1 : Fmt := { eb := 2, mb := 1, bias := 1, sp := .none, cnan := 0 }

/-- The floating format of a vector element type; `none` for an integer type (08 R184). -/
def fmtOf : VTy → Option Fmt
  | .fp32 => some fmtFp32 | .bf16 => some fmtBf16 | .fp16 => some fmtFp16 | .e4m3 => some fmtE4m3 | .e5m2 => some fmtE5m2
  | .i32 | .i16 | .i8 => none

/-- The width of a format in bits. -/
def Fmt.width (f : Fmt) : Nat := 1 + f.eb + f.mb

/-- The largest finite magnitude (08 Table 8.1). -/
def Fmt.maxBits (f : Fmt) : Nat :=
  match f.sp with
  | .ieee => (2 ^ f.eb - 1) * 2 ^ f.mb - 1
  | .nanOnly => 2 ^ (f.eb + f.mb) - 2
  | .none => 2 ^ (f.eb + f.mb) - 1

/-- The value of an encoding (08 R181). -/
def Fmt.value (f : Fmt) (bits : Nat) : Num :=
  let neg := bits / 2 ^ (f.eb + f.mb) % 2 == 1
  let e := bits / 2 ^ f.mb % 2 ^ f.eb
  let m := bits % 2 ^ f.mb
  if f.sp = .ieee ∧ e = 2 ^ f.eb - 1 then (if m = 0 then .inf neg else .nan)
  else if f.sp = .nanOnly ∧ e = 2 ^ f.eb - 1 ∧ m = 2 ^ f.mb - 1 then .nan
  else if e = 0 then .fin neg m (1 - f.bias - f.mb) false
  else .fin neg (2 ^ f.mb + m) (e - f.bias - f.mb) false

/-- The value of a two's complement number of `w` bits (08 R182). -/
def intOf (w bits : Nat) : Int := if bits % 2 ^ w < 2 ^ (w - 1) then (bits % 2 ^ w : Nat) else (bits % 2 ^ w : Nat) - (2 ^ w : Nat)

/-- An integer as an exact value. -/
def Num.ofInt (x : Int) : Num := .fin (decide (x < 0)) x.natAbs 0 false

/-- The encoding of an integer in `w` bits. -/
def bitsOfInt (w : Nat) (x : Int) : Nat := (x % (2 ^ w : Nat)).toNat

/-- Saturation to the signed range of `w` bits (12 R267). -/
def satInt (w : Nat) (x : Int) : Int := max (-(2 ^ (w - 1) : Nat)) (min x ((2 ^ (w - 1) : Nat) - 1))

/-! ### Rounding (08 R191, R192) -/

/-- Whether a magnitude n + (rem + t) / 2^d is rounded away from zero, for rounding code `rnd` and stochastic state `L`. -/
def roundAway (rnd L : Nat) (neg : Bool) (n rem d : Nat) (st : Bool) : Bool :=
  let inexact := rem != 0 || st
  let half := 2 ^ (d - 1)
  match rnd with
  | 0 => inexact && (decide (half < rem) || (rem == half && (st || n % 2 == 1)))
  | 1 => false
  | 2 => inexact && neg
  | 3 => inexact && !neg
  | 4 => inexact && decide (half ≤ rem)
  | _ => inexact && decide (L < if 32 ≤ d then rem / 2 ^ (d - 32) else rem * 2 ^ (32 - d))

/-- A magnitude (m + t) × 2^e rounded to a multiple of 2^q, counted in units of 2^q. -/
def roundUnits (rnd L : Nat) (neg : Bool) (m : Nat) (e : Int) (st : Bool) (q : Int) : Nat :=
  if q ≤ e then m * 2 ^ (e - q).toNat + b2n' (st && roundAway rnd L neg (m * 2 ^ (e - q).toNat) 0 1 true)
  else
    let d := (q - e).toNat
    let n := m / 2 ^ d
    n + b2n' (roundAway rnd L neg n (m % 2 ^ d) d st)
where
  /-- A bit as a number. -/
  b2n' (b : Bool) : Nat := if b then 1 else 0

/-- A sign bit above a magnitude. -/
def Fmt.sign (f : Fmt) (neg : Bool) (mag : Nat) : Nat := if neg then 2 ^ (f.eb + f.mb) + mag else mag

/-- The encoding of ±∞, or what stands for it (08 Table 8.6). -/
def Fmt.infinite (f : Fmt) (nanMode neg : Bool) : Nat :=
  match f.sp with
  | .ieee => f.sign neg (f.maxBits + 1)
  | .nanOnly => if nanMode then f.cnan else f.sign neg f.maxBits
  | .none => f.sign neg f.maxBits

/-- A finite result beyond the largest finite value (08 Table 8.6). -/
def Fmt.overflow (f : Fmt) (rnd : Nat) (nanMode neg : Bool) : Nat :=
  match f.sp with
  | .ieee =>
    let toInf := match rnd with
      | 1 => false
      | 2 => neg
      | 3 => !neg
      | _ => true
    if toInf then f.sign neg (f.maxBits + 1) else f.sign neg f.maxBits
  | .nanOnly => if nanMode then f.cnan else f.sign neg f.maxBits
  | .none => f.sign neg f.maxBits

/-- The one rounding of an exact value to a format: code `rnd`, stochastic state `L`, NaN mode of E4M3 (08 R191, R193,
R194, Tables 8.4, 8.6, 8.7). -/
def Fmt.round (f : Fmt) (rnd L : Nat) (nanMode : Bool) (x : Num) : Nat :=
  match x with
  | .nan => f.cnan
  | .inf neg => f.infinite nanMode neg
  | .fin neg m e st =>
    let emin : Int := 1 - f.bias - f.mb
    let q := max (e + Nat.log2 m - f.mb) emin
    let n := if m = 0 ∧ !st then 0 else roundUnits rnd L neg m e st q
    let mag := if n = 0 then 0 else (q - emin).toNat * 2 ^ f.mb + n
    if f.maxBits < mag then f.overflow rnd nanMode neg else f.sign neg mag

/-- The one rounding to an integer of `w` bits, with saturation (08 Table 8.6). -/
def roundInt (w rnd L : Nat) (x : Num) : Int :=
  match x with
  | .nan => 0
  | .inf neg => if neg then -(2 ^ (w - 1) : Nat) else (2 ^ (w - 1) : Nat) - 1
  | .fin neg m e st =>
    let n : Int := roundUnits rnd L neg m e st 0
    satInt w (if neg then -n else n)

/-- One step of the stochastic state (08 R192). -/
def stepL (l : BitVec 32) : BitVec 32 := if l.getLsbD 0 then (l >>> 1) ^^^ 0x80200003 else l >>> 1

/-! ### Exact arithmetic (08 R195; 12 R266, R268) -/

/-- The negated value. -/
def Num.neg : Num → Num
  | .nan => .nan
  | .inf s => .inf (!s)
  | .fin s m e st => .fin (!s) m e st

/-- The value negated where a sign control is set (07 R157). -/
def Num.negIf (b : Bool) (x : Num) : Num := if b then x.neg else x

/-- The signed integer of a finite value in units of 2^q, for q at most its exponent. -/
def signedAt (neg : Bool) (m : Nat) (e q : Int) : Int :=
  let n : Int := (m * 2 ^ (e - q).toNat : Nat)
  if neg then -n else n

/-- The exact sum. A zero sum of opposite signs is +0, and −0 when rounding down (IEEE 754, 08 R195). -/
def Num.add (rdn : Bool) : Num → Num → Num
  | .nan, _ | _, .nan => .nan
  | .inf s, .inf t => if s = t then .inf s else .nan
  | .inf s, .fin .. => .inf s
  | .fin .., .inf s => .inf s
  | .fin s m e a, .fin t n f b =>
    let q := min e f
    let x := signedAt s m e q + signedAt t n f q
    if x = 0 then .fin (if s = t then s else rdn) 0 0 false
    else .fin (decide (x < 0)) x.natAbs q (a || b)

/-- The exact product. -/
def Num.mul : Num → Num → Num
  | .nan, _ | _, .nan => .nan
  | .inf s, .inf t => .inf (s != t)
  | .inf s, .fin t m _ _ | .fin t m _ _, .inf s => if m = 0 then .nan else .inf (s != t)
  | .fin s m e _, .fin t n f _ => .fin (s != t) (m * n) (e + f) false

/-- Extra bits that quotients and roots carry below any rounding position. -/
def guard : Nat := 96

/-- The quotient, exact or between two neighbours (12 R268). -/
def Num.div : Num → Num → Num
  | .nan, _ | _, .nan => .nan
  | .inf _, .inf _ => .nan
  | .inf s, .fin t _ _ _ => .inf (s != t)
  | .fin s _ _ _, .inf t => .fin (s != t) 0 0 false
  | .fin s m e _, .fin t n f _ =>
    if n = 0 then (if m = 0 then .nan else .inf (s != t))
    else
      let k := guard + Nat.log2 n
      let x := m * 2 ^ k
      .fin (s != t) (x / n) (e - f - k) (x % n != 0)

/-- The integer square root, bit by bit from bit `k` down. -/
def isqrtFrom (x : Nat) : Nat → Nat → Nat
  | 0, r => r
  | k + 1, r => let t := r + 2 ^ k; isqrtFrom x k (if t * t ≤ x then t else r)

/-- The integer square root. -/
def isqrt (x : Nat) : Nat := isqrtFrom x (Nat.log2 x / 2 + 1) 0

/-- The square root (12 Table 12.4). -/
def Num.sqrt : Num → Num
  | .nan => .nan
  | .inf s => if s then .nan else .inf false
  | .fin s m e _ =>
    if m = 0 then .fin s 0 0 false
    else if s then .nan
    else
      let k := 2 * guard + (e % 2).toNat
      let x := m * 2 ^ k
      let r := isqrt x
      .fin false r ((e - k) / 2) (r * r != x)

/-- The reciprocal (12 Table 12.4). -/
def Num.rcp (x : Num) : Num := Num.div (.fin false 1 0 false) x

/-- The reciprocal square root (12 Table 12.4). -/
def Num.rsq : Num → Num
  | .nan => .nan
  | .inf s => if s then .nan else .fin false 0 0 false
  | .fin s m e _ =>
    if m = 0 then .inf s
    else if s then .nan
    else
      let m' := if e % 2 = 0 then m else 2 * m
      let e' := if e % 2 = 0 then e else e - 1
      let k := guard + Nat.log2 m'
      let r := isqrt (2 ^ (2 * k) / m')
      .fin false r (-(k : Int) - e' / 2) (r * r * m' != 2 ^ (2 * k))

/-- The bits of the fixed-point grid on which exponentials and logarithms are computed (log entry 6). -/
def fixBits : Nat := 400

/-- ln 2 in units of 2^−400. -/
def ln2Fix : Nat := 0xb17217f7d1cf79abc9e3b39803f2f6af40f343267298b62d8a0d175b8baafa2be7b876206debac98559552fb4afa1b10ed2e

/-- Σ y^i / i! from term `i` on, `t` being the term, in units of 2^−400. -/
def expTail (y : Nat) : Nat → Nat → Nat → Nat
  | 0, _, _ => 0
  | fuel + 1, i, t => t + expTail y fuel (i + 1) (t * y / 2 ^ fixBits / (i + 1))

/-- 2^f for 0 ≤ f < 1, all in units of 2^−400. -/
def exp2Fix (f : Nat) : Nat := expTail (f * ln2Fix / 2 ^ fixBits) 100 0 (2 ^ fixBits)

/-- The base-2 exponential (12 R268). A magnitude of 2^16 or more is beyond every format either way. -/
def Num.exp2 : Num → Num
  | .nan => .nan
  | .inf s => if s then .fin false 0 0 false else .inf false
  | .fin s m e _ =>
    if m = 0 then .fin false 1 0 false
    else if 16 ≤ e + Nat.log2 m then (if s then .fin false (2 ^ fixBits) (-70000 - fixBits) true else .fin false 1 70000 false)
    else if 0 ≤ e then .fin false 1 (signedAt s m e 0) false
    else
      let d := (-e).toNat
      let x : Int := if s then -m else m
      let k := x / (2 ^ d : Nat)
      let f := (x % (2 ^ d : Nat)).toNat
      if f = 0 then .fin false 1 k false
      else .fin false (exp2Fix (f * 2 ^ fixBits / 2 ^ d)) (k - fixBits) true

/-- Σ z^(2i+1) / (2i+1) from term `i` on, `p` being z^(2i+1), in units of 2^−400. -/
def atanhTail (z2 : Nat) : Nat → Nat → Nat → Nat
  | 0, _, _ => 0
  | fuel + 1, i, p => p / (2 * i + 1) + atanhTail z2 fuel (i + 1) (p * z2 / 2 ^ fixBits)

/-- log2 x for 1 ≤ x < 2, in units of 2^−400. -/
def log2Fix (x : Nat) : Nat :=
  let z := (x - 2 ^ fixBits) * 2 ^ fixBits / (x + 2 ^ fixBits)
  2 * atanhTail (z * z / 2 ^ fixBits) 140 0 z * 2 ^ fixBits / ln2Fix

/-- The base-2 logarithm (12 R268, Table 12.4). -/
def Num.log2 : Num → Num
  | .nan => .nan
  | .inf s => if s then .nan else .inf false
  | .fin s m e _ =>
    if m = 0 then .inf true
    else if s then .nan
    else
      let l := Nat.log2 m
      let k : Int := e + l
      if m = 2 ^ l then Num.ofInt k
      else
        let v : Int := k * (2 ^ fixBits : Nat) + log2Fix (m * 2 ^ fixBits / 2 ^ l)
        .fin (decide (v < 0)) v.natAbs (-(fixBits : Int)) true

/-! ### Order (08 R196) -/

/-- The place of a floating encoding of `w` bits in totalOrder. -/
def totalKey (w bits : Nat) : Int :=
  if bits / 2 ^ (w - 1) % 2 = 1 then -1 - (bits % 2 ^ (w - 1) : Nat) else (bits % 2 ^ (w - 1) : Nat)

/-- The place of an element of a vector type in its order (08 R196). -/
def orderKey (ty : VTy) (bits : Nat) : Int :=
  if ty.isFloat then totalKey (8 * ty.width) bits else intOf (8 * ty.width) bits

/-! ### Conversions of vector elements (08 R193, R194) -/

/-- The exact value of a vector element (08 R184). -/
def elemValue (ty : VTy) (bits : Nat) : Num :=
  match fmtOf ty with
  | some f => f.value bits
  | none => Num.ofInt (intOf (8 * ty.width) bits)

/-- The encoding of an exact value in a vector type (08 Table 8.6). -/
def elemRound (ty : VTy) (rnd L : Nat) (nanMode : Bool) (x : Num) : Nat :=
  match fmtOf ty with
  | some f => f.round rnd L nanMode x
  | none => bitsOfInt (8 * ty.width) (roundInt (8 * ty.width) rnd L x)

/-! ### Lanes (08 R184, 12 R259) -/

/-- The number of lanes of a type. -/
def lanesOf (ty : VTy) : Nat := 256 / ty.width

/-- Lane `i` of a register, for a lane width in bytes. -/
def lane (w : Nat) (v : Vec) (i : Nat) : Nat := v.toNat / 2 ^ (8 * w * i) % 2 ^ (8 * w)

/-- The number whose lanes are the list's, lane 0 first. -/
def packLanes (w : Nat) : List Nat → Nat
  | [] => 0
  | x :: xs => x % 2 ^ (8 * w) + 2 ^ (8 * w) * packLanes w xs

/-- A register from its lanes. -/
def vecOfLanes (w : Nat) (xs : List Nat) : Vec := BitVec.ofNat 2048 (packLanes w xs)

/-- Lane `i` of width `w` bytes is active (12 R260). -/
def laneActive (p : Pred) (w i : Nat) : Bool := p.getLsbD (w * i)

/-- The byte mask of the active lanes of a width (12 R260). -/
def laneMask (p : Pred) (w : Nat) : Pred :=
  BitVec.ofNat 256 (packBits ((List.range 256).map fun b => p.getLsbD (b / w * w)))
where
  /-- The number whose bits are the list's, bit 0 first. -/
  packBits : List Bool → Nat
    | [] => 0
    | b :: bs => (if b then 1 else 0) + 2 * packBits bs

/-- Merges the bytes of `x` that the mask holds into `old` (07 R172, 12 R261). -/
def mergeBytes (old x : Vec) (mask : Pred) : Vec :=
  vecOfLanes 1 ((List.range 256).map fun b => if mask.getLsbD b then lane 1 x b else lane 1 old b)

end Sys2Proof.Machine
end

