-- ==== Sys2Proof/Decode.lean ====
section
/-! DEFINITION. The decoder of instruction words (07 R153-R161) and, after it, the encoder, written from the formats of
07 Tables 7.1-7.4 and the opcode maps of Tables 7.5-7.8. -/

namespace Sys2Proof

/-- Why a word is no instruction, by the kind of its group-0 cause (07 Table 7.10). -/
inductive Reject where
  | unassigned | reserved | range | pastFile
  deriving DecidableEq, Repr

/-- The kind of the cause (07 Table 7.10). -/
def Reject.kind : Reject → Nat
  | .unassigned => 0 | .reserved => 1 | .range => 2 | .pastFile => 3

/-- A word's fields as read, whether its zero fields are zero, and whether its raw fields are in range. -/
structure Parsed (α : Type) where
  val : α
  zero : Bool
  range : Bool

/-- The element type of a code (08 Table 8.2). -/
def VTy.ofBits (b : BitVec 3) : VTy :=
  match b.toNat with
  | 0 => .fp32 | 1 => .bf16 | 2 => .fp16 | 3 => .e4m3 | 4 => .e5m2 | 5 => .i32 | 6 => .i16 | _ => .i8

/-- The code of an element type (08 Table 8.2). -/
def VTy.bits : VTy → BitVec 3
  | .fp32 => 0 | .bf16 => 1 | .fp16 => 2 | .e4m3 => 3 | .e5m2 => 4 | .i32 => 5 | .i16 => 6 | .i8 => 7

/-- One bit. -/
def bit (b : Bool) : BitVec 1 := if b then 1 else 0

/-- The ordering fields of an L or W word (07 Table 7.3). -/
def ordOf (f : BitVec 35) : Ord := { stream := f.extractLsb' 32 3, mask := f.extractLsb' 24 8 }

/-- The format fields of S0 and back. -/
def S0.bits (_ : S0) : BitVec 35 := 0#35
/-- Reads the fields of S0 and checks its zero fields and its raw ranges. -/
def S0.read (sy : Sync) (f : BitVec 35) : Parsed S0 where
  val := { sy := sy }
  zero := f.extractLsb' 0 35 == 0
  range := true

/-- The format fields of SRrr and back. -/
def SRrr.bits (a : SRrr) : BitVec 35 := a.rd ++ a.ra ++ a.rb ++ 0#20
/-- Reads the fields of SRrr and checks its zero fields and its raw ranges. -/
def SRrr.read (sy : Sync) (f : BitVec 35) : Parsed SRrr where
  val := { sy := sy, rd := f.extractLsb' 30 5, ra := f.extractLsb' 25 5, rb := f.extractLsb' 20 5 }
  zero := f.extractLsb' 0 20 == 0
  range := true

/-- The format fields of SRr and back. -/
def SRr.bits (a : SRr) : BitVec 35 := a.rd ++ a.ra ++ 0#25
/-- Reads the fields of SRr and checks its zero fields and its raw ranges. -/
def SRr.read (sy : Sync) (f : BitVec 35) : Parsed SRr where
  val := { sy := sy, rd := f.extractLsb' 30 5, ra := f.extractLsb' 25 5 }
  zero := f.extractLsb' 0 25 == 0
  range := true

/-- The format fields of SRa and back. -/
def SRa.bits (a : SRa) : BitVec 35 := 0#5 ++ a.ra ++ 0#25
/-- Reads the fields of SRa and checks its zero fields and its raw ranges. -/
def SRa.read (sy : Sync) (f : BitVec 35) : Parsed SRa where
  val := { sy := sy, ra := f.extractLsb' 25 5 }
  zero := f.extractLsb' 30 5 == 0 && f.extractLsb' 0 25 == 0
  range := true

/-- The format fields of SImm and back. -/
def SImm.bits (a : SImm) : BitVec 35 := a.rd ++ a.ra ++ a.imm
/-- Reads the fields of SImm and checks its zero fields and its raw ranges. -/
def SImm.read (sy : Sync) (f : BitVec 35) : Parsed SImm where
  val := { sy := sy, rd := f.extractLsb' 30 5, ra := f.extractLsb' 25 5, imm := f.extractLsb' 0 25 }
  zero := true
  range := true

/-- The format fields of SShift and back. -/
def SShift.bits (a : SShift) : BitVec 35 := a.rd ++ a.ra ++ 0#19 ++ a.sh
/-- Reads the fields of SShift and checks its zero fields and its raw ranges. -/
def SShift.read (sy : Sync) (f : BitVec 35) : Parsed SShift where
  val := { sy := sy, rd := f.extractLsb' 30 5, ra := f.extractLsb' 25 5, sh := f.extractLsb' 0 6 }
  zero := f.extractLsb' 6 19 == 0
  range := true

/-- The format fields of SLi and back. -/
def SLi.bits (a : SLi) : BitVec 35 := a.rd ++ a.imm
/-- Reads the fields of SLi and checks its zero fields and its raw ranges. -/
def SLi.read (sy : Sync) (f : BitVec 35) : Parsed SLi where
  val := { sy := sy, rd := f.extractLsb' 30 5, imm := f.extractLsb' 0 30 }
  zero := true
  range := true

/-- The format fields of SBr and back. -/
def SBr.bits (a : SBr) : BitVec 35 := a.ra ++ a.rb ++ a.off
/-- Reads the fields of SBr and checks its zero fields and its raw ranges. -/
def SBr.read (sy : Sync) (f : BitVec 35) : Parsed SBr where
  val := { sy := sy, ra := f.extractLsb' 30 5, rb := f.extractLsb' 25 5, off := f.extractLsb' 0 25 }
  zero := true
  range := true

/-- The format fields of SJal and back. -/
def SJal.bits (a : SJal) : BitVec 35 := a.rd ++ a.off
/-- Reads the fields of SJal and checks its zero fields and its raw ranges. -/
def SJal.read (sy : Sync) (f : BitVec 35) : Parsed SJal where
  val := { sy := sy, rd := f.extractLsb' 30 5, off := f.extractLsb' 0 30 }
  zero := true
  range := true

/-- The format fields of SLoop and back. -/
def SLoop.bits (a : SLoop) : BitVec 35 := a.counter ++ 0#2 ++ a.m ++ a.off
/-- Reads the fields of SLoop and checks its zero fields and its raw ranges. -/
def SLoop.read (sy : Sync) (f : BitVec 35) : Parsed SLoop where
  val := { sy := sy, counter := f.extractLsb' 30 5, m := f.extractLsb' 26 2, off := f.extractLsb' 0 26 }
  zero := f.extractLsb' 28 2 == 0
  range := true

/-- The format fields of SCrd and back. -/
def SCrd.bits (a : SCrd) : BitVec 35 := a.rd ++ 0#5 ++ a.cr ++ 0#12
/-- Reads the fields of SCrd and checks its zero fields and its raw ranges. -/
def SCrd.read (sy : Sync) (f : BitVec 35) : Parsed SCrd where
  val := { sy := sy, rd := f.extractLsb' 30 5, cr := f.extractLsb' 12 13 }
  zero := f.extractLsb' 25 5 == 0 && f.extractLsb' 0 12 == 0
  range := true

/-- The format fields of SCwr and back. -/
def SCwr.bits (a : SCwr) : BitVec 35 := 0#5 ++ a.ra ++ a.cr ++ 0#12
/-- Reads the fields of SCwr and checks its zero fields and its raw ranges. -/
def SCwr.read (sy : Sync) (f : BitVec 35) : Parsed SCwr where
  val := { sy := sy, ra := f.extractLsb' 25 5, cr := f.extractLsb' 12 13 }
  zero := f.extractLsb' 30 5 == 0 && f.extractLsb' 0 12 == 0
  range := true

/-- The format fields of STrap and back. -/
def STrap.bits (a : STrap) : BitVec 35 := 0#10 ++ a.imm
/-- Reads the fields of STrap and checks its zero fields and its raw ranges. -/
def STrap.read (sy : Sync) (f : BitVec 35) : Parsed STrap where
  val := { sy := sy, imm := f.extractLsb' 0 25 }
  zero := f.extractLsb' 25 10 == 0
  range := true

/-- The format fields of SWait and back. -/
def SWait.bits (a : SWait) : BitVec 35 := a.rd ++ a.ra ++ 0#20 ++ a.mask
/-- Reads the fields of SWait and checks its zero fields and its raw ranges. -/
def SWait.read (sy : Sync) (f : BitVec 35) : Parsed SWait where
  val := { sy := sy, rd := f.extractLsb' 30 5, ra := f.extractLsb' 25 5, mask := f.extractLsb' 0 5 }
  zero := f.extractLsb' 5 20 == 0
  range := true

/-- The format fields of SXlate and back. -/
def SXlate.bits (a : SXlate) : BitVec 35 := a.hd ++ a.ra ++ 0#1 ++ a.rights ++ 0#23
/-- Reads the fields of SXlate and checks its zero fields and its raw ranges. -/
def SXlate.read (sy : Sync) (f : BitVec 35) : Parsed SXlate where
  val := { sy := sy, hd := f.extractLsb' 31 4, ra := f.extractLsb' 26 5, rights := f.extractLsb' 23 2 }
  zero := f.extractLsb' 25 1 == 0 && f.extractLsb' 0 23 == 0
  range := true

/-- The format fields of SHlocal and back. -/
def SHlocal.bits (a : SHlocal) : BitVec 35 := a.hd ++ a.base ++ a.ext ++ 0#1 ++ a.win ++ 0#18
/-- Reads the fields of SHlocal and checks its zero fields and its raw ranges. -/
def SHlocal.read (sy : Sync) (f : BitVec 35) : Parsed SHlocal where
  val := { sy := sy, hd := f.extractLsb' 31 4, base := f.extractLsb' 26 5, ext := f.extractLsb' 21 5, win := f.extractLsb' 18 2 }
  zero := f.extractLsb' 0 18 == 0
  range := f.extractLsb' 20 1 == 0

/-- The format fields of SHinv and back. -/
def SHinv.bits (a : SHinv) : BitVec 35 := a.hd ++ 0#31
/-- Reads the fields of SHinv and checks its zero fields and its raw ranges. -/
def SHinv.read (sy : Sync) (f : BitVec 35) : Parsed SHinv where
  val := { sy := sy, hd := f.extractLsb' 31 4 }
  zero := f.extractLsb' 0 31 == 0
  range := true

/-- The format fields of SHget and back. -/
def SHget.bits (a : SHget) : BitVec 35 := a.rd ++ a.hd ++ a.word ++ 0#25
/-- Reads the fields of SHget and checks its zero fields and its raw ranges. -/
def SHget.read (sy : Sync) (f : BitVec 35) : Parsed SHget where
  val := { sy := sy, rd := f.extractLsb' 30 5, hd := f.extractLsb' 26 4, word := f.extractLsb' 25 1 }
  zero := f.extractLsb' 0 25 == 0
  range := true

/-- The format fields of SYfield and back. -/
def SYfield.bits (a : SYfield) : BitVec 35 := a.y ++ a.field ++ a.s ++ 0#22
/-- Reads the fields of SYfield and checks its zero fields and its raw ranges. -/
def SYfield.read (sy : Sync) (f : BitVec 35) : Parsed SYfield where
  val := { sy := sy, y := f.extractLsb' 32 3, field := f.extractLsb' 27 5, s := f.extractLsb' 22 5 }
  zero := f.extractLsb' 0 22 == 0
  range := true

/-- The format fields of SYclr and back. -/
def SYclr.bits (a : SYclr) : BitVec 35 := a.y ++ 0#32
/-- Reads the fields of SYclr and checks its zero fields and its raw ranges. -/
def SYclr.read (sy : Sync) (f : BitVec 35) : Parsed SYclr where
  val := { sy := sy, y := f.extractLsb' 32 3 }
  zero := f.extractLsb' 0 32 == 0
  range := true

/-- The format fields of SFpushi and back. -/
def SFpushi.bits (a : SFpushi) : BitVec 35 := 0#5 ++ a.imm
/-- Reads the fields of SFpushi and checks its zero fields and its raw ranges. -/
def SFpushi.read (sy : Sync) (f : BitVec 35) : Parsed SFpushi where
  val := { sy := sy, imm := f.extractLsb' 0 30 }
  zero := f.extractLsb' 30 5 == 0
  range := true

/-- The format fields of MemS and back. -/
def MemS.bits (a : MemS) : BitVec 35 := a.od.stream ++ a.od.mask ++ 0#1 ++ a.reg ++ a.h ++ a.idx ++ a.rep ++ a.step
/-- Reads the fields of MemS and checks its zero fields and its raw ranges. -/
def MemS.read (sy : Sync) (f : BitVec 35) : Parsed MemS where
  val := { sy := sy, od := ordOf f, reg := f.extractLsb' 18 5, h := f.extractLsb' 14 4, idx := f.extractLsb' 9 5, rep := f.extractLsb' 4 5, step := f.extractLsb' 0 4 }
  zero := f.extractLsb' 23 1 == 0
  range := true

/-- The format fields of MemV and back. -/
def MemV.bits (a : MemV) : BitVec 35 := a.od.stream ++ a.od.mask ++ a.reg ++ a.h ++ a.idx ++ a.rep ++ a.step
/-- Reads the fields of MemV and checks its zero fields and its raw ranges. -/
def MemV.read (sy : Sync) (f : BitVec 35) : Parsed MemV where
  val := { sy := sy, od := ordOf f, reg := f.extractLsb' 18 6, h := f.extractLsb' 14 4, idx := f.extractLsb' 9 5, rep := f.extractLsb' 4 5, step := f.extractLsb' 0 4 }
  zero := true
  range := true

/-- The format fields of Atom and back. -/
def Atom.bits (a : Atom) : BitVec 35 := a.od.stream ++ a.od.mask ++ 0#1 ++ a.res ++ a.h ++ a.idx ++ a.opnd ++ a.scope ++ 0#1
/-- Reads the fields of Atom and checks its zero fields and its raw ranges. -/
def Atom.read (sy : Sync) (f : BitVec 35) : Parsed Atom where
  val := { sy := sy, od := ordOf f, res := f.extractLsb' 18 5, h := f.extractLsb' 14 4, idx := f.extractLsb' 9 5, opnd := f.extractLsb' 4 5, scope := f.extractLsb' 1 3 }
  zero := f.extractLsb' 23 1 == 0 && f.extractLsb' 0 1 == 0
  range := true

/-- The format fields of AtomN and back. -/
def AtomN.bits (a : AtomN) : BitVec 35 := a.od.stream ++ a.od.mask ++ 0#6 ++ a.h ++ a.idx ++ a.opnd ++ a.scope ++ 0#1
/-- Reads the fields of AtomN and checks its zero fields and its raw ranges. -/
def AtomN.read (sy : Sync) (f : BitVec 35) : Parsed AtomN where
  val := { sy := sy, od := ordOf f, h := f.extractLsb' 14 4, idx := f.extractLsb' 9 5, opnd := f.extractLsb' 4 5, scope := f.extractLsb' 1 3 }
  zero := f.extractLsb' 18 6 == 0 && f.extractLsb' 0 1 == 0
  range := true

/-- The format fields of PageR and back. -/
def PageR.bits (a : PageR) : BitVec 35 := a.od.stream ++ a.od.mask ++ 0#6 ++ a.h ++ a.idx ++ a.opnd ++ 0#4
/-- Reads the fields of PageR and checks its zero fields and its raw ranges. -/
def PageR.read (sy : Sync) (f : BitVec 35) : Parsed PageR where
  val := { sy := sy, od := ordOf f, h := f.extractLsb' 14 4, idx := f.extractLsb' 9 5, opnd := f.extractLsb' 4 5 }
  zero := f.extractLsb' 18 6 == 0 && f.extractLsb' 0 4 == 0
  range := true

/-- The format fields of PageP and back. -/
def PageP.bits (a : PageP) : BitVec 35 := a.od.stream ++ a.od.mask ++ 0#1 ++ a.res ++ a.h ++ 0#5 ++ a.opnd ++ 0#4
/-- Reads the fields of PageP and checks its zero fields and its raw ranges. -/
def PageP.read (sy : Sync) (f : BitVec 35) : Parsed PageP where
  val := { sy := sy, od := ordOf f, res := f.extractLsb' 18 5, h := f.extractLsb' 14 4, opnd := f.extractLsb' 4 5 }
  zero := f.extractLsb' 23 1 == 0 && f.extractLsb' 9 5 == 0 && f.extractLsb' 0 4 == 0
  range := true

/-- The format fields of SlotOp and back. -/
def SlotOp.bits (a : SlotOp) : BitVec 35 := a.od.stream ++ a.od.mask ++ 0#1 ++ a.res ++ a.h ++ a.idx ++ a.opnd ++ 0#4
/-- Reads the fields of SlotOp and checks its zero fields and its raw ranges. -/
def SlotOp.read (sy : Sync) (f : BitVec 35) : Parsed SlotOp where
  val := { sy := sy, od := ordOf f, res := f.extractLsb' 18 5, h := f.extractLsb' 14 4, idx := f.extractLsb' 9 5, opnd := f.extractLsb' 4 5 }
  zero := f.extractLsb' 23 1 == 0 && f.extractLsb' 0 4 == 0
  range := true

/-- The format fields of CopyW and back. -/
def CopyW.bits (a : CopyW) : BitVec 35 := a.od.stream ++ a.od.mask ++ a.y ++ a.h ++ a.loc ++ a.org ++ a.mc ++ 0#1 ++ a.lvl
/-- Reads the fields of CopyW and checks its zero fields and its raw ranges. -/
def CopyW.read (sy : Sync) (f : BitVec 35) : Parsed CopyW where
  val := { sy := sy, od := ordOf f, y := f.extractLsb' 21 3, h := f.extractLsb' 17 4, loc := f.extractLsb' 12 5, org := f.extractLsb' 7 5, mc := f.extractLsb' 2 5, lvl := f.extractLsb' 0 1 }
  zero := true
  range := f.extractLsb' 1 1 == 0

/-- The format fields of GatherW and back. -/
def GatherW.bits (a : GatherW) : BitVec 35 := a.od.stream ++ a.od.mask ++ a.vi ++ a.h ++ a.y ++ a.loc ++ a.cnt ++ 0#1
/-- Reads the fields of GatherW and checks its zero fields and its raw ranges. -/
def GatherW.read (sy : Sync) (f : BitVec 35) : Parsed GatherW where
  val := { sy := sy, od := ordOf f, vi := f.extractLsb' 18 6, h := f.extractLsb' 14 4, y := f.extractLsb' 11 3, loc := f.extractLsb' 6 5, cnt := f.extractLsb' 1 5 }
  zero := f.extractLsb' 0 1 == 0
  range := true

/-- The format fields of CLocal and back. -/
def CLocal.bits (a : CLocal) : BitVec 35 := a.v ++ a.sa ++ a.off ++ a.rep ++ a.step ++ 0#5
/-- Reads the fields of CLocal and checks its zero fields and its raw ranges. -/
def CLocal.read (sy : Sync) (f : BitVec 35) : Parsed CLocal where
  val := { sy := sy, v := f.extractLsb' 29 6, sa := f.extractLsb' 24 5, off := f.extractLsb' 14 10, rep := f.extractLsb' 9 5, step := f.extractLsb' 5 4 }
  zero := f.extractLsb' 0 5 == 0
  range := true

/-- The format fields of CBin and back. -/
def CBin.bits (a : CBin) : BitVec 35 := a.vd ++ a.va ++ a.vb ++ a.pr ++ a.ty.bits ++ a.rep ++ a.md
/-- Reads the fields of CBin and checks its zero fields and its raw ranges. -/
def CBin.read (sy : Sync) (f : BitVec 35) : Parsed CBin where
  val := { sy := sy, vd := f.extractLsb' 29 6, va := f.extractLsb' 23 6, vb := f.extractLsb' 17 6, pr := f.extractLsb' 13 4, ty := VTy.ofBits (f.extractLsb' 10 3), rep := f.extractLsb' 5 5, md := f.extractLsb' 0 5 }
  zero := true
  range := true

/-- The format fields of CUn and back. -/
def CUn.bits (a : CUn) : BitVec 35 := a.vd ++ a.va ++ 0#6 ++ a.pr ++ a.ty.bits ++ a.rep ++ a.md
/-- Reads the fields of CUn and checks its zero fields and its raw ranges. -/
def CUn.read (sy : Sync) (f : BitVec 35) : Parsed CUn where
  val := { sy := sy, vd := f.extractLsb' 29 6, va := f.extractLsb' 23 6, pr := f.extractLsb' 13 4, ty := VTy.ofBits (f.extractLsb' 10 3), rep := f.extractLsb' 5 5, md := f.extractLsb' 0 5 }
  zero := f.extractLsb' 17 6 == 0
  range := true

/-- The format fields of CCvt and back. -/
def CCvt.bits (a : CCvt) : BitVec 35 := a.vd ++ a.va ++ 0#3 ++ a.src.bits ++ a.pr ++ a.ty.bits ++ a.rep ++ 0#1 ++ bit a.nan ++ a.rnd
/-- Reads the fields of CCvt and checks its zero fields and its raw ranges. -/
def CCvt.read (sy : Sync) (f : BitVec 35) : Parsed CCvt where
  val := { sy := sy, vd := f.extractLsb' 29 6, va := f.extractLsb' 23 6, src := VTy.ofBits (f.extractLsb' 17 3), pr := f.extractLsb' 13 4, ty := VTy.ofBits (f.extractLsb' 10 3), rep := f.extractLsb' 5 5, nan := f.extractLsb' 3 1 == 1, rnd := f.extractLsb' 0 3 }
  zero := f.extractLsb' 20 3 == 0 && f.extractLsb' 4 1 == 0
  range := true

/-- The format fields of CQnt and back. -/
def CQnt.bits (a : CQnt) : BitVec 35 := a.vd ++ a.va ++ a.vb ++ 0#1 ++ a.elem ++ 0#3 ++ a.rep ++ bit a.nx ++ bit a.nan ++ 0#3
/-- Reads the fields of CQnt and checks its zero fields and its raw ranges. -/
def CQnt.read (sy : Sync) (f : BitVec 35) : Parsed CQnt where
  val := { sy := sy, vd := f.extractLsb' 29 6, va := f.extractLsb' 23 6, vb := f.extractLsb' 17 6, elem := f.extractLsb' 13 3, rep := f.extractLsb' 5 5, nx := f.extractLsb' 4 1 == 1, nan := f.extractLsb' 3 1 == 1 }
  zero := true
  range := f.extractLsb' 16 1 == 0 && f.extractLsb' 10 3 == 0 && f.extractLsb' 0 3 == 0

/-- The format fields of CDqnt and back. -/
def CDqnt.bits (a : CDqnt) : BitVec 35 := a.vd ++ a.va ++ a.vb ++ 0#1 ++ a.elem ++ 0#3 ++ a.rep ++ bit a.nx ++ 0#1 ++ 0#3
/-- Reads the fields of CDqnt and checks its zero fields and its raw ranges. -/
def CDqnt.read (sy : Sync) (f : BitVec 35) : Parsed CDqnt where
  val := { sy := sy, vd := f.extractLsb' 29 6, va := f.extractLsb' 23 6, vb := f.extractLsb' 17 6, elem := f.extractLsb' 13 3, rep := f.extractLsb' 5 5, nx := f.extractLsb' 4 1 == 1 }
  zero := f.extractLsb' 3 1 == 0
  range := f.extractLsb' 16 1 == 0 && f.extractLsb' 10 3 == 0 && f.extractLsb' 0 3 == 0

/-- The format fields of CCmp and back. -/
def CCmp.bits (a : CCmp) : BitVec 35 := 0#2 ++ a.pd ++ a.va ++ a.vb ++ a.pr ++ a.ty.bits ++ a.rep ++ 0#2 ++ a.rel
/-- Reads the fields of CCmp and checks its zero fields and its raw ranges. -/
def CCmp.read (sy : Sync) (f : BitVec 35) : Parsed CCmp where
  val := { sy := sy, pd := f.extractLsb' 29 4, va := f.extractLsb' 23 6, vb := f.extractLsb' 17 6, pr := f.extractLsb' 13 4, ty := VTy.ofBits (f.extractLsb' 10 3), rep := f.extractLsb' 5 5, rel := f.extractLsb' 0 3 }
  zero := f.extractLsb' 3 2 == 0
  range := f.extractLsb' 33 2 == 0

/-- The format fields of CTri and back. -/
def CTri.bits (a : CTri) : BitVec 35 := a.vd ++ a.va ++ a.vb ++ a.pr ++ a.ty.bits ++ a.rep ++ 0#5
/-- Reads the fields of CTri and checks its zero fields and its raw ranges. -/
def CTri.read (sy : Sync) (f : BitVec 35) : Parsed CTri where
  val := { sy := sy, vd := f.extractLsb' 29 6, va := f.extractLsb' 23 6, vb := f.extractLsb' 17 6, pr := f.extractLsb' 13 4, ty := VTy.ofBits (f.extractLsb' 10 3), rep := f.extractLsb' 5 5 }
  zero := f.extractLsb' 0 5 == 0
  range := true

/-- The format fields of CMov and back. -/
def CMov.bits (a : CMov) : BitVec 35 := a.vd ++ a.va ++ 0#6 ++ a.pr ++ a.ty.bits ++ a.rep ++ 0#5
/-- Reads the fields of CMov and checks its zero fields and its raw ranges. -/
def CMov.read (sy : Sync) (f : BitVec 35) : Parsed CMov where
  val := { sy := sy, vd := f.extractLsb' 29 6, va := f.extractLsb' 23 6, pr := f.extractLsb' 13 4, ty := VTy.ofBits (f.extractLsb' 10 3), rep := f.extractLsb' 5 5 }
  zero := f.extractLsb' 17 6 == 0 && f.extractLsb' 0 5 == 0
  range := true

/-- The format fields of CMovi and back. -/
def CMovi.bits (a : CMovi) : BitVec 35 := a.vd ++ a.imm ++ a.ty.bits ++ a.rep ++ 0#5
/-- Reads the fields of CMovi and checks its zero fields and its raw ranges. -/
def CMovi.read (sy : Sync) (f : BitVec 35) : Parsed CMovi where
  val := { sy := sy, vd := f.extractLsb' 29 6, imm := f.extractLsb' 13 16, ty := VTy.ofBits (f.extractLsb' 10 3), rep := f.extractLsb' 5 5 }
  zero := f.extractLsb' 0 5 == 0
  range := true

/-- The format fields of CFroms and back. -/
def CFroms.bits (a : CFroms) : BitVec 35 := a.vd ++ 0#1 ++ a.sa ++ 0#6 ++ a.pr ++ a.ty.bits ++ a.rep ++ 0#5
/-- Reads the fields of CFroms and checks its zero fields and its raw ranges. -/
def CFroms.read (sy : Sync) (f : BitVec 35) : Parsed CFroms where
  val := { sy := sy, vd := f.extractLsb' 29 6, sa := f.extractLsb' 23 5, pr := f.extractLsb' 13 4, ty := VTy.ofBits (f.extractLsb' 10 3), rep := f.extractLsb' 5 5 }
  zero := f.extractLsb' 17 6 == 0 && f.extractLsb' 0 5 == 0
  range := f.extractLsb' 28 1 == 0

/-- The format fields of CTos and back. -/
def CTos.bits (a : CTos) : BitVec 35 := 0#1 ++ a.sd ++ a.va ++ 0#1 ++ a.sl ++ 0#4 ++ a.ty.bits ++ 0#5 ++ 0#5
/-- Reads the fields of CTos and checks its zero fields and its raw ranges. -/
def CTos.read (sy : Sync) (f : BitVec 35) : Parsed CTos where
  val := { sy := sy, sd := f.extractLsb' 29 5, va := f.extractLsb' 23 6, sl := f.extractLsb' 17 5, ty := VTy.ofBits (f.extractLsb' 10 3) }
  zero := f.extractLsb' 13 4 == 0 && f.extractLsb' 5 5 == 0 && f.extractLsb' 0 5 == 0
  range := f.extractLsb' 34 1 == 0 && f.extractLsb' 22 1 == 0

/-- The format fields of CSlide and back. -/
def CSlide.bits (a : CSlide) : BitVec 35 := a.vd ++ a.va ++ 0#1 ++ a.sk ++ a.pr ++ a.ty.bits ++ a.rep ++ 0#5
/-- Reads the fields of CSlide and checks its zero fields and its raw ranges. -/
def CSlide.read (sy : Sync) (f : BitVec 35) : Parsed CSlide where
  val := { sy := sy, vd := f.extractLsb' 29 6, va := f.extractLsb' 23 6, sk := f.extractLsb' 17 5, pr := f.extractLsb' 13 4, ty := VTy.ofBits (f.extractLsb' 10 3), rep := f.extractLsb' 5 5 }
  zero := f.extractLsb' 0 5 == 0
  range := f.extractLsb' 22 1 == 0

/-- The format fields of CIota and back. -/
def CIota.bits (a : CIota) : BitVec 35 := a.vd ++ 0#12 ++ a.pr ++ a.ty.bits ++ a.rep ++ 0#5
/-- Reads the fields of CIota and checks its zero fields and its raw ranges. -/
def CIota.read (sy : Sync) (f : BitVec 35) : Parsed CIota where
  val := { sy := sy, vd := f.extractLsb' 29 6, pr := f.extractLsb' 13 4, ty := VTy.ofBits (f.extractLsb' 10 3), rep := f.extractLsb' 5 5 }
  zero := f.extractLsb' 17 12 == 0 && f.extractLsb' 0 5 == 0
  range := true

/-- The format fields of PBin and back. -/
def PBin.bits (a : PBin) : BitVec 35 := 0#2 ++ a.pd ++ 0#2 ++ a.pa ++ 0#2 ++ a.pb ++ a.pr ++ a.ty.bits ++ a.rep ++ 0#5
/-- Reads the fields of PBin and checks its zero fields and its raw ranges. -/
def PBin.read (sy : Sync) (f : BitVec 35) : Parsed PBin where
  val := { sy := sy, pd := f.extractLsb' 29 4, pa := f.extractLsb' 23 4, pb := f.extractLsb' 17 4, pr := f.extractLsb' 13 4, ty := VTy.ofBits (f.extractLsb' 10 3), rep := f.extractLsb' 5 5 }
  zero := f.extractLsb' 0 5 == 0
  range := f.extractLsb' 33 2 == 0 && f.extractLsb' 27 2 == 0 && f.extractLsb' 21 2 == 0

/-- The format fields of PUn and back. -/
def PUn.bits (a : PUn) : BitVec 35 := 0#2 ++ a.pd ++ 0#2 ++ a.pa ++ 0#6 ++ a.pr ++ a.ty.bits ++ a.rep ++ 0#5
/-- Reads the fields of PUn and checks its zero fields and its raw ranges. -/
def PUn.read (sy : Sync) (f : BitVec 35) : Parsed PUn where
  val := { sy := sy, pd := f.extractLsb' 29 4, pa := f.extractLsb' 23 4, pr := f.extractLsb' 13 4, ty := VTy.ofBits (f.extractLsb' 10 3), rep := f.extractLsb' 5 5 }
  zero := f.extractLsb' 17 6 == 0 && f.extractLsb' 0 5 == 0
  range := f.extractLsb' 33 2 == 0 && f.extractLsb' 27 2 == 0

/-- The format fields of PSetW and back. -/
def PSetW.bits (a : PSetW) : BitVec 35 := 0#2 ++ a.pd ++ 0#6 ++ 0#1 ++ a.sk ++ a.pr ++ a.ty.bits ++ a.rep ++ 0#5
/-- Reads the fields of PSetW and checks its zero fields and its raw ranges. -/
def PSetW.read (sy : Sync) (f : BitVec 35) : Parsed PSetW where
  val := { sy := sy, pd := f.extractLsb' 29 4, sk := f.extractLsb' 17 5, pr := f.extractLsb' 13 4, ty := VTy.ofBits (f.extractLsb' 10 3), rep := f.extractLsb' 5 5 }
  zero := f.extractLsb' 23 6 == 0 && f.extractLsb' 0 5 == 0
  range := f.extractLsb' 33 2 == 0 && f.extractLsb' 22 1 == 0

/-- The format fields of Rbset and back. -/
def Rbset.bits (a : Rbset) : BitVec 35 := 0#6 ++ 0#5 ++ a.p ++ 0#2 ++ a.v ++ 0#3 ++ 0#5 ++ 0#5
/-- Reads the fields of Rbset and checks its zero fields and its raw ranges. -/
def Rbset.read (sy : Sync) (f : BitVec 35) : Parsed Rbset where
  val := { sy := sy, p := f.extractLsb' 21 3, v := f.extractLsb' 13 6 }
  zero := f.extractLsb' 29 6 == 0 && f.extractLsb' 24 5 == 0 && f.extractLsb' 19 2 == 0 && f.extractLsb' 10 3 == 0 && f.extractLsb' 5 5 == 0 && f.extractLsb' 0 5 == 0
  range := true

/-- The format fields of SlackW and back. -/
def SlackW.bits (a : SlackW) : BitVec 35 := 0#6 ++ 0#8 ++ a.n ++ 0#3 ++ 0#5 ++ 0#5
/-- Reads the fields of SlackW and checks its zero fields and its raw ranges. -/
def SlackW.read (sy : Sync) (f : BitVec 35) : Parsed SlackW where
  val := { sy := sy, n := f.extractLsb' 13 8 }
  zero := f.extractLsb' 29 6 == 0 && f.extractLsb' 10 3 == 0 && f.extractLsb' 5 5 == 0 && f.extractLsb' 0 5 == 0
  range := f.extractLsb' 21 8 == 0

/-- The format fields of MmaW and back. -/
def MmaW.bits (a : MmaW) : BitVec 35 := a.acc ++ a.sa ++ a.sb ++ a.n ++ 0#18
/-- Reads the fields of MmaW and checks its zero fields and its raw ranges. -/
def MmaW.read (sy : Sync) (f : BitVec 35) : Parsed MmaW where
  val := { sy := sy, acc := f.extractLsb' 33 2, sa := f.extractLsb' 28 5, sb := f.extractLsb' 23 5, n := f.extractLsb' 18 5 }
  zero := f.extractLsb' 0 18 == 0
  range := true

/-- The format fields of AclrW and back. -/
def AclrW.bits (a : AclrW) : BitVec 35 := a.acc ++ 0#33
/-- Reads the fields of AclrW and checks its zero fields and its raw ranges. -/
def AclrW.read (sy : Sync) (f : BitVec 35) : Parsed AclrW where
  val := { sy := sy, acc := f.extractLsb' 33 2 }
  zero := f.extractLsb' 0 33 == 0
  range := true

/-- The format fields of ArdW and back. -/
def ArdW.bits (a : ArdW) : BitVec 35 := a.acc ++ a.v ++ a.row ++ a.ty.bits ++ a.rows ++ a.rnd ++ 0#9
/-- Reads the fields of ArdW and checks its zero fields and its raw ranges. -/
def ArdW.read (sy : Sync) (f : BitVec 35) : Parsed ArdW where
  val := { sy := sy, acc := f.extractLsb' 33 2, v := f.extractLsb' 27 6, row := f.extractLsb' 20 7, ty := VTy.ofBits (f.extractLsb' 17 3), rows := f.extractLsb' 12 5, rnd := f.extractLsb' 9 3 }
  zero := f.extractLsb' 0 9 == 0
  range := true

/-- The format fields of AwrW and back. -/
def AwrW.bits (a : AwrW) : BitVec 35 := a.acc ++ a.v ++ a.row ++ a.ty.bits ++ a.rows ++ 0#3 ++ 0#9
/-- Reads the fields of AwrW and checks its zero fields and its raw ranges. -/
def AwrW.read (sy : Sync) (f : BitVec 35) : Parsed AwrW where
  val := { sy := sy, acc := f.extractLsb' 33 2, v := f.extractLsb' 27 6, row := f.extractLsb' 20 7, ty := VTy.ofBits (f.extractLsb' 17 3), rows := f.extractLsb' 12 5 }
  zero := f.extractLsb' 9 3 == 0 && f.extractLsb' 0 9 == 0
  range := true

/-- The format fields of AstsW and back. -/
def AstsW.bits (a : AstsW) : BitVec 35 := a.acc ++ a.sa ++ a.ty.bits ++ a.rnd ++ 0#22
/-- Reads the fields of AstsW and checks its zero fields and its raw ranges. -/
def AstsW.read (sy : Sync) (f : BitVec 35) : Parsed AstsW where
  val := { sy := sy, acc := f.extractLsb' 33 2, sa := f.extractLsb' 28 5, ty := VTy.ofBits (f.extractLsb' 25 3), rnd := f.extractLsb' 22 3 }
  zero := f.extractLsb' 0 22 == 0
  range := true

/-- A cell of the opcode map: how the rest of the word is read. -/
abbrev Row := Sync → BitVec 35 → Parsed Instr

/-- The cell of one instruction. -/
def row {α : Type} (mk : α → Instr) (rd : Sync → BitVec 35 → Parsed α) : Option Row :=
  some fun sy f => { val := mk (rd sy f).val, zero := (rd sy f).zero, range := (rd sy f).range }

/-- Row 0 of the S opcodes (07 Table 7.5). -/
def opRowS0 : List (Option Row) :=
  [row .nop S0.read, row .add SRrr.read, row .sub SRrr.read, row .mul SRrr.read,
    row .mulh SRrr.read, row .mulhu SRrr.read, row .div SRrr.read, row .divu SRrr.read]

/-- Row 1 of the S opcodes (07 Table 7.5). -/
def opRowS1 : List (Option Row) :=
  [row .rem SRrr.read, row .remu SRrr.read, row .and SRrr.read, row .or SRrr.read,
    row .xor SRrr.read, row .sll SRrr.read, row .srl SRrr.read, row .sra SRrr.read]

/-- Row 2 of the S opcodes (07 Table 7.5). -/
def opRowS2 : List (Option Row) :=
  [row .slt SRrr.read, row .sltu SRrr.read, row .min SRrr.read, row .max SRrr.read,
    row .addi SImm.read, row .andi SImm.read, row .ori SImm.read, row .xori SImm.read]

/-- Row 3 of the S opcodes (07 Table 7.5). -/
def opRowS3 : List (Option Row) :=
  [row .slli SShift.read, row .srli SShift.read, row .srai SShift.read, row .slti SImm.read,
    row .li SLi.read, row .lih SLi.read, row .beq SBr.read, row .bne SBr.read]

/-- Row 4 of the S opcodes (07 Table 7.5). -/
def opRowS4 : List (Option Row) :=
  [row .blt SBr.read, row .bge SBr.read, row .bltu SBr.read, row .bgeu SBr.read,
    row .jal SJal.read, row .jalr SImm.read, row .loopb SLoop.read, row .endt S0.read]

/-- Row 5 of the S opcodes (07 Table 7.5). -/
def opRowS5 : List (Option Row) :=
  [row .crd SCrd.read, row .cwr SCwr.read, row .cset SCwr.read, row .cclr SCwr.read,
    row .trap STrap.read, row .eret S0.read, row .waitev SWait.read, row .xlate SXlate.read]

/-- Row 6 of the S opcodes (07 Table 7.5). -/
def opRowS6 : List (Option Row) :=
  [row .hlocal SHlocal.read, row .hinv SHinv.read, row .hget SHget.read, row .yset SYfield.read,
    row .yget SYfield.read, row .yclr SYclr.read, row .fpush SRa.read, row .fpushi SFpushi.read]

/-- Row 7 of the S opcodes (07 Table 7.5). -/
def opRowS7 : List (Option Row) :=
  [row .pwracq SRr.read, row .pwrrel S0.read, row .slotwait SRr.read, row .ctxq SRrr.read,
    row .yield S0.read, none, none, none]

/-- The S opcodes (07 Table 7.5). -/
def opTableS : List (Option Row) := opRowS0 ++ opRowS1 ++ opRowS2 ++ opRowS3 ++ opRowS4 ++ opRowS5 ++ opRowS6 ++ opRowS7

/-- Row 0 of the L opcodes (07 Table 7.6). -/
def opRowL0 : List (Option Row) :=
  [row .ldb MemS.read, row .ldbu MemS.read, row .ldh MemS.read, row .ldhu MemS.read,
    row .ldw MemS.read, row .ldwu MemS.read, row .ldd MemS.read, row .vld MemV.read]

/-- Row 1 of the L opcodes (07 Table 7.6). -/
def opRowL1 : List (Option Row) :=
  [row .vlds MemV.read, row .cpin CopyW.read, row .cpgather GatherW.read, row .semwait Atom.read,
    row .barwait Atom.read, row .wltake Atom.read, row .vldb MemV.read, none]

/-- The L opcodes (07 Table 7.6). -/
def opTableL : List (Option Row) := opRowL0 ++ opRowL1

/-- Row 0 of the C opcodes (07 Table 7.7). -/
def opRowC0 : List (Option Row) :=
  [row .vldl CLocal.read, row .vstl CLocal.read, row .vldm CLocal.read, row .vstm CLocal.read,
    row .vadd CBin.read, row .vsub CBin.read, row .vmul CBin.read, row .vfma CBin.read]

/-- Row 1 of the C opcodes (07 Table 7.7). -/
def opRowC1 : List (Option Row) :=
  [row .vmin CTri.read, row .vmax CTri.read, row .vabs CUn.read, row .vdiv CBin.read,
    row .vrcp CUn.read, row .vrsq CUn.read, row .vexp2 CUn.read, row .vlog2 CUn.read]

/-- Row 2 of the C opcodes (07 Table 7.7). -/
def opRowC2 : List (Option Row) :=
  [row .vsqrt CUn.read, row .vcvt CCvt.read, row .vqnt CQnt.read, row .vdqnt CDqnt.read,
    row .vcmp CCmp.read, row .vsel CTri.read, row .vand CTri.read, row .vor CTri.read]

/-- Row 3 of the C opcodes (07 Table 7.7). -/
def opRowC3 : List (Option Row) :=
  [row .vxor CTri.read, row .vshl CBin.read, row .vshr CTri.read, row .vshra CTri.read,
    row .vmov CMov.read, row .vmovi CMovi.read, row .vfroms CFroms.read, row .vtos CTos.read]

/-- Row 4 of the C opcodes (07 Table 7.7). -/
def opRowC4 : List (Option Row) :=
  [row .vredadd CUn.read, row .vredmax CMov.read, row .vredmin CMov.read, row .vargmax CMov.read,
    row .vperm CTri.read, row .vslide CSlide.read, row .vbcast CSlide.read, row .viota CIota.read]

/-- Row 5 of the C opcodes (07 Table 7.7). -/
def opRowC5 : List (Option Row) :=
  [row .pand PBin.read, row .por PBin.read, row .pxor PBin.read, row .pnot PUn.read,
    row .pset PSetW.read, row .rbset Rbset.read, row .slack SlackW.read, none]

/-- Row 6 of the C opcodes (07 Table 7.7). -/
def opRowC6 : List (Option Row) :=
  [row .mma MmaW.read, row .mmat MmaW.read, row .aclr AclrW.read, row .ard ArdW.read,
    row .awr AwrW.read, row .asts AstsW.read, none, none]

/-- The C opcodes (07 Table 7.7). -/
def opTableC : List (Option Row) := opRowC0 ++ opRowC1 ++ opRowC2 ++ opRowC3 ++ opRowC4 ++ opRowC5 ++ opRowC6

/-- Row 0 of the W opcodes (07 Table 7.8). -/
def opRowW0 : List (Option Row) :=
  [row .stb MemS.read, row .sth MemS.read, row .stw MemS.read, row .std MemS.read,
    row .vst MemV.read, row .vsts MemV.read, row .aadd Atom.read, row .amin Atom.read]

/-- Row 1 of the W opcodes (07 Table 7.8). -/
def opRowW1 : List (Option Row) :=
  [row .amax Atom.read, row .aand Atom.read, row .aor Atom.read, row .axor Atom.read,
    row .aswap Atom.read, row .acas Atom.read, row .afadd Atom.read, row .semsig AtomN.read]

/-- Row 2 of the W opcodes (07 Table 7.8). -/
def opRowW2 : List (Option Row) :=
  [row .bararv Atom.read, row .cpout CopyW.read, row .cpscatter GatherW.read, row .discard PageR.read,
    row .wback PageR.read, row .pgrsv PageP.read, row .pgrel PageP.read, row .pgmig PageP.read]

/-- Row 3 of the W opcodes (07 Table 7.8). -/
def opRowW3 : List (Option Row) :=
  [row .wlappend Atom.read, row .commit SlotOp.read, row .retract SlotOp.read, none,
    none, none, none, none]

/-- The W opcodes (07 Table 7.8). -/
def opTableW : List (Option Row) := opRowW0 ++ opRowW1 ++ opRowW2 ++ opRowW3

/-- The class of a code (07 Table 7.1). -/
def Engine.ofBits (b : BitVec 2) : Engine :=
  match b.toNat with
  | 0 => .S | 1 => .L | 2 => .C | _ => .W

/-- The code of a class (07 Table 7.1). -/
def Engine.bits : Engine → BitVec 2
  | .S => 0 | .L => 1 | .C => 2 | .W => 3

/-- The opcode map of a class (07 R158). -/
def opTable : Engine → List (Option Row)
  | .S => opTableS | .L => opTableL | .C => opTableC | .W => opTableW

/-- The class of a word (07 R154). -/
def classOf (w : IWord) : Engine := Engine.ofBits (w.extractLsb' 46 2)

/-- The sync fields of a word (07 R154). -/
def syncOf (w : IWord) : Sync := { pop := w.extractLsb' 43 3, push := w.extractLsb' 41 2 }

/-- What a parsed word is: the failing check of the lowest kind, or the instruction (07 R161). -/
def judge (p : Parsed Instr) : Except Reject Instr :=
  if !(p.zero && p.val.zeroOk) then .error .reserved
  else if !(p.range && p.val.rangeOk) then .error .range
  else if !p.val.repOk then .error .pastFile
  else .ok p.val

/-- The instruction that a word is, or why it is none (07 R158-R161). -/
def decode (w : IWord) : Except Reject Instr :=
  match (opTable (classOf w))[(w.extractLsb' 35 6).toNat]? with
  | some (some r) => judge (r (syncOf w) (w.extractLsb' 0 35))
  | some none | none => .error .unassigned

/-- Six bytes, little-endian, as a word (07 R153, 00 R7); a missing byte counts as 0. -/
def wordOfBytes (bs : List Byte) : IWord :=
  bs.getD 5 0 ++ bs.getD 4 0 ++ bs.getD 3 0 ++ bs.getD 2 0 ++ bs.getD 1 0 ++ bs.getD 0 0

/-- A word as six bytes, little-endian (07 R153, 00 R7). -/
def bytesOfWord (w : IWord) : List Byte :=
  [w.extractLsb' 0 8, w.extractLsb' 8 8, w.extractLsb' 16 8, w.extractLsb' 24 8, w.extractLsb' 32 8, w.extractLsb' 40 8]

/-- Decodes the first word of a byte stream and gives the bytes after it; `none` where fewer than six are left. -/
def decodeBytes (bs : List Byte) : Option (Except Reject Instr × List Byte) :=
  if bs.length < 6 then none else some (decode (wordOfBytes (bs.take 6)), bs.drop 6)

/-- The class, opcode, sync fields and format fields of an instruction word; an event has none. -/
def Instr.parts : Instr → Option (Engine × BitVec 6 × Sync × BitVec 35)
  | .nop a => some (.S, 0x00, a.sy, a.bits)
  | .add a => some (.S, 0x01, a.sy, a.bits)
  | .sub a => some (.S, 0x02, a.sy, a.bits)
  | .mul a => some (.S, 0x03, a.sy, a.bits)
  | .mulh a => some (.S, 0x04, a.sy, a.bits)
  | .mulhu a => some (.S, 0x05, a.sy, a.bits)
  | .div a => some (.S, 0x06, a.sy, a.bits)
  | .divu a => some (.S, 0x07, a.sy, a.bits)
  | .rem a => some (.S, 0x08, a.sy, a.bits)
  | .remu a => some (.S, 0x09, a.sy, a.bits)
  | .and a => some (.S, 0x0A, a.sy, a.bits)
  | .or a => some (.S, 0x0B, a.sy, a.bits)
  | .xor a => some (.S, 0x0C, a.sy, a.bits)
  | .sll a => some (.S, 0x0D, a.sy, a.bits)
  | .srl a => some (.S, 0x0E, a.sy, a.bits)
  | .sra a => some (.S, 0x0F, a.sy, a.bits)
  | .slt a => some (.S, 0x10, a.sy, a.bits)
  | .sltu a => some (.S, 0x11, a.sy, a.bits)
  | .min a => some (.S, 0x12, a.sy, a.bits)
  | .max a => some (.S, 0x13, a.sy, a.bits)
  | .addi a => some (.S, 0x14, a.sy, a.bits)
  | .andi a => some (.S, 0x15, a.sy, a.bits)
  | .ori a => some (.S, 0x16, a.sy, a.bits)
  | .xori a => some (.S, 0x17, a.sy, a.bits)
  | .slli a => some (.S, 0x18, a.sy, a.bits)
  | .srli a => some (.S, 0x19, a.sy, a.bits)
  | .srai a => some (.S, 0x1A, a.sy, a.bits)
  | .slti a => some (.S, 0x1B, a.sy, a.bits)
  | .li a => some (.S, 0x1C, a.sy, a.bits)
  | .lih a => some (.S, 0x1D, a.sy, a.bits)
  | .beq a => some (.S, 0x1E, a.sy, a.bits)
  | .bne a => some (.S, 0x1F, a.sy, a.bits)
  | .blt a => some (.S, 0x20, a.sy, a.bits)
  | .bge a => some (.S, 0x21, a.sy, a.bits)
  | .bltu a => some (.S, 0x22, a.sy, a.bits)
  | .bgeu a => some (.S, 0x23, a.sy, a.bits)
  | .jal a => some (.S, 0x24, a.sy, a.bits)
  | .jalr a => some (.S, 0x25, a.sy, a.bits)
  | .loopb a => some (.S, 0x26, a.sy, a.bits)
  | .endt a => some (.S, 0x27, a.sy, a.bits)
  | .crd a => some (.S, 0x28, a.sy, a.bits)
  | .cwr a => some (.S, 0x29, a.sy, a.bits)
  | .cset a => some (.S, 0x2A, a.sy, a.bits)
  | .cclr a => some (.S, 0x2B, a.sy, a.bits)
  | .trap a => some (.S, 0x2C, a.sy, a.bits)
  | .eret a => some (.S, 0x2D, a.sy, a.bits)
  | .waitev a => some (.S, 0x2E, a.sy, a.bits)
  | .xlate a => some (.S, 0x2F, a.sy, a.bits)
  | .hlocal a => some (.S, 0x30, a.sy, a.bits)
  | .hinv a => some (.S, 0x31, a.sy, a.bits)
  | .hget a => some (.S, 0x32, a.sy, a.bits)
  | .yset a => some (.S, 0x33, a.sy, a.bits)
  | .yget a => some (.S, 0x34, a.sy, a.bits)
  | .yclr a => some (.S, 0x35, a.sy, a.bits)
  | .fpush a => some (.S, 0x36, a.sy, a.bits)
  | .fpushi a => some (.S, 0x37, a.sy, a.bits)
  | .pwracq a => some (.S, 0x38, a.sy, a.bits)
  | .pwrrel a => some (.S, 0x39, a.sy, a.bits)
  | .slotwait a => some (.S, 0x3A, a.sy, a.bits)
  | .ctxq a => some (.S, 0x3B, a.sy, a.bits)
  | .yield a => some (.S, 0x3C, a.sy, a.bits)
  | .ldb a => some (.L, 0x00, a.sy, a.bits)
  | .ldbu a => some (.L, 0x01, a.sy, a.bits)
  | .ldh a => some (.L, 0x02, a.sy, a.bits)
  | .ldhu a => some (.L, 0x03, a.sy, a.bits)
  | .ldw a => some (.L, 0x04, a.sy, a.bits)
  | .ldwu a => some (.L, 0x05, a.sy, a.bits)
  | .ldd a => some (.L, 0x06, a.sy, a.bits)
  | .vld a => some (.L, 0x07, a.sy, a.bits)
  | .vlds a => some (.L, 0x08, a.sy, a.bits)
  | .vldb a => some (.L, 0x0E, a.sy, a.bits)
  | .cpin a => some (.L, 0x09, a.sy, a.bits)
  | .cpgather a => some (.L, 0x0A, a.sy, a.bits)
  | .semwait a => some (.L, 0x0B, a.sy, a.bits)
  | .barwait a => some (.L, 0x0C, a.sy, a.bits)
  | .wltake a => some (.L, 0x0D, a.sy, a.bits)
  | .vldl a => some (.C, 0x00, a.sy, a.bits)
  | .vstl a => some (.C, 0x01, a.sy, a.bits)
  | .vldm a => some (.C, 0x02, a.sy, a.bits)
  | .vstm a => some (.C, 0x03, a.sy, a.bits)
  | .vadd a => some (.C, 0x04, a.sy, a.bits)
  | .vsub a => some (.C, 0x05, a.sy, a.bits)
  | .vmul a => some (.C, 0x06, a.sy, a.bits)
  | .vfma a => some (.C, 0x07, a.sy, a.bits)
  | .vmin a => some (.C, 0x08, a.sy, a.bits)
  | .vmax a => some (.C, 0x09, a.sy, a.bits)
  | .vabs a => some (.C, 0x0A, a.sy, a.bits)
  | .vdiv a => some (.C, 0x0B, a.sy, a.bits)
  | .vrcp a => some (.C, 0x0C, a.sy, a.bits)
  | .vrsq a => some (.C, 0x0D, a.sy, a.bits)
  | .vexp2 a => some (.C, 0x0E, a.sy, a.bits)
  | .vlog2 a => some (.C, 0x0F, a.sy, a.bits)
  | .vsqrt a => some (.C, 0x10, a.sy, a.bits)
  | .vcvt a => some (.C, 0x11, a.sy, a.bits)
  | .vqnt a => some (.C, 0x12, a.sy, a.bits)
  | .vdqnt a => some (.C, 0x13, a.sy, a.bits)
  | .vcmp a => some (.C, 0x14, a.sy, a.bits)
  | .vsel a => some (.C, 0x15, a.sy, a.bits)
  | .vand a => some (.C, 0x16, a.sy, a.bits)
  | .vor a => some (.C, 0x17, a.sy, a.bits)
  | .vxor a => some (.C, 0x18, a.sy, a.bits)
  | .vshl a => some (.C, 0x19, a.sy, a.bits)
  | .vshr a => some (.C, 0x1A, a.sy, a.bits)
  | .vshra a => some (.C, 0x1B, a.sy, a.bits)
  | .vmov a => some (.C, 0x1C, a.sy, a.bits)
  | .vmovi a => some (.C, 0x1D, a.sy, a.bits)
  | .vfroms a => some (.C, 0x1E, a.sy, a.bits)
  | .vtos a => some (.C, 0x1F, a.sy, a.bits)
  | .vredadd a => some (.C, 0x20, a.sy, a.bits)
  | .vredmax a => some (.C, 0x21, a.sy, a.bits)
  | .vredmin a => some (.C, 0x22, a.sy, a.bits)
  | .vargmax a => some (.C, 0x23, a.sy, a.bits)
  | .vperm a => some (.C, 0x24, a.sy, a.bits)
  | .vslide a => some (.C, 0x25, a.sy, a.bits)
  | .vbcast a => some (.C, 0x26, a.sy, a.bits)
  | .viota a => some (.C, 0x27, a.sy, a.bits)
  | .pand a => some (.C, 0x28, a.sy, a.bits)
  | .por a => some (.C, 0x29, a.sy, a.bits)
  | .pxor a => some (.C, 0x2A, a.sy, a.bits)
  | .pnot a => some (.C, 0x2B, a.sy, a.bits)
  | .pset a => some (.C, 0x2C, a.sy, a.bits)
  | .rbset a => some (.C, 0x2D, a.sy, a.bits)
  | .slack a => some (.C, 0x2E, a.sy, a.bits)
  | .mma a => some (.C, 0x30, a.sy, a.bits)
  | .mmat a => some (.C, 0x31, a.sy, a.bits)
  | .aclr a => some (.C, 0x32, a.sy, a.bits)
  | .ard a => some (.C, 0x33, a.sy, a.bits)
  | .awr a => some (.C, 0x34, a.sy, a.bits)
  | .asts a => some (.C, 0x35, a.sy, a.bits)
  | .stb a => some (.W, 0x00, a.sy, a.bits)
  | .sth a => some (.W, 0x01, a.sy, a.bits)
  | .stw a => some (.W, 0x02, a.sy, a.bits)
  | .std a => some (.W, 0x03, a.sy, a.bits)
  | .vst a => some (.W, 0x04, a.sy, a.bits)
  | .vsts a => some (.W, 0x05, a.sy, a.bits)
  | .aadd a => some (.W, 0x06, a.sy, a.bits)
  | .amin a => some (.W, 0x07, a.sy, a.bits)
  | .amax a => some (.W, 0x08, a.sy, a.bits)
  | .aand a => some (.W, 0x09, a.sy, a.bits)
  | .aor a => some (.W, 0x0A, a.sy, a.bits)
  | .axor a => some (.W, 0x0B, a.sy, a.bits)
  | .aswap a => some (.W, 0x0C, a.sy, a.bits)
  | .acas a => some (.W, 0x0D, a.sy, a.bits)
  | .afadd a => some (.W, 0x0E, a.sy, a.bits)
  | .semsig a => some (.W, 0x0F, a.sy, a.bits)
  | .bararv a => some (.W, 0x10, a.sy, a.bits)
  | .cpout a => some (.W, 0x11, a.sy, a.bits)
  | .cpscatter a => some (.W, 0x12, a.sy, a.bits)
  | .discard a => some (.W, 0x13, a.sy, a.bits)
  | .wback a => some (.W, 0x14, a.sy, a.bits)
  | .pgrsv a => some (.W, 0x15, a.sy, a.bits)
  | .pgrel a => some (.W, 0x16, a.sy, a.bits)
  | .pgmig a => some (.W, 0x17, a.sy, a.bits)
  | .wlappend a => some (.W, 0x18, a.sy, a.bits)
  | .commit a => some (.W, 0x19, a.sy, a.bits)
  | .retract a => some (.W, 0x1A, a.sy, a.bits)
  | .wordDispatch _ => none
  | .illegalWord _ _ => none
  | .fetchFault _ => none
  | .handleLand _ => none
  | .walkComplete _ => none
  | .invalidationRelease _ _ => none
  | .allocationAnswer _ => none
  | .lateFrameConversion _ => none
  | .remoteFill _ _ => none
  | .operationComplete _ _ => none
  | .fabricWaitPoll _ _ => none
  | .patrolScrub _ => none
  | .copyRowIssue _ _ => none
  | .copyRowLand _ _ _ => none
  | .cWriteLand _ => none
  | .lateLoadArrival _ => none
  | .slackExpiry _ => none
  | .idleEngineCycle _ => none
  | .rotateEntry _ => none
  | .kstepWrite _ => none
  | .drainComplete _ => none
  | .resume _ => none
  | .refresh _ => none
  | .answerEnd _ => none
  | .preemptionSaveEnd _ => none
  | .restore _ => none
  | .launch _ => none
  | .launchEligible _ _ => none
  | .launchAgeing _ _ => none
  | .taskPlacement _ => none
  | .placementThermalTimeout _ _ => none
  | .launchRetire _ _ => none
  | .chainFetch _ => none
  | .shadowStart _ => none
  | .fhintHoldExpiry _ _ => none
  | .gridConfigure _ _ => none
  | .gridStart _ => none
  | .gridStop _ => none
  | .convOpen _ _ => none
  | .convClose _ => none
  | .slotBoundary _ _ => none
  | .ingressGroup _ _ => none
  | .freqRequestTakeup _ => none
  | .railStep _ => none
  | .clockSwitchEnd _ => none
  | .stallratioSample _ _ _ => none
  | .budgetGrant _ => none
  | .sensorRefresh _ _ => none
  | .marverRailWindow _ => none
  | .undervoltHoldEnd _ => none
  | .setPointRestore _ => none
  | .flitRetransmit _ => none
  | .laneShed _ => none
  | .laneRestore _ => none
  | .linkRetrained _ => none
  | .fabricCompletionError _ _ _ => none
  | .timeMessage _ => none
  | .timeSyncLoss => none
  | .doorbell _ _ => none
  | .queueSchedule => none
  | .ringNop _ => none
  | .ringSignal _ => none
  | .ringUnknownType _ => none
  | .queueCreate _ _ => none
  | .queueReset _ => none
  | .queueDestroy _ => none
  | .poolCreate _ _ _ => none
  | .poolSetLimit _ _ _ => none
  | .poolWithdraw _ _ => none
  | .pageTableChange _ _ _ _ => none
  | .setThermalLimits _ _ _ _ => none
  | .setBudget _ _ => none
  | .setTrafficFilter _ _ => none
  | .halt _ => none
  | .stopseq _ _ _ => none
  | .brk _ _ => none
  | .debugDisarm _ => none
  | .debugStopMatch _ => none
  | .status _ => none
  | .debugWrite _ _ => none
  | .errorWindowExpiry _ => none
  | .deviceStart _ => none
  | .startWatchdog => none
  | .writeImage _ => none
  | .fullStart => none
  | .attest _ _ => none
  | .commanderSignature _ _ => none
  | .commanderRelease _ => none
  | .waitevDeadline _ => none
  | .ctxqAnswer _ => none
  | .fabricEndpointAccess _ _ => none
  | .ringFetchFault _ => none
  | .boardCapChange _ _ => none
  | .marverRailStep _ => none
  | .powerLoss => none

/-- The word of an instruction (07 R154); an event has none. -/
def encode (i : Instr) : Option IWord :=
  i.parts.map fun p => p.1.bits ++ p.2.2.1.pop ++ p.2.2.1.push ++ p.2.1 ++ p.2.2.2

/-- The instruction that the decoder reads from a table row's word, laid out as six bytes. -/
def decodeTableWord (_nbits w : Nat) : Option Instr :=
  match decodeBytes (bytesOfWord (BitVec.ofNat 48 w)) with
  | some (.ok i, _) => some i
  | _ => none

end Sys2Proof
end

