-- ==== Sys2Proof/Config.lean ====
section
/-! DEFINITION. What the spec leaves to the part: opaque constants without a body, so that nothing can be proved of their
values. Log entries 4 and 5. -/

namespace Sys2Proof.Config

/-- FREE VALUE: a 64-bit value that the spec does not state, fresh for each argument (log entry 4). -/
opaque freeWord : Nat → Word

/-- FREE VALUE: the bytes of a frame's queue and replay image, whose encoding is the device's own (17 R367; log entry 4). -/
opaque queueImage : Nat → List Byte

/-- FREE VALUE: the operation that a request of the command mailbox asks for, by its 248 bytes before the sequence number; their
layout is not stated (19 R412; log entry 4). -/
opaque requestOf : List Byte → Option Instr

/-- FREE VALUE: the bytes of a mailbox reply of a status and a debug status word before its sequence number; their layout is not stated
(19 R412; 20 R420; log entry 4). -/
opaque replyBytes : (status : Nat) → (debug : Word) → List Byte

/-- FREE VALUE: sender, type and payload of the message that brings a bank's cause to gaffer core 6; their values are not stated (17 R360;
19 R411; log entry 4). -/
opaque causeMessage : (bank : Nat) → (code : Nat) → BitVec 8 × BitVec 8 × BitVec 192

/-- FREE VALUE: the same of the message that informs core 6 of a die above its critical limit (18 R391; log entry 4). -/
opaque criticalMessage : (die : Nat) → BitVec 8 × BitVec 8 × BitVec 192

/-- What the telemetry pages of gaffer core 7 show: temperatures, the three limits of a die, rails, classes, error counts and bank-conflict
cells (18 R389; 19 Table 19.2; 20 R422). -/
inductive Telemetry where
  | blank | temp (core : Nat) (sensor : Nat) | limit (die : Nat) (k : Fin 3) | vdie (die : Nat) | vmrv (die : Nat) | cls (cluster : Nat) | errors (loc : ErrLoc)
  | cell (core : Nat) (row : Nat) (bank : Nat)
  deriving DecidableEq, Repr, Inhabited

/-- FREE VALUE: which datum, and which byte of it, a byte of a die's telemetry pages shows; their layout is not stated (19 R404; log
entry 4). -/
opaque telemetryAt : (die : Nat) → (offset : Nat) → Telemetry × Nat

/-- FREE VALUE: the UE5M3 block scale of a negative quotient, which the format cannot hold and 08 R198 does not state
(log entry 4). -/
opaque ue5m3Neg : (quotient : Nat × Int) → BitVec 8

/-- FREE VALUE: the L2 slice of a line, a hash that 03 R73 names and does not state (log entry 4). -/
opaque sliceOf : (line : Nat) → Fin 48

/-- SHA-512, named and not laid down by 20 R424-R427 (log entry 5). -/
opaque sha512 : List Byte → List Byte

/-- Ed25519 verification of a signature over a message (20 R424; log entry 5). -/
opaque edVerify : (key : BitVec 256) → (msg : List Byte) → (sig : BitVec 512) → Bool

/-- Ed25519 signature by the identity seed (20 R425, R427; log entry 5). -/
opaque edSign : (seed : List Byte) → (msg : List Byte) → BitVec 512

/-- The Ed25519 public key of a seed (20 R425; log entry 5). -/
opaque edPublic : (seed : List Byte) → BitVec 256

/-- A PUF response corrected with its helper data (20 R425 step 2; log entry 5). -/
opaque pufCorrect : (response : List Byte) → (helper : List Byte) → List Byte

/-- The vendor public key in core 0's boot ROM (20 R424; log entry 5). -/
opaque vendorKey : BitVec 256

/-- The bytes of an image that the vendor key signs, as core 0 lays them out: every part but the retirement record and the count, the
helper data and the commander list among them (20 R424; log entry 5). -/
opaque vendorPart : SignedImage → List Byte

/-- The bytes of an image's retirement record (20 R424; log entry 5). -/
opaque retirementPart : SignedImage → List Byte

/-- The device's own nonces (20 R427; log entry 5). -/
opaque deviceNonce : Nat → BitVec 256

end Sys2Proof.Config
end

