-- ==== Sys2Proof/Machine/Ops.lean ====
section
/-! DEFINITION. The named operations on the state that the meanings share: memory, registers, queues, tokens, streams, and
the taking of a cause, which is the cut of 17 R357. -/

namespace Sys2Proof.Machine

open Sys2Proof

/-- What a meaning answers. -/
abbrev Out := Host.Outcome State Fault Refusal

/-! ### Byte lists -/

/-- A little-endian number (00 R7). -/
def leNat : List Byte → Nat
  | [] => 0
  | x :: xs => x.toNat + 256 * leNat xs

/-- The low `n` bytes of a number, little-endian (00 R7). -/
def leBytes : Nat → Nat → List Byte
  | 0, _ => []
  | n + 1, x => BitVec.ofNat 8 x :: leBytes n (x / 256)

/-- The bytes of a vector register, byte 0 first (08 R184). -/
def vecBytes (v : Vec) : List Byte := leBytes 256 v.toNat

/-- A vector register from its bytes (08 R184). -/
def vecOf (bs : List Byte) : Vec := BitVec.ofNat 2048 (leNat bs)

/-- Removes the first member that satisfies `p`. -/
def takeFirst {α : Type} (p : α → Bool) : List α → Option (α × List α)
  | [] => none
  | x :: xs => if p x then some (x, xs) else (takeFirst p xs).map fun (y, ys) => (y, x :: ys)

/-- Applies `f` to the first member that satisfies `p`. -/
def modFirst {α : Type} (p : α → Bool) (f : α → α) : List α → List α
  | [] => []
  | x :: xs => if p x then f x :: xs else x :: modFirst p f xs

/-- Inserts a member before the first that does not come before it. -/
def insertBy {α : Type} (le : α → α → Bool) (x : α) : List α → List α
  | [] => [x]
  | y :: ys => if le x y then x :: y :: ys else y :: insertBy le x ys

/-- A list in order; members that are equal in it keep their places. -/
def sortBy {α : Type} (le : α → α → Bool) (xs : List α) : List α := xs.foldr (insertBy le) []

/-- Adds a member unless it is there. -/
def insertNew (x : Nat) (xs : List Nat) : List Nat := if xs.contains x then xs else x :: xs

/-! ### Memory -/

/-- The byte at an address; an unlisted one reads 0 (log entry 2). -/
def Memory.read : Memory → Nat → Byte
  | [], _ => 0
  | (k, v) :: m, a => if k = a then v else Memory.read m a

/-- Writes one byte, in the canonical form. -/
def Memory.write : Memory → Nat → Byte → Memory
  | [], a, x => if x = 0 then [] else [(a, x)]
  | (k, v) :: m, a, x =>
    if a < k then (if x = 0 then (k, v) :: m else (a, x) :: (k, v) :: m)
    else if a = k then (if x = 0 then m else (a, x) :: m)
    else (k, v) :: Memory.write m a x

/-- The canonical form from an address on: addresses strictly rising, no byte 0 listed. -/
def Memory.wfFrom : Nat → Memory → Bool
  | _, [] => true
  | lo, (a, v) :: m => decide (lo ≤ a) && v != 0 && Memory.wfFrom (a + 1) m

/-- The canonical form. -/
def Memory.wf (m : Memory) : Bool := Memory.wfFrom 0 m

/-- Writes consecutive bytes. -/
def Memory.writes : Memory → Nat → List Byte → Memory
  | m, _, [] => m
  | m, a, x :: xs => Memory.writes (Memory.write m a x) (a + 1) xs

/-- Reads `n` consecutive bytes. -/
def Memory.reads (m : Memory) (a n : Nat) : List Byte := (List.range n).map fun i => m.read (a + i)

/-! ### The physical map (01 R13, R14) -/

/-- The base of a die's local region (01 Table 1.1). -/
def localBase (d : Die) : Nat := 0x8000000000 + d.val * 0x100000000

/-- The base of a core's marver slice (01 Table 1.2). -/
def sliceBase (c : CoreId) : Nat := localBase (dieOfCore c) + c.val % 72 * 0x800000

/-- The base of a core's scratchpad (01 Table 1.2). -/
def padBase (c : CoreId) : Nat := localBase (dieOfCore c) + 0x40000000 + c.val % 72 * 0x200000

/-- The base of a die's scratchpad (01 Table 1.2). -/
def dieScratchBase (d : Die) : Nat := localBase d + 0x80000000

/-- The base of a cluster's memory (01 Table 1.2). -/
def clusterBase (c : ClusterId) : Nat := localBase (dieOfCluster c) + c.val % 9 * 0x4000000

/-- The first location of an unbacked page, named by home die, pool and pool page number (01 R17, 02 R41). -/
def unbackedLoc (home : Nat) (pool : Nat) (upn : Nat) : Nat := 2 ^ 48 + ((home * 256 + pool) * 2 ^ 25 + upn) * 2 ^ 16

/-- The regions of the physical map, and the unbacked lines (01 Tables 1.1, 1.2; 02 R41). -/
inductive Region where
  | hbm (d : Die) | slice (c : CoreId) | pad (c : CoreId) | dieScratch (d : Die) | control (d : Die) | hole | fabric
  | unbacked (d : Die)
  deriving DecidableEq, Repr

/-- A core of a die by its index within it. -/
def coreAt (d : Die) (i : Nat) : CoreId := ⟨d.val * 72 + i % 72, by omega⟩

/-- Where a location lies. -/
def regionOf (l : Nat) : Region :=
  if 2 ^ 48 ≤ l then .unbacked (Fin.ofNat 4 ((l - 2 ^ 48) / 2 ^ 49))
  else if 2 ^ 47 ≤ l then .fabric
  else if l < 0x8000000000 then
    if l % 0x2000000000 < 0x1800000000 then .hbm (Fin.ofNat 4 (l / 0x2000000000)) else .hole
  else if l < 0x8400000000 then
    let d : Die := Fin.ofNat 4 ((l - 0x8000000000) / 0x100000000)
    let o := (l - 0x8000000000) % 0x100000000
    if o < 72 * 0x800000 then .slice (coreAt d (o / 0x800000))
    else if 0x40000000 ≤ o ∧ o < 0x40000000 + 72 * 0x200000 then
      if o % 0x200000 < 0x180000 then .pad (coreAt d ((o - 0x40000000) / 0x200000)) else .hole
    else if 0x80000000 ≤ o ∧ o < 0x82000000 then .dieScratch d
    else if 0xC0000000 ≤ o ∧ o < 0xC1000000 then .control d
    else .hole
  else .hole

/-- The scope of a synchronising operation narrowed to the agents that reach its object (03 R70, 04 R104). -/
def effScope (scope : Nat) (l : Nat) : Nat :=
  match regionOf l with
  | .slice _ | .pad _ => min scope 2
  | .dieScratch _ => min scope 3
  | _ => scope

/-! ### The storage levels -/

/-- Where a name leads after the forwarding entries (02 R52, R60). -/
def Store.resolve (st : Store) (l : Nat) : Nat :=
  st.forwards.foldl (fun l f => if f.src ≤ l ∧ l < f.src + f.len then f.dst + (l - f.src) else l) l

/-- The state of an unbacked line; `none` is absent (02 R42). -/
def Store.lineSt (st : Store) (line : Nat) : Option LineSt := (st.lines.find? fun p => p.1 == line).map (·.2)

/-- Sets the state of an unbacked line. -/
def Store.setLine (st : Store) (line : Nat) (x : Option LineSt) : Store :=
  let rest := st.lines.filter fun p => p.1 != line
  { st with lines := match x with | none => rest | some v => (line, v) :: rest }

/-- The valid remote-partition copy of a line (03 R79, R81). -/
def Store.copyOf (st : Store) (d : Die) (line : Nat) : Option RLine :=
  st.remote.find? fun r => r.die == d && r.line == line && r.epoch == st.epoch.get d

/-- Whether a location is a backed line that is homed on another die (03 R79). -/
def remoteHomed (d : Die) (l : Nat) : Bool :=
  match regionOf l with
  | .hbm h => h != d
  | _ => false

/-- A byte as an agent of die `d` reads it (03 R67, R79; 02 R43). -/
def Store.viewByte (st : Store) (d : Die) (l0 : Nat) : Byte :=
  let l := st.resolve l0
  if 2 ^ 48 ≤ l then (if st.lineSt (l / 128) = some .pinned then st.mem.read l else 0)
  else if remoteHomed d l then
    match st.copyOf d (l / 128) with
    | some r => r.bytes.getD (l % 128) 0
    | none => st.mem.read l
  else st.mem.read l

/-- `n` bytes as an agent of die `d` reads them. -/
def Store.view (st : Store) (d : Die) (l n : Nat) : List Byte := (List.range n).map fun i => st.viewByte d (l + i)

/-- A byte at its point of coherence (03 R66; 02 R43). -/
def Store.homeByte (st : Store) (l0 : Nat) : Byte :=
  let l := st.resolve l0
  if 2 ^ 48 ≤ l ∧ st.lineSt (l / 128) ≠ some .pinned then 0 else st.mem.read l

/-- A number at its point of coherence. -/
def Store.homeNat (st : Store) (l n : Nat) : Nat := leNat ((List.range n).map fun i => st.homeByte (l + i))

/-- What the HBM controller holds against an 8-byte unit: its poison flag, else the error of its 32-byte unit. A dirty line stands
in the L2 instead (03 R78, R84). -/
def Store.hbmUnit (st : Store) (u : Nat) : Option Ecc :=
  if st.hbmEcc.isEmpty || st.dirty.contains (u / 16) then none
  else if st.hbmEcc.any fun p => p.1 == u && p.2 == .poison then some .poison
  else (st.hbmEcc.find? fun p => p.1 / 4 == u / 4 && p.2 != .poison).map (·.2)

/-- What is wrong with an 8-byte unit, in its level or L2 or else in HBM (03 R84, R85). -/
def Store.unitEcc (st : Store) (u : Nat) : Option Ecc := ((st.ecc.find? fun p => p.1 == u).map (·.2)).or (st.hbmUnit u)

/-- A line comes from HBM into its L2: a single-bit error is corrected, and an uncorrectable 32-byte unit is stored as poison, there
and in HBM (03 R84, R85). -/
def Store.fillLine (st : Store) (line : Nat) : Store :=
  if st.hbmEcc.isEmpty || st.dirty.contains line then st
  else
    let units := (List.range 16).map (line * 16 + ·)
    let bad := units.filter fun u => match st.hbmUnit u with
      | some .poison | some .uncorrectable => true
      | some .single | none => false
    { st with
      ecc := (bad.filter fun u => !st.ecc.any fun p => p.1 == u).map (fun u => (u, Ecc.poison)) ++ st.ecc
      hbmEcc := bad.map (fun u => (u, Ecc.poison)) ++ st.hbmEcc.filter fun p => p.1 / 16 != line }

/-- Sets what is wrong with a unit. -/
def Store.setEcc (st : Store) (u : Nat) (x : Option Ecc) : Store :=
  let rest := st.ecc.filter fun p => p.1 != u
  { st with ecc := match x with | none => rest | some v => (u, v) :: rest }

/-- The 8-byte units that `n` bytes at `l` touch. -/
def unitsOf (l n : Nat) : List Nat := if n = 0 then [] else (List.range ((l + n - 1) / 8 + 1 - l / 8)).map (l / 8 + ·)

/-- The 128-byte lines that `n` bytes at `l` touch. -/
def linesOf (l n : Nat) : List Nat :=
  if n = 0 then [] else (List.range ((l + n - 1) / 128 + 1 - l / 128)).map (l / 128 + ·)

/-- Whether a unit reads as poison: an uncorrectable unit is stored as poison by the read itself (03 R85, R86; 02 R43). -/
def Store.badUnit (st : Store) (u : Nat) : Bool :=
  let l := st.resolve (u * 8)
  (match st.unitEcc (l / 8) with
   | some .uncorrectable | some .poison => true
   | some .single | none => false)
  || (decide (2 ^ 48 ≤ l) && st.lineSt (l / 128) == some .lost)

/-- The dirty lines among some are written to HBM, with the poison of their units, and are clean (02 R58; 03 R78, R84). -/
def Store.writeBack (st : Store) (lines : List Nat) : Store :=
  let ls := st.dirty.filter lines.contains
  if ls.isEmpty then st
  else
    let bad := ls.flatMap fun x => ((List.range 16).map (x * 16 + ·)).filter st.badUnit
    { st with
      hbm := ls.foldl (fun h x => h.writes (x * 128) (st.mem.reads (x * 128) 128)) st.hbm
      hbmEcc := bad.map (fun u => (u, Ecc.poison)) ++ st.hbmEcc.filter fun p => !ls.contains (p.1 / 16)
      dirty := st.dirty.filter fun x => !ls.contains x }

/-- A backed line leaves its L2: it is written to HBM where it is dirty (03 R78). -/
def Store.evict (st : Store) (line : Nat) : Store :=
  let st1 := st.writeBack [line]
  { st1 with
    ecc := st1.ecc.filter fun p => p.1 / 16 != line
    tagEcc := match regionOf (line * 128) with
      | .hbm d => st1.tagEcc.filter fun p => !(p.1 == d && p.2.1 == line)
      | _ => st1.tagEcc }

/-- A backed line's set is left out of use: its L2 does not hold it (20 R414, R416). -/
def Store.leftOut (st : Store) (line : Nat) : Bool :=
  match regionOf (line * 128) with
  | .hbm d => st.out.contains (.storageSet d (line / 16))
  | _ => false

/-- Whether `n` bytes at `l` touch poison (03 R86). -/
def Store.anyBad (st : Store) (l n : Nat) : Bool := (unitsOf l n).any st.badUnit

/-- Whether a unit reads as poison to an agent of die `d`: a remote copy has check bits of its own (03 R79, R84). -/
def Store.badFor (st : Store) (d : Die) (u : Nat) : Bool :=
  let l := st.resolve (u * 8)
  match (if remoteHomed d l then st.copyOf d (l / 128) else none) with
  | some r => r.ecc.any fun p => p.1 == l / 8 && p.2 != .single
  | none => st.badUnit u

/-- Whether `n` bytes at `l` touch poison for an agent of die `d`. -/
def Store.anyBadFor (st : Store) (d : Die) (l n : Nat) : Bool := (unitsOf l n).any (st.badFor d)

/-- Stores check bits for a written unit: a whole unit is correct and clears poison; a part of a bad unit makes the whole
poison and is logged (03 R89). -/
def Store.writeEcc (st : Store) (l n u : Nat) : Store :=
  if l ≤ u * 8 ∧ u * 8 + 8 ≤ l + n then st.setEcc u none
  else match st.unitEcc u with
    | some .uncorrectable | some .poison => { st.setEcc u (some .poison) with latent := st.latent ++ [u] }
    | some .single => st.setEcc u none
    | none => st

/-- The condition of a waiting SEMWAIT or BARWAIT on its object's current value (10 R234). -/
def SyncWait.holds (st : Store) (w : SyncWait) : Option Word :=
  if w.isBar then
    let phase := st.homeNat (w.loc + 8) 4
    if phase ≠ w.val.toNat % 2 ^ 32 then some (BitVec.ofNat 64 phase) else none
  else
    let count := st.homeNat w.loc 8
    if w.val.toNat ≤ count then some (BitVec.ofNat 64 count) else none

/-- Tests the waiting requests whose object a write of `n` bytes at `l` reaches; the first condition that holds is kept
(10 R235). An object in the fabric window is polled instead.
DESIGN CHOICE (log entry 65): a request whose object holds poison after the write is not tested and waits on; the spec does
not say what becomes of it. -/
def Store.retest (st : Store) (l n : Nat) : Store :=
  { st with
    waits := st.waits.map fun w =>
      let o := st.resolve w.loc
      let z := if w.isBar then 16 else 8
      if w.met.isNone && decide (o < l + n) && decide (l < o + z) && !st.anyBad o z && regionOf o != .fabric then { w with met := w.holds st } else w
    lwaits := st.lwaits.map fun w =>
      let o := st.resolve w.loc
      if !w.met && decide (o < l + n) && decide (l < o + 8) && !st.anyBad o 8 then { w with met := decide (w.val ≤ st.homeNat o 8) } else w }

/-- A remote copy after a write of its own die: a unit written whole is correct, a bad unit written in part is poison (03 R80,
R89). -/
def RLine.update (r : RLine) (l : Nat) (bs : List Byte) : RLine :=
  { r with
    bytes := (List.range 128).map fun i =>
      let a := r.line * 128 + i
      if l ≤ a ∧ a < l + bs.length then bs.getD (a - l) 0 else r.bytes.getD i 0
    ecc := r.ecc.filterMap fun p =>
      if p.1 * 8 + 8 ≤ l ∨ l + bs.length ≤ p.1 * 8 then some p
      else if (l ≤ p.1 * 8 ∧ p.1 * 8 + 8 ≤ l + bs.length) ∨ p.2 = .single then none
      else some (p.1, .poison) }

/-- The bad units of a copy that a write reaches in part (03 R89). -/
def RLine.spoiled (r : RLine) (l n : Nat) : List Nat :=
  r.ecc.filterMap fun p => if p.1 * 8 + 8 ≤ l ∨ l + n ≤ p.1 * 8 ∨ (l ≤ p.1 * 8 ∧ p.1 * 8 + 8 ≤ l + n) ∨ p.2 = .single then none else some p.1

/-- Performs a write at a location that no forwarding entry moves: the bytes, the check bits, the dirty lines of the home L2, the
local copies and those on their way, and the waiting requests; a line whose set is left out of use goes on to HBM (03 R78, R80, R89; 10
R235; 20 R416; log entry 53). DESIGN CHOICE: a fill on its way to the writer's die takes the write too, of which 03 R80 does not speak
(log entry 63). -/
def Store.putAt (st0 : Store) (d : Die) (l : Nat) (bs : List Byte) : Store :=
  let n := bs.length
  let st := if st0.hbmEcc.isEmpty then st0 else (linesOf l n).foldl Store.fillLine st0
  let st1 := (unitsOf l n).foldl (fun st u => st.writeEcc l n u) st
  let st2 := { st1 with
    mem := st1.mem.writes l bs
    dirty := match regionOf l with
      | .hbm _ => (linesOf l n).foldl (fun ds x => insertNew x ds) st1.dirty
      | _ => st1.dirty
    latent := st1.latent ++ st1.remote.flatMap fun r => if r.die = d ∧ r.epoch = st1.epoch.get d then r.spoiled l n else []
    remote := st1.remote.map fun (r : RLine) => if r.die = d then r.update l bs else r
    fills := st1.fills.map fun (r : RLine) => if r.die = d then r.update l bs else r }
  let st3 := if st0.out.isEmpty then st2 else ((linesOf l n).filter st0.leftOut).foldl Store.evict st2
  st3.retest l n

/-- Performs a write of an agent of die `d` at its point of coherence. The part of it that lies in an unbacked line that is not
pinned was performed before the line left (02 R65; 03 R78, R80). -/
def Store.put (st : Store) (d : Die) (l0 : Nat) (bs : List Byte) : Store :=
  let l := st.resolve l0
  let n := bs.length
  if l < 2 ^ 48 ∨ (linesOf l n).all (fun x => st.lineSt x == some .pinned) then st.putAt d l bs
  else (linesOf l n).foldl (fun st x =>
    if st.lineSt x = some .pinned then
      st.putAt d (max l (x * 128)) ((bs.drop (max l (x * 128) - l)).take (min (l + n) (x * 128 + 128) - max l (x * 128)))
    else st) st

/-- The parts of a store that are still to be performed, as locations and bytes. -/
def Put.left (p : Put) : List (Nat × List Byte) :=
  if p.did = 0 then [(p.loc, p.bytes)]
  else ((unitsOf p.loc p.bytes.length).zipIdx.filter fun q => !p.did.testBit q.2).map fun q =>
    let lo := max p.loc (q.1 * 8)
    (lo, (p.bytes.drop (lo - p.loc)).take (min (p.loc + p.bytes.length) (q.1 * 8 + 8) - lo))

/-- Performs what is left of a store of an agent of die `d`. -/
def Store.perform (st : Store) (d : Die) (p : Put) : Store := p.left.foldl (fun st q => st.put d q.1 q.2) st

/-- A unit is poison where a row carries it, in the copies of the writer's die and those on their way to it too (03 R80, R87). -/
def Store.poisonUnit (st : Store) (d : Die) (u : Nat) : Store :=
  let l := st.resolve (u * 8)
  let bad (r : RLine) : RLine :=
    if r.die = d ∧ r.line = l / 128 then { r with ecc := (l / 8, .poison) :: r.ecc.filter fun p => p.1 != l / 8 } else r
  if 2 ^ 48 ≤ l ∧ st.lineSt (l / 128) ≠ some .pinned then st
  else if st.leftOut (l / 128) then { st with
    hbmEcc := (l / 8, .poison) :: st.hbmEcc.filter (fun p => p.1 != l / 8), remote := st.remote.map bad, fills := st.fills.map bad }
  else { st.setEcc (l / 8) (some .poison) with remote := st.remote.map bad, fills := st.fills.map bad }

/-- Stores that bring poison with them: their bytes and the poison of their units are there before a waiting request is tested (03 R86, R87;
10 R235). -/
def Store.putBad (st : Store) (d : Die) (us : List Nat) (ps : List (Nat × List Byte)) : Store :=
  let st1 : Store := { ps.foldl (fun st q => st.put d q.1 q.2) st with waits := st.waits, lwaits := st.lwaits }
  ps.foldl (fun st q => st.retest (st.resolve q.1) q.2.length) (us.foldl (fun st u => st.poisonUnit d u) st1)

/-- Drops a die's copies of the lines that `n` bytes at `l` touch (03 R80). -/
def Store.dropCopies (st : Store) (d : Die) (l n : Nat) : Store :=
  { st with
    remote := st.remote.filter fun r => !(r.die == d && (linesOf (st.resolve l) n).contains r.line)
    fills := st.fills.filter fun r => !(r.die == d && (linesOf (st.resolve l) n).contains r.line) }

/-- A line as its home L2 returns it to another die, its poisoned units poison there too (03 R79, R84). -/
def Store.lineFor (st : Store) (d : Die) (line : Nat) : RLine where
  die := d
  line := line
  epoch := st.epoch.get d
  bytes := st.mem.reads (line * 128) 128
  ecc := if st.ecc.isEmpty && st.hbmEcc.isEmpty then []
    else (((List.range 16).map (line * 16 + ·)).filter st.badUnit).map fun u => (u, .poison)

/-- Notes the fills that a read by die `d` asks for: the remote-homed lines that it holds no valid copy of. A fill of the epoch that
is on its way returns the line as this read found it, and one of an earlier epoch does not serve (03 R79, R81). -/
def Store.askFills (st : Store) (d : Die) (l n : Nat) : Store :=
  { st with fills := (linesOf (st.resolve l) n).foldl (fun fs x =>
      if remoteHomed d (x * 128) && (st.copyOf d x).isNone then
        fs.filter (fun (r : RLine) => !(r.die == d && r.line == x && r.epoch == st.epoch.get d)) ++ [st.lineFor d x]
      else fs) st.fills }

/-! ### Choices (04 R96, R111, R113, R114; log entry 61) -/

/-- The next choice where the rules allow more than one order. -/
def State.choose (s : State) : Nat × State := (s.choices.headD 0, { s with choices := s.choices.drop 1 })

/-- The bytes at `l` with the units that a choice names read again by die `d`, as far as they are good (log entry 61). -/
def Store.reread (st : Store) (d : Die) (l mask : Nat) (bs : List Byte) : List Byte :=
  if mask = 0 then bs
  else bs.mapIdx fun i x =>
    let u := (l + i) / 8
    if mask.testBit ((u - l / 8) % 2 ^ 16) && !st.badFor d u then st.viewByte d (l + i) else x

/-! ### Banks and registers -/

/-- A bank of the device. -/
def State.bank (s : State) (b : BankId) : Bank := s.banks.get b

/-- Replaces a bank. -/
def State.setBank (s : State) (b : BankId) (x : Bank) : State := { s with banks := s.banks.set b.val x b.isLt }

/-- Changes a bank. -/
def State.modBank (s : State) (b : BankId) (f : Bank → Bank) : State := s.setBank b (f (s.bank b))

/-- Replaces a core. -/
def State.modCore (s : State) (c : CoreId) (f : CoreSt → CoreSt) : State :=
  { s with cores := s.cores.set c.val (f (s.cores.get c)) c.isLt }

/-- Replaces the storage. -/
def State.modStore (s : State) (f : Store → Store) : State := { s with store := f s.store }

/-- A bank of a core. -/
def bankAt (c : CoreId) (k : Fin 2) : BankId := ⟨c.val * 2 + k.val, by omega⟩

/-- The number of a bank within its core (00 R4). -/
def bankNo (b : BankId) : Fin 2 := ⟨b.val % 2, by omega⟩

/-- The other bank of the core. -/
def otherBank (b : BankId) : BankId := bankAt (coreOf b) ⟨1 - b.val % 2, by omega⟩

/-- A scalar register as a source: s0 gives zero (07 R156). -/
def Bank.sreg (b : Bank) (r : BitVec 5) : Word := if r = 0 then 0 else b.s.get r.toFin

/-- A scalar register as a destination: s0 discards the write (07 R156). -/
def Bank.setS (b : Bank) (r : BitVec 5) (x : Word) : Bank :=
  if r = 0 then b else { b with s := b.s.set r.toNat x r.isLt }

/-- The physical register of the vector name `k` under a base (07 R176). -/
def physV (rbv k : Nat) : Fin 64 :=
  if h : k < 16 then ⟨k, by omega⟩ else ⟨16 + (k - 16 + rbv) % 48, by omega⟩

/-- The physical register of the predicate name `k` under a base (07 R176). -/
def physP (rbp k : Nat) : Fin 16 :=
  if h : k < 8 then ⟨k, by omega⟩ else ⟨8 + (k - 8 + rbp) % 8, by omega⟩

/-- A vector register by name (07 R176). -/
def Bank.vreg (b : Bank) (k : Nat) : Vec := b.v.get (physV b.rbv k)

/-- A predicate register by name; p0 reads as all ones (12 R260). -/
def Bank.preg (b : Bank) (k : Nat) : Pred := if k = 0 then BitVec.allOnes 256 else b.p.get (physP b.rbp k)

/-- Writes a physical vector register. -/
def Bank.setV (b : Bank) (r : Fin 64) (x : Vec) : Bank := { b with v := b.v.set r.val x r.isLt, wroteV := true }

/-- Writes a physical predicate register; a write to p0 is discarded (12 R260). -/
def Bank.setP (b : Bank) (r : Fin 16) (x : Pred) : Bank := if r.val = 0 then b else { b with p := b.p.set r.val x r.isLt }

/-- Replaces segment `k` of a register value (10 R230). -/
def setSegment (v : Vec) (k : Nat) (bs : List Byte) : Vec :=
  vecOf ((vecBytes v).take (32 * k) ++ bs ++ (vecBytes v).drop (32 * k + 32))

/-- Makes one register write of an operation. -/
def Bank.regW (b : Bank) : RegW → Bank
  | .s r x => b.setS r x
  | .v r x _ => b.setV r x
  | .seg r k bs _ => b.setV r (setSegment (b.v.get r) k bs)

/-! ### Queues -/

/-- The queue of an engine (07 R162). -/
def Bank.queue (b : Bank) : Engine → List Entry
  | .S => b.qS | .L => b.qL | .C => b.qC | .W => b.qW

/-- Replaces the queue of an engine. -/
def Bank.setQueue (b : Bank) (e : Engine) (q : List Entry) : Bank :=
  match e with
  | .S => { b with qS := q } | .L => { b with qL := q } | .C => { b with qC := q } | .W => { b with qW := q }

/-- The capacity of a queue (07 R162). -/
def queueCap : Engine → Nat
  | .S => 16 | .L => 64 | .C => 128 | .W => 64

/-- Puts an entry back at the head of its queue. -/
def Bank.hold (b : Bank) (e : Engine) (x : Entry) : Bank := b.setQueue e (x :: b.queue e)

/-- A word waits: its entry stands again at the head of its queue. -/
def State.hold (s : State) (e : Engine) (x : Entry) : State := s.modBank s.cur fun b => b.hold e x

/-! ### Tokens (07 R166, R167; 06 R143) -/

/-- The other three engines of an engine, in order (06 R143). -/
def others : Engine → List Engine
  | .S => [.L, .C, .W] | .L => [.S, .C, .W] | .C => [.S, .L, .W] | .W => [.S, .L, .C]

/-- The FIFO that carries tokens from one engine to another (17 R369). -/
def fifo (src dst : Engine) : Fin 12 :=
  Fin.ofNat 12 (3 * src.num + (if dst.num < src.num then dst.num else dst.num - 1))

/-- The FIFOs that a pop field names: bit 45 the first other engine, 44 the second, 43 the third (06 R143). -/
def popFifos (e : Engine) (pop : BitVec 3) : List (Fin 12) :=
  ((others e).zip [pop.getLsbD 2, pop.getLsbD 1, pop.getLsbD 0]).filterMap fun (o, set) =>
    if set then some (fifo o e) else none

/-- The FIFO that a push field names (06 R143). -/
def pushFifo (e : Engine) (push : BitVec 2) : Option (Fin 12) :=
  match push.toNat with
  | 0 => none
  | k + 1 => ((others e)[k]?).map (fifo e)

/-- Every FIFO that the pop field names holds a token (07 R166). -/
def Bank.hasPops (b : Bank) (e : Engine) (pop : BitVec 3) : Bool := (popFifos e pop).all fun f => decide (0 < b.tok.get f)

/-- Takes one token from each of them (07 R166). -/
def Bank.takePops (b : Bank) (e : Engine) (pop : BitVec 3) : Bank :=
  (popFifos e pop).foldl (fun b f => { b with tok := b.tok.set f.val (b.tok.get f - 1) f.isLt }) b

/-- The target FIFO has room for a reservation (07 R167). -/
def Bank.canPush (b : Bank) (e : Engine) (push : BitVec 2) : Bool :=
  match pushFifo e push with
  | none => true
  | some f => decide (b.tok.get f + b.rsv.get f < 15)

/-- Reserves a place (07 R167). -/
def Bank.reserve (b : Bank) (e : Engine) (push : BitVec 2) : Bank :=
  match pushFifo e push with
  | none => b
  | some f => { b with rsv := b.rsv.set f.val (b.rsv.get f + 1) f.isLt }

/-- Gives a reservation back (10 R236). -/
def Bank.unreserve (b : Bank) (e : Engine) (push : BitVec 2) : Bank :=
  match pushFifo e push with
  | none => b
  | some f => { b with rsv := b.rsv.set f.val (b.rsv.get f - 1) f.isLt }

/-- Makes a push, converting the reservation into a token (07 R167). -/
def Bank.pushTok (b : Bank) (e : Engine) (push : BitVec 2) : Bank :=
  match pushFifo e push with
  | none => b
  | some f => { b with
      rsv := b.rsv.set f.val (b.rsv.get f - 1) f.isLt
      tok := b.tok.set f.val (b.tok.get f + 1) f.isLt }

/-- The entry's pops can be taken, or were (07 R166). -/
def Bank.popsOk (b : Bank) (e : Engine) (sy : Sync) (x : Entry) : Bool := x.popped || b.hasPops e sy.pop

/-- Takes the entry's pops, at its first repetition (07 R166). -/
def Bank.doPops (b : Bank) (e : Engine) (sy : Sync) (x : Entry) : Bank := if x.popped then b else b.takePops e sy.pop

/-! ### Streams (04) -/

/-- The outstanding count of a stream (04 R118). -/
def Bank.outstanding (b : Bank) (q : BitVec 3) : Nat := (b.qiss.get q.toFin - b.qdone.get q.toFin).toNat

/-- Counts an issue (04 R117). -/
def Bank.countIssue (b : Bank) (q : BitVec 3) : Bank :=
  { b with qiss := b.qiss.set q.toNat (b.qiss.get q.toFin + 1) q.isLt }

/-- Takes an issue back, at a withdrawal (10 R236). -/
def Bank.uncountIssue (b : Bank) (q : BitVec 3) : Bank :=
  { b with qiss := b.qiss.set q.toNat (b.qiss.get q.toFin - 1) q.isLt }

/-- Counts a completion (04 R117). -/
def Bank.countDone (b : Bank) (q : BitVec 3) : Bank :=
  { b with qdone := b.qdone.set q.toNat (b.qdone.get q.toFin + 1) q.isLt }

/-- The 128-byte blocks of storage that `n` bytes at `l` reach (04 R98). -/
def Store.blocks (st : Store) (l n : Nat) : List Nat := linesOf (st.resolve l) n

/-- Whether B must wait for the unfinished operation A (04 Table 4.2). -/
def holds (a : Op) (bSync bCopy : Bool) (blocks : List Nat) : Bool :=
  a.scope.isSome || bSync || a.isCopy || bCopy || a.blocks.any fun x => blocks.contains x

/-- Whether a predecessor among queues and operations keeps an entry at its queue head: it has not issued, or it has not completed and Table 4.2 asks
for completion (04 R98). A copy that keeps its queue head has not left it, though it may have issued. -/
def heldBy (qL qW : List Entry) (ops : List Op) (x : Entry) (bSync bCopy : Bool) (blocks : List Nat) : Bool :=
  x.preds.any fun u =>
    (qL.any fun y => y.uid == u) || (qW.any fun y => y.uid == u)
    || ops.any fun a => a.uid == u && !a.spent && holds a bSync bCopy blocks

/-- A predecessor of the bank keeps an entry at its queue head. A handler's entry is held by those that its entry suspended too:
a trap never changes ob (04 R98, R120). -/
def Bank.held (b : Bank) (x : Entry) (bSync bCopy : Bool) (blocks : List Nat) : Bool :=
  heldBy b.qL b.qW b.ops x bSync bCopy blocks
    || match b.image with
      | some g => heldBy g.qL g.qW g.ops x bSync bCopy blocks
      | none => false

/-! ### Handles (01 R20-R23) -/

/-- Word 0 of a handle (01 Table 1.5). -/
def Handle.word0 (h : Handle) : Word := h.base.setWidth 64

/-- The code of STATE (01 Table 1.6). -/
def HSt.code : HSt → Nat
  | .invalid => 0 | .pending => 1 | .valid => 2 | .faulted => 3

/-- A bit as a number. -/
def b2n (b : Bool) : Nat := if b then 1 else 0

/-- Word 1 of a handle (01 Table 1.6). -/
def Handle.word1 (h : Handle) : Word :=
  BitVec.ofNat 64 (h.extent.toNat * 2 ^ 32 + h.window.toNat * 2 ^ 24 + h.gen.toNat * 2 ^ 16 + h.fkind.toNat * 2 ^ 10
    + h.home.toNat * 2 ^ 8 + b2n h.unbacked * 2 ^ 7 + b2n h.wr * 2 ^ 6 + b2n h.rd * 2 ^ 5 + h.size.toNat * 2 ^ 3
    + b2n h.isLocal * 2 ^ 2 + h.st.code)

/-- A faulted handle of a kind (01 R22, R25, R27). -/
def Handle.faultedOf (kind : Nat) : Handle := { Handle.reset with st := .faulted, fkind := BitVec.ofNat 4 kind }

/-- The size of a local window (01 Table 1.7). -/
def Bank.windowSize (b : Bank) (w : BitVec 2) : Nat :=
  match w.toNat with
  | 0 => b.spSize
  | 1 => b.mvSize
  | 2 => 0x4000000
  | _ => 0x2000000

/-- The physical address of byte 0 of a local window (01 Table 1.7, R23). -/
def Bank.windowBase (b : Bank) (id : BankId) (w : BitVec 2) : Nat :=
  match w.toNat with
  | 0 => padBase (coreOf id) + b.spBase
  | 1 => sliceBase (coreOf id) + b.mvBase
  | 2 => clusterBase (clusterOf id)
  | _ => dieScratchBase (dieOf id)

/-- A valid local handle over [o, o + n) of a window (01 R22, R23; 09 R217). -/
def localHandle (b : Bank) (id : BankId) (w : BitVec 2) (o n : Nat) : Handle :=
  { Handle.reset with
    st := .valid, isLocal := true, size := 2, rd := true, wr := true, home := BitVec.ofNat 2 (dieOf id).val
    window := w.setWidth 3, extent := BitVec.ofNat 32 n, base := BitVec.ofNat 52 o, loc := b.windowBase id w + o }

/-- What the access check answers: pass, wait for the walk, or the group-1 kind (01 R28). -/
inductive Chk where
  | pass | wait | fail (kind : Nat)
  deriving DecidableEq, Repr

/-- An access of `z` bytes at offset `o` of a window-2 handle reaches a save region (03 R68). -/
def Handle.savesHit (h : Handle) (o z : Nat) : Bool :=
  h.isLocal && h.window == 2 &&
    (decide (0x780000 ≤ (h.base.toNat + o) % 0x800000) || decide (0x780000 ≤ (h.base.toNat + o + z - 1) % 0x800000))

/-- The checks of 01 R28, in their order. -/
def Capture.check (c : Capture) (needR needW aligned : Bool) (o z : Nat) : Chk :=
  match c.h.st with
  | .invalid => .fail 5
  | .pending => if c.stale then .fail 4 else .wait
  | .faulted => .fail c.h.fkind.toNat
  | .valid =>
    if c.stale then .fail 4
    else if (needR && !c.h.rd) || (needW && !c.h.wr) then .fail 1
    else if !aligned then .fail 6
    else if c.h.savesHit o z then .fail 13
    else if c.h.extent.toNat < o + z then .fail 3
    else .pass

/-! ### Causes and the cut (17 R353-R358, R366) -/

/-- TSTATE.INH: a handler runs (17 Table 17.7). -/
def Bank.inh (b : Bank) : Bool := b.tstate.getLsbD 0

/-- The causes that go through TVEC (17 Table 17.1). -/
def viaTvec (c : Cause) : Bool := c.group == 3 || c.group == 4 || (c.group == 5 && c.kind == 0)

/-- The cause is delivered to the task's handler (17 R363, R364). -/
def Bank.toHandler (b : Bank) (c : Cause) : Bool := viaTvec c && b.tvec.getLsbD 63 && !b.inh

/-- TCAUSE with VALID and a code (17 Table 17.5). -/
def tcauseOf (c : Cause) : Word := BitVec.ofNat 64 (2 ^ 15 + c.code)

/-- TSTATE at a cut (17 Table 17.7). -/
def tstateOf (c : Cause) (inh : Bool) (x : Entry) : Word :=
  BitVec.ofNat 64 (x.idx.toNat % 2 ^ 32 * 2 ^ 32 + x.uid % 2 ^ 16 * 2 ^ 16 + x.seg % 8 * 2 ^ 9 + x.rep % 32 * 2 ^ 4
    + c.engine.num * 2 ^ 2 + b2n (inh && viaTvec c) * 2 + b2n inh)

/-- Takes a cause at an entry: the cut. TCAUSE, TVAL and TSTATE are written, the entry stands again at the head of its
queue unless it completed in raising the cause, and the bank drains (17 R357, R366). The drain's end delivers it. -/
def Bank.raise (b : Bank) (c : Cause) (x : Entry) (tval : Word) (keep : Bool) : Bank :=
  { (if keep then b.hold c.engine x else b) with
    tcause := tcauseOf c
    tval := tval
    tstate := tstateOf c b.inh x
    cut := some (.cause c) }

/-- The waits of the S head end at a cut: it is saved unexecuted, and a class granted to it is given back (09 R222-R224;
17 R359). -/
def Bank.endWaits (b : Bank) : Bank :=
  match b.qS, b.swait with
  | y :: ys, .power _ =>
    { b with
      swait := .none, qS := { y with answer := none } :: ys
      pwrCls := match y.answer with | some old => old.toNat | none => b.pwrCls }
  | y :: ys, _ => { b with swait := .none, qS := { y with answer := none } :: ys }
  | [], _ => { b with swait := .none }

/-- A cut withdraws the bank's request for headroom (09 R222; 18 R386), ends the waits of its S head, and takes the TIME of
the cut (17 Table 17.10). -/
def State.endWaits (s : State) (b : BankId) : State :=
  let d := dieOf b
  let p := s.power.dies.get d
  { s with power := { s.power with
      dies := s.power.dies.set d.val { p with heads := p.heads.filter fun h => h.bank != b || h.placement } d.isLt } }.modBank b
    fun x => { x.endWaits with cutAt := s.time }

/-- Takes a cause at the entry in hand. Where a cut of the bank stands already the entry is put back, and raises its cause again when the
bank goes on (17 R358). -/
def State.raise (s : State) (c : Cause) (x : Entry) (tval : Word) : State :=
  if (s.bank s.cur).cut.isSome then s.hold c.engine x
  else (s.modBank s.cur fun b => b.raise c x tval true).endWaits s.cur

/-- Takes a group-1 cause of an access at an offset; a line that its home L2 granted it is asked for anew (17 Table 17.3). -/
def State.raiseMem (s : State) (e : Engine) (kind : Nat) (x : Entry) (o : Nat) : State :=
  s.raise { group := 1, kind := kind, engine := e } { x with alloc := .none } (BitVec.ofNat 64 o)

/-! ### Delivery of a cause, and the return from a handler (17 R360, R363, R365) -/

/-- A flight with its landing counted from now (17 Table 17.9: remaining engine cycles). -/
def Flight.saved (f : Flight) (now : Nat) : Flight := { f with due := f.due - now, slackEnd := f.slackEnd - now }

/-- A saved flight that flies on from now (17 R374). -/
def Flight.resumed (f : Flight) (now : Nat) : Flight := { f with due := f.due + now, slackEnd := f.slackEnd + now }

/-- SRSTATE as S reads it: the last write, whether C has taken it up or not (08 Table 8.5). -/
def Bank.srView (b : Bank) : BitVec 32 := match b.srPend.getLast? with | some p => p.2 | none => b.srstate

/-- Handler entry of a drained bank: the entries after the cut, the replay state and the tokens go to the image, the
queues are emptied, INH is set, and dispatch starts at TVEC.INDEX (17 R363). The handler's words come after every write of SRSTATE that
was executed, and the saved C entries keep the sequence that is theirs (08 Table 8.11). -/
def Bank.enterHandler (b : Bank) : Bank :=
  { b with
    image := some {
      qS := b.qS, qL := b.qL, qC := b.qC, qW := b.qW, flights := b.flights.map (·.saved b.engcyc), mma := b.mma
      copies := b.copies, ops := b.ops, tok := b.tok, rsv := b.rsv, pc := b.pc, uid := b.uid, ctl := b.ctl
      stopFetch := b.stopFetch, swait := .none, sr := b.srstate
      srPend := if b.qC.isEmpty then [] else b.srPend, frameNo := b.frameNo }
    qS := [], qL := [], qC := [], qW := [], flights := [], mma := [], copies := [], ops := []
    tok := Vector.replicate 12 0, rsv := Vector.replicate 12 0
    tstate := b.tstate ||| 1
    pc := b.tvec &&& 0xFFFFFFFF
    ctl := false, stopFetch := false, swait := .none, srstate := b.srView, srPend := []
    kind := 2, cut := none }

/-- Delivery to the gaffer complex of a drained bank: it is switched out with a trap frame of KIND 1 (17 R360). -/
def Bank.switchOut (b : Bank) : Bank := { b with status := .switchedOut, kind := 1, cut := none, awaits := true }

/-- The last of some writes of SRSTATE with the value that the sequence has come to since. -/
def srReached (ps : List (Nat × BitVec 32)) (l : BitVec 32) : List (Nat × BitVec 32) :=
  ps.dropLast ++ (ps.getLast?.map fun p => (p.1, l)).toList

/-- SRSTATE takes the value of a write: the C entries of a handler image that were dispatched before it keep the sequence that they had
(08 Table 8.11). DESIGN CHOICE: so does a handler's write, with which 17 R363 has it restore what its own words changed: the entries that ERET
re-injects go on with the sequence as those words have left it, and the written value acts after them; the spec does not say (08 R201; 09 R192;
log entry 67). -/
def Bank.setSr (b : Bank) (uid : Nat) (x : BitVec 32) : Bank :=
  { b with
    srstate := x
    image := b.image.map fun g => if g.qC.isEmpty then g else { g with
      sr := if g.srPend.isEmpty then b.srstate else g.sr, srPend := srReached g.srPend b.srstate ++ [(uid, x)] } }

/-- Return from the handler: its tokens are discarded, the saved counts, queues and replay state come back, INH and KIND
become 0, and dispatch goes on at the saved PC (17 R365, R374). The format words that it leaves come before the words that it interrupted
(09 R221; log entry 16). -/
def Bank.leaveHandler (b : Bank) (g : HImage) : Bank :=
  { b with
    image := none
    qS := g.qS, qL := g.qL, qC := g.qC, qW := g.qW, flights := g.flights.map (·.resumed b.engcyc), mma := g.mma
    copies := g.copies, ops := g.ops, tok := g.tok, rsv := g.rsv
    tstate := b.tstate &&& ~~~(1 : Word)
    pc := g.pc
    ctl := g.ctl, stopFetch := g.stopFetch, swait := g.swait
    fq := b.fq.map fun p => if g.uid ≤ p.1 then (0, p.2) else p
    srstate := if g.srPend.isEmpty then b.srstate else g.sr, srPend := srReached g.srPend b.srstate ++ b.srPend
    kind := 0 }

/-! ### Free values -/

/-- The next free value, and the state with the counter advanced (log entry 4). -/
def State.nextFree (s : State) : Word × State := (Config.freeWord s.free, { s with free := s.free + 1 })

/-- The home L2 of a location, where it has one. -/
def homeDie (l : Nat) : Option Die :=
  match regionOf l with
  | .hbm d | .unbacked d => some d
  | .slice _ | .pad _ | .dieScratch _ | .control _ | .hole | .fabric => none

/-! ### Error records, and reads at a home that find errors (03 R84, R85; 20 R414, R415) -/

/-- Changes the gaffer complex. -/
def State.modGaffer (s : State) (f : Gaffer → Gaffer) : State := { s with gaffer := f s.gaffer }

/-- Adds a report for hosts. A request that is refused has its code as the status of its reply (19 R412). -/
def State.report (s : State) (r : Report) : State := s.modGaffer fun g => { g with
  reports := g.reports ++ [r]
  reply := match r with | .refused k => g.reply.map fun q => (q.1, k) | _ => g.reply }

/-- Messages that wait at their senders go into the mailbox of a gaffer core, in the order sent, while it has room for 64 (19 R411). -/
def Gaffer.deliver (g : Gaffer) (k : Fin 8) : Gaffer :=
  let n := 64 - (g.inbox.get k).length
  let mine := g.senders.filter fun p => p.1 == k
  { g with
    inbox := g.inbox.set k.val (g.inbox.get k ++ (mine.take n).map (·.2)) k.isLt
    senders := (g.senders.filter fun p => p.1 != k) ++ mine.drop n }

/-- A message is sent to a gaffer core; it waits while the core's mailbox is full, and nothing is dropped (19 R411). -/
def Gaffer.tell (g : Gaffer) (k : Fin 8) (m : Msg) : Gaffer := { g with senders := g.senders ++ [(k, m)] }.deliver k

/-- A gaffer core takes a message out of its mailbox, and those that waited follow (19 R411). -/
def Gaffer.take (g : Gaffer) (k : Fin 8) (m : Msg) : Gaffer :=
  { g with inbox := g.inbox.set k.val ((g.inbox.get k).erase m) k.isLt }.deliver k

/-- 24 hours in nanoseconds (20 R415). -/
def errWindow : Nat := 86400000000000

/-- The die of an error location. -/
def dieOfErr : ErrLoc → Die
  | .frame n => Fin.ofNat 4 (n * 0x10000 / 0x2000000000)
  | .storageSet d _ | .remoteSet d _ | .dieBlock d _ => d
  | .core c => dieOfCore c
  | .gafferMem => 0

/-- The records after an error of a weight: a new record, a count, and room made by dropping the oldest that is not
lasting (20 R415). DESIGN CHOICE: where a die's 4,096 records are all lasting, no record is made (log entry 63). -/
def countRecord (rs : List ErrRec) (loc : ErrLoc) (w time : Nat) : List ErrRec :=
  match rs.find? fun r => r.loc == loc with
  | some r =>
    if !r.lasting && decide (errWindow ≤ time - r.first) then
      let rest := rs.filter fun r => r.loc != loc
      if w = 0 then rest else rest ++ [{ loc := loc, count := w, first := time, lasting := false }]
    else modFirst (fun r => r.loc == loc) (fun r => { r with count := r.count + w, lasting := r.lasting || decide (4 ≤ r.count + w) }) rs
  | none =>
    let fresh : ErrRec := { loc := loc, count := w, first := time, lasting := false }
    if w = 0 then rs
    else if (rs.filter fun r => dieOfErr r.loc == dieOfErr loc).length < 4096 then rs ++ [fresh]
    else match takeFirst (fun r => dieOfErr r.loc == dieOfErr loc && !r.lasting) rs with
      | some (_, rest) => rest ++ [fresh]
      | none => rs

/-- Counts an error of a weight at a location. A record that becomes lasting has its consequence with the next turn of the device (20
R415; log entry 67). -/
def State.countQuiet (s : State) (loc : ErrLoc) (w : Nat) : State :=
  s.modGaffer fun g => { g with records := countRecord g.records loc w s.time }

/-- The error of a 32-byte unit in HBM, its poison flags apart (03 R84). -/
def Store.hbmGroup (st : Store) (g : Nat) : Option Ecc := (st.hbmEcc.find? fun p => p.1 / 4 == g && p.2 != .poison).map (·.2)

/-- A read finds what HBM holds against the line of a unit, which comes into its L2: a single-bit error of each 32-byte unit is corrected
and counted at the frame, as `count` does it, and an uncorrectable one is stored as poison, logged and counted (03 R84, R85; 20 R415, Table 20.1). -/
def State.senseHbmBy (count : State → ErrLoc → Nat → State) (s : State) (u : Nat) : State :=
  if s.store.hbmEcc.isEmpty || s.store.dirty.contains (u / 16) then s
  else
    let loc := ErrLoc.frame (u * 8 / 0x10000)
    (List.range 4).foldl (fun (t : State) k => match s.store.hbmGroup (u / 16 * 4 + k) with
      | some .single => count t loc 1
      | some .uncorrectable => count (t.report (.uncorrectable ((u / 16 * 4 + k) * 4) false)) loc 2
      | some .poison | none => t) (s.modStore fun st => st.fillLine (u / 16))

/-- A read finds the error of a line's tag in the L2 of a die: a single-bit error is corrected and counted; after an uncorrectable one the
line is poison, which is logged and counted (03 R84, R85; 20 Table 20.1). DESIGN CHOICE: the spec does not say what becomes of a line whose
tag cannot be corrected (log entry 65). -/
def State.senseTagBy (count : State → ErrLoc → Nat → State) (s : State) (d : Die) (line : Nat) : State :=
  match s.store.tagEcc.find? fun p => p.1 == d && p.2.1 == line with
  | none => s
  | some (_, _, single) =>
    let away := remoteHomed d (line * 128)
    let loc := if away then ErrLoc.remoteSet d (line / 16) else .storageSet d (line / 16)
    let units := (List.range 16).map (line * 16 + ·)
    let s1 := s.modStore fun st => { st with tagEcc := st.tagEcc.filter fun p => !(p.1 == d && p.2.1 == line) }
    if single then count s1 loc 1
    else
      count ((s1.modStore fun st =>
        if away then { st with remote := st.remote.map fun (r : RLine) =>
          if r.die = d ∧ r.line = line then { r with ecc := units.map fun u => (u, Ecc.poison) } else r }
        else units.foldl (fun st u => st.setEcc u (some .poison)) st).report (.uncorrectable (line * 16) false)) loc 2

/-- A read at the home of a line finds the error of its tag there. -/
def State.senseHomeTagBy (count : State → ErrLoc → Nat → State) (s : State) (line : Nat) : State :=
  if s.store.tagEcc.isEmpty then s else match homeDie (line * 128) with | some d => s.senseTagBy count d line | none => s

/-! ### L2 traffic filters (20 R423) -/

/-- The line address that a filter tests and an entry names: an unbacked line by the ADDR field of its leaf (01 Table 1.3). -/
def linePa (line : Nat) : Nat :=
  let l := line * 128
  if 2 ^ 48 ≤ l then (l - 2 ^ 48) / 2 ^ 41 % 256 * 2 ^ 15 + (l - 2 ^ 48) / 2 ^ 16 % 2 ^ 25 * 2 ^ 23 else l

/-- A filter matches an access (20 R423). -/
def filterMatches (f : FilterParms) (pa req op : Nat) (hit : Bool) : Bool :=
  f.enabled && pa &&& f.mask == f.base &&& f.mask && decide (f.reqLo ≤ req) && decide (req ≤ f.reqHi) && f.ops.getLsbD op
    && (if hit then f.hits else f.misses)

/-- A filter of the die is enabled. -/
def Gaffer.filtersOn (g : Gaffer) (h : Die) : Bool :=
  (g.filters.get h).toList.any fun f => match f with | some p => p.enabled | none => false

/-- A traffic log entry (20 Table 20.7). -/
def logEntry (line req op time : Nat) (hit : Bool) : List Byte :=
  leBytes 16 (linePa line + req * 2 ^ 48 + op * 2 ^ 56 + b2n hit * 2 ^ 60 + b2n (decide (2 ^ 48 ≤ line * 128)) * 2 ^ 61
    + time % 2 ^ 32 * 2 ^ 64 + (Config.sliceOf line).val * 2 ^ 96)

/-- Whether an access of the home L2 to a line hits, where the model's state tells: a pinned line and a dirty one are held, and an absent
line is not (02 R42; 03 R78). -/
def Store.hitKnown (st : Store) (line : Nat) : Option Bool :=
  if 2 ^ 48 ≤ line * 128 then some (st.lineSt line == some .pinned) else if st.dirty.contains line then some true else none

/-- A whole unit is to be written at a location: its line comes into its L2, and errors of its tag and of HBM are found (03 R84, R85). -/
def State.openLine (s : State) (l : Nat) : State :=
  (s.senseHomeTagBy State.countQuiet (l / 128)).senseHbmBy State.countQuiet (l / 8)

/-- One access of a slice to a line: an entry goes to the die's log ring where a filter matches, and a full ring counts the
drop. Whether the access hits is a free value where the state does not tell (log entry 4). -/
def State.logLine (s0 : State) (h : Die) (req op : Nat) (known : Option Bool) (line : Nat) : State :=
  let hit := known.getD ((Config.freeWord s0.free).getLsbD 0)
  let s := s0.openLine ((s0.gaffer.rings.get h).pa + 16 * (s0.gaffer.rings.get h).next)
  let t : State := { s with free := s.free + 1 }
  if (s.gaffer.filters.get h).toList.any fun f => match f with | some p => filterMatches p (linePa line) req op hit | none => false then
    let r := s.gaffer.rings.get h
    let room := decide (r.next < 2 ^ r.log)
    let r' : LogRing := if room then { r with next := r.next + 1 } else { r with dropped := r.dropped + 1 }
    { t with
      store := if room then s.store.put h (r.pa + 16 * r.next) (logEntry line req op s.time hit) else s.store
      gaffer := { t.gaffer with rings := t.gaffer.rings.set h.val r' h.isLt } }
  else { s0 with free := s0.free + 1 }

/-- The slices that `n` bytes at `l` reach test the access against the filters of their die (20 R423). -/
def State.traffic (s : State) (req : Die → Nat) (op l n : Nat) : State :=
  let a := s.store.resolve l
  match homeDie a with
  | none => s
  | some h =>
    if s.gaffer.filtersOn h then (linesOf a n).foldl (fun (t : State) x => t.logLine h (req h) op (s.store.hitKnown x) x) s else s

/-- A read of `n` bytes at `l` by an agent of die `d`: a remote line that the die holds a copy of is read in the die's own slice, where it
hits, and every other line at its home (03 R79; 20 R423). -/
def State.trafficRead (s : State) (d : Die) (req : Die → Nat) (l n : Nat) : State :=
  let a := s.store.resolve l
  if remoteHomed d a then
    (linesOf a n).foldl (fun (t : State) x =>
      if (s.store.copyOf d x).isSome then
        (if t.gaffer.filtersOn d then t.logLine d (req d) 0 (some true) x else t)
      else t.traffic req 0 (x * 128) 128) s
  else s.traffic req 0 l n

/-- A store of `n` bytes at `l` by an agent of die `d`: the die's own slice updates the copy that it holds of a remote line, and the home
performs the store (03 R80; 20 R423). -/
def State.trafficStore (s : State) (d : Die) (req : Die → Nat) (l n : Nat) : State :=
  let a := s.store.resolve l
  let t := if remoteHomed d a && s.gaffer.filtersOn d then
      (linesOf a n).foldl (fun (t : State) x => if (s.store.copyOf d x).isSome then t.logLine d (req d) 1 (some true) x else t) s
    else s
  t.traffic req 1 l n

/-- The requester number of an agent of a die at a die's L2 (20 Table 20.7). -/
def reqFor (who : Nat) (d h : Die) : Nat := if h = d then who else 75

/-- The requester number of a bank at a die (20 Table 20.7). -/
def reqOf (b : BankId) (h : Die) : Nat := if dieOf b = h then (coreOf b).val % 72 else 75

end Sys2Proof.Machine
end

