-- ==== Sys2Proof/Machine/Operands.lean ====
section
/-! DEFINITION. What each word uses, its capture at dispatch, the interlocks of dispatch and issue, and the operand forms
of the S, L and W words. -/

namespace Sys2Proof.Machine

open Sys2Proof

/-- What a word uses: its engine and sync fields; the scalar registers it reads, those whose values it stores, and those
it writes; the handle and layout register it names; its ordering fields; the handle or layout register that it writes;
whether it is a control word after which dispatch waits (07 R163), a copy, and a synchronising operation with a scope
field or a fixed scope (04 R103). -/
structure Uses where
  eng : Option Engine
  sy : Sync
  reads : List (BitVec 5)
  data : List (BitVec 5)
  writes : List (BitVec 5)
  handle : Option (BitVec 4)
  layout : Option (BitVec 3)
  od : Option Ord
  hw : Option (BitVec 4)
  yw : Option (BitVec 3)
  ctl : Bool
  copy : Bool
  scope : Option Nat

/-- An event uses nothing of a queue. -/
def noUses : Uses where
  eng := none
  sy := { pop := 0, push := 0 }
  reads := []
  data := []
  writes := []
  handle := none
  layout := none
  od := none
  hw := none
  yw := none
  ctl := false
  copy := false
  scope := none

/-- An S word. -/
def sUses (sy : Sync) (reads writes : List (BitVec 5)) : Uses :=
  { noUses with eng := some .S, sy := sy, reads := reads, writes := writes }

/-- An L or W word. -/
def lwUses (e : Engine) (sy : Sync) (od : Ord) : Uses := { noUses with eng := some e, sy := sy, od := some od }

/-- A C word. -/
def cUses (sy : Sync) : Uses := { noUses with eng := some .C, sy := sy }

/-- The scalar registers that a repeated word names (07 R178). -/
def regRun (r : BitVec 5) (rep : BitVec 5) : List (BitVec 5) :=
  (List.range (rep.toNat + 1)).map fun j => r + BitVec.ofNat 5 j

/-- What each instruction uses (01 R24, R29; 02 R55; 07 R155-R159, R163; 09-13; 15 R323; 16 R345). -/
def usesOf : Instr → Uses
  | .nop a => sUses a.sy [] []
  | .add a => sUses a.sy [a.ra, a.rb] [a.rd]
  | .sub a => sUses a.sy [a.ra, a.rb] [a.rd]
  | .mul a => sUses a.sy [a.ra, a.rb] [a.rd]
  | .mulh a => sUses a.sy [a.ra, a.rb] [a.rd]
  | .mulhu a => sUses a.sy [a.ra, a.rb] [a.rd]
  | .div a => sUses a.sy [a.ra, a.rb] [a.rd]
  | .divu a => sUses a.sy [a.ra, a.rb] [a.rd]
  | .rem a => sUses a.sy [a.ra, a.rb] [a.rd]
  | .remu a => sUses a.sy [a.ra, a.rb] [a.rd]
  | .and a => sUses a.sy [a.ra, a.rb] [a.rd]
  | .or a => sUses a.sy [a.ra, a.rb] [a.rd]
  | .xor a => sUses a.sy [a.ra, a.rb] [a.rd]
  | .sll a => sUses a.sy [a.ra, a.rb] [a.rd]
  | .srl a => sUses a.sy [a.ra, a.rb] [a.rd]
  | .sra a => sUses a.sy [a.ra, a.rb] [a.rd]
  | .slt a => sUses a.sy [a.ra, a.rb] [a.rd]
  | .sltu a => sUses a.sy [a.ra, a.rb] [a.rd]
  | .min a => sUses a.sy [a.ra, a.rb] [a.rd]
  | .max a => sUses a.sy [a.ra, a.rb] [a.rd]
  | .addi a => sUses a.sy [a.ra] [a.rd]
  | .andi a => sUses a.sy [a.ra] [a.rd]
  | .ori a => sUses a.sy [a.ra] [a.rd]
  | .xori a => sUses a.sy [a.ra] [a.rd]
  | .slli a => sUses a.sy [a.ra] [a.rd]
  | .srli a => sUses a.sy [a.ra] [a.rd]
  | .srai a => sUses a.sy [a.ra] [a.rd]
  | .slti a => sUses a.sy [a.ra] [a.rd]
  | .li a => sUses a.sy [] [a.rd]
  | .lih a => sUses a.sy [a.rd] [a.rd]
  | .beq a => { sUses a.sy [a.ra, a.rb] [] with ctl := true }
  | .bne a => { sUses a.sy [a.ra, a.rb] [] with ctl := true }
  | .blt a => { sUses a.sy [a.ra, a.rb] [] with ctl := true }
  | .bge a => { sUses a.sy [a.ra, a.rb] [] with ctl := true }
  | .bltu a => { sUses a.sy [a.ra, a.rb] [] with ctl := true }
  | .bgeu a => { sUses a.sy [a.ra, a.rb] [] with ctl := true }
  | .jal a => { sUses a.sy [] [a.rd] with ctl := true }
  | .jalr a => { sUses a.sy [a.ra] [a.rd] with ctl := true }
  | .loopb a => { sUses a.sy [a.counter] [a.counter] with ctl := true }
  | .endt a => { sUses a.sy [] [] with ctl := true }
  | .crd a => sUses a.sy [] [a.rd]
  | .cwr a => sUses a.sy [a.ra] []
  | .cset a => sUses a.sy [a.ra] []
  | .cclr a => sUses a.sy [a.ra] []
  | .trap a => { sUses a.sy [] [] with ctl := true }
  | .eret a => { sUses a.sy [] [] with ctl := true }
  | .waitev a => sUses a.sy [a.ra] [a.rd]
  | .xlate a => { sUses a.sy [a.ra] [] with hw := some a.hd }
  | .hlocal a => { sUses a.sy [a.base, a.ext] [] with hw := some a.hd }
  | .hinv a => { sUses a.sy [] [] with hw := some a.hd }
  | .hget a => { sUses a.sy [] [a.rd] with handle := some a.hd }
  | .yset a => { sUses a.sy [a.s] [] with yw := some a.y }
  | .yget a => sUses a.sy [] [a.s]
  | .yclr a => { sUses a.sy [] [] with yw := some a.y }
  | .fpush a => sUses a.sy [a.ra] []
  | .fpushi a => sUses a.sy [] []
  | .pwracq a => sUses a.sy [a.ra] [a.rd]
  | .pwrrel a => sUses a.sy [] []
  | .slotwait a => sUses a.sy [a.ra] [a.rd]
  | .ctxq a => sUses a.sy [a.ra, a.rb] [a.rd]
  | .yield a => { sUses a.sy [] [] with ctl := true }
  | .ldb a => { lwUses .L a.sy a.od with reads := [a.idx], writes := regRun a.reg a.rep, handle := some a.h }
  | .ldbu a => { lwUses .L a.sy a.od with reads := [a.idx], writes := regRun a.reg a.rep, handle := some a.h }
  | .ldh a => { lwUses .L a.sy a.od with reads := [a.idx], writes := regRun a.reg a.rep, handle := some a.h }
  | .ldhu a => { lwUses .L a.sy a.od with reads := [a.idx], writes := regRun a.reg a.rep, handle := some a.h }
  | .ldw a => { lwUses .L a.sy a.od with reads := [a.idx], writes := regRun a.reg a.rep, handle := some a.h }
  | .ldwu a => { lwUses .L a.sy a.od with reads := [a.idx], writes := regRun a.reg a.rep, handle := some a.h }
  | .ldd a => { lwUses .L a.sy a.od with reads := [a.idx], writes := regRun a.reg a.rep, handle := some a.h }
  | .vld a => { lwUses .L a.sy a.od with reads := [a.idx], handle := some a.h }
  | .vlds a => { lwUses .L a.sy a.od with reads := [a.idx, a.idx + 1], handle := some a.h }
  | .vldb a => { lwUses .L a.sy a.od with reads := [a.idx], handle := some a.h }
  | .cpin a => { lwUses .L a.sy a.od with reads := [a.loc, a.org, a.mc], handle := some a.h, layout := some a.y, copy := true }
  | .cpgather a => { lwUses .L a.sy a.od with reads := [a.loc], handle := some a.h, layout := some a.y, copy := true }
  | .semwait a => { lwUses .L a.sy a.od with reads := [a.idx, a.opnd], writes := [a.res], handle := some a.h, scope := some a.scope.toNat }
  | .barwait a => { lwUses .L a.sy a.od with reads := [a.idx, a.opnd], writes := [a.res], handle := some a.h, scope := some a.scope.toNat }
  | .wltake a => { lwUses .L a.sy a.od with reads := [a.idx, a.opnd], writes := [a.res], handle := some a.h, scope := some a.scope.toNat }
  | .vldl a => { cUses a.sy with reads := [a.sa] }
  | .vstl a => { cUses a.sy with reads := [a.sa] }
  | .vldm a => { cUses a.sy with reads := [a.sa] }
  | .vstm a => { cUses a.sy with reads := [a.sa] }
  | .vadd a => cUses a.sy
  | .vsub a => cUses a.sy
  | .vmul a => cUses a.sy
  | .vfma a => cUses a.sy
  | .vmin a => cUses a.sy
  | .vmax a => cUses a.sy
  | .vabs a => cUses a.sy
  | .vdiv a => cUses a.sy
  | .vrcp a => cUses a.sy
  | .vrsq a => cUses a.sy
  | .vexp2 a => cUses a.sy
  | .vlog2 a => cUses a.sy
  | .vsqrt a => cUses a.sy
  | .vcvt a => cUses a.sy
  | .vqnt a => cUses a.sy
  | .vdqnt a => cUses a.sy
  | .vcmp a => cUses a.sy
  | .vsel a => cUses a.sy
  | .vand a => cUses a.sy
  | .vor a => cUses a.sy
  | .vxor a => cUses a.sy
  | .vshl a => cUses a.sy
  | .vshr a => cUses a.sy
  | .vshra a => cUses a.sy
  | .vmov a => cUses a.sy
  | .vmovi a => cUses a.sy
  | .vfroms a => { cUses a.sy with reads := [a.sa] }
  | .vtos a => { cUses a.sy with reads := [a.sl], writes := [a.sd] }
  | .vredadd a => cUses a.sy
  | .vredmax a => cUses a.sy
  | .vredmin a => cUses a.sy
  | .vargmax a => cUses a.sy
  | .vperm a => cUses a.sy
  | .vslide a => { cUses a.sy with reads := [a.sk] }
  | .vbcast a => { cUses a.sy with reads := [a.sk] }
  | .viota a => cUses a.sy
  | .pand a => cUses a.sy
  | .por a => cUses a.sy
  | .pxor a => cUses a.sy
  | .pnot a => cUses a.sy
  | .pset a => { cUses a.sy with reads := [a.sk] }
  | .rbset a => cUses a.sy
  | .slack a => cUses a.sy
  | .mma a => { cUses a.sy with reads := [a.sa, a.sb] }
  | .mmat a => { cUses a.sy with reads := [a.sa, a.sb] }
  | .aclr a => cUses a.sy
  | .ard a => cUses a.sy
  | .awr a => cUses a.sy
  | .asts a => { cUses a.sy with reads := [a.sa] }
  | .stb a => { lwUses .W a.sy a.od with reads := [a.idx], data := regRun a.reg a.rep, handle := some a.h }
  | .sth a => { lwUses .W a.sy a.od with reads := [a.idx], data := regRun a.reg a.rep, handle := some a.h }
  | .stw a => { lwUses .W a.sy a.od with reads := [a.idx], data := regRun a.reg a.rep, handle := some a.h }
  | .std a => { lwUses .W a.sy a.od with reads := [a.idx], data := regRun a.reg a.rep, handle := some a.h }
  | .vst a => { lwUses .W a.sy a.od with reads := [a.idx], handle := some a.h }
  | .vsts a => { lwUses .W a.sy a.od with reads := [a.idx, a.idx + 1], handle := some a.h }
  | .aadd a => { lwUses .W a.sy a.od with reads := [a.idx, a.opnd], writes := [a.res], handle := some a.h, scope := some a.scope.toNat }
  | .amin a => { lwUses .W a.sy a.od with reads := [a.idx, a.opnd], writes := [a.res], handle := some a.h, scope := some a.scope.toNat }
  | .amax a => { lwUses .W a.sy a.od with reads := [a.idx, a.opnd], writes := [a.res], handle := some a.h, scope := some a.scope.toNat }
  | .aand a => { lwUses .W a.sy a.od with reads := [a.idx, a.opnd], writes := [a.res], handle := some a.h, scope := some a.scope.toNat }
  | .aor a => { lwUses .W a.sy a.od with reads := [a.idx, a.opnd], writes := [a.res], handle := some a.h, scope := some a.scope.toNat }
  | .axor a => { lwUses .W a.sy a.od with reads := [a.idx, a.opnd], writes := [a.res], handle := some a.h, scope := some a.scope.toNat }
  | .aswap a => { lwUses .W a.sy a.od with reads := [a.idx, a.opnd], writes := [a.res], handle := some a.h, scope := some a.scope.toNat }
  | .acas a => { lwUses .W a.sy a.od with reads := [a.idx, a.opnd, a.res], writes := [a.res], handle := some a.h, scope := some a.scope.toNat }
  | .afadd a => { lwUses .W a.sy a.od with reads := [a.idx, a.opnd], writes := [a.res], handle := some a.h, scope := some a.scope.toNat }
  | .semsig a => { lwUses .W a.sy a.od with reads := [a.idx, a.opnd], handle := some a.h, scope := some a.scope.toNat }
  | .bararv a => { lwUses .W a.sy a.od with reads := [a.idx, a.opnd], writes := [a.res], handle := some a.h, scope := some a.scope.toNat }
  | .cpout a => { lwUses .W a.sy a.od with reads := [a.loc, a.org, a.mc], handle := some a.h, layout := some a.y, copy := true }
  | .cpscatter a => { lwUses .W a.sy a.od with reads := [a.loc], handle := some a.h, layout := some a.y, copy := true }
  | .discard a => { lwUses .W a.sy a.od with reads := [a.idx, a.opnd], handle := some a.h }
  | .wback a => { lwUses .W a.sy a.od with reads := [a.idx, a.opnd], handle := some a.h }
  | .pgrsv a => { lwUses .W a.sy a.od with reads := [a.opnd], writes := [a.res], handle := some a.h }
  | .pgrel a => { lwUses .W a.sy a.od with reads := [a.opnd], writes := [a.res], handle := some a.h }
  | .pgmig a => { lwUses .W a.sy a.od with reads := [a.opnd], writes := [a.res], handle := some a.h }
  | .wlappend a => { lwUses .W a.sy a.od with reads := [a.idx, a.opnd, a.res], writes := [a.res], handle := some a.h, scope := some a.scope.toNat }
  | .commit a => { lwUses .W a.sy a.od with reads := [a.idx, a.opnd], writes := [a.res], handle := some a.h, scope := some 5 }
  | .retract a => { lwUses .W a.sy a.od with reads := [a.idx, a.opnd], writes := [a.res], handle := some a.h, scope := some 5 }
  | .wordDispatch _ => noUses
  | .illegalWord _ _ => noUses
  | .fetchFault _ => noUses
  | .handleLand _ => noUses
  | .walkComplete _ => noUses
  | .invalidationRelease _ _ => noUses
  | .allocationAnswer _ => noUses
  | .lateFrameConversion _ => noUses
  | .remoteFill _ _ => noUses
  | .operationComplete _ _ => noUses
  | .fabricWaitPoll _ _ => noUses
  | .patrolScrub _ => noUses
  | .copyRowIssue _ _ => noUses
  | .copyRowLand _ _ _ => noUses
  | .cWriteLand _ => noUses
  | .lateLoadArrival _ => noUses
  | .slackExpiry _ => noUses
  | .idleEngineCycle _ => noUses
  | .rotateEntry _ => noUses
  | .kstepWrite _ => noUses
  | .drainComplete _ => noUses
  | .resume _ => noUses
  | .refresh _ => noUses
  | .answerEnd _ => noUses
  | .preemptionSaveEnd _ => noUses
  | .restore _ => noUses
  | .launch _ => noUses
  | .launchEligible _ _ => noUses
  | .launchAgeing _ _ => noUses
  | .taskPlacement _ => noUses
  | .placementThermalTimeout _ _ => noUses
  | .launchRetire _ _ => noUses
  | .chainFetch _ => noUses
  | .shadowStart _ => noUses
  | .fhintHoldExpiry _ _ => noUses
  | .gridConfigure _ _ => noUses
  | .gridStart _ => noUses
  | .gridStop _ => noUses
  | .convOpen _ _ => noUses
  | .convClose _ => noUses
  | .slotBoundary _ _ => noUses
  | .ingressGroup _ _ => noUses
  | .freqRequestTakeup _ => noUses
  | .railStep _ => noUses
  | .clockSwitchEnd _ => noUses
  | .stallratioSample _ _ _ => noUses
  | .budgetGrant _ => noUses
  | .sensorRefresh _ _ => noUses
  | .marverRailWindow _ => noUses
  | .undervoltHoldEnd _ => noUses
  | .setPointRestore _ => noUses
  | .flitRetransmit _ => noUses
  | .laneShed _ => noUses
  | .laneRestore _ => noUses
  | .linkRetrained _ => noUses
  | .fabricCompletionError _ _ _ => noUses
  | .timeMessage _ => noUses
  | .timeSyncLoss => noUses
  | .doorbell _ _ => noUses
  | .queueSchedule => noUses
  | .ringNop _ => noUses
  | .ringSignal _ => noUses
  | .ringUnknownType _ => noUses
  | .queueCreate _ _ => noUses
  | .queueReset _ => noUses
  | .queueDestroy _ => noUses
  | .poolCreate _ _ _ => noUses
  | .poolSetLimit _ _ _ => noUses
  | .poolWithdraw _ _ => noUses
  | .pageTableChange _ _ _ _ => noUses
  | .setThermalLimits _ _ _ _ => noUses
  | .setBudget _ _ => noUses
  | .setTrafficFilter _ _ => noUses
  | .halt _ => noUses
  | .stopseq _ _ _ => noUses
  | .brk _ _ => noUses
  | .debugDisarm _ => noUses
  | .debugStopMatch _ => noUses
  | .status _ => noUses
  | .debugWrite _ _ => noUses
  | .errorWindowExpiry _ => noUses
  | .deviceStart _ => noUses
  | .startWatchdog => noUses
  | .writeImage _ => noUses
  | .fullStart => noUses
  | .attest _ _ => noUses
  | .commanderSignature _ _ => noUses
  | .commanderRelease _ => noUses
  | .waitevDeadline _ => noUses
  | .ctxqAnswer _ => noUses
  | .fabricEndpointAccess _ _ => noUses
  | .ringFetchFault _ => noUses
  | .boardCapChange _ _ => noUses
  | .marverRailStep _ => noUses
  | .powerLoss => noUses
/-- What a queue place uses. -/
def payloadUses : Payload → Uses
  | .word i => usesOf i
  | .illegal .. | .fetchFault _ | .rotate _ => noUses

/-- The engine whose queue a place stands in (07 R160, R177; 17 R357). -/
def payloadEngine : Payload → Engine
  | .word i => (usesOf i).eng.getD .S
  | .illegal _ raw => classOf raw
  | .fetchFault _ => .S
  | .rotate _ => .C

/-! ### Interlocks (07 R162-R164; 01 R26) -/

/-- An entry has a write of a scalar register still to make: a repeated load has made those that arrived (07 R164; 10 R229). -/
def Entry.writesS (x : Entry) (r : BitVec 5) : Bool := (payloadUses x.what).writes.contains r && !x.done.contains r

/-- A flight writes a scalar register. -/
def Flight.writesS (f : Flight) (r : BitVec 5) : Bool :=
  match f.tgt with
  | .s r' _ => r' == r
  | _ => false

/-- The register has a write pending from L, C or W, whichever word makes it (07 R164; log entry 36). -/
def Bank.pendingS (b : Bank) (r : BitVec 5) : Bool :=
  r != 0 && (b.qL.any (·.writesS r) || b.qC.any (·.writesS r) || b.qW.any (·.writesS r)
    || b.ops.any (·.dest.contains r) || b.flights.any (·.writesS r))

/-- An S word that has not executed writes the register (07 R162). -/
def Bank.sWriter (b : Bank) (r : BitVec 5) : Bool := r != 0 && b.qS.any (·.writesS r)

/-- The most recent writer of a handle register has not landed (01 R26). -/
def Bank.handleBusy (b : Bank) (h : BitVec 4) : Bool :=
  (b.qS.any fun x => (payloadUses x.what).hw == some h) || b.hland.any (·.reg == h)

/-- An S word that has not executed writes the layout register (07 R162). -/
def Bank.layoutBusy (b : Bank) (y : BitVec 3) : Bool := b.qS.any fun x => (payloadUses x.what).yw == some y

/-- A queue has a place (07 R162). -/
def Bank.hasRoom (b : Bank) (e : Engine) : Bool := decide ((b.queue e).length < queueCap e)

/-- A word can be dispatched (07 R162). -/
def Bank.canDispatch (b : Bank) (w : Payload) : Bool :=
  let u := payloadUses w
  let e := payloadEngine w
  b.hasRoom e
    && (match u.handle with | some h => !b.handleBusy h | none => true)
    && (e == .S || (u.reads ++ u.data).all fun r => !b.sWriter r && !b.pendingS r)
    && (match u.layout with | some y => !b.layoutBusy y | none => true)

/-! ### Capture (07 R163; 01 R26; 04 R95) -/

/-- The streams whose operations come before a word: its mask, and its own stream unless that is q0 (04 R95). -/
def Ord.after (o : Ord) (i : Nat) : Bool := o.mask.getLsbD i || (o.stream.toNat == i && i != 0)

/-- The unfinished operations that are ordered before a word dispatched now (04 R95). -/
def Bank.predsOf (b : Bank) (o : Ord) : List Nat :=
  ((List.finRange 8).flatMap fun i => if Ord.after o i.val then b.reach.get i else []).eraseDups

/-- The queue entry of a word dispatched now, with its captures (07 R163). -/
def Bank.capture (b : Bank) (w : Payload) : Entry :=
  let u := payloadUses w
  let c := payloadEngine w != .S
  { what := w
    uid := b.uid
    idx := b.pc
    rep := 0
    seg := 0
    caps := if c then u.reads.map b.sreg else []
    vals := if c then u.data.map b.sreg else []
    cap := if c then u.handle.map fun h => { h := b.h.get h.toFin, stale := false } else none
    lay := u.layout.map fun y => b.y.get y.toFin
    popped := false
    preds := match u.od with | some o => b.predsOf o | none => []
    alloc := .none
    got := []
    puts := []
    late := []
    done := []
    idxs := none
    answer := none }

/-- Dispatch stops after this place: an illegal word, a fetch fault, END (07 R160, R163). -/
def stopsFetch : Payload → Bool
  | .illegal .. | .fetchFault _ => true
  | .word (.endt _) => true
  | .word _ | .rotate _ => false

/-- The bank after the dispatch of a word: the sequence number and index count up, a control word blocks the dispatcher,
and the word joins its stream (07 R163, 17 R356, 04 R95). -/
def Bank.account (b : Bank) (w : Payload) : Bank :=
  let u := payloadUses w
  { b with
    pc := b.pc + 1
    uid := b.uid + 1
    ctl := b.ctl || u.ctl
    stopFetch := b.stopFetch || stopsFetch w
    reach := match u.od with
      | some o =>
        let old := if o.stream = 0 then b.reach.get o.stream.toFin else []
        b.reach.set o.stream.toNat ((old ++ b.predsOf o).eraseDups ++ [b.uid]) o.stream.isLt
      | none => b.reach }

/-- The bank's task belongs to a deterministic launch (08 R200). -/
def Bank.ofDet (b : Bank) : Bool := match b.task with | some t => t.det | none => false

/-- The entry in hand: the one taken from a queue head, or the word dispatched at once. -/
def State.begin (s : State) (i : Instr) : Entry × State :=
  match s.active with
  | some x => (x, { s with active := none })
  | none => ((s.bank s.cur).capture (.word i), s.modBank s.cur fun b => b.account (.word i))

/-! ### S words (09 R202) -/

/-- The bank that executes. -/
def State.here (s : State) : Bank := s.bank s.cur

/-- S takes the word at its head (09 R202). -/
def Bank.sReady (b : Bank) (i : Instr) (x : Entry) : Bool :=
  let u := usesOf i
  b.cut.isNone && b.popsOk .S u.sy x && b.canPush .S u.sy.push && !(u.reads ++ u.writes).any b.pendingS

/-- The sync effect of an S word that completes at once: its pops and its push (07 R166-R168). -/
def Bank.sSync (b : Bank) (sy : Sync) (x : Entry) : Bank :=
  ((b.doPops .S sy x).reserve .S sy.push).pushTok .S sy.push

/-- An S word: it waits at its head, or its effect on the bank is made. -/
def State.sWord (s : State) (i : Instr) (eff : Entry → Bank → Bank) : State :=
  let p := s.begin i
  if p.2.here.sReady i p.1 then p.2.setBank s.cur (eff p.1 (p.2.here.sSync (usesOf i).sy p.1))
  else p.2.hold .S p.1

/-- An S word that writes one scalar register with a value of the registers (09 R203). -/
def State.sResult (s : State) (i : Instr) (rd : BitVec 5) (val : Bank → Word) : State :=
  s.sWord i fun _ b => b.setS rd (val b)

/-- A control word: its effect, the next index, and the dispatcher freed (07 R163; 09 R206). -/
def State.sControl (s : State) (i : Instr) (eff : Entry → Bank → Bank) (next : Entry → Bank → Word) : State :=
  s.sWord i fun x b => { eff x b with pc := next x b, ctl := false }

/-! ### L and W words (10 R226; 04 R97, R98, R118; 03 R72) -/

/-- Whether the head may go on. -/
inductive Gate where
  | go | wait | exhausted
  deriving DecidableEq, Repr

/-- The pieces of at most 256 bytes of a row (11 R249). -/
def RowFlight.pieces (f : RowFlight) : Nat := max 1 ((f.puts.foldl (fun n p => n + p.bytes.length) 0 + 255) / 256)

/-- The request entries of a copy: one for each piece that has not landed; a multicast piece has one (11 R249). -/
def CopyOp.entries (c : CopyOp) : Nat :=
  (c.flights.foldl (fun (p : List Nat × Nat) f =>
    if p.1.contains f.row then p else (f.row :: p.1, p.2 + f.pieces)) ([], 0)).2

/-- The repetitions that stores are part of: eight segments of a VSTS are one (03 R72; 10 R230). -/
def storeReps (w : Payload) (n : Nat) : Nat :=
  match w with
  | .word (.vsts _) => (n + 7) / 8
  | .word _ | .illegal .. | .fetchFault _ | .rotate _ => n

/-- The repetition that a register write belongs to; a scalar write is the whole of its own. -/
def RegW.segRep : RegW → Option Nat
  | .seg _ _ _ rep => some rep
  | .s .. | .v .. => none

/-- The repetitions that loads are part of: the segments of one are one request (03 R72; 10 R230). -/
def loadReps (ws : List RegW) : Nat :=
  (ws.filter fun w => w.segRep.isNone).length + (ws.filterMap RegW.segRep).eraseDups.length

/-- The repetitions of a word that have passed and whose loads are not in their registers, or whose stores are not performed (03 R72). -/
def Entry.openReps (x : Entry) : Nat := loadReps x.got + storeReps x.what x.puts.length

/-- The request entries that a word holds at its queue head (03 R72). -/
def Entry.requests (x : Entry) : Nat := x.openReps + (if x.alloc ≠ .none ∧ x.seg = 0 then 1 else 0)

/-- The request entries of an operation that has not completed: one for each repetition that is not (03 R72). -/
def Op.requests (o : Op) : Nat :=
  if o.isCopy || o.spent then 0 else max 1 (loadReps o.loads + storeReps o.ent.what o.puts.length)

/-- The outstanding requests of a bank; a wait that a cut withdraws holds none. The loads of a bank that has drained have been made, though
writes of their registers may be left behind earlier words (03 R72; 07 R164; 10 R236). -/
def Bank.requests (b : Bank) : Nat :=
  b.ops.foldl (fun n o => if b.cut.isSome && o.waiting then n else n + o.requests) 0 + b.copies.foldl (fun n c => n + c.entries) 0
    + (b.qL ++ b.qW).foldl (fun n x => n + (if b.status = .running then x.requests else x.requests - loadReps x.got)) 0

/-- `n` more of the core's 768 request entries are free, beside those that the word in hand holds (03 R72). -/
def State.hasRequests (s : State) (x : Entry) (n : Nat) : Bool :=
  decide (s.here.requests + (s.bank (otherBank s.cur)).requests + x.openReps + n ≤ 768)

/-- A PGRSV, PGREL or PGMIG that has not completed: W issues no later entry (02 R61). -/
def Bank.pageBusy (b : Bank) : Bool :=
  b.ops.any fun o => !o.spent && match o.ent.what with
    | .word (.pgrsv _) | .word (.pgrel _) | .word (.pgmig _) => true
    | _ => false

/-- An access that has passed its check and may be performed in a drain: its page's home has let it go on, or its allocation
request is answered (02 R49, R52). -/
def Entry.mayFinish (x : Entry) : Bool := x.alloc == .granted || x.alloc == .arrived

/-- The conditions on an L or W head: no cut (an access that has passed its check goes on in the drain), its pops, the holds of
04 Table 4.2, a request entry, and for its last access a push place and room in its stream (04 R98, R118; 07 R166, R167). -/
def State.lwGate (s : State) (e : Engine) (u : Uses) (x : Entry) (blocks : List Nat) (last : Bool) : Gate :=
  let b := s.here
  let q := match u.od with | some o => o.stream | none => 0
  if b.cut.isSome && !x.mayFinish then .wait
  else if !b.popsOk e u.sy x then .wait
  else if b.held x u.scope.isSome u.copy blocks then .wait
  else if e = .W && b.pageBusy then .wait
  else if !s.hasRequests x (if 0 < x.seg ∧ 0 < x.openReps then 0 else 1) then .wait
  else if last && !b.canPush e u.sy.push then .wait
  else if last && b.outstanding q == 255 then .exhausted
  else .go

/-- The L head waits for stream exhaustion and for nothing else, so that a clock in which a W head waits too is counted once (04 R118). -/
def Bank.lExhausted (b : Bank) : Bool :=
  match b.qL with
  | x :: _ => x.full && match (payloadUses x.what).od with | some o => b.outstanding o.stream == 255 | none => false
  | [] => false

/-- The head waits; a wait for stream exhaustion is counted in QXSTALL (04 R118). DESIGN CHOICE: a clock in which the head is held by a
predecessor or waits on a pop too is not counted (04 R122; log entry 63). -/
def State.lwWait (s : State) (e : Engine) (x : Entry) (g : Gate) : State :=
  s.modBank s.cur fun b =>
    let b := b.hold e { x with full := decide (g = .exhausted) }
    if g = .exhausted && !(e == .W && b.lExhausted) then { b with qxstall := b.qxstall + 1 } else b

/-- One access of a word: its offset and size, the rights it needs, and whether its offset is aligned (01 R28-R30). -/
structure Access where
  o : Nat
  z : Nat
  needR : Bool
  needW : Bool
  aligned : Bool

/-- A page lock covers the location (02 R52). -/
def Store.locked (st : Store) (l : Nat) : Bool := st.locks.any fun p => decide (p.1 ≤ l) && decide (l < p.1 + p.2)

/-- An access to a location waits behind others that came before it to the home of its page, while that was locked (02 R52). -/
def Store.behindArrival (st : Store) (b : BankId) (uid : Nat) (l : Nat) : Bool :=
  (st.arrivals.takeWhile fun a => !(a.bank == b && a.uid == uid)).any fun a =>
    decide (st.resolve a.page ≤ st.resolve l) && decide (st.resolve l < st.resolve a.page + a.len)

/-- What waited of a bank's word at a home has been performed, or is given up. -/
def Store.leaveArrival (st : Store) (b : BankId) (uid : Nat) : Store :=
  if st.arrivals.isEmpty then st else { st with arrivals := st.arrivals.filter fun a => !(a.bank == b && a.uid == uid) }

/-- What a word still has to store, to read or to land before its accesses have been performed. -/
def Bank.unperformed (b : Bank) (uid : Nat) : Bool :=
  b.ops.any (fun o => o.uid == uid && (o.pend || !o.puts.isEmpty || !o.ent.late.isEmpty))
    || (b.qL ++ b.qW).any (fun x => x.uid == uid && (x.alloc != .none || !x.puts.isEmpty || !x.late.isEmpty))
    || b.copies.any fun c => c.uid == uid && !c.flights.isEmpty

/-- The first read of a SEMWAIT or BARWAIT of a bank is still to be performed. -/
def Store.unread (st : Store) (b : BankId) (uid : Nat) : Bool := st.waits.any fun w => w.bank == b && w.uid == uid && w.unread

/-- An access that has passed its check reaches the home of its page: it waits there while the page is locked, and then until those
that came before it are performed (02 R52, R60). Others wait for it in turn until it is performed itself. -/
def State.atHome (s : State) (e : Engine) (x : Entry) (c : Capture) (l : Nat) (go : State → Entry → State) : State :=
  if s.store.locked l || s.store.behindArrival s.cur x.uid l then
    if x.alloc = .none then
      (s.modStore fun st => if st.arrivals.any fun a => a.bank == s.cur && a.uid == x.uid then st else { st with
        arrivals := st.arrivals ++ [{ bank := s.cur, eng := e, uid := x.uid, page := c.h.loc, len := c.h.extent.toNat }] }).hold e
          { x with alloc := .arrived }
    else s.hold e x
  else
    let t := go s (if x.alloc = .arrived then { x with alloc := .none } else x)
    if s.store.arrivals.isEmpty || (t.bank s.cur).unperformed x.uid || t.store.unread s.cur x.uid then t else t.modStore fun st => st.leaveArrival s.cur x.uid

/-- The checks of 01 R28, which an access makes once: one that waits at a home or for its allocation answer has passed. -/
def Entry.check (x : Entry) (chk : Chk) : Chk := if x.alloc = .none then chk else .pass

/-- The number of an entry's current access among those of its word, in their order (10 R228, R231). -/
def Entry.accessNo (x : Entry) : Nat :=
  match x.what with
  | .word (.vlds _) | .word (.vsts _) => x.rep * 8 + x.seg
  | .word _ | .illegal .. | .fetchFault _ | .rotate _ => x.rep

/-- One access of the word in hand: the gate, the check of 01 R28, the home of its page, and then `go` with the location. Overlap with
a predecessor is tested access by access, on the blocks that this one reaches (04 R98; log entry 53). -/
def State.access (s : State) (e : Engine) (i : Instr) (acc : Entry → Access) (last : Entry → Bool)
    (go : State → Entry → Nat → State) : State :=
  let p := s.begin i
  let x := p.1
  let s := p.2
  match x.cap with
  | none => s.hold e x
  | some c =>
    let a := acc x
    let l := c.h.loc + a.o
    let g := s.lwGate e (usesOf i) x (s.store.blocks l a.z) (last x)
    if g ≠ .go then s.lwWait e x g
    else
      let y := { x with full := false }
      match x.check (c.check a.needR a.needW a.aligned a.o a.z) with
      | .wait => s.hold e y
      | .fail k => s.raiseMem e k y a.o
      | .pass => s.atHome e y c l fun s y => go s { y with since := y.since.take y.accessNo ++ [s.time] } l

/-- A write to an unbacked page asks the home L2 for its lines and goes on when the answer allows it (02 R49). -/
def State.allocGate (s : State) (x : Entry) (l z : Nat) (go : State → Entry → State) : State :=
  if (match x.cap with | some c => c.h.unbacked | none => false) && decide (2 ^ 48 ≤ s.store.resolve l) then
    match x.alloc with
    | .none | .arrived =>
      let base := match x.cap with | some c => c.h.loc | none => 0
      s.hold .W { x with alloc := .asked (l - base) (linesOf (s.store.resolve l) z) }
    | .asked .. | .late _ => s.hold .W x
    | .granted => go s { x with alloc := .none }
  else go s { x with alloc := .none }

/-- The operation issues: its pops, its reservation, its stream count (04 R97; 07 R166, R167). -/
def Bank.issue (b : Bank) (e : Engine) (u : Uses) (x : Entry) (o : Op) : Bank :=
  let b := (b.doPops e u.sy x).reserve e u.sy.push
  let b := match u.od with | some od => b.countIssue od.stream | none => b
  { b with ops := b.ops ++ [o] }

/-- The offset of the current repetition: base + rep × step × z, without wrap (07 R178; 01 R30). -/
def Entry.repOffset (x : Entry) (step : BitVec 4) (z : Nat) : Nat := (x.caps.getD 0 0).toNat + x.rep * step.toNat * z

/-- The blocks that all repetitions of a word reach (04 R98). -/
def State.repBlocks (s : State) (x : Entry) (rep : BitVec 5) (step : BitVec 4) (z : Nat) : List Nat :=
  match x.cap with
  | none => []
  | some c => ((List.range (rep.toNat + 1)).flatMap fun j =>
      s.store.blocks (c.h.loc + ((x.caps.getD 0 0).toNat + j * step.toNat * z)) z).eraseDups

/-- The operation of an entry. -/
def opOf (e : Engine) (u : Uses) (x : Entry) (blocks : List Nat) (loads : List RegW) (puts : List Put) : Op where
  uid := x.uid
  eng := e
  stream := match u.od with | some o => o.stream | none => 0
  isCopy := u.copy
  scope := none
  blocks := blocks
  dest := u.writes.filter fun r => r != 0 && !x.done.contains r
  loads := loads
  puts := puts
  push := u.sy.push
  waiting := false
  fabric := blocks.any fun k => regionOf (k * 128) = .fabric
  pend := false
  spent := false
  ent := { x with popped := true }

/-- A repetition of a word has passed: the entry keeps its head for the next one, or the operation issues (04 R97). -/
def State.passed (s : State) (e : Engine) (i : Instr) (x : Entry) (last : Bool) (blocks : List Nat) : State :=
  let u := usesOf i
  s.modBank s.cur fun b =>
    if last then b.issue e u x (opOf e u x blocks x.got x.puts)
    else (b.doPops e u.sy x).hold e { x with popped := true, rep := x.rep + 1, seg := 0 }

/-! ### Completion (04 R97; 07 R164, R167) -/

/-- No earlier word of L, C or W has a write of the register still to make: their writes to one register are made in program order, so that
a later word captures the value that program order leaves. An earlier S word keeps none of them waiting: it waits for them itself (07 R163,
R164; log entry 36). -/
def Bank.firstWriter (b : Bank) (uid : Nat) (r : BitVec 5) : Bool :=
  !((b.qL ++ b.qC ++ b.qW).any (fun x => decide (x.uid < uid) && x.writesS r)
    || b.ops.any (fun o => decide (o.uid < uid) && o.dest.contains r)
    || b.flights.any (fun f => decide (f.uid < uid) && f.writesS r))

/-- A load in flight, some of whose writes may arrive before others (10 R229). -/
def Op.isLoad (o : Op) : Bool := o.eng == .L && !o.isCopy && o.scope.isNone && !o.waiting && !o.spent

/-- A register write of a word can be made, of those that its loads have brought: to a scalar register when no earlier word has still to
write it, and of a segment when all eight of its repetition have been read, for poison in any of them writes no part of the register (07
R164; 10 R231). -/
def Bank.canWrite (b : Bank) (uid : Nat) (ws : List RegW) : RegW → Bool
  | .s r _ => r == 0 || b.firstWriter uid r
  | .v .. => true
  | .seg _ _ _ rep => ws.any fun w => match w with | .seg _ k _ rep' => k == 7 && rep' == rep | .s .. | .v .. => false

/-- The first of some writes of a word that can be made. -/
def Bank.writable (b : Bank) (uid : Nat) (ws : List RegW) : Option (Nat × Nat) :=
  (ws.zipIdx.find? fun p => b.canWrite uid ws p.1).map fun p => (uid, p.2)

/-- A register write of a load that can be made though the load has others still to come: its number and its place. Its repetition is
complete then, and its request entry free (03 R72; 07 R164; 10 R227, R229). -/
def Bank.partDue (b : Bank) : Option (Nat × Nat) :=
  (b.qL.head?.bind fun x => b.writable x.uid x.got).or
    (b.ops.findSome? fun o => if o.isLoad && decide (1 < loadReps o.loads) then b.writable o.uid o.loads else none)

/-- The bank after an operation completes: its registers, QDONE, its push, and its place among the predecessors. -/
def Bank.complete (b : Bank) (o : Op) : Bank :=
  let b := o.loads.foldl Bank.regW b
  let b := if o.spent then b else (b.countDone o.stream).pushTok o.eng o.push
  { b with
    ops := b.ops.filter fun a => a.uid != o.uid
    reach := b.reach.map fun us => us.filter (· != o.uid) }

/-- Advances a die's remote epoch (03 R81). -/
def Store.advance (st : Store) (d : Die) : Store := { st with epoch := st.epoch.set d.val (st.epoch.get d + 1) d.isLt }

/-- The slices test the stores of a bank (20 R423). -/
def State.trafficPuts (s : State) (b : BankId) (ps : List Put) : State :=
  ps.foldl (fun (t : State) p => p.left.foldl (fun (t : State) q => t.trafficStore (dieOf b) (reqOf b) q.1 q.2.length) t) s

/-- An operation completes: its stores are performed, and the epoch advances after a synchronising operation of effective
scope device or system (03 R81; 04 R97). -/
def State.complete (s : State) (b : BankId) (o : Op) : State :=
  let s1 := s.trafficPuts b o.puts
  let st := o.puts.foldl (fun st p => st.perform (dieOf b) p) s1.store
  let st := match o.scope with | some sc => if 4 ≤ sc then st.advance (dieOf b) else st | none => st
  { s1 with store := { st.leaveArrival b o.uid with waits := st.waits.filter fun w => !(w.bank == b && w.uid == o.uid) } }.modBank b
    fun x => x.complete o

end Sys2Proof.Machine
end

