-- ==== Sys2Proof/Machine/ScalarAlu.lean ====
section
/-! DEFINITION. The integer words of the S engine (09 R203-R205): arithmetic modulo 2^64, comparisons, shifts, division,
immediates. None traps. -/

namespace Sys2Proof.Machine

open Sys2Proof

/-! ### Results (09 Tables 9.2, 9.3) -/

/-- 1 for a true condition, 0 for a false one (09 Table 9.2). -/
def boolWord (c : Bool) : Word := if c then 1 else 0

/-- The high 64 bits of the signed product (09 Table 9.2). -/
def mulHighS (a b : Word) : Word := BitVec.ofInt 64 (a.toInt * b.toInt / (2 ^ 64 : Int))

/-- The high 64 bits of the unsigned product (09 Table 9.2). -/
def mulHighU (a b : Word) : Word := BitVec.ofNat 64 (a.toNat * b.toNat / 2 ^ 64)

/-- The signed quotient, truncated toward zero; all ones for a zero divisor (09 R204). -/
def divS (a b : Word) : Word := if b = 0 then -1 else BitVec.ofInt 64 (Int.tdiv a.toInt b.toInt)

/-- The unsigned quotient; all ones for a zero divisor (09 R204). -/
def divU (a b : Word) : Word := if b = 0 then -1 else BitVec.ofNat 64 (a.toNat / b.toNat)

/-- The signed remainder with the sign of the dividend; the dividend for a zero divisor (09 R204). -/
def remS (a b : Word) : Word := if b = 0 then a else BitVec.ofInt 64 (Int.tmod a.toInt b.toInt)

/-- The unsigned remainder; the dividend for a zero divisor (09 R204). -/
def remU (a b : Word) : Word := if b = 0 then a else BitVec.ofNat 64 (a.toNat % b.toNat)

/-- The shift amount of a register (09 Table 9.2: b & 63). -/
def shiftOf (b : Word) : Nat := b.toNat % 64

/-- The lesser of two signed numbers (09 Table 9.2). -/
def minS (a b : Word) : Word := if a.slt b then a else b

/-- The greater of two signed numbers (09 Table 9.2). -/
def maxS (a b : Word) : Word := if a.slt b then b else a

/-- A sign-extended immediate (09 R203, R205). -/
def sext {w : Nat} (x : BitVec w) : Word := x.signExtend 64

/-- LIH's value: the shifted immediate over the low 30 bits of the old value (09 R205). -/
def lihValue (imm : BitVec 30) (old : Word) : Word := (sext imm <<< 30) ||| (old &&& 0x3FFFFFFF)

/-! ### The words -/

/-- ADD: the sum (09 R203). -/
def execAdd (a : SRrr) (s : State) : Out := .next (s.sResult (.add a) a.rd fun b => b.sreg a.ra + b.sreg a.rb)

/-- SUB: the difference (09 R203). -/
def execSub (a : SRrr) (s : State) : Out := .next (s.sResult (.sub a) a.rd fun b => b.sreg a.ra - b.sreg a.rb)

/-- MUL: the low half of the product (09 R203). -/
def execMul (a : SRrr) (s : State) : Out := .next (s.sResult (.mul a) a.rd fun b => b.sreg a.ra * b.sreg a.rb)

/-- MULH: the high half of the signed product (09 R203). -/
def execMulh (a : SRrr) (s : State) : Out := .next (s.sResult (.mulh a) a.rd fun b => mulHighS (b.sreg a.ra) (b.sreg a.rb))

/-- MULHU: the high half of the unsigned product (09 R203). -/
def execMulhu (a : SRrr) (s : State) : Out := .next (s.sResult (.mulhu a) a.rd fun b => mulHighU (b.sreg a.ra) (b.sreg a.rb))

/-- DIV: the signed quotient (09 R204). -/
def execDiv (a : SRrr) (s : State) : Out := .next (s.sResult (.div a) a.rd fun b => divS (b.sreg a.ra) (b.sreg a.rb))

/-- DIVU: the unsigned quotient (09 R204). -/
def execDivu (a : SRrr) (s : State) : Out := .next (s.sResult (.divu a) a.rd fun b => divU (b.sreg a.ra) (b.sreg a.rb))

/-- REM: the signed remainder (09 R204). -/
def execRem (a : SRrr) (s : State) : Out := .next (s.sResult (.rem a) a.rd fun b => remS (b.sreg a.ra) (b.sreg a.rb))

/-- REMU: the unsigned remainder (09 R204). -/
def execRemu (a : SRrr) (s : State) : Out := .next (s.sResult (.remu a) a.rd fun b => remU (b.sreg a.ra) (b.sreg a.rb))

/-- AND: bitwise and (09 R203). -/
def execAnd (a : SRrr) (s : State) : Out := .next (s.sResult (.and a) a.rd fun b => b.sreg a.ra &&& b.sreg a.rb)

/-- OR: bitwise or (09 R203). -/
def execOr (a : SRrr) (s : State) : Out := .next (s.sResult (.or a) a.rd fun b => b.sreg a.ra ||| b.sreg a.rb)

/-- XOR: bitwise exclusive or (09 R203). -/
def execXor (a : SRrr) (s : State) : Out := .next (s.sResult (.xor a) a.rd fun b => b.sreg a.ra ^^^ b.sreg a.rb)

/-- SLL: left shift (09 R203). -/
def execSll (a : SRrr) (s : State) : Out := .next (s.sResult (.sll a) a.rd fun b => b.sreg a.ra <<< shiftOf (b.sreg a.rb))

/-- SRL: right shift with zero fill (09 R203). -/
def execSrl (a : SRrr) (s : State) : Out := .next (s.sResult (.srl a) a.rd fun b => b.sreg a.ra >>> shiftOf (b.sreg a.rb))

/-- SRA: right shift with sign fill (09 R203). -/
def execSra (a : SRrr) (s : State) : Out := .next (s.sResult (.sra a) a.rd fun b => (b.sreg a.ra).sshiftRight (shiftOf (b.sreg a.rb)))

/-- SLT: signed less than (09 R203). -/
def execSlt (a : SRrr) (s : State) : Out := .next (s.sResult (.slt a) a.rd fun b => boolWord ((b.sreg a.ra).slt (b.sreg a.rb)))

/-- SLTU: unsigned less than (09 R203). -/
def execSltu (a : SRrr) (s : State) : Out := .next (s.sResult (.sltu a) a.rd fun b => boolWord ((b.sreg a.ra).ult (b.sreg a.rb)))

/-- MIN: signed minimum (09 R203). -/
def execMin (a : SRrr) (s : State) : Out := .next (s.sResult (.min a) a.rd fun b => minS (b.sreg a.ra) (b.sreg a.rb))

/-- MAX: signed maximum (09 R203). -/
def execMax (a : SRrr) (s : State) : Out := .next (s.sResult (.max a) a.rd fun b => maxS (b.sreg a.ra) (b.sreg a.rb))

/-- ADDI: the sum with the immediate (09 R203). -/
def execAddi (a : SImm) (s : State) : Out := .next (s.sResult (.addi a) a.rd fun b => b.sreg a.ra + sext a.imm)

/-- ANDI: bitwise and with the immediate (09 R203). -/
def execAndi (a : SImm) (s : State) : Out := .next (s.sResult (.andi a) a.rd fun b => b.sreg a.ra &&& sext a.imm)

/-- ORI: bitwise or with the immediate (09 R203). -/
def execOri (a : SImm) (s : State) : Out := .next (s.sResult (.ori a) a.rd fun b => b.sreg a.ra ||| sext a.imm)

/-- XORI: bitwise exclusive or with the immediate (09 R203). -/
def execXori (a : SImm) (s : State) : Out := .next (s.sResult (.xori a) a.rd fun b => b.sreg a.ra ^^^ sext a.imm)

/-- SLLI: left shift by the immediate (09 R203). -/
def execSlli (a : SShift) (s : State) : Out := .next (s.sResult (.slli a) a.rd fun b => b.sreg a.ra <<< a.sh.toNat)

/-- SRLI: right shift by the immediate, zero fill (09 R203). -/
def execSrli (a : SShift) (s : State) : Out := .next (s.sResult (.srli a) a.rd fun b => b.sreg a.ra >>> a.sh.toNat)

/-- SRAI: right shift by the immediate, sign fill (09 R203). -/
def execSrai (a : SShift) (s : State) : Out := .next (s.sResult (.srai a) a.rd fun b => (b.sreg a.ra).sshiftRight a.sh.toNat)

/-- SLTI: signed less than the immediate (09 R203). -/
def execSlti (a : SImm) (s : State) : Out := .next (s.sResult (.slti a) a.rd fun b => boolWord ((b.sreg a.ra).slt (sext a.imm)))

/-- LIH: the bits above 30 replaced (09 R205). -/
def execLih (a : SLi) (s : State) : Out := .next (s.sResult (.lih a) a.rd fun b => lihValue a.imm (b.sreg a.rd))

/-- LI: the sign-extended immediate (09 R205). -/
def execLi (a : SLi) (s : State) : Out := .next (s.sResult (.li a) a.rd fun _ => sext a.imm)

/-- NOP: its sync fields alone (09 R208). -/
def execNop (a : S0) (s : State) : Out := .next (s.sWord (.nop a) fun _ b => b)

end Sys2Proof.Machine
end

