-- ==== Sys2Proof/Machine/Objects.lean ====
section
/-! DEFINITION. The objects of synchronising words and what is done to them at their points of coherence: read-modify-writes (10
R232-R234), and the work-list groups of the compaction unit (15 R323-R328). -/

namespace Sys2Proof.Machine

open Sys2Proof

/-! ### Read-modify-writes (10 R232-R234) -/

/-- What a read-modify-write does: its result register and scope, its object's size, and from its entry and the object's bytes the
bytes it writes, as an offset and a list, and its result (10 R232, R234). -/
structure AtomJob where
  res : BitVec 5
  scope : BitVec 3
  z : Nat
  f : Entry → List Byte → Option (Nat × List Byte) × Word

/-- A read-modify-write of the object at `l` by an agent of die `d`: the die's copy is dropped, the object takes its new bytes, and the
result comes back (10 R232; 03 R80). -/
def Store.rmw (st : Store) (d : Die) (j : AtomJob) (x : Entry) (l : Nat) : Store × Word :=
  let r := j.f x ((List.range j.z).map fun k => st.homeByte (l + k))
  let st := st.dropCopies d l j.z
  (match r.1 with | some (o, bs) => st.put d (l + o) bs | none => st, r.2)

/-- An atomic on an 8-byte object: the new value of old, operand and compare value, or none where it writes nothing
(10 Table 10.4). -/
def job8 (a : Atom) (op : Word → Word → Word → Option Word) : AtomJob where
  res := a.res
  scope := a.scope
  z := 8
  f := fun x bs =>
    let old : Word := BitVec.ofNat 64 (leNat bs)
    ((op old (x.caps.getD 1 0) (x.caps.getD 2 0)).map fun n => (0, leBytes 8 n.toNat), old)

/-- The sum of two FP32 values, rounded once to nearest even (10 R233). -/
def addFp32 (x y : Nat) : Nat := fmtFp32.round 0 0 false (Num.add false (fmtFp32.value x) (fmtFp32.value y))

/-- The two FP32 sums of AFADD (10 R233). -/
def afaddValue (old v : Word) : Word :=
  BitVec.ofNat 64 (addFp32 (old.toNat % 2 ^ 32) (v.toNat % 2 ^ 32) + addFp32 (old.toNat / 2 ^ 32) (v.toNat / 2 ^ 32) * 2 ^ 32)

/-- SEMSIG: the count plus the operand (10 R234). -/
def semsigJob (a : AtomN) : AtomJob where
  res := 0
  scope := a.scope
  z := 8
  f := fun x bs => (some (0, leBytes 8 ((BitVec.ofNat 64 (leNat bs) + x.caps.getD 1 0 : Word)).toNat), 0)

/-- The 4-byte field `k` of a barrier's bytes (10 Table 10.6). -/
def barField (bs : List Byte) (k : Nat) : Nat := leNat ((bs.drop (4 * k)).take 4)

/-- What a BARARV of `n` arrivals writes at offset 4 of a barrier: ARRIVED, and PHASE where a phase completes (10 R234). -/
def barArrive (bs : List Byte) (n : Nat) : List Byte :=
  let arrived := barField bs 1 + n
  if barField bs 0 ≤ arrived then leBytes 4 0 ++ leBytes 4 ((barField bs 2 + 1) % 2 ^ 32) else leBytes 4 arrived

/-- BARARV: arrivals at a barrier; the phase before them is the result (10 R234). -/
def bararvJob (a : Atom) : AtomJob where
  res := a.res
  scope := a.scope
  z := 16
  f := fun x bs => (some (4, barArrive bs ((x.caps.getD 1 0).toNat % 2 ^ 32)), BitVec.ofNat 64 (barField bs 2))

/-- What each read-modify-write word does (10 Tables 10.4, 10.5). -/
def atomJob : Instr → Option AtomJob
  | .aadd a => some (job8 a fun old v _ => some (old + v))
  | .amin a => some (job8 a fun old v _ => some (minS old v))
  | .amax a => some (job8 a fun old v _ => some (maxS old v))
  | .aand a => some (job8 a fun old v _ => some (old &&& v))
  | .aor a => some (job8 a fun old v _ => some (old ||| v))
  | .axor a => some (job8 a fun old v _ => some (old ^^^ v))
  | .aswap a => some (job8 a fun _ v _ => some v)
  | .acas a => some (job8 a fun old v c => if old = c then some v else none)
  | .afadd a => some (job8 a fun old v _ => some (afaddValue old v))
  | .semsig a => some (semsigJob a)
  | .bararv a => some (bararvJob a)
  | _ => none

/-! ### A group in the die scratchpad (15 R323) -/

/-- A word of a group. -/
def Store.groupWord (st : Store) (l k : Nat) : Nat := st.homeNat (l + 8 * k) 8
/-- NLISTS. -/
def Store.nlists (st : Store) (l : Nat) : Nat := st.groupWord l 0 % 2 ^ 8
/-- DEPTH. -/
def Store.depth (st : Store) (l : Nat) : Nat := st.groupWord l 0 / 2 ^ 8 % 2 ^ 4
/-- NPART. -/
def Store.npart (st : Store) (l : Nat) : Nat := st.groupWord l 0 / 2 ^ 16 % 2 ^ 8
/-- WAITING. -/
def Store.waiting (st : Store) (l : Nat) : Nat := st.groupWord l 1 % 2 ^ 8
/-- DONE. -/
def Store.groupDone (st : Store) (l : Nat) : Bool := st.groupWord l 1 / 2 ^ 8 % 2 == 1
/-- The size Z of a group. -/
def Store.groupSize (st : Store) (l : Nat) : Nat := 64 + 16 * st.nlists l + 8 * 2 ^ st.depth l * st.nlists l
/-- HEAD of a list. -/
def Store.listHead (st : Store) (l d : Nat) : Nat := st.homeNat (l + 64 + 16 * d) 4
/-- TAIL of a list. -/
def Store.listTail (st : Store) (l d : Nat) : Nat := st.homeNat (l + 64 + 16 * d + 4) 4
/-- The number of items of a list; the counters wrap at 2^32. -/
def Store.listLen (st : Store) (l d : Nat) : Nat := (st.listTail l d + 2 ^ 32 - st.listHead l d) % 2 ^ 32
/-- Where item `i` of a list lies. -/
def Store.itemLoc (st : Store) (l d i : Nat) : Nat :=
  l + 64 + 16 * st.nlists l + 8 * 2 ^ st.depth l * d + 8 * (i % 2 ^ st.depth l)

/-- A reserved field of the header is nonzero (15 Table 15.8). -/
def Store.groupReserved (st : Store) (l : Nat) : Bool :=
  st.groupWord l 0 / 2 ^ 12 % 2 ^ 4 != 0 || st.groupWord l 0 / 2 ^ 24 != 0 || st.groupWord l 1 / 2 ^ 9 != 0
    || [2, 3, 4, 5, 6, 7].any fun k => st.groupWord l k != 0

/-- The lowest reason to refuse an operation on list `d` of a group (15 R324, Table 15.9). -/
def Store.groupFault (st : Store) (l d : Nat) : Option Nat :=
  let n := st.nlists l
  let named := decide (1 ≤ n) && decide (n ≤ 64) && decide (d < n)
  if st.groupReserved l || (named && st.homeNat (l + 64 + 16 * d + 8) 8 != 0) then some 1
  else if n = 0 ∨ 64 < n then some 2
  else if st.depth l = 0 ∨ 12 < st.depth l then some 3
  else if st.npart l = 0 ∨ 144 < st.npart l ∨ st.npart l < st.waiting l then some 4
  else if n ≤ d then some 5
  else if 2 ^ st.depth l < st.listLen l d then some 6
  else none

/-- Writes WAITING and DONE, and no reserved bit. -/
def Store.setWaiting (st : Store) (d : Die) (l w : Nat) (done : Bool) : Store :=
  st.put d (l + 8) (leBytes 2 (w % 2 ^ 8 + 2 ^ 8 * b2n done + st.groupWord l 1 / 2 ^ 9 % 2 ^ 7 * 2 ^ 9))

/-- One waiter fewer, as WAITING counts in its 8 bits. -/
def Store.lessWaiting (st : Store) (d : Die) (l : Nat) : Store := st.setWaiting d l (st.waiting l + 255) (st.groupDone l)

/-- Takes the item at HEAD of a list. -/
def Store.takeItem (st : Store) (d : Die) (l k : Nat) : Word × Store :=
  let h := st.listHead l k
  (BitVec.ofNat 64 (st.homeNat (st.itemLoc l k h) 8), st.put d (l + 64 + 16 * k) (leBytes 4 (h + 1)))

/-- Appends an item at TAIL of a list. -/
def Store.addItem (st : Store) (d : Die) (l k : Nat) (x : Word) : Store :=
  let t := st.listTail l k
  (st.put d (st.itemLoc l k t) (leBytes 8 x.toNat)).put d (l + 64 + 16 * k + 4) (leBytes 4 (t + 1))

/-- A WLTAKE waits on list `k` of the group. -/
def WlWait.waitsOn (w : WlWait) (l k : Nat) : Bool := w.group == l && w.list == k && w.answer.isNone

/-- ServeWaiters: while the list has items and a WLTAKE waits on it, the oldest takes one. Where the item is poison its registration is
dropped, so that the WLTAKE makes its request anew and raises 1.9 (15 R324, R326). -/
def Store.serveWaiters (d : Die) (l k : Nat) : Nat → Store → Store
  | 0, st => st
  | n + 1, st =>
    if st.listLen l k = 0 ∨ !(st.wlWaits.any fun w => w.waitsOn l k) then st
    else if st.anyBad (st.itemLoc l k (st.listHead l k)) 8 then
      let st1 := st.lessWaiting d l
      { st1 with wlWaits := match takeFirst (fun w => WlWait.waitsOn w l k) st1.wlWaits with | some q => q.2 | none => st1.wlWaits }
    else
      let p := st.takeItem d l k
      let st1 := p.2.lessWaiting d l
      Store.serveWaiters d l k n
        { st1 with wlWaits := modFirst (fun w => w.waitsOn l k) (fun w => { w with answer := some p.1 }) st1.wlWaits }

/-- Every list of the group is empty. -/
def Store.groupEmpty (st : Store) (l : Nat) : Bool := (List.range (st.nlists l)).all fun k => st.listLen l k == 0

/-- The termination detector: when every participant waits and every list is empty, the group is done and every waiter is
answered with all ones (15 R326). -/
def Store.detectDone (st : Store) (d : Die) (l : Nat) : Store :=
  if st.waiting l = st.npart l ∧ st.groupEmpty l then
    let st1 := st.setWaiting d l 0 true
    { st1 with wlWaits := st1.wlWaits.map fun (w : WlWait) =>
        if w.group = l ∧ w.answer = none then { w with answer := some (BitVec.allOnes 64) } else w }
  else st

/-- A WLTAKE registers as a waiter (15 R326). -/
def Store.registerWl (st : Store) (d : Die) (w : WlWait) : Store :=
  let st1 := st.setWaiting d w.group (st.waiting w.group + 1) (st.groupDone w.group)
  ({ st1 with wlWaits := st1.wlWaits ++ [w] } : Store).detectDone d w.group

/-- The registration of a cut WLTAKE is dropped: WAITING, a byte that stands alone, counts down. A poisoned WAITING stays poison (15 R328;
03 R86). -/
def Store.dropWl (st : Store) (d : Die) (b : BankId) : Store :=
  match st.wlWaits.find? fun w => w.bank == b && w.answer.isNone with
  | none => st
  | some w =>
    let st1 := if st.anyBad (w.group + 8) 8 then st else st.put d (w.group + 8) (leBytes 1 (st.waiting w.group + 255))
    { st1 with wlWaits := st1.wlWaits.filter fun v => v.bank != b || v.answer.isSome }

/-- WLAPPEND of an item to list `k` of the group at `l`: the storage after it, and its status (15 R325). -/
def Store.append (st : Store) (d : Die) (l k : Nat) (item : Word) : Store × Nat :=
  if item = BitVec.allOnes 64 then (st, 3)
  else if st.groupDone l then (st, 2)
  else if st.listLen l k = 2 ^ st.depth l then (st, 1)
  else (Store.serveWaiters d l k (st.wlWaits.length + 1) (st.addItem d l k item), 0)

/-! ### Words on objects that are performed after their issue (04 R96; log entry 61) -/

/-- Where the access of an operation at its captured offset begins. -/
def Op.loc (o : Op) : Nat := (match o.ent.cap with | some c => c.h.loc | none => 0) + (o.ent.caps.getD 0 0).toNat

/-- The bytes of the object of an operation. -/
def Store.objectSize (st : Store) (o : Op) : Nat :=
  match o.ent.what with
  | .word i => match atomJob i, i with
    | some j, _ => j.z
    | none, .wlappend _ => st.groupSize o.loc
    | none, _ => 0
  | .illegal .. | .fetchFault _ | .rotate _ => 0

/-- A read-modify-write or a WLAPPEND that has issued is performed: the storage after it, and the operation with its result. -/
def Store.performObject (st : Store) (d : Die) (o : Op) : Option (Store × Op) :=
  match o.ent.what with
  | .word i => match atomJob i, i with
    | some j, _ =>
      let r := st.rmw d j o.ent o.loc
      some (r.1, { o with pend := false, loads := [.s j.res r.2] })
    | none, .wlappend a =>
      let r := st.append d o.loc (o.ent.caps.getD 2 0).toNat (o.ent.caps.getD 1 0)
      some (r.1, { o with pend := false, loads := [.s a.res (BitVec.ofNat 64 r.2)] })
    | none, _ => none
  | .illegal .. | .fetchFault _ | .rotate _ => none

/-- What has issued and is still to be performed on the objects that `n` bytes at `l` reach is performed now, before the bytes become
poison or leave their place: read-modify-writes, WLAPPENDs, and the first reads of SEMWAIT and BARWAIT (10 R232, R235; 02 R65). -/
def State.performFirst (s : State) (l n : Nat) : State :=
  let hit (a z : Nat) : Bool := decide (s.store.resolve a < l + n) && decide (l < s.store.resolve a + z)
  let s1 := (s.banks.toList.zipIdx.filter fun p => p.1.ops.any (·.pend)).foldl (fun (t : State) p =>
    (p.1.ops.filter fun o => o.pend && hit o.loc (s.store.objectSize o)).foldl (fun (t : State) o =>
      match t.store.performObject (dieOf (Fin.ofNat 576 p.2)) o with
      | some (st, q) => { t with store := st }.modBank (Fin.ofNat 576 p.2) fun x =>
          { x with ops := x.ops.map fun (a : Op) => if a.uid = o.uid then q else a }
      | none => t) t) s
  s1.modStore fun st => { st with waits := st.waits.map fun (w : SyncWait) =>
    if w.unread && w.met.isNone && hit w.loc (if w.isBar then 16 else 8) then { w with met := w.holds st, unread := false } else w }

end Sys2Proof.Machine
end

