-- ==== Sys2Proof/Machine/Xlate.lean ====
section
/-! DEFINITION. Translation (01): page-table entries, the walk, the die translation caches, invalidation steps 1-5, and the
fetch of an instruction word. -/

namespace Sys2Proof.Machine

open Sys2Proof

/-- Bits of a word as a number. -/
def fieldOf (w : Word) (lo n : Nat) : Nat := w.toNat / 2 ^ lo % 2 ^ n

/-! ### Page-table entries (01 Table 1.3, R18) -/

/-- What an entry says at its level: the walk ends in a kind, goes on at a table, or has found a leaf. -/
inductive EntryRes where
  | fault (kind : Nat) | table (pa : Nat) | leaf
  deriving DecidableEq, Repr

/-- HOME of an entry. -/
def leafHome (e : Word) : Nat := fieldOf e 7 2
/-- POOL of an unbacked leaf. -/
def leafPool (e : Word) : Nat := fieldOf e 15 8
/-- UPN of an unbacked leaf. -/
def leafUpn (e : Word) : Nat := fieldOf e 23 25
/-- U of a leaf. -/
def leafU (e : Word) : Bool := e.getLsbD 5
/-- LF of a leaf. -/
def leafLf (e : Word) : Bool := e.getLsbD 6
/-- X of a leaf. -/
def leafX (e : Word) : Bool := e.getLsbD 4

/-- The physical address in ADDR (01 Table 1.3). -/
def entryPa (e : Word) : Nat := fieldOf e 15 33 * 2 ^ 15

/-- The location of the first byte of a leaf's page (01 R17). -/
def leafLoc (e : Word) : Nat := if leafU e then unbackedLoc (leafHome e) (leafPool e) (leafUpn e) else entryPa e

/-- The size of a leaf's page (01 R16, R21). -/
def pageSize (big : Bool) : Nat := if big then 0x10000000 else 0x10000

/-- The fields of a leaf that are malformed (01 R17, R18). -/
def leafMalformed (big : Bool) (e : Word) : Bool :=
  if leafU e then big && decide (leafUpn e % 4096 ≠ 0)
  else leafLf e || decide (entryPa e % pageSize big ≠ 0)
    || (match regionOf (entryPa e) with
        | .hbm d => decide (d.val ≠ leafHome e)
        | .fabric => false
        | .slice _ | .pad _ | .dieScratch _ | .control _ | .hole | .unbacked _ => true)

/-- The check of an entry at a level (01 R18). -/
def checkEntry (level : Nat) (e : Word) : EntryRes :=
  if !e.getLsbD 0 then .fault 0
  else if fieldOf e 56 8 ≠ 0 ∨ fieldOf e 9 6 ≠ 0 then .fault 2
  else if e.getLsbD 1 then (if level = 3 ∨ leafMalformed (decide (level = 2)) e then .fault 2 else .leaf)
  else if level = 1 ∨ fieldOf e 2 7 ≠ 0 ∨ fieldOf e 48 8 ≠ 0 then .fault 2
  else match regionOf (entryPa e) with
    | .hbm _ => .table (entryPa e)
    | .slice _ | .pad _ | .dieScratch _ | .control _ | .hole | .fabric | .unbacked _ => .fault 2

/-! ### The walk (01 R16, R19, R24, R27) -/

/-- What a translation finds: a clean leaf and its size, or the kind of the fault. -/
inductive WalkRes where
  | leaf (e : Word) (big : Bool) | fault (kind : Nat)
  deriving DecidableEq, Repr

/-- The walk of a VA from the table of level `l`, with the table pointers read on the way, the deepest first. -/
def Store.walk (st : Store) (va : Nat) : Nat → Nat → List (Nat × Word) → WalkRes × List (Nat × Word)
  | 0, _, ps => (.fault 2, ps)
  | l + 1, table, ps =>
    let a := table + 8 * (va / 2 ^ (16 + 12 * l) % 4096)
    if st.anyBad a 8 then (.fault 8, ps)
    else
      let e := BitVec.ofNat 64 (st.homeNat a 8)
      match checkEntry (l + 1) e with
      | .fault k => (.fault k, ps)
      | .leaf => (.leaf e (decide (l = 1)), ps)
      | .table pa => st.walk va l pa ((l, e) :: ps)

/-- The leaf that a die's cache holds for a VA (01 R24). -/
def Xl.hit (x : Xl) (d : Die) (asn : BitVec 12) (va : Nat) : Option (Word × Bool) :=
  (x.dtc.find? fun e => e.die == d && e.asn == asn && e.page == va / pageSize e.big).map fun e => (e.leaf, e.big)

/-- The table pointer that a die's cache holds for a VA at a level (01 R24). -/
def Xl.pointer (x : Xl) (d : Die) (asn : BitVec 12) (va level : Nat) : Option Word :=
  (x.ptrs.find? fun p => p.die == d && p.asn == asn && p.level == level && p.pre == va / 2 ^ (16 + 12 * level)).map (·.entry)

/-- The walk of a VA by a die, from the deepest table pointer that it caches; an address space without page tables maps
nothing (log entry 7). -/
def State.walkVa (s : State) (d : Die) (asn : BitVec 12) (va : Nat) : WalkRes × List (Nat × Word) :=
  match s.xl.pointer d asn va 1 with
  | some e => s.store.walk va 1 (entryPa e) []
  | none =>
    match s.xl.pointer d asn va 2 with
    | some e => s.store.walk va 2 (entryPa e) []
    | none =>
      match s.xl.roots.find? fun r => r.1 == asn with
      | some r => s.store.walk va 3 r.2 []
      | none => (.fault 0, [])

/-- A lookup by core 0, core 2, a launch unit, a lehr or a dispatcher: the cache, or the tables (01 R24). DESIGN CHOICE: one that misses fills
neither the die's cache nor its table pointers, so that a later XLATE walks anew; the spec says of no lookup but an XLATE's that it fills them
(log entry 67). -/
def State.translate (s : State) (d : Die) (asn : BitVec 12) (va : Nat) : WalkRes :=
  match s.xl.hit d asn va with
  | some (e, big) => .leaf e big
  | none => (s.walkVa d asn va).1

/-- The invalidation holds lookups of the VA on the die (01 R35 step 2). -/
def Xl.heldBy (x : Xl) (d : Die) (asn : BitVec 12) (va : Nat) : Bool :=
  x.invals.any fun i => i.asn == asn && i.dies.contains d && decide (i.base ≤ va) && decide (va < i.base + i.len)

/-- An invalidation holds lookups of some of `n` bytes at a VA on the die (01 R35 step 2). -/
def Xl.holds (x : Xl) (d : Die) (asn : BitVec 12) (va n : Nat) : Bool :=
  x.invals.any fun i => i.asn == asn && i.dies.contains d && decide (i.base < va + n) && decide (va < i.base + i.len)

/-- An access of an agent other than a bank to `n` bytes at a VA waits: lookups of them are held, or their page is locked (01 R35; 02
R52). -/
def State.lookupHeld (s : State) (d : Die) (asn : BitVec 12) (va n : Nat) : Bool :=
  s.xl.holds d asn va n || (!s.store.locks.isEmpty && [va, va + n - 1].any fun a => match s.translate d asn a with
    | .leaf e big => s.store.locked (leafLoc e + a % pageSize big)
    | .fault _ => false)

/-- The translated location of a VA whose leaf grants the rights, or a group-1 kind. -/
def State.locate (s : State) (d : Die) (asn : BitVec 12) (va : Nat) (needR needW : Bool) : Except Nat Nat :=
  if 2 ^ 52 ≤ va then .error 7
  else match s.translate d asn va with
    | .fault k => .error k
    | .leaf e big =>
      if (needR && !e.getLsbD 2) || (needW && !e.getLsbD 3) then .error 1 else .ok (leafLoc e + va % pageSize big)

/-! ### Handles from leaves (01 R25, R27) -/

/-- The handle of a leaf for the rights asked for (01 R25 MakeHandle). -/
def makeHandle (r : WalkRes) (reqR reqW : Bool) (va : Word) : Handle :=
  match r with
  | .fault k => { Handle.faultedOf k with va := va, reqR := reqR, reqW := reqW }
  | .leaf e big =>
    if (reqR && !e.getLsbD 2) || (reqW && !e.getLsbD 3) then
      { Handle.faultedOf 1 with va := va, reqR := reqR, reqW := reqW }
    else
      { Handle.reset with
        st := .valid, size := if big then 1 else 0, rd := reqR, wr := reqW, unbacked := leafU e
        home := BitVec.ofNat 2 (leafHome e), gen := BitVec.ofNat 8 (fieldOf e 48 8)
        extent := BitVec.ofNat 32 (pageSize big), base := BitVec.ofNat 52 (va.toNat / pageSize big * pageSize big)
        loc := leafLoc e, va := va, reqR := reqR, reqW := reqW, lf := leafLf e }

/-- The handle after the walk of its tag has ended (01 R27). -/
def Handle.walked (h : Handle) (tag : Nat) (r : WalkRes) : Handle :=
  if h.st = .pending ∧ h.tag = tag then makeHandle r h.reqR h.reqW h.va else h

/-- The handle's page lies in a range of an invalidation; a faulted handle by the VA translated (01 R35; log entry 8). -/
def Handle.inRange (h : Handle) (base len : Nat) : Bool :=
  !h.isLocal && match h.st with
    | .invalid => false
    | .valid => decide (base < h.base.toNat + h.extent.toNat) && decide (h.base.toNat < base + len)
    | .pending | .faulted => decide (base ≤ h.va.toNat) && decide (h.va.toNat < base + len)

/-! ### All banks, their captures and their handles -/

/-- Changes every bank of the device and every saved one. -/
def State.mapBanks (s : State) (f : Bank → Bank) : State :=
  { s with banks := s.banks.map f, saves := s.saves.map fun p => (p.1, f p.2) }

/-- Changes the capture of an entry. -/
def Entry.mapCap (f : Capture → Capture) (x : Entry) : Entry := { x with cap := x.cap.map f }

/-- Changes the captures of a handler image (17 R367). -/
def HImage.mapCaps (f : Capture → Capture) (g : HImage) : HImage :=
  { g with
    qL := g.qL.map (Entry.mapCap f), qC := g.qC.map (Entry.mapCap f), qW := g.qW.map (Entry.mapCap f)
    copies := g.copies.map fun (c : CopyOp) => { c with cap := f c.cap }
    ops := g.ops.map fun (o : Op) => { o with ent := o.ent.mapCap f } }

/-- Changes every capture of a bank, those of the image of its handler entry included. -/
def Bank.mapCaps (b : Bank) (f : Capture → Capture) : Bank :=
  { b with
    qL := b.qL.map (Entry.mapCap f), qC := b.qC.map (Entry.mapCap f), qW := b.qW.map (Entry.mapCap f)
    copies := b.copies.map fun (c : CopyOp) => { c with cap := f c.cap }
    ops := b.ops.map fun (o : Op) => { o with ent := o.ent.mapCap f }
    image := b.image.map (HImage.mapCaps f) }

/-- Changes every handle of a bank, those on their way included. -/
def Bank.mapHandles (b : Bank) (f : Handle → Handle) : Bank :=
  { b with h := b.h.map f, hland := b.hland.map fun (l : HLand) => { l with h := f l.h } }

/-- The walk of a tag ends: its result goes to the pending handles and to the captures of its tag. The wait of a stale capture has
ended before, whatever the walk returns (01 R27, R28). -/
def Bank.walked (b : Bank) (tag : Nat) (r : WalkRes) : Bank :=
  (b.mapHandles (·.walked tag r)).mapCaps fun c => if c.stale then c else { c with h := c.h.walked tag r }

/-- Steps 4 and 5 of an invalidation on a bank: handles become invalid, captures become stale. An access that has passed its check is
not checked again, so that the mark binds the later repetitions, segments and rows of its word (01 R34, R35). -/
def Bank.invalidated (b : Bank) (base len : Nat) : Bank :=
  (b.mapHandles fun (h : Handle) => if h.inRange base len then { h with st := .invalid } else h).mapCaps
    fun (c : Capture) => if c.h.inRange base len then { c with stale := true } else c

/-! ### The save areas and their check (17 R367, R368) -/

/-- The base of a bank's save area (17 R367). -/
def saveBase (n : BankId) : Nat := sliceBase (coreOf n) + 0x780000 + (bankNo n).val * 0x40000

/-- A 64-bit slot of a region. -/
def le8 (x : Nat) : List Byte := leBytes 8 x

/-- One bit of CRC-32C. -/
def crcBit (c : BitVec 32) : BitVec 32 := if c.getLsbD 0 then (c >>> 1) ^^^ 0x82F63B78 else c >>> 1

/-- One byte of CRC-32C. -/
def crcByte (c : BitVec 32) (x : Byte) : BitVec 32 :=
  crcBit (crcBit (crcBit (crcBit (crcBit (crcBit (crcBit (crcBit (c ^^^ x.setWidth 32))))))))

/-- CRC-32C: the Castagnoli polynomial, reflected, with the initial and final complement (17 Table 17.10; log entry 64). -/
def crc32c (bs : List Byte) : BitVec 32 := ~~~(bs.foldl crcByte 0xFFFFFFFF)

/-- `n` bytes from `a` on of memory listed from `a` on. -/
def Memory.spanFrom : Nat → Nat → Memory → List Byte
  | 0, _, _ => []
  | n + 1, a, (k, v) :: m => if k = a then v :: Memory.spanFrom n (a + 1) m else 0 :: Memory.spanFrom n (a + 1) ((k, v) :: m)
  | n + 1, a, [] => 0 :: Memory.spanFrom n (a + 1) []

/-- `n` bytes of memory from `a` on. -/
def Memory.span (m : Memory) (a n : Nat) : List Byte := Memory.spanFrom n a (m.dropWhile fun p => decide (p.1 < a))

/-- The bytes of the queue and replay image of a bank's last frame (17 Table 17.8, R367). -/
def Bank.imageBytes (b : Bank) : List Byte := (Config.queueImage b.frameNo).take 0xB300

/-- The regions that a frame of a kind writes, by offset and size in offset order (17 Table 17.8, R360, R363, R371). -/
def Bank.frameRanges (b : Bank) (kind : Nat) : List (Nat × Nat) :=
  let full (r : Nat × Nat) : List (Nat × Nat) := if kind = 3 then [r] else []
  let image (r : Nat × Nat) : List (Nat × Nat) := if 2 ≤ kind then [r] else []
  (if kind = 3 then ((List.finRange 4).filter b.wroteAcc.contains).map fun a => (0xC000 * a.val, 0xC000) else [])
    ++ (if b.wroteV then full (0x30000, 0x4000) else []) ++ image (0x34000, b.imageBytes.length)
    ++ full (0x3F300, 0x300) ++ full (0x3F600, 0x200) ++ full (0x3F800, 0x100) ++ full (0x3F900, 0x100) ++ full (0x3FA00, 0x40)
    ++ image (0x3FA40, 0xC0) ++ full (0x3FB00, 0x100) ++ [(0x3FC00, 0x200)]

/-- CHECK of a frame as memory holds it: over its regions in offset order, with KIND and CHECK taken as zero (17 Table 17.10). -/
def Store.frameCrc (st : Store) (n : BankId) (ranges : List (Nat × Nat)) : BitVec 32 :=
  crc32c (ranges.flatMap fun r =>
    let bs := st.mem.span (saveBase n + r.1) r.2
    if r.1 = 0x3FC00 then List.replicate 8 0 ++ ((bs.drop 8).take 0x1F0) ++ List.replicate 8 0 else bs)

/-- CHECK is written into a frame (17 R368, R371). -/
def Store.seal (st : Store) (n : BankId) (ranges : List (Nat × Nat)) : Store :=
  st.put (dieOf n) (saveBase n + 0x3FDF8) (le8 (st.frameCrc n ranges).toNat)

/-- Step 4 of an invalidation on a save area: the handles in the range become invalid there, and CHECK follows (01 R35). -/
def State.invalidateSaved (s : State) (p : Nat × Bank) (base len : Nat) : State :=
  let n : BankId := Fin.ofNat 576 p.1
  let ks := (List.finRange 16).filter fun k => (p.2.h.get k).inRange base len
  if ks.isEmpty then s
  else
    let off (h : Handle) : Handle := if h.inRange base len then { h with st := .invalid } else h
    let st := ks.foldl (fun (st : Store) k =>
      st.put (dieOf n) (saveBase n + 0x3F908 + 16 * k.val) (le8 (off (p.2.h.get k)).word1.toNat)) s.store
    { s with
      store := st.seal n (p.2.frameRanges 3)
      frames := s.frames.map fun q => if q.1 = p.1 then (q.1, q.2.mapHandles off) else q }

/-- The waits of launches in a range that an invalidation covers are given up: each is made anew, at the location that its VA has then, once
the lookups of the range are let go on (01 R35, R36; 14 R305). -/
def Store.dropWaits (st : Store) (asn : BitVec 12) (base len : Nat) : Store :=
  { st with lwaits := st.lwaits.filter fun w =>
      w.met || w.done || w.asn != asn || !(decide (base ≤ w.va) && decide (w.va < base + len)) }

/-- Begins an invalidation on all four dies: steps 1 to 5 of 01 Table 1.10. `pgmig` is the PGMIG that it ends (02 R60), and `old` are the
unbacked pages whose leaves it replaces (02 R430). -/
def State.invalidate (s : State) (asn : BitVec 12) (base len : Nat) (pgmig : Option (BankId × Nat)) (old : List Nat := []) : State :=
  let s1 : State := { s with store := s.store.dropWaits asn base len, xl := { s.xl with
    dtc := s.xl.dtc.filter fun e =>
      !(e.asn == asn && decide (e.page * pageSize e.big < base + len) && decide (base < (e.page + 1) * pageSize e.big))
    ptrs := []
    invals := s.xl.invals ++ [{ id := s.xl.next, asn := asn, base := base, len := len, dies := [0, 1, 2, 3], pgmig := pgmig, old := old }]
    next := s.xl.next + 1 } }
  let s2 := s1.mapBanks fun b => if b.asn = asn then b.invalidated base len else b
  s2.frames.foldl (fun (t : State) p => if p.2.asn = asn then t.invalidateSaved p base len else t) s2

/-! ### Instruction fetch (01 R29; 07 R153) -/

/-- The result of a fetch: a word, a wait for an invalidation, or a group-1 kind. -/
inductive Fetch where
  | word (w : IWord) | wait | fault (kind : Nat)
  deriving DecidableEq, Repr

/-- The location of one instruction byte (01 R29). -/
def State.codeByte (s : State) (d : Die) (asn : BitVec 12) (va : Nat) : Except Nat Nat :=
  if 2 ^ 52 ≤ va then .error 7
  else match s.translate d asn va with
    | .fault k => .error k
    | .leaf e big => if leafX e then .ok (leafLoc e + va % pageSize big) else .error 1

/-- The bytes from a VA on, or the first kind that one of them meets; poison is kind 9 (03 R86). -/
def State.codeBytes (s : State) (d : Die) (asn : BitVec 12) (va : Nat) : Nat → Except Nat (List Byte)
  | 0 => .ok []
  | n + 1 =>
    match s.codeByte d asn va with
    | .error k => .error k
    | .ok l =>
      if s.store.badFor d (l / 8) then .error 9
      else match s.codeBytes d asn (va + 1) n with
        | .error k => .error k
        | .ok bs => .ok (s.store.viewByte d l :: bs)

/-- The word at an index of a bank's code. DESIGN CHOICE: an index is taken as an unsigned 64-bit number, so that one that a backward
branch brings below 0 lies past every canonical address and faults with kind 7 (09 R206; log entry 63). -/
def State.fetch (s : State) (b : BankId) (idx : Word) : Fetch :=
  let x := s.bank b
  let va := x.code.toNat + 6 * idx.toNat
  if s.xl.heldBy (dieOf b) x.asn va || s.xl.heldBy (dieOf b) x.asn (va + 5) then .wait
  else match s.codeBytes (dieOf b) x.asn va 6 with
    | .error k => .fault k
    | .ok bs => .word (wordOfBytes bs)

end Sys2Proof.Machine
end

