-- ==== Sys2Proof/Machine/Errors.lean ====
section
/-! DEFINITION. Errors found by reads and by the scrubber: correction, poison, counting by location, what a lasting fault
retires, and unbacked pages that leave (02 R50-R54; 03 R84-R86; 18 R394; 20 R414-R418). -/

namespace Sys2Proof.Machine

open Sys2Proof

/-! ### Reads that find errors (03 R85; 18 R393, R394) -/

/-- The error location of a unit of a level or an L2 (20 Table 20.1). A storage set is named by its 16 lines (log entry 10). -/
def errLocOf (u : Nat) : Option ErrLoc :=
  match regionOf (u * 8) with
  | .hbm d => some (.storageSet d (u * 8 / 0x800))
  | .slice c | .pad c => some (.core c)
  | .dieScratch d => some (.dieBlock d ((u * 8 - dieScratchBase d) / 0x800))
  | .unbacked d => some (.storageSet d (u * 8 / 0x800))
  | .control _ | .hole | .fabric => none

/-- Changes a die's power state. -/
def State.modDie (s : State) (d : Die) (f : PwrDie → PwrDie) : State :=
  { s with power := { s.power with dies := s.power.dies.set d.val (f (s.power.dies.get d)) d.isLt } }

/-- The die whose marver slice holds a unit. -/
def sliceDie (u : Nat) : Option Die :=
  match regionOf (u * 8) with
  | .slice c => some (dieOfCore c)
  | _ => none

/-- A read finds what is wrong with a unit and the tag of its line: a single-bit error is corrected and counted; an uncorrectable unit is stored as
poison, logged and counted, as `count` does it, or, in a marver slice under an undervolted rail, attributed to the rail controller, which steps
up twice, halves SP and holds (03 R85, R90; 18 R393, R394). -/
def State.senseUnitBy (count : State → ErrLoc → Nat → State) (s0 : State) (u0 : Nat) : State :=
  let u := s0.store.resolve (u0 * 8) / 8
  let s := s0.senseHomeTagBy count (u / 16)
  match ((s.store.ecc.find? fun (p : Nat × Ecc) => p.1 == u).map (·.2) : Option Ecc) with
  | none => s.senseHbmBy count u
  | some .poison => s
  | some .single =>
    let s1 := s.modStore fun st => st.setEcc u none
    let s2 := match sliceDie u with | some d => s1.modDie d fun p => { p with corrected := p.corrected + 1 } | none => s1
    match errLocOf u with | some loc => count s2 loc 1 | none => s2
  | some .uncorrectable =>
    let s1 := s.modStore fun st => st.setEcc u (some .poison)
    match sliceDie u with
    | some d =>
      if (s1.power.dies.get d).vmrv < 150 then
        let s2 := (s1.report (.uncorrectable u true)).modDie d fun p =>
          { p with railUp := p.railUp + 2, sp := max 1 (p.sp / 2), hold := true, holdFrom := s.time, corrected := 0 }
        match errLocOf u with | some loc => count s2 loc 0 | none => s2
      else
        let s2 := (s1.report (.uncorrectable u false)).modDie d fun p => { p with calmFrom := s.time }
        match errLocOf u with | some loc => count s2 loc 2 | none => s2
    | none =>
      let s2 := s1.report (.uncorrectable u false)
      match errLocOf u with | some loc => count s2 loc 2 | none => s2

/-- No unit of the storage, of HBM or of a remote copy has an error, and no tag of an L2. -/
def Store.clean (st : Store) : Bool := st.ecc.isEmpty && st.hbmEcc.isEmpty && st.tagEcc.isEmpty && st.remote.all (·.ecc.isEmpty)

/-- A read of a whole range, by core 3 that moves it or by slices that write it back, finds the errors that are there (03 R85). -/
def State.senseRange (s0 : State) (l n : Nat) : State :=
  if s0.store.clean then s0
  else
    let here (u : Nat) : Bool := decide (l / 8 ≤ u) && decide (u < (l + n) / 8)
    let s1 := ((s0.store.tagEcc.map fun p => p.2.1 * 16).filter here).foldl (fun (t : State) u => t.senseHomeTagBy State.countQuiet (u / 16)) s0
    let s2 := ((s1.store.ecc.map fun (p : Nat × Ecc) => p.1).filter here).foldl (State.senseUnitBy State.countQuiet) s1
    ((s2.store.hbmEcc.map fun (p : Nat × Ecc) => p.1).filter here).foldl (State.senseHbmBy State.countQuiet) s2

/-- A read by an agent of die `d` finds what is wrong with a unit of the die's own copy of a remote line (03 R79, R84, R85; 20
Table 20.1). -/
def State.senseCopyBy (count : State → ErrLoc → Nat → State) (s0 : State) (d : Die) (u : Nat) : State :=
  let s := if s0.store.tagEcc.isEmpty then s0 else s0.senseTagBy count d (u / 16)
  let set (x : Option Ecc) (t : State) : State := t.modStore fun st => { st with remote := st.remote.map fun (r : RLine) =>
    if r.die = d ∧ r.line = u / 16 then
      { r with ecc := (match x with | some e => [(u, e)] | none => []) ++ r.ecc.filter fun p => p.1 != u } else r }
  match ((s.store.copyOf d (u / 16)).bind fun (r : RLine) => (r.ecc.find? fun p => p.1 == u).map (·.2) : Option Ecc) with
  | none | some .poison => s
  | some .single => count (set none s) (.remoteSet d (u / 256)) 1
  | some .uncorrectable => count ((set (some .poison) s).report (.uncorrectable u false)) (.remoteSet d (u / 256)) 2

/-- A store of `n` bytes at `l` by an agent of die `d` reads what it merges with: errors of the units that it writes in part are found, at
their home and in the die's own copy of a remote line, and so are those of the tags and of the lines that come from HBM (03 R80, R84, R85,
R89; 18 R394). -/
def State.senseMergeBy (count : State → ErrLoc → Nat → State) (s : State) (d : Die) (l0 n : Nat) : State :=
  if s.store.clean then s
  else
    let l := s.store.resolve l0
    let part := (unitsOf l n).filter fun u => !(decide (l ≤ u * 8) && decide (u * 8 + 8 ≤ l + n))
    let s1 := part.foldl (State.senseUnitBy count)
      ((linesOf l n).foldl (fun (t : State) x => (t.senseHomeTagBy count x).senseHbmBy count (x * 16)) s)
    if remoteHomed d l then
      part.foldl (fun (t : State) u => if (t.store.copyOf d (u / 16)).isSome then t.senseCopyBy count d u else t) s1
    else s1

/-! ### Moving pages -/

/-- The listed bytes of a range. -/
def Memory.range (m : Memory) (a n : Nat) : Memory := m.filter fun p => decide (a ≤ p.1) && decide (p.1 < a + n)

/-- Memory with a range cleared. -/
def Memory.clear (m : Memory) (a n : Nat) : Memory := m.filter fun p => !(decide (a ≤ p.1) && decide (p.1 < a + n))

/-- Memory with a range written as a copy of another. -/
def Memory.copy (m : Memory) (src n dst : Nat) : Memory :=
  (m.range src n).foldl (fun acc p => acc.write (dst + (p.1 - src)) p.2) (m.clear dst n)

/-- The poison of a range of units carried to another range, unit for unit; corrected units arrive correct (03 R87). -/
def copyEcc (ecc : List (Nat × Ecc)) (src n dst : Nat) : List (Nat × Ecc) :=
  let moved := ecc.filterMap fun p =>
    if src / 8 ≤ p.1 ∧ p.1 < (src + n) / 8 ∧ p.2 ≠ .single then some (dst / 8 + (p.1 - src / 8), Ecc.poison) else none
  moved ++ ecc.filter fun p => !(decide (dst / 8 ≤ p.1) && decide (p.1 < (dst + n) / 8))

/-- The bad units of a range, in their level or L2 and in HBM (03 R84). -/
def Store.badIn (st : Store) (l n : Nat) : List Nat :=
  ((st.ecc.map (fun (p : Nat × Ecc) => p.1) ++ st.hbmEcc.flatMap fun (p : Nat × Ecc) => (List.range 4).map (p.1 / 4 * 4 + ·)).eraseDups).filter fun u =>
    decide (l / 8 ≤ u) && decide (u < (l + n) / 8) && match st.unitEcc u with
      | some .uncorrectable | some .poison => true
      | some .single | none => false

/-- A frame of HBM written whole as a copy of a range; its lines are clean, and bad units arrive as poison (02 Table 2.3 steps 3, 4;
03 R87; 20 R417). -/
def Store.copyFrame (st : Store) (src n dst : Nat) : Store :=
  let m := st.mem.copy src n dst
  let bad := (st.badIn src n).map fun u => (dst / 8 + (u - src / 8), Ecc.poison)
  let keep (p : Nat × Ecc) : Bool := !(decide (dst / 8 ≤ p.1) && decide (p.1 < (dst + n) / 8))
  { st with
    mem := m
    hbm := (m.range dst n).foldl (fun acc p => acc.write p.1 p.2) (st.hbm.clear dst n)
    dirty := st.dirty.filter fun l => !(decide (dst / 128 ≤ l) && decide (l < (dst + n) / 128))
    ecc := bad ++ st.ecc.filter keep
    hbmEcc := bad ++ st.hbmEcc.filter keep }

/-! ### Leaves (01 R16) -/

/-- A leaf in the page tables: whose, of which VA, its size, where its entry lies, and the entry. -/
structure LeafRef where
  asn : BitVec 12
  va : Nat
  big : Bool
  addr : Nat
  e : Word
  deriving DecidableEq, Repr

/-- The leaves reached from a table of level `l`. -/
def Store.leavesFrom (st : Store) (asn : BitVec 12) : Nat → Nat → Nat → List LeafRef
  | 0, _, _ => []
  | l + 1, table, va =>
    (List.range 4096).flatMap fun k =>
      let a := table + 8 * k
      let e := BitVec.ofNat 64 (st.homeNat a 8)
      let va' := va + k * 2 ^ (16 + 12 * l)
      match checkEntry (l + 1) e with
      | .fault _ => []
      | .leaf => [{ asn := asn, va := va', big := decide (l = 1), addr := a, e := e }]
      | .table pa => st.leavesFrom asn l pa va'

/-- Every leaf of every address space. -/
def State.leaves (s : State) : List LeafRef := s.xl.roots.flatMap fun r => s.store.leavesFrom r.1 3 r.2 0

/-- The gaffer memory-management core writes an entry, released at device scope (01 R19, R33). -/
def Store.writeEntry (st : Store) (addr : Nat) (e : Word) : Store :=
  match regionOf addr with
  | .hbm d => st.put d addr (leBytes 8 e.toNat)
  | .slice _ | .pad _ | .dieScratch _ | .control _ | .hole | .fabric | .unbacked _ => st

/-- A leaf with GEN counted up (01 R33). -/
def leafGenUp (e : Word) : Word :=
  BitVec.ofNat 64 (e.toNat % 2 ^ 48 + (fieldOf e 48 8 + 1) % 256 * 2 ^ 48 + e.toNat / 2 ^ 56 * 2 ^ 56)

/-- A backed leaf for a frame: ADDR and HOME replaced, U and LF zero, the rights kept, GEN counted up (02 R52 step 5). -/
def leafBacked (e : Word) (frame home : Nat) : Word :=
  BitVec.ofNat 64 ((leafGenUp e).toNat / 2 ^ 48 * 2 ^ 48 + frame + home * 2 ^ 7 + e.toNat % 32)

/-- An L2 evicts a backed line: a dirty one is read and written to HBM. Its requester number in the traffic log is a free value. An unbacked
line is never evicted (02 R42; 03 R78, R85; 20 Table 20.7; log entry 4). -/
def State.evictLine (s : State) (line : Nat) : State :=
  let f := s.nextFree
  match regionOf (line * 128) with
  | .hbm _ =>
    (if s.store.dirty.contains line then
        (f.2.senseRange (line * 128) 128).traffic (fun _ => f.1.toNat % 2 ^ 8) 6 (line * 128) 128 else s).modStore fun st => st.evict line
  | .slice _ | .pad _ | .dieScratch _ | .control _ | .hole | .fabric | .unbacked _ => s

/-- A line is made lost: what has issued on its objects is performed before, and the error log names it (02 R54). -/
def State.loseLine (s : State) (line : Nat) (f : Store → Nat → Store) : State :=
  if s.store.lineSt line = some .pinned then ((s.performFirst (line * 128) 128).report (.lineLost line)).modStore fun st => f st line
  else { s with store := f s.store line }

/-! ### Retirement (20 R416-R418; 02 R50) -/

/-- Lines reserved on a die (02 R47). -/
def Store.reservedOn (st : Store) (d : Die) : Nat :=
  st.pools.foldl (fun n p => if p.die = d then n + p.r else n) 0

/-- The unbacked capacity of a die: its line frames less the retired ones (02 R47). -/
def Store.capacity (st : Store) (d : Die) : Nat := 589824 - st.retiredLines.get d

/-- Changes the pool of a home die and number. -/
def Store.modPool (st : Store) (d : Die) (n : Nat) (f : Pool → Pool) : Store :=
  { st with pools := modFirst (fun p => p.die == d && p.num.toNat == n) f st.pools }

/-- The pool of a home die and number. -/
def Store.pool (st : Store) (d : Die) (n : Nat) : Option Pool := st.pools.find? fun p => p.die == d && p.num.toNat == n

/-- The pool number of an unbacked line (02 R41). -/
def poolOfLine (line : Nat) : Nat := (line * 128 - 2 ^ 48) / 2 ^ 41 % 256

/-- The home die of an unbacked line (02 R41). -/
def dieOfLine (line : Nat) : Die := Fin.ofNat 4 ((line * 128 - 2 ^ 48) / 2 ^ 49)

/-- Makes a pinned line lost: its frame is freed, its tag stays, P and NLOST count (02 R54). -/
def Store.lose (st : Store) (line : Nat) : Store :=
  if st.lineSt line = some .pinned then
    let st1 := st.setLine line (some .lost)
    { st1 with mem := st1.mem.clear (line * 128) 128, ecc := st1.ecc.filter fun q => q.1 / 16 != line }.modPool (dieOfLine line) (poolOfLine line)
      fun p => { p with p := p.p - 1, nlost := p.nlost + 1 }
  else st

/-- A frame of a list that lies in a die's HBM, and the list without it. -/
def takeFrameOf (d : Die) (fs : List Nat) : Option (Nat × List Nat) := takeFirst (fun f => regionOf f == .hbm d) fs

/-- A frame leaves the free lists and the late reserves; a reserve's frame is replaced by a free one of its die where there is one
(20 R417; 02 Table 2.1). -/
def State.dropFrame (s : State) (pa : Nat) : State :=
  let holds (f : Nat) : Bool := decide (f ≤ pa) && decide (pa < f + 0x10000000)
  let s1 := s.modGaffer fun g => { g with free64 := g.free64.filter (· != pa), free256 := g.free256.filter fun f => !holds f }
  match s1.store.pools.find? fun p => p.late64.contains pa with
  | some p =>
    let rest := p.late64.filter (· != pa)
    match takeFrameOf p.die s1.gaffer.free64 with
    | some (f, fs) => { s1.modGaffer fun g => { g with free64 := fs } with
        store := s1.store.modPool p.die p.num.toNat fun q => { q with late64 := rest ++ [f] } }
    | none => { s1 with store := s1.store.modPool p.die p.num.toNat fun q => { q with late64 := rest } }
  | none =>
    match s1.store.pools.find? fun p => p.late256.any holds with
    | some p =>
      let rest := p.late256.filter fun f => !holds f
      match takeFrameOf p.die s1.gaffer.free256 with
      | some (f, fs) => { s1.modGaffer fun g => { g with free256 := fs } with
          store := s1.store.modPool p.die p.num.toNat fun q => { q with late256 := rest ++ [f] } }
      | none => { s1 with store := s1.store.modPool p.die p.num.toNat fun q => { q with late256 := rest } }
    | none => s1

/-- The leaf names a page whose late-frame conversion or PGMIG has not passed its last step: it is locked, or the forwarding entry to
its new place stands (02 R430). -/
def Store.moving (st : Store) (e : Word) : Bool :=
  (leafU e && st.locked (leafLoc e)) || st.forwards.any fun f => !f.orphan && f.dst == leafLoc e

/-- Core 3 writes an entry, which its slice tests as an access of the gaffer complex (01 R19; 20 R423). -/
def State.writeEntry (s : State) (addr : Nat) (e : Word) : State :=
  ((s.openLine addr).traffic (reqFor 73 0) 1 addr 8).modStore fun st => st.writeEntry addr e

/-- A backed page moves to a free frame of its size: core 3 copies it, and every leaf that maps it is rewritten with GEN counted up and
invalidated. Without a free frame the page stays, and so it does while a conversion or a move of it is not over (20 R417; 02 R430; log
entry 10). -/
def State.movePage (s : State) (pa : Nat) (big : Bool) (ls : List LeafRef) : State :=
  match if big then s.gaffer.free256 else s.gaffer.free64 with
  | [] => s
  | f :: fs =>
    if ls.any fun l => s.store.moving l.e then s
    else
      let n := pageSize big
      let home := match regionOf f with | .hbm d => d.val | _ => 0
      let s0 := ((s.senseRange pa n).traffic (reqFor 73 0) 0 pa n).traffic (reqFor 73 0) 1 f n
      let s1 := (s0.modGaffer fun g => if big then { g with free256 := fs } else { g with free64 := fs }).modStore fun st => st.copyFrame pa n f
      let s2 := ls.foldl (fun (t : State) l => t.writeEntry l.addr (leafBacked l.e f home)) s1
      ls.foldl (fun (t : State) l => t.invalidate l.asn l.va n none) s2

/-- Retires an HBM frame: off the free list, and every page that holds it moved (20 R417). -/
def State.retireFrame (s : State) (pa : Nat) : State :=
  let s1 := s.dropFrame pa
  let ls := s1.leaves.filter fun l => !leafU l.e && decide (entryPa l.e ≤ pa) && decide (pa < entryPa l.e + pageSize l.big)
  let pages := (ls.map fun l => (entryPa l.e, l.big)).eraseDups
  pages.foldl (fun (t : State) p => t.movePage p.1 p.2 (ls.filter fun l => entryPa l.e == p.1 && l.big == p.2)) s1

/-- The pages that hold a retired frame and could not move are moved once they can (20 R417; log entry 10). -/
def State.retryMoves (s : State) : State :=
  s.gaffer.retired.foldl (fun (t : State) r => match r with
    | .frame n => t.retireFrame (n * 0x10000)
    | .storageSet .. | .remoteSet .. | .dieBlock .. | .core _ | .gafferMem => t) s

/-- A frame of `n` bytes is or holds a retired one (20 R416). -/
def State.frameRetired (s : State) (pa n : Nat) : Bool :=
  s.gaffer.retired.any fun r => match r with
    | .frame k => decide (pa ≤ k * 0x10000) && decide (k * 0x10000 < pa + n)
    | _ => false

/-! ### Unbacked pages that leave (02 R50-R54) -/

/-- An unbacked line becomes absent: its frame is freed and P counts down where it was pinned (02 R57). -/
def Store.dropLine (st : Store) (line : Nat) : Store :=
  match st.lineSt line with
  | none => st
  | some x =>
    let st1 := st.setLine line none
    let st2 := { st1 with
      mem := st1.mem.clear (line * 128) 128, ecc := st1.ecc.filter fun q => q.1 / 16 != line
      tagEcc := st1.tagEcc.filter fun q => q.2.1 != line }
    if x = .pinned then st2.modPool (dieOfLine line) (poolOfLine line) fun p => { p with p := p.p - 1 } else st2

/-- The lines with a tag among `n` bytes at an unbacked location. -/
def Store.linesIn (st : Store) (l n : Nat) : List (Nat × LineSt) :=
  st.lines.filter fun p => decide (l / 128 ≤ p.1) && decide (p.1 * 128 < l + n)

/-- The pinned lines of a page (02 R60: M). -/
def Store.pinnedIn (st : Store) (l n : Nat) : Nat := ((st.linesIn l n).filter fun p => p.2 == .pinned).length

/-- The pool number in an unbacked location (02 R41). -/
def poolOfLoc (l : Nat) : Nat := (l - 2 ^ 48) / 2 ^ 41 % 256
/-- The home die in an unbacked location (02 R41). -/
def dieOfLoc (l : Nat) : Die := Fin.ofNat 4 ((l - 2 ^ 48) / 2 ^ 49)
/-- The pool page number in an unbacked location (02 R41). -/
def upnOfLoc (l : Nat) : Nat := (l - 2 ^ 48) / 2 ^ 16 % 2 ^ 25

/-- The leaf entry that maps a VA, with its address, from a table of level `l`. -/
def Store.leafAt (st : Store) (va : Nat) : Nat → Nat → Option (Nat × Word)
  | 0, _ => none
  | l + 1, table =>
    let a := table + 8 * (va / 2 ^ (16 + 12 * l) % 4096)
    let e := BitVec.ofNat 64 (st.homeNat a 8)
    match checkEntry (l + 1) e with
    | .fault _ => none
    | .leaf => some (a, e)
    | .table pa => st.leafAt va l pa

/-- The leaf entry that maps a VA of an address space, with its address. -/
def State.leafAt (s : State) (asn : BitVec 12) (va : Nat) : Option (Nat × Word) :=
  match s.xl.roots.find? fun r => r.1 == asn with
  | some r => s.store.leafAt va 3 r.2
  | none => none

/-- The unbacked lines of a page written into a frame: pinned lines with their contents, absent lines zero, lost lines as
poison; the lines and their pins are freed (02 Table 2.3 steps 3, 4). -/
def Store.toFrame (st : Store) (l n frame : Nat) : Store :=
  let lost := (st.linesIn l n).filter fun p => p.2 == .lost
  let st1 := st.copyFrame l n frame
  let bad := lost.flatMap fun (p : Nat × LineSt) => (List.range 16).map fun k => ((frame + (p.1 * 128 - l)) / 8 + k, Ecc.poison)
  let st2 := { st1 with ecc := bad ++ st1.ecc, hbmEcc := bad ++ st1.hbmEcc }
  (st.linesIn l n).foldl (fun st p => st.dropLine p.1) st2

/-- Withdrawn pools that no leaf names any more end, and their numbers are free (02 R429). DESIGN CHOICE: that is when the invalidations of
the owner's address space are complete, and the frames of such a pool's late reserve go on no free list; the spec does not say when, nor
where they go (log entry 65). -/
def State.endPools (s : State) : State :=
  if s.store.pools.all fun p => !p.withdrawn then s
  else
    let ls := s.leaves
    let named (p : Pool) : Bool := ls.any fun r => leafU r.e && leafHome r.e == p.die.val && leafPool r.e == p.num.toNat
    let gone := s.store.pools.filter fun p => p.withdrawn && !named p && !s.xl.invals.any fun i => i.asn == p.owner
    let inGone (line : Nat) : Bool := gone.any fun p => dieOfLine line == p.die && poolOfLine line == p.num.toNat
    s.modStore fun st => { st with
      pools := st.pools.filter fun p => !gone.contains p
      lines := st.lines.filter fun q => !inGone q.1 }

/-- The forwarding entry of a page that no leaf names any more, kept until the invalidation of the change that took the leaf away is
complete, as does the PGMIG that moved it. `pool` is where its frame came from (02 R60, R430). -/
def State.orphanMove (s : State) (asn : BitVec 12) (va l n dst : Nat) (pool : Option (Die × Nat)) (pgmig : Option (BankId × Nat)) : State :=
  let id := match (s.xl.invals.filter fun i =>
      i.asn == asn && decide (i.base ≤ va) && decide (va < i.base + i.len) && i.old.contains l).getLast? with
    | some i => i.id
    | none => s.xl.next
  let s1 : State := { s with xl := { s.xl with invals := s.xl.invals.map fun (i : Inval) =>
    if i.id = id then { i with pgmig := i.pgmig.or pgmig } else i } }
  s1.modStore fun st => { st with forwards := st.forwards ++ [{ src := l, len := n, dst := dst, inval := id, orphan := true, pool := pool }] }

/-- The end of a move: the leaf that still names the page is rewritten and its invalidation started, and a forwarding entry
leads from the old place to the new one (02 R52 step 5, R60 step 4). A leaf that no longer names the page stays, and the
new place goes back to its pool when the invalidation of that change is complete (02 R430). -/
def State.finishMove (s : State) (asn : BitVec 12) (va l n dst : Nat) (pool : Option (Die × Nat)) (new : Word → Word)
    (pgmig : Option (BankId × Nat)) : State :=
  match s.leafAt asn va with
  | some (addr, e) =>
    if leafU e && decide (leafLoc e = l) then
      let s1 := (s.writeEntry addr (new e)).modStore fun st => { st with
        forwards := st.forwards ++ [{ src := l, len := n, dst := dst, inval := s.xl.next, orphan := false, pool := pool }] }
      s1.invalidate asn (va / n * n) n pgmig
    else s.orphanMove asn va l n dst pool pgmig
  | none => s.orphanMove asn va l n dst pool pgmig

/-- The home L2 writes the frame of a page that is converted: its slices write the lines back, whose requester is a free value (20 Table
20.7; log entry 4). -/
def State.frameTraffic (s : State) (frame n : Nat) : State :=
  if (List.finRange 4).any s.gaffer.filtersOn then
    { s with free := s.free + 1 }.traffic (fun _ => (Config.freeWord s.free).toNat % 2 ^ 8) 6 frame n
  else s

/-- A frame of a pool's late reserve of a size, and the pool without it (02 R52 step 2). -/
def Pool.takeFrame (p : Pool) (n : Nat) : Option (Nat × Pool) :=
  if n = 0x10000 then match p.late64 with | f :: fs => some (f, { p with late64 := fs }) | [] => none
  else match p.late256 with | f :: fs => some (f, { p with late256 := fs }) | [] => none

/-- The leaf that names an unbacked page (02 R429). -/
def State.leafNaming (s : State) (l : Nat) : Option LeafRef :=
  s.leaves.find? fun r => leafU r.e && decide (leafLoc r.e ≤ l) && decide (l < leafLoc r.e + pageSize r.big)

/-- The page of an unbacked leaf becomes a backed page on a frame of its pool's late reserve; `none` under LF = 0, or where the
reserve holds no frame of its size (02 R50, R52, R53). -/
def State.convertLate (s : State) (r : LeafRef) : Option State :=
  let n := pageSize r.big
  let l := leafLoc r.e
  let d := dieOfLoc l
  let pool := poolOfLoc l
  if leafLf r.e then
    ((s.store.pool d pool).bind fun p => p.takeFrame n).map fun (f, p') =>
      (((s.senseRange l n).modStore fun st => (st.modPool d pool fun _ => { p' with nlate := p'.nlate + 1 }).toFrame l n f).frameTraffic f n).finishMove
        r.asn r.va l n f (some (d, pool)) (fun e => leafBacked e f (leafHome e)) none
  else none

/-- The pools of a die give reservations back that the capacity no longer holds, in their order and down to what they have pinned
(02 R47). DESIGN CHOICE: the spec does not say whose reservations go (log entry 63). -/
def Store.trimReserves (st : Store) (d : Die) : Store :=
  let p := st.pools.foldl (fun (q : Nat × List Pool) p =>
    if p.die = d then (q.1 - min q.1 (p.r - p.p), q.2 ++ [{ p with r := p.r - min q.1 (p.r - p.p) }]) else (q.1, q.2 ++ [p]))
    (st.reservedOn d - st.capacity d, [])
  { st with pools := p.2 }

/-- Pinned lines leave: the page of each is converted to a late frame under LF = 1, and else the line becomes lost (02 R50, R53, R54). -/
def State.leaveLines (s : State) (ks : List Nat) : State :=
  ks.foldl (fun (t : State) k =>
    if t.store.lineSt k = some .pinned then ((t.leafNaming (k * 128)).bind t.convertLate).getD (t.loseLine k Store.lose) else t) s

/-- The pinned lines of a die. -/
def Store.pinnedOn (st : Store) (d : Die) : List Nat :=
  (st.lines.filter fun p => p.2 == .pinned && dieOfLine p.1 == d).map (·.1)

/-- Retires a storage set. The lines of a backed set have left for HBM. Those of an unbacked set move to unreserved frames while the die
has them; otherwise they leave, and so many others of the die with them that the rest fits into what is left (02 R47, R50, R53, R54; 20
Table 20.1). DESIGN CHOICE: which other lines those are, for the model does not say which lines share a set (log entries 10, 65). -/
def State.retireSet (s : State) (d : Die) (n : Nat) : State :=
  let mine := (List.range 16).map (n * 16 + ·)
  if n * 0x800 < 2 ^ 48 then s
  else
    let s1 := s.modStore fun st => { st with retiredLines := st.retiredLines.set d.val (st.retiredLines.get d + 16) d.isLt }
    let st := s1.store
    if st.reservedOn d ≤ st.capacity d then s1
    else
      let s2 := s1.leaveLines mine
      let all := s2.store.pinnedOn d
      (s2.leaveLines (all.take (all.length - s2.store.capacity d))).modStore fun st => st.trimReserves d

/-- An image whose retirement record holds a location more, signed with the identity key (20 R416). -/
def SignedImage.retire (img : SignedImage) (seed : List Byte) (loc : ErrLoc) : SignedImage :=
  if img.retirement.contains loc then img
  else
    let m := { img with retirement := img.retirement ++ [loc] }
    { m with identitySig := Config.edSign seed (Config.sha512 (Config.retirementPart m)) }

/-- A set of the backed lines or of a remote partition is left out of use: nothing is held in it any more (20 R414, R416). -/
def Store.leaveSet (st : Store) (loc : ErrLoc) : Store :=
  let gone (r : RLine) : Bool := match loc with | .remoteSet d n => r.die == d && r.line / 16 == n | _ => false
  match loc with
  | .storageSet _ n =>
    if n * 0x800 < 2 ^ 48 then
      ((List.range 16).map (n * 16 + ·)).foldl Store.evict { st with out := loc :: st.out.filter (· != loc) }
    else st
  | .remoteSet .. => { st with
      out := loc :: st.out.filter (· != loc), remote := st.remote.filter fun r => !gone r, fills := st.fills.filter fun r => !gone r }
  | .frame _ | .dieBlock .. | .core _ | .gafferMem => st

/-- The dirty lines of a set that is left out of use are written back (03 R78, R85; 20 R414). -/
def State.emptySet (s : State) : ErrLoc → State
  | .storageSet _ n => if n * 0x800 < 2 ^ 48 then ((List.range 16).map (n * 16 + ·)).foldl State.evictLine s else s
  | .remoteSet .. | .frame _ | .dieBlock .. | .core _ | .gafferMem => s

/-- A location is retired, and core 0 adds it to the retirement record of the image (20 R416; log entry 34). -/
def State.recordRetired (s0 : State) (loc : ErrLoc) : State :=
  let s := s0.emptySet loc
  { s.modGaffer fun g => { g with retired := if g.retired.contains loc then g.retired else g.retired ++ [loc] } with
    store := s.store.leaveSet loc
    boot := { s.boot with image := s.boot.image.map fun m => SignedImage.retire m s.boot.seed loc } }

/-- The consequence of a lasting fault (20 Table 20.1, R416). A retired core's shadow expansions end, since it takes no new task
(R418); a fault of the gaffer memories makes the next start count as failed (R426). -/
def State.retireLoc (s : State) (loc : ErrLoc) : State :=
  let s1 := s.recordRetired loc
  match loc with
  | .frame n => s1.retireFrame (n * 0x10000)
  | .storageSet d n => s1.retireSet d n
  | .remoteSet .. => s1
  | .dieBlock d n => s1.report (.dieBlock d n)
  | .core c =>
    let shut (t : State) (b : BankId) : State :=
      if (t.bank b).status = .shadow then
        t.setBank b { Bank.reset with slot := (t.bank b).slot, stopSeq := (t.bank b).stopSeq, brk := (t.bank b).brk }
      else t
    (shut (shut s1 (bankAt c 0)) (bankAt c 1)).modCore c fun x => { x with retired := true }
  | .gafferMem => { s1.report .gafferMem with boot := { s1.boot with failNext := true } }

/-- A location is retired rather than kept in use (20 Table 20.1). -/
def locRetires : ErrLoc → Bool
  | .frame _ | .storageSet .. | .remoteSet .. | .core _ => true
  | .dieBlock .. | .gafferMem => false

/-- A record that has become lasting has its consequence, and is kept until the location is retired (20 R415, Table 20.1). -/
def State.madeLasting (s : State) (loc : ErrLoc) : State :=
  let t := s.retireLoc loc
  if locRetires loc then t.modGaffer fun g => { g with records := g.records.filter fun r => r.loc != loc } else t

/-- Counts an error of a weight at a location; a record that becomes lasting has its consequence (20 R415). -/
def State.countError (s : State) (loc : ErrLoc) (w : Nat) : State :=
  let was := s.gaffer.records.any fun r => r.loc == loc && r.lasting
  let s1 := s.countQuiet loc w
  if !was && s1.gaffer.records.any fun r => r.loc == loc && r.lasting then s1.madeLasting loc else s1

/-- A location whose record has become lasting by what core 3 and the slices read as they moved pages, and whose consequence is still to come
(20 R415). -/
def State.lastingDue (s : State) : Option ErrLoc := (s.gaffer.records.find? fun r => r.lasting && locRetires r.loc).map (·.loc)

/-! ### Reads that count at once (03 R85; 20 R415) -/

/-- A read finds what HBM holds against the line of a unit. -/
def State.senseHbm (s : State) (u : Nat) : State := s.senseHbmBy State.countError u

/-- A read finds what is wrong with a unit and the tag of its line. -/
def State.senseUnit (s : State) (u : Nat) : State := s.senseUnitBy State.countError u

/-- The write-back of the dirty lines of a range reads them: their errors are found (03 R85). -/
def State.senseDirty (s0 : State) (l n : Nat) : State :=
  let s := ((s0.store.tagEcc.map (·.2.1)).filter fun x =>
    s0.store.dirty.contains x && decide (l / 128 ≤ x) && decide (x < (l + n) / 128)).foldl (State.senseHomeTagBy State.countError) s0
  (s.store.ecc.filterMap fun p =>
    if s.store.dirty.contains (p.1 / 16) && decide (l / 8 ≤ p.1) && decide (p.1 < (l + n) / 8) then some p.1 else none).foldl
    State.senseUnit s

/-- A read of `n` bytes at `l` at their home senses every unit it touches that is not correct (03 R85). -/
def State.sense (s : State) (l n : Nat) : State :=
  if s.store.clean then s else (unitsOf l n).foldl State.senseUnit s

/-- A read by an agent of die `d` finds what is wrong with a unit of the die's own copy of a remote line. -/
def State.senseCopy (s : State) (d : Die) (u : Nat) : State := s.senseCopyBy State.countError d u

/-- A read of `n` bytes at `l` by an agent of die `d` senses the units it touches, in the die's remote copy where it hits one (03 R79,
R85). -/
def State.senseFor (s : State) (d : Die) (l n : Nat) : State :=
  if s.store.clean then s
  else (unitsOf l n).foldl (fun (t : State) u =>
    let a := t.store.resolve (u * 8)
    if remoteHomed d a && (t.store.copyOf d (a / 128)).isSome then t.senseCopy d (a / 8) else t.senseUnit u) s

/-- A store of `n` bytes at `l` by an agent of die `d` reads what it merges with. -/
def State.senseMerge (s : State) (d : Die) (l n : Nat) : State := s.senseMergeBy State.countError d l n

/-- PATROL_SCRUB: the scrubber reads a unit, and the dies' remote copies of it; it changes no correct value and raises nothing (03 R85). -/
def execPatrolScrub (unit : Nat) (s : State) : Out :=
  .next ((List.finRange 4).foldl (fun (t : State) d => if t.store.clean then t else t.senseCopy d unit) (s.senseUnit unit))

/-- ERROR_WINDOW_EXPIRY: a record whose 24 hours end below a count of 4 is dropped (20 R415). -/
def execErrorWindowExpiry (loc : ErrLoc) (s : State) : Out :=
  .next (s.modGaffer fun g => { g with
    records := g.records.filter fun r => !(r.loc == loc && !r.lasting && decide (errWindow ≤ s.time - r.first)) })

end Sys2Proof.Machine
end

