-- ==== Sys2Proof/Machine/Loads.lean ====
section
/-! DEFINITION. Scalar and vector loads (10 R229-R231): one repetition, or one segment, at a time. -/

namespace Sys2Proof.Machine

open Sys2Proof

/-- The access of the current repetition of a load. -/
def loadAccess (step : BitVec 4) (z al : Nat) (x : Entry) : Access :=
  let o := x.repOffset step z
  { o := o, z := z, needR := true, needW := false, aligned := o % al == 0 }

/-- A sign-extended value of `w` bits. -/
def signed (w x : Nat) : Word := (BitVec.ofNat w x).signExtend 64

/-- A zero-extended value. -/
def unsigned (x : Nat) : Word := BitVec.ofNat 64 x

/-- The units of a load that are read after its issue: the next choice, all of them while an earlier repetition or segment of its word is
still to be read so (10 R228; log entry 61). -/
def lateMask (x : Entry) (choice l z : Nat) : Nat :=
  let all := 2 ^ (unitsOf l z).length
  if x.late.isEmpty then choice % all else all - 1

/-- A read of `z` bytes at `l` by the bank that executes: errors are sensed, poison raises 1.9.L, and a remote line that
the die holds no copy of is asked for (03 R79, R85, R86). `go` gets the bytes as they are now and the units to read later. -/
def State.readFor (s : State) (x : Entry) (o l z : Nat) (go : State → List Byte → Nat → State) : State :=
  let d := dieOf s.cur
  let s1 := s.senseFor d l z
  if s1.store.anyBadFor d l z then s1.raiseMem .L 9 x o
  else
    let c := s1.choose
    go ((c.2.trafficRead d (reqOf s1.cur) l z).modStore fun st => st.askFills d l z) (s1.store.view d l z) (lateMask x c.1 l z)

/-- The parts of a load still to be read, with those of an access. -/
def Entry.noteLate (x : Entry) (k l : Nat) (bs : List Byte) (form : LoadForm) (mask : Nat) : Entry :=
  if mask = 0 then x else { x with late := x.late ++ [{ index := k, loc := l, bytes := bs, form := form, mask := mask }] }

/-- The value of a scalar load from its bytes (10 Table 10.1). -/
def extended (form : LoadForm) (bs : List Byte) : Word :=
  match form with
  | .sext => signed (8 * bs.length) (leNat bs)
  | .zext | .vec | .bcast | .seg => unsigned (leNat bs)

/-- A scalar load of `z` bytes (10 R229). The register of a repetition that is not the last is written as its data arrives, which is at
once unless it is read later or an earlier write of the register is still to be made. -/
def State.loadScalar (s : State) (i : Instr) (a : MemS) (z : Nat) (form : LoadForm) : State :=
  s.access .L i (loadAccess a.step z z) (fun x => x.rep == a.rep.toNat) fun s x l =>
    s.readFor x (x.repOffset a.step z) l z fun s bs mask =>
      let r := a.reg + BitVec.ofNat 5 x.rep
      let last := x.rep == a.rep.toNat
      let blocks := s.repBlocks x a.rep a.step z
      if !last && mask = 0 && s.here.firstWriter x.uid r then
        (s.modBank s.cur fun b => b.setS r (extended form bs)).passed .L i { x with done := x.done ++ [r] } false blocks
      else
        let y := { x.noteLate x.got.length l bs form mask with got := x.got ++ [.s r (extended form bs)] }
        s.passed .L i y last blocks

/-- LDB (10 Table 10.1). -/
def execLdb (a : MemS) (s : State) : Out := .next (s.loadScalar (.ldb a) a 1 .sext)
/-- LDBU (10 Table 10.1). -/
def execLdbu (a : MemS) (s : State) : Out := .next (s.loadScalar (.ldbu a) a 1 .zext)
/-- LDH (10 Table 10.1). -/
def execLdh (a : MemS) (s : State) : Out := .next (s.loadScalar (.ldh a) a 2 .sext)
/-- LDHU (10 Table 10.1). -/
def execLdhu (a : MemS) (s : State) : Out := .next (s.loadScalar (.ldhu a) a 2 .zext)
/-- LDW (10 Table 10.1). -/
def execLdw (a : MemS) (s : State) : Out := .next (s.loadScalar (.ldw a) a 4 .sext)
/-- LDWU (10 Table 10.1). -/
def execLdwu (a : MemS) (s : State) : Out := .next (s.loadScalar (.ldwu a) a 4 .zext)
/-- LDD (10 Table 10.1). -/
def execLdd (a : MemS) (s : State) : Out := .next (s.loadScalar (.ldd a) a 8 .zext)

/-- The physical register of the current repetition of a vector load or store, under the base that stands as the repetition, or the
segment, passes. DESIGN CHOICE: 07 R176 translates a name as its word issues, and does not say when that is for the repetitions of one word
(07 R178; log entry 65). -/
def State.vecTarget (s : State) (reg : BitVec 6) (x : Entry) : Fin 64 := physV s.here.rbv (reg.toNat + x.rep)

/-- VLD: 256 bytes into a vector register (10 Table 10.3). -/
def execVld (a : MemV) (s : State) : Out :=
  .next (s.access .L (.vld a) (loadAccess a.step 256 8) (fun x => x.rep == a.rep.toNat) fun s x l =>
    s.readFor x (x.repOffset a.step 256) l 256 fun s bs mask =>
      let y := { x.noteLate x.got.length l bs .vec mask with got := x.got ++ [.v (s.vecTarget a.reg x) (vecOf bs) x.rep] }
      s.passed .L (.vld a) y (x.rep == a.rep.toNat) (s.repBlocks x a.rep a.step 256))

/-- VLDB: one 8-byte unit into every unit of a vector register (10 Table 10.3). -/
def execVldb (a : MemV) (s : State) : Out :=
  .next (s.access .L (.vldb a) (loadAccess a.step 8 8) (fun x => x.rep == a.rep.toNat) fun s x l =>
    s.readFor x (x.repOffset a.step 8) l 8 fun s bs mask =>
      let y := { x.noteLate x.got.length l bs .bcast mask with
        got := x.got ++ [.v (s.vecTarget a.reg x) (vecOf ((List.range 32).flatMap fun _ => bs)) x.rep] }
      s.passed .L (.vldb a) y (x.rep == a.rep.toNat) (s.repBlocks x a.rep a.step 8))

/-- The offset of the current segment: o + k × P, without wrap (10 R230, R231). -/
def Entry.segOffset (x : Entry) (step : BitVec 4) : Nat := x.repOffset step 32 + x.seg * (x.caps.getD 1 0).toNat

/-- The access of the current segment; offset and pitch are multiples of 8 (10 R230, R231). -/
def segAccess (step : BitVec 4) (needR needW : Bool) (x : Entry) : Access :=
  { o := x.segOffset step, z := 32, needR := needR, needW := needW
    aligned := x.segOffset step % 8 == 0 && (x.caps.getD 1 0).toNat % 8 == 0 }

/-- The blocks that the segments of all repetitions reach (04 R98). -/
def State.segBlocks (s : State) (x : Entry) (rep : BitVec 5) (step : BitVec 4) : List Nat :=
  match x.cap with
  | none => []
  | some c => ((List.range (rep.toNat + 1)).flatMap fun j => (List.range 8).flatMap fun k =>
      s.store.blocks (c.h.loc + ((x.caps.getD 0 0).toNat + j * step.toNat * 32 + k * (x.caps.getD 1 0).toNat)) 32).eraseDups

/-- A word of segments goes on: to the next segment, or past the repetition (10 R231). -/
def State.passedSeg (s : State) (e : Engine) (i : Instr) (x : Entry) (last : Bool) (blocks : List Nat) : State :=
  if x.seg = 7 then s.passed e i x last blocks
  else s.modBank s.cur fun b => (b.doPops e (usesOf i).sy x).hold e { x with popped := true, seg := x.seg + 1 }

/-- VLDS: eight 32-byte segments at a pitch, checked and read one by one; poison in any writes no part of the register
(10 R230, R231). -/
def execVlds (a : MemV) (s : State) : Out :=
  .next (s.access .L (.vlds a) (segAccess a.step true false) (fun x => x.rep == a.rep.toNat && x.seg == 7) fun s x l =>
    s.readFor x (x.segOffset a.step) l 32 fun s bs mask =>
      let y := { x.noteLate x.got.length l bs .seg mask with got := x.got ++ [.seg (s.vecTarget a.reg x) x.seg bs x.rep] }
      s.passedSeg .L (.vlds a) y (x.rep == a.rep.toNat) (s.segBlocks x a.rep a.step))

/-! ### The parts of a load that are read later, and what arrives before the whole (04 R96, R111, R116; 10 R228, R229; log entry 61) -/

/-- The write of a load with a part of it read again. -/
def Late.apply (t : Late) (st : Store) (d : Die) (w : RegW) : RegW :=
  let bs := st.reread d t.loc t.mask t.bytes
  match t.form, w with
  | .zext, .s r _ | .sext, .s r _ => .s r (extended t.form bs)
  | .vec, .v r _ rep => .v r (vecOf bs) rep
  | .bcast, .v r _ rep => .v r (vecOf ((List.range 32).flatMap fun _ => bs)) rep
  | .seg, .seg r k _ rep => .seg r k bs rep
  | _, w => w

/-- A load's writes with its late parts read, by an agent of die `d`. -/
def readLates (st : Store) (d : Die) (ts : List Late) (ws : List RegW) : List RegW :=
  ts.foldl (fun ws t => ws.modify t.index fun w => t.apply st d w) ws

/-- The late parts of a load are read: errors are found, the writes take what is read, and a remote line of which no copy is held is asked
for as it is now, so that no later load finds an older one (03 R79, R85; 04 R106). -/
def State.readLate (s : State) (d : Die) (ts : List Late) (ws : List RegW) : State × List RegW :=
  let t := ts.foldl (fun (t : State) l => t.senseFor d l.loc l.bytes.length) s
  (t.modStore fun st => ts.foldl (fun st l => st.askFills d l.loc l.bytes.length) st, readLates t.store d ts ws)

/-- The scalar registers of some writes. -/
def scalarRegs (ws : List RegW) : List (BitVec 5) :=
  ws.filterMap fun w => match w with | .s r _ => some r | .v .. | .seg .. => none

/-- The writes of a load that arrive with write `k`, as a first place and their number: a segment arrives with the others of its
repetition (10 R231). -/
def arrivalRun (ws : List RegW) (k : Nat) : Nat × Nat :=
  match ws[k]? with
  | some (.seg _ _ _ rep) => (ws.findIdx fun w => w.segRep == some rep, (ws.filter fun w => w.segRep == some rep).length)
  | some (.s ..) | some (.v ..) | none => (k, 1)

/-- What is left of a load's writes and late parts, and the writes that are made. -/
structure Arrived where
  late : List Late
  ws : List RegW
  made : List RegW

/-- Write `k` of a load arrives: its late parts have been read, and so have those of the writes before it. Where it can be made, it is
done with. -/
def arriveAt (b : Bank) (uid k : Nat) (late : List Late) (ws : List RegW) : Arrived :=
  if ws[k]?.any (b.canWrite uid ws) then
    let r := arrivalRun ws k
    { late := late.map fun (l : Late) => { l with index := l.index - r.2 }
      ws := ws.take r.1 ++ ws.drop (r.1 + r.2), made := (ws.drop r.1).take r.2 }
  else { late := late, ws := ws, made := [] }

/-- Write `k` of the load of a bank with that number arrives, at the L head or in flight (07 R164; 10 R228, R229). -/
def State.loadPart (s : State) (n : BankId) (uid k : Nat) : State :=
  let d := dieOf n
  let upTo (ws : List RegW) : Nat := let r := arrivalRun ws k; r.1 + r.2
  let now (ws : List RegW) (ts : List Late) : List Late := ts.filter fun l => decide (l.index < upTo ws)
  let later (ws : List RegW) (ts : List Late) : List Late := ts.filter fun l => decide (upTo ws ≤ l.index)
  match (s.bank n).qL, (s.bank n).ops.find? fun o => o.uid == uid && o.isLoad with
  | x :: rest, none =>
    if x.uid ≠ uid then s
    else
      let p := s.readLate d (now x.got x.late) x.got
      p.1.modBank n fun b =>
        let q := arriveAt b uid k (later x.got x.late) p.2
        { q.made.foldl Bank.regW b with qL := { x with late := q.late, got := q.ws, done := x.done ++ scalarRegs q.made } :: rest }
  | _, some o =>
    let p := s.readLate d (now o.loads o.ent.late) o.loads
    p.1.modBank n fun b =>
      let q := arriveAt b uid k (later o.loads o.ent.late) p.2
      { q.made.foldl Bank.regW b with ops := b.ops.map fun (a : Op) => if a.uid = uid then { a with
          loads := q.ws, ent := { a.ent with late := q.late }, dest := a.dest.filter fun r => !(scalarRegs q.made).contains r } else a }
  | [], none => s

end Sys2Proof.Machine
end

