-- ==== Sys2Proof/Machine/Atomics.lean ====
section
/-! DEFINITION. Atomics, semaphores and barriers (10 R232-R236): each is performed at its object's point of coherence when
it issues, or, by a choice, after that and no later than its completion; SEMWAIT and BARWAIT wait there. -/

namespace Sys2Proof.Machine

open Sys2Proof

/-- The access of an ATOM word on an object of `z` bytes (10 R232, R234). -/
def atomAccess (z : Nat) (needW : Bool) (x : Entry) : Access :=
  let o := (x.caps.getD 0 0).toNat
  { o := o, z := z, needR := true, needW := needW, aligned := o % z == 0 }

/-- The operation of a synchronising word: its effective scope and its result (04 R103, R104; 10 R232). -/
def Store.syncOp (st : Store) (e : Engine) (i : Instr) (x : Entry) (scope : BitVec 3) (l z : Nat) (loads : List RegW) : Op :=
  { opOf e (usesOf i) x (st.blocks l z) loads [] with scope := some (effScope scope.toNat l) }

/-- A synchronising operation issues (04 R97, R103). -/
def State.issueSync (s : State) (e : Engine) (i : Instr) (x : Entry) (scope : BitVec 3) (l z : Nat) (loads : List RegW)
    (waiting : Bool) : State :=
  s.modBank s.cur fun b => b.issue e (usesOf i) x { s.store.syncOp e i x scope l z loads with waiting := waiting }

/-- A synchronising operation issues, to be performed on its object later (04 R96; log entry 61). -/
def State.issuePend (s : State) (e : Engine) (i : Instr) (x : Entry) (scope : BitVec 3) (l z : Nat) (loads : List RegW) : State :=
  s.modBank s.cur fun b => b.issue e (usesOf i) x { s.store.syncOp e i x scope l z loads with pend := true }

/-- The lines of an unbacked object are held, or it is a backed one: what an allocation answer has granted may be dropped before the access
acts, which then asks anew (02 R49, R65). -/
def Store.objectHeld (st : Store) (l z : Nat) : Bool :=
  decide (st.resolve l < 2 ^ 48) || (linesOf (st.resolve l) z).all fun x => st.lineSt x == some .pinned

/-- A read-modify-write: 1.9.W for poison, with the object unchanged; the line allocated where it is unbacked; then the operation
(10 R232, R234; 03 R86; 02 R44). It is performed as it issues or, by a choice, later (04 R96, R97; log entry 61). -/
def State.atomic (s : State) (i : Instr) (j : AtomJob) : State :=
  s.access .W i (atomAccess j.z true) (fun _ => true) fun s x l =>
    let s1 := s.sense l j.z
    if s1.store.anyBad l j.z then s1.raiseMem .W 9 x (x.caps.getD 0 0).toNat
    else s1.allocGate x l j.z fun s x =>
      if s.store.objectHeld l j.z then
        let c := s.choose
        let r := s.store.rmw (dieOf s.cur) j x l
        if c.1.testBit 0 then (c.2.traffic (reqOf s.cur) 2 l j.z).issuePend .W i x j.scope l j.z [.s j.res r.2]
        else (({ c.2 with store := r.1 } : State).traffic (reqOf s.cur) 2 l j.z).issueSync .W i x j.scope l j.z [.s j.res r.2] false
      else s.hold .W { x with alloc := .asked (x.caps.getD 0 0).toNat (linesOf (s.store.resolve l) j.z) }

/-- A read-modify-write word by its job. -/
def State.rmwWord (s : State) (i : Instr) : State :=
  match atomJob i with
  | some j => s.atomic i j
  | none => s

/-- AADD (10 Table 10.4). -/
def execAadd (a : Atom) (s : State) : Out := .next (s.rmwWord (.aadd a))
/-- AMIN (10 Table 10.4). -/
def execAmin (a : Atom) (s : State) : Out := .next (s.rmwWord (.amin a))
/-- AMAX (10 Table 10.4). -/
def execAmax (a : Atom) (s : State) : Out := .next (s.rmwWord (.amax a))
/-- AAND (10 Table 10.4). -/
def execAand (a : Atom) (s : State) : Out := .next (s.rmwWord (.aand a))
/-- AOR (10 Table 10.4). -/
def execAor (a : Atom) (s : State) : Out := .next (s.rmwWord (.aor a))
/-- AXOR (10 Table 10.4). -/
def execAxor (a : Atom) (s : State) : Out := .next (s.rmwWord (.axor a))
/-- ASWAP (10 Table 10.4). -/
def execAswap (a : Atom) (s : State) : Out := .next (s.rmwWord (.aswap a))
/-- ACAS: writes only where the old value is the compare value captured at dispatch (10 Table 10.4). -/
def execAcas (a : Atom) (s : State) : Out := .next (s.rmwWord (.acas a))

/-- AFADD: illegal in a deterministic launch, 0.6.W; else two FP32 sums (10 R233; 08 R200). -/
def execAfadd (a : Atom) (s : State) : Out :=
  let p := s.begin (.afadd a)
  if p.2.here.ofDet then
    .next (p.2.raise { group := 0, kind := 6, engine := .W } p.1 (((encode (.afadd a)).getD 0).setWidth 64))
  else .next (s.rmwWord (.afadd a))

/-- SEMSIG (10 R234). -/
def execSemsig (a : AtomN) (s : State) : Out := .next (s.rmwWord (.semsig a))
/-- BARARV (10 R234). -/
def execBararv (a : Atom) (s : State) : Out := .next (s.rmwWord (.bararv a))

/-- A wait at the object's point of coherence: it completes with its first read where its condition holds, else its request
stays there (10 R234, R235). By a choice its first read comes later (04 R96; log entry 61). -/
def State.syncWait (s : State) (i : Instr) (a : Atom) (isBar : Bool) : State :=
  let z := if isBar then 16 else 8
  s.access .L i (atomAccess z false) (fun _ => true) fun s x l =>
    let s1 := (s.sense l z).traffic (reqOf s.cur) 8 l z
    if s1.store.anyBad l z then s1.raiseMem .L 9 x (x.caps.getD 0 0).toNat
    else
      let w : SyncWait := { bank := s1.cur, uid := x.uid, loc := l, isBar := isBar, val := x.caps.getD 1 0, met := none }
      match w.holds s1.store with
      | some v =>
        let c := s1.choose
        if c.1.testBit 0 then
          (c.2.modStore fun st => { st with waits := st.waits ++ [{ w with unread := true }] }).issueSync .L i x a.scope l z [] true
        else c.2.issueSync .L i x a.scope l z [.s a.res v] false
      | none => (s1.modStore fun st => { st with waits := st.waits ++ [w] }).issueSync .L i x a.scope l z [] true

/-- SEMWAIT (10 R234, R235). -/
def execSemwait (a : Atom) (s : State) : Out := .next (s.syncWait (.semwait a) a false)
/-- BARWAIT (10 R234, R235). -/
def execBarwait (a : Atom) (s : State) : Out := .next (s.syncWait (.barwait a) a true)

end Sys2Proof.Machine
end

