-- ==== Sys2Proof/Machine/Boot.lean ====
section
/-! DEFINITION. Start-up, minimal mode, attestation, and commander rights (20 R424-R428). -/

namespace Sys2Proof.Machine

open Sys2Proof

/-- Changes the start-up state. -/
def State.modBoot (s : State) (f : Boot → Boot) : State := { s with boot := f s.boot }

/-- Every signature of an image verifies: the vendor's over firmware and certificate, the identity's over the retirement record
(20 R424, Table 20.8 step 1). -/
def imageSigned (img : SignedImage) : Bool :=
  Config.edVerify Config.vendorKey (Config.sha512 (Config.vendorPart img)) img.vendorSig
    && Config.edVerify img.certKey (Config.sha512 (Config.retirementPart img)) img.identitySig

/-- The identity seed: the first 32 bytes of SHA-512 of the four corrected PUF responses (20 Table 20.8 step 2). -/
def seedOf (img : SignedImage) (puf : List (List Byte)) : List Byte :=
  (Config.sha512 ((puf.zip img.helper).flatMap fun p => Config.pufCorrect p.1 p.2)).take 32

/-- The reason at which a start fails, if one does (20 Table 20.8). -/
def startFailure (img : Option SignedImage) (env : StartEnv) : Option Nat :=
  match img with
  | none => some 1
  | some m =>
    if !imageSigned m then some 1
    else if Config.edPublic (seedOf m env.puf) ≠ m.certKey then some 2
    else if !env.links then some 3
    else if !env.hbm then some 4
    else if !env.cores then some 5
    else if !env.ports then some 6
    else none

/-- A location of the retirement record is left out at a start: a frame, a set of backed lines or of a remote partition, 16 lines of the
unbacked capacity, or a core; a die scratchpad's block is reported (20 R416, Tables 20.1 and 20.8
step 4). -/
def State.leaveOut (s : State) (loc : ErrLoc) : State :=
  let s1 := (s.modGaffer fun g => { g with retired := if g.retired.contains loc then g.retired else g.retired ++ [loc] }).modStore
    fun st => st.leaveSet loc
  match loc with
  | .frame n => s1.dropFrame (n * 0x10000)
  | .storageSet d n =>
    if n * 0x800 < 2 ^ 48 then s1
    else s1.modStore fun st => { st with retiredLines := st.retiredLines.set d.val (st.retiredLines.get d + 16) d.isLt }
  | .core c => s1.modCore c fun x => { x with retired := true }
  | .dieBlock d n => s1.report (.dieBlock d n)
  | .remoteSet _ _ | .gafferMem => s1

/-- TIME is taken from the time master (19 R402; 20 Table 20.8 step 6). -/
def State.takeTime (s : State) (time : Nat) : State :=
  { s with time := time, fabric := { s.fabric with rate := 0, frac := 0, lastMessage := time, freeRun := false } }

/-- A start fails with a reason. In minimal mode the management port answers with it (20 R425, R426). -/
def State.failStart (s : State) (mode : BootMode) (r : Nat) : State :=
  let t := s.modBoot fun b => { b with mode := mode, reason := r }
  if mode = .minimal then t.report (.startFailed r) else t

/-- A start runs its steps on an image: core 0 reports ready with the count 0, or the start has failed with its reason in the mode given
(20 Table 20.8). DEDUCED: a start that counts as failed for a fault of the gaffer memories leaves the count as step 1 has set it (20
Table 20.1; log entry 34). -/
def State.runStart (s : State) (env : StartEnv) (failed : BootMode) : State :=
  match startFailure s.boot.image env, s.boot.image with
  | none, some m =>
    (((m.retirement.foldl State.leaveOut s).takeTime env.time).modBoot fun b => { b with
      mode := .ready, fails := if b.failNext then b.fails else 0, failNext := false, seed := seedOf m env.puf, commanders := []
      nonces := [] }).report .ready
  | some r, _ => (s.modBoot fun b => { b with failNext := false }).failStart failed r
  | none, none => s

/-- DEVICE_START: a start. With the count at 3 or more it ends in minimal mode after step 1; the one full start that minimal mode
was asked for runs every step, and its failure leaves the count as it stands (20 R425, R426). -/
def execDeviceStart (env : StartEnv) (s : State) : Out :=
  match s.boot.mode with
  | .off =>
    let t := s.modBoot fun b => { b with fails := b.fails + 1 }
    if (match s.boot.image with | some m => imageSigned m | none => false) && decide (3 ≤ s.boot.fails) then
      .next ((t.modBoot fun b => { b with failNext := false }).failStart .minimal s.boot.reason)
    else .next (t.runStart env (if 3 ≤ s.boot.fails then .minimal else .off))
  | .starting => .next (s.runStart env .minimal)
  | .ready | .minimal => .next s

/-- START_WATCHDOG: a start passes 2 s without being ready and fails with reason 7; it was the next start after a fault of the gaffer memories
(20 R425, Table 20.1). -/
def execStartWatchdog (s : State) : Out :=
  match s.boot.mode with
  | .off => .next (s.modBoot fun b => { b with fails := b.fails + 1, reason := 7, failNext := false })
  | .starting => .next ((s.modBoot fun b => { b with failNext := false }).failStart .minimal 7)
  | .ready | .minimal => .next s

/-- WRITE_IMAGE: in minimal mode a new signed image (20 R426). -/
def execWriteImage (img : SignedImage) (s : State) : Out :=
  if s.boot.mode = .minimal then .next (s.modBoot fun b => { b with image := some img }) else .next (s.report (.refused refusedRequest))
where
  /-- The code of a refused request. -/
  refusedRequest : Nat := 4

/-- FULL_START: in minimal mode one full start is asked for (20 R426). -/
def execFullStart (s : State) : Out :=
  if s.boot.mode = .minimal then .next (s.modBoot fun b => { b with mode := .starting }) else .next (s.report (.refused 4))

/-- The hashes that an attestation holds: those of the firmware parts and of the retirement record (20 R427). -/
def attestHashes (img : SignedImage) : List (List Byte) := img.firmware.map Config.sha512 ++ [Config.sha512 (Config.retirementPart img)]

/-- What the device signs in an attestation: the hashes, the nonce, and TIME (20 R427). -/
def attestMessage (img : SignedImage) (nonce : BitVec 256) (time : Nat) : List Byte :=
  (attestHashes img).flatten ++ leBytes 32 nonce.toNat ++ leBytes 8 time

/-- ATTEST: the device answers a nonce with the hashes, the nonce, TIME and its signature over them, and a nonce of its own; refused outside
normal running (20 R427, R428). -/
def execAttest (host : EndpointId) (nonce : BitVec 256) (s : State) : Out :=
  match s.boot.mode, s.boot.image with
  | .ready, some m =>
    .next (s.modBoot fun b => { b with
      attested := b.attested ++ [{
        host := host, hashes := attestHashes m, nonce := nonce, time := s.time
        sig := Config.edSign b.seed (Config.sha512 (attestMessage m nonce s.time)) }]
      nonces := (b.nonces.filter fun p => p.1 != host) ++ [(host, Config.deviceNonce b.nonceNext)]
      nonceNext := b.nonceNext + 1 })
  | _, _ => .next (s.report (.refused 4))

/-- A signature is refused, and core 7 counts it (20 R427). -/
def State.badSignature (s : State) : State := (s.report (.refused 4)).modBoot fun b => { b with badSigs := b.badSigs + 1 }

/-- COMMANDER_SIGNATURE: a signature of the device's nonce by a key of the image's commander list grants commander rights; another is
refused and counted (20 R427). -/
def execCommanderSignature (host : EndpointId) (sig : BitVec 512) (s : State) : Out :=
  match s.boot.nonces.find? (fun p => p.1 == host), s.boot.image with
  | some (_, n), some m =>
    if s.boot.mode == .ready && m.commanders.any fun k => Config.edVerify k (leBytes 32 n.toNat) sig then
      .next (s.modBoot fun b => { b with
        commanders := if b.commanders.contains host then b.commanders else b.commanders ++ [host]
        nonces := b.nonces.filter fun p => p.1 != host })
    else .next s.badSignature
  | _, _ => .next s.badSignature

/-- COMMANDER_RELEASE (20 R427). -/
def execCommanderRelease (host : EndpointId) (s : State) : Out :=
  .next (s.modBoot fun b => { b with commanders := b.commanders.filter (· != host) })

/-- What is left when power is lost: the device is as at reset but for what non-volatile storage holds, the image and the start-failure count with the reason
of the last failed start, and the model's own fields; commander rights end (20 R424, R427, R428; log entry 34). -/
def State.powerLost (s : State) : State :=
  { State.reset with
    agenda := s.agenda, pace := s.pace, delays := s.delays, choices := s.choices, free := s.free
    boot := { State.reset.boot with
      image := s.boot.image, fails := s.boot.fails, reason := s.boot.reason, nonceNext := s.boot.nonceNext, badSigs := s.boot.badSigs
      failNext := s.boot.failNext } }

/-- POWER_LOSS (20 R424, R427, R428). -/
def execPowerLoss (s : State) : Out := .next s.powerLost

/-- Power is lost between steps 1 and 7 of a start: the count stays as step 1 has set it, and the next start sees it (20 R428). -/
def State.startLost (s : State) : State :=
  match s.boot.mode with
  | .off => (s.modBoot fun b => { b with fails := b.fails + 1, failNext := false }).powerLost
  | .starting => s.powerLost
  | .ready | .minimal => s

end Sys2Proof.Machine
end

