-- ==== Sys2Proof/Machine/Flags.lean ====
section
/-! DEFINITION. Control registers (09 R210-R213): their values, the bits that a write stores, and the requests that a
write starts; the charges of the current budget (18 R385) and the activity of a bank (18 R387). -/

namespace Sys2Proof.Machine

open Sys2Proof

/-! ### Places of bits -/

/-- Fields from the low bit up, each a width and a value. -/
def packFields : List (Nat × Nat) → Nat
  | [] => 0
  | (w, x) :: fs => x % 2 ^ w + 2 ^ w * packFields fs

/-- A register from its fields, low bits first. -/
def regOf (fs : List (Nat × Nat)) : Word := BitVec.ofNat 64 (packFields fs)

/-- A Bool flag as a bit. -/
def bit (b : Bool) : Nat := if b then 1 else 0

/-! ### Charges and activity (18 R385-R388) -/

/-- The bank holds a task that is charged to its core: every task but one in shadow state or without its grant
(14 R312; 18 R385). -/
def Bank.charged (b : Bank) : Bool :=
  match b.status with
  | .free | .shadow | .unfunded => false
  | .running | .ready | .switchedOut | .preempted => true

/-- The class that a bank is charged for. -/
def Bank.charge (b : Bank) : Nat := if b.charged then b.pwrCls else 0

/-- The bank's task was pre-empted before it had its grant, and is being saved (14 R314; 18 R385). -/
def State.shelved (s : State) (n : BankId) : Bool :=
  (s.bank n).status == .preempted && s.frames.any fun p => p.1 == n.val && p.2.status == .unfunded

/-- The charge of a core from its other tasks: the larger class of those in its banks, `x` apart, and in its save areas
(18 R385). -/
def State.chargeWithout (s : State) (c : CoreId) (x : Option (Fin 2)) : Nat :=
  let one (k : Fin 2) : Nat := if x = some k ∨ s.shelved (bankAt c k) then 0 else (s.bank (bankAt c k)).charge
  (s.saves.foldl (fun n p => if p.1 / 2 = c.val then max n p.2.charge else n) (max (one 0) (one 1)))

/-- The charge of a core (18 R385). -/
def State.coreCharge (s : State) (c : CoreId) : Nat := s.chargeWithout c none

/-- HELD of a die: the sum of its core charges (18 R385). -/
def State.held (s : State) (d : Die) : Nat :=
  ((List.range 72).map fun i => s.coreCharge (coreAt d i)).foldl (· + ·) 0

/-- What a bank booked in a bucket (18 R387). -/
def booked (acts : List (Nat × Nat)) (b : Nat) : Nat := acts.foldl (fun n p => if p.1 = b then n + p.2 else n) 0

/-- The total of the window of 8 buckets that begins at `w` (18 R387). -/
def windowTotal (acts : List (Nat × Nat)) (w : Nat) : Nat :=
  ((List.range 8).map fun k => booked acts (w + k)).foldl (· + ·) 0

/-- The total of the window that ends at bucket `b` (18 Table 18.6). -/
def windowEnding (acts : List (Nat × Nat)) (b : Nat) : Nat :=
  acts.foldl (fun n p => if p.1 ≤ b ∧ b < p.1 + 8 then n + p.2 else n) 0

/-- The bucket of a TIME (18 R387). -/
def bucketOf (time : Nat) : Nat := time / 125

/-! ### Reading (09 Tables 9.4-9.8; 04 Tables 4.5, 4.6; 16 R349; 17 Tables 17.5-17.7; 18 Tables 18.3-18.6; 20 R422) -/

/-- The value of a field of the bank's task; 0 without a task. -/
def Bank.ofTask (b : Bank) (f : TaskInfo → Nat) : Nat := match b.task with | some t => f t | none => 0

/-- The cluster's power state. -/
def State.clusterPower (s : State) (c : ClusterId) : PwrCluster := s.power.clusters.get c

/-- The die's power state. -/
def State.diePower (s : State) (d : Die) : PwrDie := s.power.dies.get d

/-- The clock of a cluster in MHz (18 Table 18.1). -/
def clockMhz (cls : Nat) : Nat := 380 + 80 * cls

/-- PWRSTAT (18 Table 18.6). -/
def State.pwrstat (s : State) (b : BankId) : Word :=
  let p := s.diePower (dieOf b)
  let c := s.clusterPower (clusterOf b)
  let win := windowEnding (s.bank b).activity (bucketOf s.time)
  regOf [(8, c.xpeak), (8, c.xout), (8, c.xin), (8, min 255 (win / 50)), (8, p.vmrv), (12, s.held (dieOf b)), (12, p.budget)]

/-- FREQSTAT (18 Table 18.5). -/
def State.freqstat (s : State) (b : BankId) : Word :=
  let p := s.diePower (dieOf b)
  let c := s.clusterPower (clusterOf b)
  let x := s.bank b
  let changing := p.change.any fun ch => decide (ch.cluster = clusterOf b)
  regOf [(4, c.cls), (4, c.target), (4, bit changing), (4, x.freqResult), (4, x.freqReason) , (4, 0), (8, p.cap), (8, p.vdie)]

/-- SLOTGRID (16 Table 16.11). -/
def State.slotgrid (s : State) (b : BankId) : Word :=
  match (s.bank b).task with
  | none => 0
  | some t =>
    if t.isSlot then
      let g := s.lehr.grids.get (Fin.ofNat 16 t.grid)
      let d := g.desc
      regOf [(5, t.grid), (15, match d with | some x => x.guardTime | none => 0),
        (20, match d with | some x => x.period | none => 0), (16, t.slotCount.toNat), (7, 0), (1, 1)]
    else 0

/-- SLOTIDX (16 Table 16.12). -/
def State.slotidx (s : State) (b : BankId) : Word :=
  match (s.bank b).task with
  | none => 0
  | some t =>
    if t.isSlot then
      match (s.lehr.grids.get (Fin.ofNat 16 t.grid)).last.get (dieOf b) with
      | some n => BitVec.ofNat 64 n
      | none => -1
    else 0

/-- BCROW.k: the row sum of the snapshot (20 Table 20.5). -/
def State.bcrow (s : State) (b : BankId) (k : Fin 8) : Word := ((s.cores.get (coreOf b)).bcRow.get k).setWidth 64

/-- The value of a control register; `none` for a number that 09 Table 9.4 does not assign. -/
def State.creg (s : State) (b : BankId) (n : BitVec 13) : Option Word :=
  let x := s.bank b
  let k := n.toNat
  let nat (v : Nat) : Option Word := some (BitVec.ofNat 64 v)
  match k with
  | 0x000 => nat (x.ofTask (·.index.toNat))
  | 0x001 => nat (dieOf b).val
  | 0x002 => nat ((clusterOf b).val % 9)
  | 0x003 => nat ((coreOf b).val % 8)
  | 0x004 => nat (bankNo b).val
  | 0x005 => nat (x.ofTask (·.launch % 2 ^ 32))
  | 0x020 => nat s.time
  | 0x021 => nat x.engcyc
  | 0x022 => some x.evpend
  | 0x030 => nat x.rbv
  | 0x031 => nat x.rbp
  | 0x060 => some x.mstat
  | 0x061 => some x.merrlog
  | 0x062 => nat x.fq.length
  | 0x063 => some (x.srView.setWidth 64)
  | 0x080 => some (regOf [(4, x.pwrCls), (4, x.pwrDecl)])
  | 0x081 => some (s.pwrstat b)
  | 0x082 => some x.freqreq
  | 0x083 => some (s.freqstat b)
  | 0x084 => some (regOf [(16, (s.clusterPower (clusterOf b)).ratio.toNat), (32, (s.clusterPower (clusterOf b)).sample.toNat)])
  | 0x0A0 => some (s.slotgrid b)
  | 0x0A1 => some (s.slotidx b)
  | 0x0C0 => some x.tcause
  | 0x0C1 => some x.tval
  | 0x0C2 => some x.tstate
  | 0x0C3 => some x.tvec
  | 0x0C4 => some x.tsave
  | 0x0E8 => nat x.qxstall.toNat
  | 0x0E9 => some (s.cores.get (coreOf b)).bcSnap
  | _ =>
    if h : 0x008 ≤ k ∧ k < 0x00E then nat (x.ofTask fun t => (t.lidx.get ⟨k - 0x008, by omega⟩).toNat)
    else if h : 0x010 ≤ k ∧ k < 0x016 then nat (x.ofTask fun t => (t.lext.get ⟨k - 0x010, by omega⟩).toNat)
    else if h : 0x040 ≤ k ∧ k < 0x048 then nat (x.qiss.get ⟨k - 0x040, by omega⟩).toNat
    else if h : 0x048 ≤ k ∧ k < 0x050 then nat (x.qdone.get ⟨k - 0x048, by omega⟩).toNat
    else if h : 0x0E0 ≤ k ∧ k < 0x0E8 then some (s.bcrow b ⟨k - 0x0E0, by omega⟩)
    else if 0x0EA ≤ k ∧ k ≤ 0x0FF then some 0
    else none

/-- A number that 09 Table 9.4 assigns. -/
def cregAssigned (n : BitVec 13) : Bool :=
  let k := n.toNat
  let among (lo hi : Nat) : Bool := decide (lo ≤ k) && decide (k ≤ hi)
  among 0 5 || among 0x008 0x00D || among 0x010 0x015 || among 0x020 0x022 || among 0x030 0x031 || among 0x040 0x04F || among 0x060 0x063
    || among 0x080 0x084 || among 0x0A0 0x0A1 || among 0x0C0 0x0C4 || among 0x0E0 0x0FF

/-! ### Writing (09 R210, R213; 00 R11; 08 Table 8.5; 18 R383) -/

/-- What a write of a value does to a register: the bits that are stored. -/
inductive CregW where
  | evpend (x : Word) | mstat (x : Word) | merrlog (x : Word) | srstate (x : BitVec 32) | freqreq (x : Word)
  | tvec (x : Word) | tsave (x : Word)
  deriving DecidableEq, Repr

/-- The write of a new value to a register whose access is RW; `none` for any other number (09 Table 9.4). -/
def cregWrite (n : BitVec 13) (old new : Word) : Option CregW :=
  match n.toNat with
  | 0x022 => some (.evpend ((new &&& 0x10) ||| (old &&& new &&& 0xE)))
  | 0x060 => some (.mstat (new &&& 0xFF07))
  | 0x061 => some (.merrlog (new &&& 0xFFFF7F00FFFFFFFF))
  | 0x063 => some (.srstate (if new.setWidth 32 = (0 : BitVec 32) then 1 else new.setWidth 32))
  | 0x082 => some (.freqreq (new &&& 0x73))
  | 0x0C3 => some (.tvec (new &&& 0x80000000FFFFFFFF))
  | 0x0C4 => some (.tsave new)
  | _ => none

/-- A bank after a write of a control register by the word with sequence `uid`. -/
def Bank.cregSet (b : Bank) (uid : Nat) : CregW → Bank
  | .evpend x => { b with evpend := x }
  | .mstat x => { b with mstat := x }
  | .merrlog x => { b with merrlog := x }
  | .srstate x =>
    if b.qC.isEmpty && b.srPend.isEmpty then b.setSr uid x else { b with srPend := b.srPend ++ [(uid, x)] }
  | .freqreq x =>
    { b with freqreq := x, freqPend := some (fieldLow x 0 2, fieldLow x 4 3) }
  | .tvec x => { b with tvec := x }
  | .tsave x => { b with tsave := x }
where
  /-- Bits of a register as a number. -/
  fieldLow (w : Word) (lo n : Nat) : Nat := w.toNat / 2 ^ lo % 2 ^ n

/-- A write of a control register: the bank, and for FREQREQ the order and the TIME of arrival at the power core (18 R383, R396). DESIGN
CHOICE: a request that replaces one of its bank that is not taken up stands last among the requests, and a change of the cluster that waits
already keeps its place; the spec does not say (18 R379; log entry 67). -/
def State.cregSet (s : State) (b : BankId) (uid : Nat) (w : CregW) : State :=
  let s1 := s.modBank b fun x => x.cregSet uid w
  match w with
  | .freqreq _ =>
    let c := clusterOf b
    { s1 with power := { s1.power with
        freqOrder := s1.power.freqOrder.filter (· != b) ++ [b]
        clusters := s1.power.clusters.set c.val { s1.power.clusters.get c with asked := some s.time } c.isLt } }
  | .evpend _ | .mstat _ | .merrlog _ | .srstate _ | .tvec _ | .tsave _ => s1

/-- SRSTATE writes that stand before a C word take effect (08 Table 8.11). -/
def Bank.takeSr (b : Bank) (uid : Nat) : Bank :=
  match (b.srPend.filter fun p => decide (p.1 < uid)).getLast? with
  | some p => { b.setSr p.1 p.2 with srPend := b.srPend.filter fun p => decide (uid ≤ p.1) }
  | none => b

end Sys2Proof.Machine
end

