-- ==== Sys2Proof/Machine/Fetch.lean ====
section
/-! DEFINITION. The dispatcher (07 R160-R164): the next word of a bank, its place in a queue, and the marked entries that
raise a cause when they reach their heads. -/

namespace Sys2Proof.Machine

open Sys2Proof

/-- The bank can dispatch: it executes, is not cut, and no control word or illegal word stops it (07 R160, R163; 17 R357). -/
def Bank.dispatches (b : Bank) : Bool := b.status == .running && b.cut.isNone && !b.stopFetch && !b.ctl && !b.stopped

/-- An AFADD, which is illegal in a deterministic launch (07 Table 7.10 kind 6). -/
def isAfadd : Instr → Bool
  | .afadd _ => true
  | _ => false

/-- A CRD, CWR, CSET or CCLR of a number that is not assigned, or a write of a register that takes none (07 Table 7.10 kind 4; 09 R210). -/
def badControl : Instr → Bool
  | .crd a => !cregAssigned a.cr
  | .cwr a | .cset a | .cclr a => (cregWrite a.cr 0 0).isNone
  | _ => false

/-- An ERET (07 Table 7.10 kind 5). -/
def isEret : Instr → Bool
  | .eret _ => true
  | _ => false

/-- The queue place of a decoded word: an illegal word is marked with the lowest kind it fails. `det` tells that the launch is
deterministic, `inh` that a handler runs (07 R160, R161). -/
def payloadOf (det inh : Bool) (w : IWord) : Payload :=
  match decode w with
  | .ok i =>
    if badControl i then .illegal 4 w
    else if !inh && isEret i then .illegal 5 w
    else if det && isAfadd i then .illegal 6 w
    else .word i
  | .error r => .illegal r.kind w

/-- The queue place of the next word of a bank; `none` while it cannot be fetched (01 R29; 07 R160). -/
def State.nextPayload (s : State) (b : BankId) : Option Payload :=
  match s.fetch b (s.bank b).pc with
  | .wait => none
  | .fault k => some (.fetchFault k)
  | .word w => some (payloadOf (s.bank b).ofDet (s.bank b).image.isSome w)

/-- A place joins the tail of its queue (07 R162, R163). -/
def Bank.enqueue (b : Bank) (w : Payload) : Bank :=
  let e := payloadEngine w
  let b1 := b.account w
  b1.setQueue e (b1.queue e ++ [b.capture w])

/-- The dispatcher is blocked: it is stopped, or the next word cannot be dispatched (07 R162, R163). -/
def State.dispatchBlocked (s : State) (b : BankId) : Bool :=
  !(s.bank b).dispatches ||
    match s.nextPayload b with
    | some w => !(s.bank b).canDispatch w
    | none => false

/-- What the fetch of the next word of a bank does besides: errors of its bytes are sensed, remote lines that the die holds no copy
of are asked for, and the slices test it (03 R79, R85; 20 R423). DESIGN CHOICE: each word is fetched by an access of its own; the spec does
not say which words one access brings (log entry 28). -/
def State.fetched (s : State) (b : BankId) : State :=
  let x := s.bank b
  let d := dieOf b
  (List.range 6).foldl (fun (t : State) k =>
    match t.codeByte d x.asn (x.code.toNat + 6 * x.pc.toNat + k) with
    | .ok l =>
      let u := if k = 0 ∨ l % 128 = 0 then t.trafficRead d (reqOf b) l 1 else t
      (u.senseFor d l 1).modStore fun st => if remoteHomed d (st.resolve l) then st.askFills d l 1 else st
    | .error _ => t) s

/-- One word is dispatched, if it can be. -/
def State.dispatchOne (s : State) (b : BankId) : Option State :=
  if (s.bank b).dispatches then
    match s.nextPayload b with
    | some w => if (s.bank b).canDispatch w then some ((s.fetched b).modBank b fun x => x.enqueue w) else none
    | none => none
  else none

/-- WORD_DISPATCH: up to two words of the executing bank are dispatched, the first that cannot be stops it (07 R162). -/
def execWordDispatch (n : BankId) (s : State) : Out :=
  match s.dispatchOne n with
  | none => .next s
  | some t =>
    match t.dispatchOne n with
    | none => .next t
    | some u => .next u

/-- Takes a cause at the head of a queue of a bank: the head stands after the cut (17 R357). -/
def State.raiseHead (s : State) (n : BankId) (c : Cause) (x : Entry) (rest : List Entry) (tval : Word) : State :=
  (s.modBank n fun b => (b.setQueue c.engine rest).raise c x tval true).endWaits n

/-- ILLEGAL_WORD: a marked word at its queue head raises its group-0 cause with the word as TVAL (07 R160; 17 Table 17.3). -/
def execIllegalWord (n : BankId) (e : Engine) (s : State) : Out :=
  let b := s.bank n
  match b.queue e with
  | x :: rest =>
    match x.what with
    | .illegal kind raw =>
      if b.status == .running && b.cut.isNone then .next (s.raiseHead n { group := 0, kind := kind, engine := e } x rest (raw.setWidth 64)) else .next s
    | .word _ | .fetchFault _ | .rotate _ => .next s
  | [] => .next s

/-- FETCH_FAULT: a word that could not be fetched raises its group-1 cause at the S head, with its index as TVAL (01 R29;
17 R357, Table 17.3). -/
def execFetchFault (n : BankId) (s : State) : Out :=
  let b := s.bank n
  match b.qS with
  | x :: rest =>
    match x.what with
    | .fetchFault kind =>
      if b.status == .running && b.cut.isNone then .next (s.raiseHead n { group := 1, kind := kind, engine := .S } x rest x.idx) else .next s
    | .word _ | .illegal .. | .rotate _ => .next s
  | [] => .next s

end Sys2Proof.Machine
end

