-- ==== Sys2Proof/Machine/MatFmt.lean ====
section
/-! DEFINITION. The matrix operand formats, their scales, and quantisation (08 R182, R183, R185, R187, R198). -/

namespace Sys2Proof.Machine

open Sys2Proof

/-- The element types of matrix operands (08 Table 8.3). -/
inductive MEl where
  | fp32 | bf16 | fp16 | i16 | e4m3 | e5m2 | e3m2 | e2m3 | e2m1 | i8 | i6 | i4
  deriving DecidableEq, Repr

/-- How elements are scaled (08 R185). -/
inductive Scaling where
  | unscaled | mx | nx | channel
  deriving DecidableEq, Repr

/-- The narrow element with a 3-bit code (08 Table 8.3). -/
def narrowEl (e : Nat) : MEl :=
  match e % 8 with
  | 0 => .e4m3 | 1 => .e5m2 | 2 => .e3m2 | 3 => .e2m3 | 4 => .e2m1 | 5 => .i8 | 6 => .i6 | _ => .i4

/-- A matrix format code; `none` is reserved (08 R185). -/
def matFmt (code : Nat) : Option (MEl × Scaling) :=
  match code with
  | 0 => some (.fp32, .unscaled)
  | 1 => some (.bf16, .unscaled)
  | 2 => some (.fp16, .unscaled)
  | 3 => some (.i16, .unscaled)
  | _ =>
    if code < 8 ∨ 0x28 ≤ code then none
    else some (narrowEl code, match code / 8 with | 1 => .unscaled | 2 => .mx | 3 => .nx | _ => .channel)

/-- The element width in bits. -/
def MEl.width : MEl → Nat
  | .fp32 => 32 | .bf16 | .fp16 | .i16 => 16 | .e4m3 | .e5m2 | .i8 => 8 | .e3m2 | .e2m3 | .i6 => 6 | .e2m1 | .i4 => 4

/-- The floating format of an element type; `none` for an integer type. -/
def MEl.fmt : MEl → Option Fmt
  | .fp32 => some fmtFp32 | .bf16 => some fmtBf16 | .fp16 => some fmtFp16 | .e4m3 => some fmtE4m3 | .e5m2 => some fmtE5m2
  | .e3m2 => some fmtE3m2 | .e2m3 => some fmtE2m3 | .e2m1 => some fmtE2m1 | .i16 | .i8 | .i6 | .i4 => none

/-- The largest exponent of a narrow type (08 Table 8.9). -/
def MEl.emax : MEl → Int
  | .e4m3 => 8 | .e5m2 => 15 | .e3m2 => 4 | .e2m3 | .e2m1 => 2
  | .fp32 | .bf16 | .fp16 | .i16 | .i8 | .i6 | .i4 => 0

/-- Integer elements are fixed-point under MX and NX (08 R187). -/
def Scaling.fixed : Scaling → Bool
  | .mx | .nx => true
  | .unscaled | .channel => false

/-- The decoded value of an element, before its scales (08 R181, R182, R187). -/
def MEl.value (el : MEl) (sc : Scaling) (bits : Nat) : Num :=
  match el.fmt with
  | some f => f.value bits
  | none =>
    let x := intOf el.width bits
    .fin (decide (x < 0)) x.natAbs (if sc.fixed then 2 - (el.width : Int) else 0) false

/-- The largest finite value of a narrow type (08 Table 8.9). -/
def MEl.largest (el : MEl) : Num :=
  match el.fmt with
  | some f => f.value f.maxBits
  | none => .fin false (2 ^ (el.width - 1) - 1) (2 - (el.width : Int)) false

/-- The value of an E8M0 scale (08 R183). -/
def e8m0 (x : Nat) : Num := if x = 255 then .nan else .fin false 1 (x - 127) false

/-- UE5M3 as a format without sign (08 R183). -/
def fmtUe5m3 : Fmt := { eb := 5, mb := 3, bias := 15, sp := .nanOnly, cnan := 0xFF }

/-- The value of a UE5M3 scale (08 R183). -/
def ue5m3 (x : Nat) : Num := fmtUe5m3.value (x % 256)

/-- Element `i` of a packed stream: elements of 6 and 4 bits are packed little-endian with no gaps (08 R182). -/
def packedEl (w plane i : Nat) : Nat := plane / 2 ^ (w * i) % 2 ^ w

/-- The stream whose elements are the list's (08 R182). -/
def packEls (w : Nat) : List Nat → Nat
  | [] => 0
  | x :: xs => x % 2 ^ w + 2 ^ w * packEls w xs

/-! ### Quantisation (08 R198) -/

/-- The magnitude of an exact value. -/
def Num.abs : Num → Num
  | .nan => .nan
  | .inf _ => .inf false
  | .fin _ m e st => .fin false m e st

/-- The value times 2^k. -/
def Num.scale (k : Int) : Num → Num
  | .nan => .nan
  | .inf s => .inf s
  | .fin s m e st => .fin s m (e + k) st

/-- The greater magnitude; a NaN prevails. -/
def Num.maxAbs : Num → Num → Num
  | .nan, _ | _, .nan => .nan
  | .inf _, _ | _, .inf _ => .inf false
  | .fin _ m e a, .fin _ n f b =>
    let q := min e f
    if signedAt false m e q < signedAt false n f q then .fin false n f b else .fin false m e a

/-- max |q| of a block. -/
def blockMax (qs : List Num) : Num := qs.foldl Num.maxAbs (.fin false 0 0 false)

/-- The MX scale of a block with maximum `m` (08 R198). -/
def mxScale (el : MEl) (m : Num) : Nat :=
  match m with
  | .nan | .inf _ => 0xFF
  | .fin _ n e _ =>
    if n = 0 then 0 else (max (-127) (min 127 (e + Nat.log2 n - el.emax)) + 127).toNat

/-- The NX scale of a block with maximum `m` under tensor scale `t`. A negative quotient is no UE5M3 value, and the spec
states no result: a free value (log entry 4). -/
def nxScale (el : MEl) (t m : Num) : Nat :=
  match Num.div m (Num.mul el.largest t) with
  | .nan => 0xFF
  | .inf neg => if neg then (Config.ue5m3Neg (0, 0)).toNat else 0xFE
  | .fin neg n e st =>
    if neg ∧ n ≠ 0 then (Config.ue5m3Neg (n, e)).toNat else fmtUe5m3.round 0 0 false (.fin false n e st)

/-- One element: Saturate(Round(q / d, RNE), t), by 08 Table 8.6 (08 R193, R194, R198, R199; 11 R253). -/
def quantEl (el : MEl) (nanMode : Bool) (d q : Num) : Nat :=
  match el.fmt with
  | some f => f.round 0 0 nanMode (Num.div q d)
  | none => bitsOfInt el.width (roundInt el.width 0 0 ((Num.div q d).scale ((el.width : Int) - 2)))

/-- A block: its elements and its scale byte. `nx` gives the tensor scale of an NX block (08 R198). -/
def quantBlock (el : MEl) (nx : Option Num) (nanMode : Bool) (qs : List Num) : List Nat × Nat :=
  let m := blockMax qs
  let sc := match nx with | none => mxScale el m | some t => nxScale el t m
  let d := match nx with | none => e8m0 sc | some t => Num.mul (ue5m3 sc) t
  let nanEl := match el.fmt with | some f => f.cnan | none => 0
  let els := if sc = 0xFF then qs.map fun _ => nanEl
    else match d with
      | .fin _ 0 _ _ => qs.map fun _ => 0
      | _ => qs.map fun q => quantEl el nanMode d q
  (els, sc)

end Sys2Proof.Machine
end

