-- ==== Sys2Proof/Machine/CEngine.lean ====
section
/-! DEFINITION. The C engine: landings, slack and freezes (07 R168-R174), the shared form of its words, and its events. -/

namespace Sys2Proof.Machine

open Sys2Proof

/-! ### Registers of C and flights -/

/-- A register that a C word reads or writes, by physical name. -/
inductive CReg where
  | v (r : Fin 64) | p (r : Fin 16) | s (r : BitVec 5) | acc (a : Fin 4) | none
  deriving DecidableEq, Repr

/-- The register that a flight writes. -/
def Flight.reg (f : Flight) : CReg :=
  match f.tgt with
  | .v r _ _ => .v r
  | .p r _ _ => .p r
  | .s r _ => .s r
  | .acc a _ | .accClear a => .acc a
  | .store | .nothing => .none

/-- A flight joins those of its bank, in order of nominal landing, equal ones in program order (07 R173). -/
def insertFlight (f : Flight) : List Flight → List Flight
  | [] => [f]
  | g :: gs => if f.due < g.due then f :: g :: gs else g :: insertFlight f gs

/-- The write of a flight: excluded bytes keep the value held at landing (07 R172, 12 R261). -/
def Bank.landWrite (b : Bank) : FlightTgt → Bank
  | .v r x m => b.setV r (mergeBytes (b.v.get r) x m)
  | .p r x m => b.setP r ((b.p.get r &&& ~~~m) ||| (x &&& m))
  | .s r x => b.setS r x
  | .acc a ws =>
    { b with acc := b.acc.set a.val (ws.foldl (fun r w => r.setIfInBounds w.1 w.2) (b.acc.get a)) a.isLt
             wroteAcc := if b.wroteAcc.contains a then b.wroteAcc else a :: b.wroteAcc }
  | .accClear a =>
    { b with acc := b.acc.set a.val (Vector.replicate 12288 0) a.isLt
             wroteAcc := if b.wroteAcc.contains a then b.wroteAcc else a :: b.wroteAcc }
  | .store | .nothing => b

/-- A flight leaves; the word pushes its token when the last write of its last repetition has landed (07 R168). -/
def Bank.flightDone (b : Bank) (f : Flight) : Bank :=
  let b1 := { b with flights := b.flights.filter fun g => !(g.uid == f.uid && g.rep == f.rep) }
  if f.last && !b1.flights.any (·.uid == f.uid) then b1.pushTok .C f.push else b1

/-- The flights that stay when a load of poison is to land: its own later repetitions do not, and its earlier ones are not the last of
its word any more, which issues again (03 R86; 07 R168). -/
def stopsAt (f : Flight) (gs : List Flight) : List Flight :=
  (gs.filter fun g => !(g.uid == f.uid && decide (f.rep ≤ g.rep))).map fun g => if g.uid = f.uid then { g with last := false } else g

/-- The flights due by an engine cycle land in their order; a late one holds later writes of its register, and a load of
poison stops the pass at its nominal landing, its own later repetitions with it (07 R172-R174; 03 R86; 07 R164 for scalar
registers). -/
def Bank.landPass (now : Nat) : List Flight → List CReg → Bank → Bank × Option Flight
  | [], _, b => (b, none)
  | f :: fs, late, b =>
    if now < f.due then (b, none)
    else
      let free := match f.reg with
        | .s r => b.firstWriter f.uid r
        | .v _ | .p _ | .acc _ | .none => true
      if f.poison then ({ b with flights := stopsAt f b.flights }, some f)
      else if !f.arrived || late.contains f.reg || !free then Bank.landPass now fs (if f.reg = .none then late else f.reg :: late) b
      else Bank.landPass now fs late ((b.landWrite f.tgt).flightDone f)

/-- Everything due lands. -/
def Bank.landDue (b : Bank) : Bank × Option Flight := Bank.landPass b.engcyc b.flights [] b

/-- The entry that a trap at a landing names: the load, at its repetition (03 R86). -/
def Flight.entry (f : Flight) (b : Bank) : Entry :=
  { f.ent.getD (b.capture (.rotate 0)) with uid := f.uid, idx := f.idx, rep := f.rep, popped := true }

/-- A load of poison raises 1.9.C at its nominal landing: its destination is not written, its push is not made, and its entry stands
again at the head, from that repetition on (03 R86; 12 R264; 17 R357). -/
def Bank.poisonTrap (b : Bank) (f : Flight) : Bank :=
  ({ b with qC := b.qC.filter fun x => x.uid != f.uid } : Bank).raise { group := 1, kind := 9, engine := .C } (f.entry b) f.addr true

/-- The local loads in flight read the units that they left to their landing, all of them together, so that loads keep the order in which
they issued (04 R111; log entry 61). -/
def State.relookAll (s : State) (n : BankId) : State :=
  let b := s.bank n
  if b.flights.all fun f => f.relook == 0 then s
  else s.setBank n { b with flights := b.flights.map fun f =>
    match f.tgt with
    | .v r x m => { f with tgt := .v r (vecOf (s.store.reread (dieOf n) f.loc f.relook (vecBytes x))) m, relook := 0 }
    | .p .. | .s .. | .acc .. | .accClear _ | .store | .nothing => f }

/-- That is done where one that does so is due, and where a word whose write is due makes a push, behind which nothing of it may be left
(04 R106, R111). -/
def State.relook (s : State) (n : BankId) : State :=
  let b := s.bank n
  if b.flights.any fun f => (f.relook != 0 || f.push != 0) && decide (f.due ≤ b.engcyc) then s.relookAll n else s

/-- The loads in flight have read where a local store writes units of one of them: a store never passes an earlier load of its own C
engine, nor a load an earlier one (04 R111; 07 R174; log entry 61). -/
def Bank.settleReads (b : Bank) (l n : Nat) : Bank :=
  if b.flights.any fun f => f.relook != 0 && decide (f.loc < l + n) && decide (l < f.loc + 256) then
    { b with flights := b.flights.map fun f => { f with relook := 0 } }
  else b

/-- What is due lands; a load of poison raises 1.9.C (03 R86). -/
def State.landDue (s0 : State) (n : BankId) : State × Bool :=
  let s := s0.relook n
  match (s.bank n).landDue with
  | (b, none) => (s.setBank n b, false)
  | (b, some f) => ((s.setBank n (b.poisonTrap f)).endWaits n, true)

/-- A write of the register is late: it is past its nominal landing and has not landed (07 R174). -/
def Bank.isLate (b : Bank) (r : CReg) : Bool := b.flights.any fun f => f.reg == r && decide (f.due ≤ b.engcyc)

/-- The slack of a late load has run out (07 R174). -/
def Bank.slackOut (b : Bank) : Bool := b.flights.any fun f => !f.arrived && (f.expired || decide (f.slackEnd ≤ b.engcyc))

/-- An S word that has not executed and writes SRSTATE stands before the word (08 R192, Table 8.11). -/
def Bank.srAwaited (b : Bank) (uid : Nat) : Bool :=
  b.qS.any fun y => decide (y.uid < uid) && match y.what with
    | .word (.cwr a) | .word (.cset a) | .word (.cclr a) => a.cr == 0x063
    | _ => false

/-- The rounding code of a mod field (07 R157). -/
def rndOf (md : BitVec 5) : Nat := md.toNat % 8

/-- A word of that type and mod field steps the stochastic state (08 R192). -/
def srOf (ty : VTy) (md : BitVec 5) : Bool := ty.isFloat && rndOf md == 5

/-- The word rounds in mode sr, so it steps the stochastic state (08 R192). -/
def roundsSr : Instr → Bool
  | .vadd a | .vsub a | .vmul a | .vfma a | .vdiv a => srOf a.ty a.md
  | .vrcp a | .vrsq a | .vexp2 a | .vlog2 a | .vsqrt a | .vabs a => srOf a.ty a.md
  | .vcvt a => a.rnd == 5
  | .ard a => a.rnd == 5
  | .asts a => a.rnd == 5
  | _ => false

/-- The head of C waits for an earlier write of SRSTATE that has not executed (08 Table 8.11; log entry 35). -/
def Bank.srHead (b : Bank) : Bool :=
  match b.qC with
  | x :: _ => b.srAwaited x.uid && match x.what with
    | .word i => roundsSr i
    | .illegal .. | .fetchFault _ | .rotate _ => false
  | [] => false

/-! ### Charges (18 R387, R388) -/

/-- The largest total that bookings would make exceed the class's limit, if one does (18 R388). -/
def Bank.overClass (b : Bank) (adds : List (Nat × Nat)) : Option Nat :=
  let acts := b.activity ++ adds
  let tots := (adds.flatMap fun (a : Nat × Nat) => (List.range 8).map fun k => windowTotal acts (a.1 + k - 7)).filter
    fun t => decide (b.pwrCls * 500 < t)
  tots.max?

/-- Books charges, and drops those that no later window holds (18 R387). -/
def Bank.book (b : Bank) (now : Nat) (adds : List (Nat × Nat)) : Bank :=
  { b with activity := (b.activity ++ adds).filter fun a => decide (now ≤ a.1 + 8) }

/-- TVAL of 5.0.C (18 R388). -/
def overTval (cls tot : Nat) : Word := BitVec.ofNat 64 (cls % 16 * 2 ^ 32 + tot % 2 ^ 32)

/-! ### The form of a C word -/

/-- What a repetition does: the state after its effects at issue, its write if any, its latency, whether a local load's data
is late, and for a local load whether it met poison, its local address and location, and the units left to its landing. -/
structure CEff where
  st : State
  tgt : Option FlightTgt
  lat : Nat
  late : Bool
  poison : Bool
  addr : Word
  loc : Nat := 0
  relook : Nat := 0

/-- The parts of a C word: its repetitions or beats, whether it steps the stochastic state, its charge in nC, the registers
it reads at issue, the interlock it waits on, the group-1 fault it meets, its effect, and whether it has a write that lands. -/
structure CJob where
  reps : Nat
  sr : Bool
  charge : Nat
  reads : Bank → Entry → List CReg
  wait : State → Entry → Bool
  fault : State → Entry → Option (Nat × Word)
  eff : State → Entry → CEff
  writes : Bool := true

/-- The repetition issues: its pops and reservation at the first, its write in flight, one engine cycle; the entry stays at
the head for the next one (07 R166-R168, R170, R172, R178). -/
def State.cIssue (s : State) (i : Instr) (x : Entry) (last : Bool) (e : CEff) : State :=
  let sy := (usesOf i).sy
  (if last && e.tgt.isNone && sy.push != 0 then e.st.relookAll s.cur else e.st).modBank s.cur fun b =>
    let b1 := if x.popped then b else (b.takePops .C sy.pop).reserve .C sy.push
    let b2 : Bank := match e.tgt with
      | none => b1
      | some t =>
        let f : Flight := {
          uid := x.uid, due := b1.engcyc + e.lat, tgt := t, arrived := !e.late, slackEnd := b1.engcyc + e.lat + b1.slack
          expired := false, poison := e.poison, last := false, push := sy.push, idx := x.idx, rep := x.rep, addr := e.addr
          loc := e.loc, relook := e.relook, ent := if e.poison then some { x with popped := true } else none }
        { b1 with flights := insertFlight f b1.flights }
    let b3 : Bank := { b2 with engcyc := b2.engcyc + 1 }
    if last then
      if e.tgt.isNone then b3.pushTok .C sy.push
      else { b3 with flights := b3.flights.map fun f => if f.uid = x.uid then { f with last := true } else f }
    else b3.hold .C { x with popped := true, rep := x.rep + 1 }

/-- A C word at the head of its queue: it waits, or lands what is due, makes its checks and issues one repetition. -/
def State.cWord (s : State) (i : Instr) (j : CJob) : State :=
  let p := s.begin i
  let x := p.1
  let s := p.2
  let b := s.here
  let sy := (usesOf i).sy
  if b.cut.isSome || !b.popsOk .C sy x || (!x.popped && !b.canPush .C sy.push) || (j.sr && b.srAwaited x.uid) || j.wait s x then
    s.hold .C x
  else
    let s := s.relook s.cur
    match s.here.landDue with
    | (b1, some f) => (s.setBank s.cur ((b1.hold .C x).poisonTrap f)).endWaits s.cur
    | (b1, none) =>
      let b2 := b1.takeSr x.uid
      let s := s.setBank s.cur b2
      if (j.reads b2 x).any b2.isLate || b2.slackOut || (j.writes && decide (16 ≤ b2.flights.length)) then s.hold .C x
      else match j.fault s x with
        | some (kind, tval) => s.raise { group := 1, kind := kind, engine := .C } x tval
        | none =>
          let adds := if j.charge = 0 then [] else [(bucketOf s.time, j.charge)]
          match b2.overClass adds with
          | some tot => s.raise { group := 5, kind := 0, engine := .C } x (overTval b2.pwrCls tot)
          | none =>
            let t := s.modBank s.cur fun b => b.book (bucketOf s.time) adds
            t.cIssue i x (decide (j.reps ≤ x.rep + 1)) (j.eff t x)

/-- A C word with no write completes when it issues (07 R168). -/
def State.cPlain (s : State) (i : Instr) (f : Bank → Bank) : State :=
  s.cWord i {
    reps := 1, sr := false, charge := 0, reads := fun _ _ => [], wait := fun _ _ => false, fault := fun _ _ => none
    eff := fun t _ => { st := t.modBank t.cur f, tgt := none, lat := 0, late := false, poison := false, addr := 0 }
    writes := false }

/-- RBSET: both rotation bases take their new values at issue (12 R280). -/
def execRbset (a : Rbset) (s : State) : Out :=
  .next (s.cPlain (.rbset a) fun b => { b with rbv := a.v.toNat, rbp := a.p.toNat })

/-- SLACK: the region slack of later local loads (07 R174; 12 R281). -/
def execSlack (a : SlackW) (s : State) : Out := .next (s.cPlain (.slack a) fun b => { b with slack := a.n.toNat })

/-! ### Operand regions of the matrix engine (13 R286, R294) -/

/-- A field of a format word (13 Table 13.3). -/
def fwField (fw : BitVec 32) (lo n : Nat) : Nat := fw.toNat / 2 ^ lo % 2 ^ n

/-- The scale plane's bytes for each row or column (13 Table 13.2). -/
def Scaling.plane : Scaling → Nat
  | .mx => 1 | .nx => 4 | .unscaled | .channel => 0

/-- The tile size of an operand with `rows` rows or columns of 32 elements (13 Table 13.2). -/
def tileBytes (rows code : Nat) : Nat :=
  match matFmt code with
  | some (el, sc) => rows * 4 * el.width + rows * sc.plane
  | none => 0

/-- The bytes of the operand trailer, 0 where its scales are 1.0 and not read (13 Table 13.2, R287). -/
def trailerBytes (rows code : Nat) (one : Bool) : Nat :=
  if one then 0
  else match matFmt code with
    | some (_, .channel) => rows * 4
    | some (_, .nx) => 4
    | some (_, .unscaled) | some (_, .mx) | none => 0

/-- The bytes of A's operand region (13 R294). -/
def Mma.bytesA (m : Mma) : Nat :=
  m.n * tileBytes 96 (fwField m.fw 0 6) + trailerBytes 96 (fwField m.fw 0 6) (m.fw.getLsbD 28)

/-- The bytes of B's operand region (13 R294). -/
def Mma.bytesB (m : Mma) : Nat :=
  m.n * tileBytes 128 (fwField m.fw 6 6) + trailerBytes 128 (fwField m.fw 6 6) (m.fw.getLsbD 29)

/-- The core clocks of a K-step by the wider operand width (13 Table 13.1). -/
def kstepClocks (fw : BitVec 32) : Nat :=
  let wd (code : Nat) : Nat := match matFmt code with | some (el, _) => el.width | none => 32
  match max (wd (fwField fw 0 6)) (wd (fwField fw 6 6)) with
  | 32 => 256 | 16 => 64 | 8 => 32 | 6 => 24 | _ => 16

/-- The nanoseconds of `n` core clocks, rounded up. -/
def clocksNs (mhz n : Nat) : Nat := (n * 1000 + mhz - 1) / mhz

/-- An MMA that starts at a TIME: its next K-step's result is written 8 core clocks after the K-step's last (13 R290). -/
def Mma.startAt (m : Mma) (start mhz : Nat) : Mma :=
  { m with
    nextNs := start + clocksNs mhz (kstepClocks m.fw + 8)
    endNs := start + clocksNs mhz ((m.n - m.k) * kstepClocks m.fw) }

/-- The K-step of an MMA whose result is written next has begun at a TIME (13 R290). -/
def Mma.begun (m : Mma) (mhz t : Nat) : Bool := decide (m.nextNs ≤ t + clocksNs mhz (kstepClocks m.fw + 8))

/-- The MMAs of a bank that goes on executing: the running one continues at its saved K-step, and the waiting one follows it (13 R297). -/
def Bank.resumeMma (b : Bank) (now mhz : Nat) : Bank :=
  { b with mma := (b.mma.foldl (fun (p : Nat × List Mma) m =>
      let y := m.startAt p.1 mhz
      (y.endNs, p.2 ++ [y])) (now + clocksNs mhz 1, [])).2 }

/-- The MMAs of a bank whose clock changes: what is left of their schedule keeps its core clocks (13 R290; 18 R379). -/
def Bank.rescaleMma (b : Bank) (now old new : Nat) : Bank :=
  let f (t : Nat) : Nat := if t ≤ now then t else now + ((t - now) * old + new - 1) / new
  { b with mma := b.mma.map fun m => { m with nextNs := f m.nextNs, endNs := f m.endNs } }

/-- Two byte ranges share a 32-byte aligned block (13 R294). -/
def overlap32 (a n b m : Nat) : Bool :=
  decide (0 < n) && decide (0 < m) && decide (a / 32 ≤ (b + m - 1) / 32) && decide (b / 32 ≤ (a + n - 1) / 32)

/-- A store of `n` bytes at a local address of a window reaches the operand region of an incomplete MMA (13 R294). -/
def Bank.mmaOverlap (b : Bank) (window : BitVec 2) (a n : Nat) : Bool :=
  b.mma.any fun m => if window = 0 then overlap32 m.pa m.bytesA a n else overlap32 m.pb m.bytesB a n

/-! ### Local operands (12 R264, R265) -/

/-- The local address of a repetition (07 R178). -/
def localAddr (a : CLocal) (x : Entry) : Nat := (x.caps.getD 0 0).toNat + 256 * (a.off.toNat + x.rep * a.step.toNat)

/-- The checks of a local access: alignment, then the reservation (12 R264). -/
def localFault (b : Bank) (window : BitVec 2) (a n : Nat) : Option (Nat × Word) :=
  if a % 32 ≠ 0 then some (6, BitVec.ofNat 64 a)
  else if b.windowSize window < a + n then some (3, BitVec.ofNat 64 a)
  else none

/-- The units of a local load that are read when it lands: the next choice, all of them while an earlier load leaves some to its
landing (04 R111; log entry 61). -/
def Bank.relookMask (b : Bank) (choice : Nat) : Nat :=
  if b.flights.any fun f => f.relook != 0 then 2 ^ 33 - 1 else choice % 2 ^ 33

/-- VLDL and VLDM: 256 bytes of a reservation into a vector register (12 R264). -/
def State.localLoad (s : State) (i : Instr) (a : CLocal) (window : BitVec 2) (lat : Nat) : State :=
  s.cWord i {
    reps := a.rep.toNat + 1, sr := false, charge := 1, reads := fun _ _ => [], wait := fun _ _ => false
    fault := fun t x => localFault t.here window (localAddr a x) 256
    eff := fun t0 x =>
      let l := t0.here.windowBase t0.cur window + localAddr a x
      let c := (t0.sense l 256).choose
      let t := c.2
      { st := { t with delays := t.delays.drop 1 }
        tgt := some (.v (physV t.here.rbv (a.v.toNat + x.rep)) (vecOf (t.store.view (dieOf t.cur) l 256)) (BitVec.allOnes 256))
        lat := lat, late := t.delays.headD false, poison := t.store.anyBad l 256, addr := BitVec.ofNat 64 (localAddr a x)
        loc := l, relook := t.here.relookMask c.1 } }

/-- VLDL (12 R264). -/
def execVldl (a : CLocal) (s : State) : Out := .next (s.localLoad (.vldl a) a 0 6)
/-- VLDM (12 R264). -/
def execVldm (a : CLocal) (s : State) : Out := .next (s.localLoad (.vldm a) a 1 12)

/-- VSTL and VSTM: a vector register into a reservation, performed in issue order; it completes when it lands (12 R264,
R265). A word of which any repetition reaches the operand region of an incomplete MMA waits for that (13 R294). -/
def State.localStore (s : State) (i : Instr) (a : CLocal) (window : BitVec 2) (lat : Nat) : State :=
  s.cWord i {
    reps := a.rep.toNat + 1, sr := false, charge := 1
    reads := fun b x => [.v (physV b.rbv (a.v.toNat + x.rep))]
    wait := fun t x => (List.range (a.rep.toNat + 1)).any fun j => t.here.mmaOverlap window (localAddr a { x with rep := j }) 256
    fault := fun t x => localFault t.here window (localAddr a x) 256
    eff := fun t x =>
      let l := t.here.windowBase t.cur window + localAddr a x
      { st := (t.modBank t.cur fun b => b.settleReads l 256).modStore fun st =>
          st.put (dieOf t.cur) l (vecBytes (t.here.vreg (a.v.toNat + x.rep)))
        tgt := some .store, lat := lat, late := false, poison := false, addr := 0 } }

/-- VSTL (12 R264). -/
def execVstl (a : CLocal) (s : State) : Out := .next (s.localStore (.vstl a) a 0 6)
/-- VSTM (12 R264). -/
def execVstm (a : CLocal) (s : State) : Out := .next (s.localStore (.vstm a) a 1 12)

/-! ### Events of the C engine -/

/-- The word reserves its push with what it does next: an L or W word with its last access, every other word with its first
repetition, beat or row (04 R97; 07 R167). -/
def pushesNow (i : Instr) (x : Entry) : Bool :=
  match i with
  | .ldb a | .ldbu a | .ldh a | .ldhu a | .ldw a | .ldwu a | .ldd a | .stb a | .sth a | .stw a | .std a => x.rep == a.rep.toNat
  | .vld a | .vldb a | .vst a => x.rep == a.rep.toNat
  | .vlds a | .vsts a => x.rep == a.rep.toNat && x.seg == 7
  | _ => !x.popped

/-- The queue is empty, or its head waits on a pop or a push reservation (07 R171). -/
def Bank.tokenBlocked (b : Bank) (e : Engine) : Bool :=
  match b.queue e with
  | [] => true
  | x :: _ =>
    let u := payloadUses x.what
    match x.what with
    | .word i => !b.popsOk e u.sy x || (pushesNow i x && !b.canPush e u.sy.push)
    | .illegal .. | .fetchFault _ | .rotate _ => false

/-- No operation of the bank is in flight (07 R169, R171). -/
def Bank.noOps (b : Bank) : Bool := b.ops.all (·.spent) && b.hland.isEmpty && b.copies.all (·.flights.isEmpty)

/-- The head of an engine cannot move in a deadlock: it is absent, or waits on a pop, a push reservation or a pending scalar
register (07 R169). -/
def Bank.deadHead (b : Bank) (e : Engine) : Bool :=
  b.tokenBlocked e ||
    match b.queue e with
    | [] => true
    | x :: _ => e == .S && ((payloadUses x.what).reads ++ (payloadUses x.what).writes).any b.pendingS

/-- The bank is deadlocked on tokens (07 R169); an empty queue stands for a head only while the dispatcher is blocked. A bank with
nothing queued waits for nothing, and one to whose registers a load still brings something goes on. -/
def State.deadlocked (s : State) (n : BankId) : Bool :=
  let b := s.bank n
  b.status == .running && b.cut.isNone && !b.stopped && !(b.qS.isEmpty && b.qL.isEmpty && b.qC.isEmpty && b.qW.isEmpty)
    && b.noOps && b.partDue.isNone && b.flights.isEmpty && b.mma.isEmpty
    && b.deadHead .S && b.deadHead .L && b.deadHead .C && b.deadHead .W
    && (!(b.qS.isEmpty || b.qL.isEmpty || b.qC.isEmpty || b.qW.isEmpty) || s.dispatchBlocked n)

/-- The place that a token deadlock names: the S head, or the next word to be dispatched (17 R356). -/
def Bank.deadEntry (b : Bank) : Entry :=
  match b.qS with
  | x :: _ => x
  | [] => { (b.capture (.rotate 0)) with uid := b.uid, idx := b.pc }

/-- A deadlocked bank raises 2.0.S (07 R169). -/
def State.testDeadlock (s : State) (n : BankId) : State :=
  if s.deadlocked n then
    (s.modBank n fun b => b.raise { group := 2, kind := 0, engine := .S } b.deadEntry 0 false).endWaits n
  else s

/-- C_WRITE_LAND: what is due lands, and the test for a token deadlock is made (07 R169, R172, R173). -/
def execCWriteLand (n : BankId) (s : State) : Out :=
  if (s.bank n).status == .running && (s.bank n).cut.isNone then .next ((s.landDue n).1.testDeadlock n) else .next s

/-- LATE_LOAD_ARRIVAL: the data of the first local load that awaits it arrives, and lands at once if it is late (07 R174). -/
def execLateLoadArrival (n : BankId) (s : State) : Out :=
  let t := s.modBank n fun b => { b with flights := modFirst (fun f => !f.arrived) (fun f => { f with arrived := true }) b.flights }
  if (s.bank n).status == .running && (s.bank n).cut.isNone then .next (t.landDue n).1 else .next t

/-- SLACK_EXPIRY: the slack of late loads has run out, and C freezes until their data arrives (07 R174). -/
def execSlackExpiry (n : BankId) (s : State) : Out :=
  .next (s.modBank n fun b =>
    { b with flights := b.flights.map fun f => if !f.arrived ∧ f.slackEnd ≤ b.engcyc then { f with expired := true } else f })

/-- C has a write of the scalar register pending (07 R164, R171). -/
def Bank.pendingFromC (b : Bank) (r : BitVec 5) : Bool := r != 0 && (b.qC.any (·.writesS r) || b.flights.any (·.writesS r))

/-- The head of S, L or W waits on a pop, a push reservation or a scalar register with a write pending from C (07 R171). -/
def Bank.idleHead (b : Bank) (e : Engine) : Bool :=
  b.tokenBlocked e ||
    match b.queue e with
    | [] => true
    | x :: _ => e == .S && ((payloadUses x.what).reads ++ (payloadUses x.what).writes).any b.pendingFromC

/-- END, or the ERET of a handler, has been dispatched (07 R170; 17 R365). -/
def Bank.endDispatched (b : Bank) : Bool :=
  b.qS.any fun x => match x.what with
    | .word (.endt _) | .word (.eret _) => true
    | _ => false

/-- An idle engine cycle is taken: END waits for the writes in flight, or the bank is blocked on C (07 R170, R171). -/
def State.idles (s : State) (n : BankId) : Bool :=
  let b := s.bank n
  b.status == .running && b.cut.isNone && !b.stopped && !b.flights.isEmpty && !b.slackOut
    && ((b.endDispatched && b.qC.isEmpty)
      || ((b.tokenBlocked .C || b.srHead) && b.noOps && b.idleHead .S && b.idleHead .L && b.idleHead .W && s.dispatchBlocked n))

/-- One engine cycle without an issue: what is due lands (07 R170, R171). -/
def State.idleCycle (s : State) (n : BankId) : State :=
  let p := s.landDue n
  if p.2 then p.1 else p.1.modBank n fun b => { b with engcyc := b.engcyc + 1 }

/-- IDLE_ENGINE_CYCLE (07 R170, R171). -/
def execIdleEngineCycle (n : BankId) (s : State) : Out := .next (if s.idles n then s.idleCycle n else s)

/-- ROTATE_ENTRY: the rotate entry at the C head moves the bases, and takes no engine cycle (07 R170, R177). -/
def execRotateEntry (n : BankId) (s : State) : Out :=
  let b := s.bank n
  match b.qC with
  | x :: rest =>
    match x.what with
    | .rotate m =>
      if b.status == .running && b.cut.isNone then
        .next (s.setBank n { b with
          qC := rest
          rbv := if m.getLsbD 0 then (b.rbv + 47) % 48 else b.rbv
          rbp := if m.getLsbD 1 then (b.rbp + 7) % 8 else b.rbp })
      else .next s
    | .word _ | .illegal .. | .fetchFault _ => .next s
  | [] => .next s

end Sys2Proof.Machine
end

