-- ==== Sys2Proof/Machine/Banks.lean ====
section
/-! DEFINITION. Which bank of a core executes, the cut of a bank without a cause, and the save area (17 R357, R360, R362,
R367-R370). -/

namespace Sys2Proof.Machine

open Sys2Proof

/-! ### The save area (17 R367-R370) -/

/-- Pads a region with zeros. -/
def padTo (n : Nat) (bs : List Byte) : List Byte := bs ++ List.replicate (n - bs.length) 0

/-- The sequence number of the first unissued entry of a queue, or the next one (17 R356). -/
def Bank.headSeq (b : Bank) (e : Engine) : Nat := (match b.queue e with | x :: _ => x.uid | [] => b.uid) % 2 ^ 16

/-- LIVE of a frame of a kind (17 Table 17.10). -/
def Bank.live (b : Bank) (kind : Nat) : Nat :=
  (if kind = 3 then packFields [(1, bit (b.wroteAcc.contains 0)), (1, bit (b.wroteAcc.contains 1)),
      (1, bit (b.wroteAcc.contains 2)), (1, bit (b.wroteAcc.contains 3)), (1, bit b.wroteV)] else 0)
    + (if 2 ≤ kind then 2 ^ 5 + bit (!b.mma.isEmpty) * 2 ^ 6 else 0)

/-- The frame header with CHECK still to come (17 Table 17.10). While a control word is not executed, PC is its index (log entry
20). -/
def Bank.header (b : Bank) (n : BankId) (kind : Nat) : List Byte :=
  le8 kind ++ le8 b.tcause.toNat ++ le8 b.tval.toNat ++ le8 b.tstate.toNat ++ le8 (if b.ctl then b.pc - 1 else b.pc).toNat
    ++ le8 (packFields [(16, b.headSeq .S), (16, b.headSeq .L), (16, b.headSeq .C), (16, b.headSeq .W)])
    ++ le8 (packFields [(16, b.uid), (8, b.qS.length), (8, b.qL.length), (8, b.qC.length), (8, b.qW.length)])
    ++ le8 (b.live kind)
    ++ le8 (packFields [(12, b.asn.toNat), (1, (bankNo n).val), (19, 0), (32, b.ofTask (·.launch))])
    ++ le8 b.engcyc ++ le8 b.cutAt ++ List.replicate 0x1A0 0 ++ le8 0

/-- The stream and token state (17 Table 17.11). -/
def Bank.streamState (b : Bank) : List Byte :=
  padTo 0xC0 ((b.qiss.toList.flatMap fun x => leBytes 2 x.toNat) ++ (b.qdone.toList.flatMap fun x => leBytes 2 x.toNat)
    ++ b.tok.toList.map (BitVec.ofNat 8) ++ b.rsv.toList.map (BitVec.ofNat 8) ++ leBytes 4 b.qxstall.toNat)

/-- The control state (17 Table 17.12). -/
def Bank.controlState (b : Bank) : List Byte :=
  padTo 0x100 (le8 b.rbv ++ le8 b.rbp ++ le8 b.slack ++ le8 b.srView.toNat ++ le8 b.mstat.toNat ++ le8 b.merrlog.toNat
    ++ le8 b.evpend.toNat ++ le8 b.tvec.toNat ++ le8 b.tsave.toNat ++ le8 b.engcyc
    ++ le8 (packFields [(4, b.pwrCls), (4, b.pwrDecl)]))

/-- The regions that a frame of a kind writes, by offset (17 Table 17.8, R360, R363, R371). The bytes of the queue and replay image have
the device's own encoding and are free values; the model holds the image as data (17 R367; log entry 20). -/
def Bank.frame (b : Bank) (n : BankId) (kind : Nat) : List (Nat × List Byte) :=
  (if kind = 3 then
    (((List.finRange 4).filter b.wroteAcc.contains).map fun a =>
        (0xC000 * a.val, (b.acc.get a).toList.flatMap fun w => leBytes 4 w.toNat))
      ++ (if b.wroteV then [(0x30000, b.v.toList.flatMap vecBytes)] else [])
      ++ [(0x3F300, b.y.toList.flatMap fun y => y.toList.flatMap fun f => leBytes 4 f.toNat),
        (0x3F600, b.p.toList.flatMap fun p => leBytes 32 p.toNat),
        (0x3F800, (List.range 32).flatMap fun r => le8 (b.sreg (BitVec.ofNat 5 r)).toNat),
        (0x3F900, b.h.toList.flatMap fun h => le8 h.word0.toNat ++ le8 h.word1.toNat),
        (0x3FA00, padTo 0x40 (b.fq.flatMap fun w => leBytes 4 w.2.toNat)),
        (0x3FB00, b.controlState)]
   else [])
    ++ (if 2 ≤ kind then [(0x34000, b.imageBytes), (0x3FA40, b.streamState)] else [])
    ++ [(0x3FC00, b.header n kind)]

/-- Writes a bank's frame to its save area, CHECK last (17 R368, R371). -/
def State.writeFrame (s : State) (n : BankId) (kind : Nat) : State :=
  let b : Bank := { s.bank n with kind := kind, frameNo := s.free }
  { s.setBank n b with
    free := s.free + 1
    store := ((b.frame n kind).foldl (fun st r => st.put (dieOf n) (saveBase n + r.1) r.2) s.store).seal n (b.frameRanges kind) }

/-- A drained bank is saved: its save area is written with KIND 3 (17 R371). Its copy tells whether it had its grant (18 R385). -/
def State.saveBank (s : State) (n : BankId) : State :=
  let st : BankSt := if (s.bank n).status = .unfunded then .unfunded else .preempted
  let t := (s.modBank n fun b => { b with status := .preempted, cut := none }).writeFrame n 3
  { t with frames := (n.val, { t.bank n with status := st }) :: t.frames.filter fun p => p.1 != n.val }

/-- KIND of the frame header becomes 0 (17 R362, R365). -/
def State.clearKind (s : State) (n : BankId) : State :=
  { s.modBank n fun b => { b with kind := 0 } with store := s.store.put (dieOf n) (saveBase n + 0x3FC00) (le8 0) }

/-! ### Armed stops (20 R419) -/

/-- The armed STOPSEQ that matches the head of an engine's queue. -/
def Bank.seqAt (b : Bank) (e : Engine) : Option ((Engine × BitVec 16) × Entry) :=
  match b.queue e with
  | x :: _ => (b.stopSeq.find? fun q => q.1 == e && x.uid % 2 ^ 16 == q.2.toNat).map fun q => (q, x)
  | [] => none

/-- The armed STOPSEQ that matches the head of its queue, the first in the engines' order (17 R358). -/
def Bank.seqMatch (b : Bank) : Option ((Engine × BitVec 16) × Entry) := [Engine.S, .L, .C, .W].findSome? b.seqAt

/-- The S head that an armed BREAK matches. -/
def Bank.brkMatch (b : Bank) : Option Entry :=
  match b.qS with
  | x :: _ => if b.brk.contains x.idx then some x else none
  | [] => none

/-- A stop of the bank is due: a HALT that waited for its start, or an armed stop that matches (20 R419). -/
def Bank.stopDue (b : Bank) : Bool := b.halt || b.seqMatch.isSome || b.brkMatch.isSome

/-! ### Which bank executes (17 R360, R362) -/

/-- The entry at which a cause that no entry raises is taken: the S head, or the next word to be dispatched (17 R357). -/
def Bank.sEntry (b : Bank) : Entry := b.deadEntry

/-- A held slot miss is taken once the bank runs outside a handler, before its S head executes (17 R364; 16 R344). -/
def State.takeMiss (s : State) (n : BankId) : State :=
  let b := s.bank n
  match b.heldMiss with
  | some tval =>
    if b.status == .running && b.cut.isNone && !b.inh then
      (s.modBank n fun b => { b with heldMiss := none }.raise { group := 4, kind := 0, engine := .S } b.sEntry tval false).endWaits n
    else s
  | none => s

/-- Operand scales of an operand as its trailer at `l` holds them, and which lie in a bad unit. -/
def Store.scales (st : Store) (d : Die) (l bytes : Nat) : List (BitVec 32) × List Bool :=
  ((List.range (bytes / 4)).map fun k => BitVec.ofNat 32 (leNat (st.view d (l + 4 * k) 4)),
    (List.range (bytes / 4)).map fun k => st.badUnit ((l + 4 * k) / 8))

/-- The operand scales of the head MMA are read as it starts, once: those of its valid rows and columns, whose errors are sensed (03 R85;
13 R286, R287, R289, R297). -/
def State.startMma (s0 : State) (n : BankId) : State :=
  let b := s0.bank n
  match b.mma with
  | [] => s0
  | m :: _ =>
    if m.started then s0
    else
      let s0 := s0.relookAll n
      let ca := fwField m.fw 0 6
      let cb := fwField m.fw 6 6
      let na := trailerBytes (fwField m.fw 12 7 + 1) ca (m.fw.getLsbD 28)
      let nb := trailerBytes (fwField m.fw 19 7 + 1) cb (m.fw.getLsbD 29)
      let la := b.windowBase n 0 + m.pa + m.n * tileBytes 96 ca
      let lb := b.windowBase n 1 + m.pb + m.n * tileBytes 128 cb
      let s := (s0.sense la na).sense lb nb
      let ta := s.store.scales (dieOf n) la na
      let tb := s.store.scales (dieOf n) lb nb
      s.modBank n fun b => { b with mma := b.mma.modifyHead fun m =>
        { m with gA := ta.1, badA := ta.2, gB := tb.1, badB := tb.2, started := true } }

/-- A bank executes; the schedule of its MMAs goes on from now, and the first of them starts if it had not (13 R297). -/
def State.runBank (s : State) (n : BankId) : State :=
  (((s.modBank n fun b =>
    ({ b with status := .running } : Bank).resumeMma s.time (clockMhz (s.clusterPower (clusterOf n)).cls)).modCore (coreOf n)
      fun c => { c with run := some (bankNo n) }).startMma n).takeMiss n

/-- A core without a running bank runs the ready bank that has waited longest (17 R362). -/
def State.pickBank (s : State) (c : CoreId) : State :=
  if (s.cores.get c).run.isSome then s
  else
    let a := bankAt c 0
    let b := bankAt c 1
    match (s.bank a).status == .ready, (s.bank b).status == .ready with
    | true, true => if (s.bank a).readySince ≤ (s.bank b).readySince then s.runBank a else s.runBank b
    | true, false => s.runBank a
    | false, true => s.runBank b
    | false, false => s

/-- The core's bank leaves off executing. -/
def State.stopRun (s : State) (n : BankId) : State :=
  if (s.cores.get (coreOf n)).run = some (bankNo n) then s.modCore (coreOf n) fun c => { c with run := none } else s

/-- A cut with no cause (17 R362, R371). -/
def State.cutBank (s : State) (n : BankId) (k : CutKind) : State := (s.modBank n fun b => { b with cut := some k }).endWaits n

/-- A placed task waits for its core, which runs it if no bank executes (17 R360; 18 R385). -/
def State.makeReady (s : State) (n : BankId) : State :=
  (s.modBank n fun b => { b with status := .ready, readySince := s.time }).pickBank (coreOf n)

/-- A bank becomes ready, and the core switches back to it at once: the other bank is cut with no cause (17 R362). -/
def State.switchIn (s : State) (n : BankId) : State :=
  let t := s.makeReady n
  let o := otherBank n
  if (t.bank o).status == .running && (t.bank o).cut.isNone && (t.bank n).status == .ready then t.cutBank o .switch else t

/-- A bank whose cause is answered becomes ready, with KIND 0 in its frame header (17 R362). -/
def State.switchBack (s : State) (n : BankId) : State := (s.clearKind n).switchIn n

end Sys2Proof.Machine
end

