-- ==== Sys2Proof/Machine/Layouts.lean ====
section
/-! DEFINITION. The layout words YSET, YGET and YCLR and the format queue words FPUSH and FPUSHI (09 R219, R220). -/

namespace Sys2Proof.Machine

open Sys2Proof

/-- A field of a layout record; a number over 23 names none (09 R219). -/
def Layout.field (y : Layout) (f : Nat) : BitVec 32 := y.toList.getD f 0

/-- A layout record with one field written (09 R219). -/
def Layout.setField (y : Layout) (f : Nat) (x : BitVec 32) : Layout := if h : f < 24 then y.set f x h else y

/-- Writes a layout register. -/
def Bank.setLayout (b : Bank) (r : BitVec 3) (y : Layout) : Bank := { b with y := b.y.set r.toNat y r.isLt }

/-- YSET: the low 32 bits of a register into one field (09 R219). -/
def execYset (a : SYfield) (s : State) : Out :=
  .next (s.sWord (.yset a) fun _ b =>
    b.setLayout a.y ((b.y.get a.y.toFin).setField a.field.toNat ((b.sreg a.s).setWidth 32)))

/-- YGET: one field, zero-extended (09 R219). -/
def execYget (a : SYfield) (s : State) : Out :=
  .next (s.sResult (.yget a) a.s fun b => ((b.y.get a.y.toFin).field a.field.toNat).setWidth 64)

/-- YCLR: every field zero (09 R219). -/
def execYclr (a : SYclr) (s : State) : Out :=
  .next (s.sWord (.yclr a) fun _ b => b.setLayout a.y (Vector.replicate 24 0))

/-- Appends a format word, with the number of its push; a full queue holds the S head (09 R220, R221). -/
def State.pushFormat (s : State) (i : Instr) (sy : Sync) (w : Bank → BitVec 32) : State :=
  let p := s.begin i
  let b := p.2.here
  if b.sReady i p.1 && decide (b.fq.length < 16) then
    p.2.setBank s.cur { b.sSync sy p.1 with fq := b.fq ++ [(p.1.uid, w b)] }
  else p.2.hold .S p.1

/-- FPUSH: the low 32 bits of a register (09 R220). -/
def execFpush (a : SRa) (s : State) : Out := .next (s.pushFormat (.fpush a) a.sy fun b => (b.sreg a.ra).setWidth 32)

/-- FPUSHI: the zero-extended immediate (09 R220). -/
def execFpushi (a : SFpushi) (s : State) : Out := .next (s.pushFormat (.fpushi a) a.sy fun _ => a.imm.setWidth 32)

end Sys2Proof.Machine
end

