-- ==== Sys2Proof/Machine/Record.lean ====
section
/-! DEFINITION. The launch record (14 R300-R304): its fields, its check, and a die's tasks. -/

namespace Sys2Proof.Machine

open Sys2Proof

/-- A field of a record: `n` bits from `lo` on (14 Table 14.1). -/
def recField (raw : BitVec 2048) (lo n : Nat) : Nat := raw.toNat / 2 ^ lo % 2 ^ n

/-- CODE. -/
def recCode (r : BitVec 2048) : Nat := recField r 0 64
/-- ENTRY. -/
def recEntry (r : BitVec 2048) : Nat := recField r 64 32
/-- ARGSIZE. -/
def recArgsize (r : BitVec 2048) : Nat := recField r 96 16
/-- ARGS. -/
def recArgs (r : BitVec 2048) : Nat := recField r 128 64
/-- PRIO. -/
def recPrio (r : BitVec 2048) : Nat := recField r 192 3
/-- FHINT. -/
def recFhint (r : BitVec 2048) : Nat := recField r 196 4
/-- PCLASS. -/
def recPclass (r : BitVec 2048) : Nat := recField r 200 4
/-- GANG. -/
def recGang (r : BitVec 2048) : Bool := r.getLsbD 204
/-- DET. -/
def recDet (r : BitVec 2048) : Bool := r.getLsbD 205
/-- NLOOP. -/
def recNloop (r : BitVec 2048) : Nat := recField r 208 3
/-- NWAIT. -/
def recNwait (r : BitVec 2048) : Nat := recField r 212 3
/-- DIEMASK. -/
def recDiemask (r : BitVec 2048) : Nat := recField r 216 4
/-- SEED. -/
def recSeed (r : BitVec 2048) : Nat := recField r 256 32
/-- SPRES. -/
def recSpres (r : BitVec 2048) : Nat := recField r 288 32
/-- MRES. -/
def recMres (r : BitVec 2048) : Nat := recField r 320 32
/-- EXTENT.k. -/
def recExtent (r : BitVec 2048) (k : Nat) : Nat := recField r (384 + 32 * k) 16
/-- KIND.k. -/
def recKind (r : BitVec 2048) (k : Nat) : Nat := recField r (400 + 32 * k) 2
/-- DONE. -/
def recDone (r : BitVec 2048) : Nat := recField r 576 64
/-- WADDR.w. -/
def recWaddr (r : BitVec 2048) (w : Nat) : Nat := recField r (640 + 128 * w) 64
/-- WVAL.w. -/
def recWval (r : BitVec 2048) (w : Nat) : Nat := recField r (704 + 128 * w) 64
/-- MASK.d. -/
def recMask (r : BitVec 2048) (d : Nat) : Nat := recField r (1152 + 128 * d) 72
/-- NEXT. -/
def recNext (r : BitVec 2048) : Nat := recField r 1664 64
/-- SLOTFIRST. -/
def recSlotfirst (r : BitVec 2048) : Nat := recField r 1728 64
/-- SLOTCOUNT. -/
def recSlotcount (r : BitVec 2048) : Nat := recField r 1792 16
/-- GRID. -/
def recGrid (r : BitVec 2048) : Nat := recField r 1808 4

/-- The die takes part (14 R300). -/
def recHasDie (r : BitVec 2048) (d : Nat) : Bool := recDiemask r / 2 ^ d % 2 == 1

/-- The number of dies of a record (14 R302: D). -/
def recDies (r : BitVec 2048) : Nat := ((List.range 4).filter (recHasDie r)).length

/-- The core mask selects a core (14 Table 14.1). -/
def recSelects (r : BitVec 2048) (d i : Nat) : Bool := recMask r d / 2 ^ i % 2 == 1

/-- The levels in force. -/
def recLevels (r : BitVec 2048) : List Nat := List.range (recNloop r)

/-- The spatial levels (14 R303). -/
def recSpatial (r : BitVec 2048) : List Nat := (recLevels r).filter fun k => recKind r k != 0

/-- A die's range of a spatial level: base and size (14 R302). -/
def recRange (r : BitVec 2048) (d k : Nat) : Nat × Nat :=
  let e := recExtent r k
  if recKind r k = 2 then
    let n := recDies r
    let i := ((List.range d).filter (recHasDie r)).length
    (e * i / n, e * (i + 1) / n - e * i / n)
  else (0, e)

/-- The number of a die's tasks (14 R302). -/
def recShare (r : BitVec 2048) (d : Nat) : Nat :=
  if recHasDie r d then (recSpatial r).foldl (fun n k => n * (recRange r d k).2) 1 else 0

/-- The coordinates of a die's `j`-th task on the spatial levels, innermost level first in `ks` (14 R303). -/
def recCoords (r : BitVec 2048) (d : Nat) : List Nat → Nat → List (Nat × Nat)
  | [], _ => []
  | k :: ks, j =>
    let q := recRange r d k
    (k, q.1 + j % (max 1 q.2)) :: recCoords r d ks (j / max 1 q.2)

/-- The coordinates of a die's `j`-th task: tasks come in ascending linear index (14 R303). -/
def recTask (r : BitVec 2048) (d j : Nat) : List (Nat × Nat) := recCoords r d (recSpatial r).reverse j

/-- The coordinate of a level. -/
def coordOf (cs : List (Nat × Nat)) (k : Nat) : Nat := match cs.find? fun p => p.1 == k with | some p => p.2 | none => 0

/-- The linear index of a task (14 R303). -/
def recIndex (r : BitVec 2048) (cs : List (Nat × Nat)) : Nat :=
  (recSpatial r).foldl (fun n k => n * recExtent r k + coordOf cs k) 0

/-- The place of a task among those of its die, from its coordinates (14 R303, R310). -/
def recOrdinal (r : BitVec 2048) (d : Nat) (c : Nat → Nat) : Nat :=
  (recSpatial r).foldl (fun n k => n * (recRange r d k).2 + (c k - (recRange r d k).1)) 0

/-- Every bit of a range is zero. -/
def zeroBits (r : BitVec 2048) (lo n : Nat) : Bool := recField r lo n == 0

/-- The reserved bits are zero and no level past NLOOP is set (14 R301 reason 1). -/
def recReserved (r : BitVec 2048) : Bool :=
  zeroBits r 1812 44 && zeroBits r 1856 192 && zeroBits r 352 32 && zeroBits r 220 36
    && zeroBits r 215 1 && zeroBits r 211 1 && zeroBits r 206 2 && zeroBits r 195 1 && zeroBits r 112 16
    && (List.range 4).all (fun d => zeroBits r (1224 + 128 * d) 56)
    && (List.range 6).all fun k => zeroBits r (402 + 32 * k) 14 && (decide (k < recNloop r) || zeroBits r (384 + 32 * k) 32)

/-- A mask is a union of whole clusters (14 R301 reason 9). -/
def wholeClusters (m : Nat) : Bool := (List.range 9).all fun c => m / 2 ^ (8 * c) % 256 == 0 || m / 2 ^ (8 * c) % 256 == 255

/-- The lowest reason to reject a record, if any (14 R301, Table 14.2). -/
def recReject (r : BitVec 2048) (lehr : Bool) : Option Nat :=
  if !recReserved r then some 1
  else if recPrio r = 7 ∧ !lehr then some 2
  else if 8 < recFhint r ∨ recPclass r = 0 then some 3
  else if recNloop r = 0 ∨ 6 < recNloop r ∨ (recLevels r).any (fun k => recKind r k == 3 || recExtent r k == 0) then some 4
  else if 4 < recNwait r ∨ (List.range (recNwait r)).any (fun w => recWaddr r w % 8 != 0) ∨ recDone r % 8 ≠ 0
      ∨ recNext r % 256 ≠ 0 then some 5
  else if recCode r % 64 ≠ 0 ∨ recArgs r % 8 ≠ 0 ∨ 4096 < recArgsize r ∨ recArgsize r % 8 ≠ 0
      ∨ 0x10000 < recArgs r % 0x10000 + recArgsize r then some 6
  else if recSpres r % 32 ≠ 0 ∨ recMres r % 32 ≠ 0 ∨ 0x180000 < recSpres r ∨ 0x780000 < recMres r then some 7
  else if recDiemask r = 0 ∨ (List.range 4).any (fun d => recHasDie r d == (recMask r d == 0)) then some 8
  else if recGang r ∧ (List.range 4).any (fun d => recShare r d % 8 != 0 || !wholeClusters (recMask r d)) then some 9
  else if recNext r ≠ 0 ∧ recDone r = 0 then some 10
  else none

end Sys2Proof.Machine
end

