-- ==== Sys2Proof/Machine/Stores.lean ====
section
/-! DEFINITION. Scalar and vector stores (10 R229-R231): each repetition or segment passes its check and takes its bytes;
they are performed when the operation completes, or a unit at a time before it. -/

namespace Sys2Proof.Machine

open Sys2Proof

/-- The access of the current repetition of a store. -/
def storeAccess (step : BitVec 4) (z al : Nat) (x : Entry) : Access :=
  let o := x.repOffset step z
  { o := o, z := z, needR := false, needW := true, aligned := o % al == 0 }

/-- A scalar store of `z` bytes of the captured values (10 R229). -/
def State.storeScalar (s : State) (i : Instr) (a : MemS) (z : Nat) : State :=
  s.access .W i (storeAccess a.step z z) (fun x => x.rep == a.rep.toNat) fun s x l =>
    s.allocGate x l z fun s x =>
      let y := { x with puts := x.puts ++ [{ loc := l, bytes := leBytes z (x.vals.getD x.rep 0).toNat }] }
      s.passed .W i y (x.rep == a.rep.toNat) (s.repBlocks x a.rep a.step z)

/-- STB (10 Table 10.1). -/
def execStb (a : MemS) (s : State) : Out := .next (s.storeScalar (.stb a) a 1)
/-- STH (10 Table 10.1). -/
def execSth (a : MemS) (s : State) : Out := .next (s.storeScalar (.sth a) a 2)
/-- STW (10 Table 10.1). -/
def execStw (a : MemS) (s : State) : Out := .next (s.storeScalar (.stw a) a 4)
/-- STD (10 Table 10.1). -/
def execStd (a : MemS) (s : State) : Out := .next (s.storeScalar (.std a) a 8)

/-- VST: 256 bytes of a vector register, read when the repetition issues (10 Table 10.3, R231). DESIGN CHOICE: where a C write of its source
lands meanwhile, with nothing that orders the two, VST and VSTS store the register as it stands in that step, and never a mix of its old and its
new units, which R239 allows (log entry 67). -/
def execVst (a : MemV) (s : State) : Out :=
  .next (s.access .W (.vst a) (storeAccess a.step 256 8) (fun x => x.rep == a.rep.toNat) fun s x l =>
    s.allocGate x l 256 fun s x =>
      let y := { x with puts := x.puts ++ [{ loc := l, bytes := vecBytes (s.here.v.get (s.vecTarget a.reg x)) }] }
      s.passed .W (.vst a) y (x.rep == a.rep.toNat) (s.repBlocks x a.rep a.step 256))

/-- VSTS: eight 32-byte segments at a pitch (10 R230, R231). -/
def execVsts (a : MemV) (s : State) : Out :=
  .next (s.access .W (.vsts a) (segAccess a.step false true) (fun x => x.rep == a.rep.toNat && x.seg == 7) fun s x l =>
    s.allocGate x l 32 fun s x =>
      let seg := ((vecBytes (s.here.v.get (s.vecTarget a.reg x))).drop (32 * x.seg)).take 32
      let y := { x with puts := x.puts ++ [{ loc := l, bytes := seg }] }
      s.passedSeg .W (.vsts a) y (x.rep == a.rep.toNat) (s.segBlocks x a.rep a.step))

/-! ### Units of a store that are performed before the whole (04 R116; 05 R135; log entry 61) -/

/-- The 8-byte units of stores that are still to be performed: the store and the unit of it, by number, and where its bytes go. -/
def openUnits (ps : List Put) : List (Nat × Nat × Nat × List Byte) :=
  ps.zipIdx.flatMap fun p => ((unitsOf p.1.loc p.1.bytes.length).zipIdx.filter fun q => !p.1.did.testBit q.2).map fun q =>
    let lo := max p.1.loc (q.1 * 8)
    (p.2, q.2, lo, (p.1.bytes.drop (lo - p.1.loc)).take (min (p.1.loc + p.1.bytes.length) (q.1 * 8 + 8) - lo))

/-- Open unit `k` of some stores is performed by a bank, unless an earlier one among them reaches it too: those are performed in their order
(10 R228, R231). `bad` are units that it brings poison to. -/
def State.putPart (s : State) (n : BankId) (bad : List Nat) (ps : List Put) (k : Nat) : State × List Put :=
  let us := openUnits ps
  match us[k]? with
  | none => (s, ps)
  | some (j, i, lo, bs) =>
    if (us.take k).any fun u => u.2.2.1 / 8 == lo / 8 then (s, ps)
    else
      let t := (s.senseMerge (dieOf n) lo bs.length).trafficStore (dieOf n) (reqOf n) lo bs.length
      (t.modStore fun st => if bad.isEmpty then st.put (dieOf n) lo bs else st.putBad (dieOf n) bad [(lo, bs)], ps.modify j fun p => { p with did := p.did ||| 2 ^ i })

/-- The stores of which something is still to be performed. -/
def leftPuts (ps : List Put) : List Put := ps.filter fun p => !p.left.isEmpty

/-- An open unit of the stores of a bank's word is performed, at the W head or in flight. -/
def State.storePart (s : State) (n : BankId) (uid k : Nat) : State :=
  match (s.bank n).qW, (s.bank n).ops.find? fun o => o.uid == uid && !o.puts.isEmpty with
  | x :: rest, none =>
    if x.uid ≠ uid then s
    else
      let p := s.putPart n [] x.puts k
      p.1.modBank n fun b => { b with qW := { x with puts := leftPuts p.2 } :: rest }
  | _, some o =>
    let p := s.putPart n [] o.puts k
    p.1.modBank n fun b => { b with ops := b.ops.map fun (a : Op) => if a.uid = uid then { a with puts := leftPuts p.2 } else a }
  | [], none => s

end Sys2Proof.Machine
end

