-- ==== Sys2Proof/Machine/Copy.lean ====
section
/-! DEFINITION. The copy unit (11): the layout check, the rows of a window, fold, and the issue and landing of rows. -/

namespace Sys2Proof.Machine

open Sys2Proof

/-! ### The fields of a layout record (11 Table 11.1, R241) -/

/-- A field as a number. -/
def Layout.num (y : Layout) (f : Nat) : Nat := (y.field f).toNat
/-- RANK. -/
def Layout.rank (y : Layout) : Nat := y.num 1
/-- EXTk; a dimension past RANK counts as 1 (11 R241). -/
def Layout.ext (y : Layout) (k : Nat) : Nat := if k < y.rank then y.num (2 + k) else 1
/-- STRIDEk; a dimension past RANK counts as 0 (11 R241). -/
def Layout.stride (y : Layout) (k : Nat) : Nat := if k < y.rank then y.num (6 + k) else 0
/-- Wk; a dimension past RANK counts as 1 (11 R241). -/
def Layout.win (y : Layout) (k : Nat) : Nat :=
  if k < y.rank then y.num (10 + k / 2) / 2 ^ (16 * (k % 2)) % 2 ^ 16 else 1
/-- The element size z in bytes. -/
def Layout.z (y : Layout) : Nat := 2 ^ (y.num 0 / 2 ^ 6 % 4)
/-- FORMAT. -/
def Layout.format (y : Layout) : Nat := y.num 0 % 64
/-- FOLD. -/
def Layout.fold (y : Layout) : Bool := (y.field 0).getLsbD 8
/-- TRANSPOSE. -/
def Layout.transpose (y : Layout) : Bool := (y.field 0).getLsbD 9
/-- POISONPASS. -/
def Layout.poisonPass (y : Layout) : Bool := (y.field 0).getLsbD 10
/-- FILL. -/
def Layout.fill (y : Layout) : Nat := y.num 12
/-- PITCH. -/
def Layout.pitch (y : Layout) : Nat := y.num 13
/-- ILV. -/
def Layout.ilv (y : Layout) : Nat := y.num 14 % 4
/-- BAREN. -/
def Layout.barEn (y : Layout) : Bool := (y.field 15).getLsbD 31
/-- BAROFF. -/
def Layout.barOff (y : Layout) : Nat := y.num 15 % 2 ^ 31
/-- SMOOTH. -/
def Layout.smooth (y : Layout) : Nat := y.num 16
/-- BASE (11 R242). -/
def Layout.base (y : Layout) : Nat := y.num 17 + y.num 18 * 2 ^ 32

/-! ### Rows (11 R242-R244, R255) -/

/-- The copy is a gather or a scatter. -/
def CopyOp.gs (c : CopyOp) : Bool := c.idxs.isSome

/-- The dimension that runs along a row (11 Table 11.2, R255). -/
def CopyOp.rowDim (c : CopyOp) : Nat := if c.lay.transpose && !c.gs then 1 else 0

/-- The number of rows (11 Table 11.2, R255). -/
def CopyOp.rows (c : CopyOp) : Nat :=
  match c.idxs with
  | some ts => ts.length
  | none => c.lay.win (1 - c.rowDim) * c.lay.win 2 * c.lay.win 3

/-- The length of a row in bytes (11 Table 11.2). -/
def CopyOp.rowLen (c : CopyOp) : Nat := c.lay.win c.rowDim * c.lay.z

/-- The origin's coordinate xk (11 R241, R243). -/
def CopyOp.x (c : CopyOp) (k : Nat) : Nat := if k < c.lay.rank then c.org.toNat / 2 ^ (16 * k) % 2 ^ 16 else 0

/-- The coordinate of row `r` in a dimension that does not run along it (11 R243, R244, R255). -/
def CopyOp.coord (c : CopyOp) (r k : Nat) : Nat :=
  match c.idxs with
  | some ts => if k = 1 then ts.getD r 0 else 0
  | none =>
    let o := 1 - c.rowDim
    let q := r / c.lay.win o
    if k = o then c.x o + r % c.lay.win o else if k = 2 then c.x 2 + q % c.lay.win 2 else c.x 3 + q / c.lay.win 2

/-- The dimensions that do not run along a row. -/
def CopyOp.otherDims (c : CopyOp) : List Nat := [1 - c.rowDim, 2, 3]

/-- A run of in-extent elements of a row: its offset through the handle, its byte in the row, its length. -/
structure Run where
  o : Nat
  pos : Nat
  n : Nat
  deriving DecidableEq, Repr

/-- The in-extent elements of a row, as runs; they come first in the row (11 R242-R244). -/
def CopyOp.runs (c : CopyOp) (r : Nat) : List Run :=
  let d := c.rowDim
  let z := c.lay.z
  let inside := c.otherDims.all fun k => decide (c.coord r k < c.lay.ext k)
  let n := if inside then min (c.lay.win d) (c.lay.ext d - c.x d) else 0
  let at0 := c.lay.base + z * (c.otherDims.foldl (fun a k => a + c.coord r k * c.lay.stride k) 0 + c.x d * c.lay.stride d)
  if n = 0 then []
  else if c.lay.stride d = 1 then [{ o := at0, pos := 0, n := n * z }]
  else (List.range n).map fun i => { o := at0 + z * i * c.lay.stride d, pos := i * z, n := z }

/-- Where part of a row lies at the local side: local address, byte in the row, length. -/
structure Piece where
  a : Nat
  pos : Nat
  n : Nat
  deriving DecidableEq, Repr

/-- The placement of a row under its interleave code, in chunks of 32 bytes (11 R244; 03 R76, Table 3.5). -/
def CopyOp.pieces (c : CopyOp) (r : Nat) : List Piece :=
  let p := c.lay.pitch
  let l0 := c.la.toNat + r * p
  let n := c.rowLen
  if c.lay.ilv = 0 then [{ a := l0, pos := 0, n := n }]
  else (List.range ((n + 31) / 32)).map fun k =>
    { a := if c.lay.ilv = 1 then (l0 + 32 * k) ^^^ (r % 32 * 32) else l0 + (32 * k + 32 * r) % p
      pos := 32 * k, n := min 32 (n - 32 * k) }

/-! ### The layout check (11 R247) -/

/-- The block size of a scaled format (08 R187). -/
def Scaling.block : Scaling → Nat
  | .mx => 32 | .nx => 8 | .unscaled | .channel => 1

/-- EBYTES and the row's contents agree with FORMAT (11 Table 11.4). -/
def foldFits (fmt z ext0 : Nat) : Bool :=
  match matFmt fmt with
  | none => false
  | some (el, sc) =>
    let w := el.width
    match sc with
    | .mx | .nx =>
      let b := sc.block
      z == 1 && 8 * b * ext0 % (w * b + 8) == 0 && 8 * b * ext0 / (w * b + 8) % b == 0
    | .unscaled | .channel =>
      if 8 < w then 8 * z == w else z == 1 && 8 * ext0 % w == 0 && (w != 6 || 8 * ext0 / w % 4 == 0)

/-- The zero extents and windows of the dimensions in force, by field (11 Table 11.3 reason 4). -/
def Layout.zeroFields (y : Layout) : List Nat :=
  let ks := List.range y.rank
  (ks.filter fun k => y.ext k == 0).map (2 + ·) ++ (ks.filter fun k => y.win k == 0).map (10 + · / 2)

/-- The pitch breaks a limit: the row, the unit, or its code's requirement (11 R245; 03 Table 3.5). -/
def CopyOp.badPitch (c : CopyOp) : Bool :=
  let p := c.lay.pitch
  decide (p < c.rowLen) || p % 8 != 0 || (c.lay.ilv == 1 && p % 1024 != 0) || (c.lay.ilv == 2 && p % 32 != 0)

/-- The conditions of fold do not hold (11 R253, R254). -/
def CopyOp.badFold (c : CopyOp) : Bool :=
  c.gs || !c.isIn || c.lvl != 1 || c.x 0 != 0 || c.lay.win 0 != c.lay.ext 0 || c.lay.stride 0 != 1
    || !foldFits c.lay.format c.lay.z (c.lay.ext 0)

/-- The layout check: the lowest reason and its field (11 Table 11.3). `mc` is the multicast operand. -/
def CopyOp.layoutFault (c : CopyOp) (mc : Nat) (gang : Bool) : Option (Nat × Nat) :=
  let y := c.lay
  if y.num 0 / 2 ^ 11 ≠ 0 then some (1, 0)
  else if y.num 14 / 4 ≠ 0 then some (1, 14)
  else match [19, 20, 21, 22, 23].find? fun f => y.num f != 0 with
    | some f => some (1, f)
    | none =>
      if (matFmt y.format).isNone then some (2, 0)
      else if y.rank = 0 ∨ 4 < y.rank then some (3, 1)
      else match y.zeroFields.min? with
        | some f => some (4, f)
        | none =>
          if 65536 < c.rowLen then some (5, 10)
          else if c.badPitch then some (6, 13)
          else if y.ilv = 3 ∨ (y.ilv = 1 ∧ c.la.toNat % 1024 ≠ 0) then some (6, 14)
          else if y.fold ∧ c.badFold then some (7, 0)
          else if y.transpose ∧ (y.rank = 1 ∨ y.fold ∨ c.gs) then some (8, 0)
          else if y.barEn ∧ (y.barOff % 16 ≠ 0 ∨ 0x4000000 ≤ y.barOff ∨ 0x780000 ≤ y.barOff % 0x800000) then some (9, 15)
          else if 256 ≤ mc ∨ (mc ≠ 0 ∧ (!c.isIn ∨ !gang)) then some (10, 0)
          else none

/-! ### Fold (11 R252, R253; 08 R199) -/

/-- The channels of a row of `n` bytes (11 Table 11.4). -/
def foldChannels (fmt n : Nat) : Nat :=
  match matFmt fmt with
  | none => 0
  | some (el, sc) =>
    match sc with
    | .mx | .nx => 8 * sc.block * n / (el.width * sc.block + 8)
    | .unscaled | .channel => 8 * n / el.width

/-- The format carries a tensor scale (08 R187). -/
def foldTensor (fmt : Nat) : Bool :=
  match matFmt fmt with
  | some (_, .nx) => true
  | some (_, .unscaled) | some (_, .mx) | some (_, .channel) | none => false

/-- An unscaled or per-channel element: one rounding to nearest even, saturated as its type gives (08 Table 8.6). -/
def foldEl (el : MEl) (p : Num) : Nat :=
  match el.fmt with
  | some f => f.round 0 0 false p
  | none => bitsOfInt el.width (roundInt el.width 0 0 p)

/-- A folded row: `s` gives the smoothing value of a channel, `t` the tensor scale (11 R253). -/
def foldRow (fmt : Nat) (s : Nat → Num) (t : Num) (row : List Byte) : List Byte :=
  match matFmt fmt with
  | none => row
  | some (el, sc) =>
    let w := el.width
    let bits := leNat row
    let e := foldChannels fmt row.length
    match sc with
    | .unscaled | .channel =>
      leBytes row.length (packEls w ((List.range e).map fun c => foldEl el (Num.mul (el.value sc (packedEl w bits c)) (s c))))
    | .mx | .nx =>
      let b := sc.block
      let plane := e * w / 8
      let blocks := (List.range (e / b)).map fun k =>
        let x := (row.getD (plane + k) 0).toNat
        let scale := match sc with | .nx => Num.mul (ue5m3 x) t | .mx | .unscaled | .channel => e8m0 x
        quantBlock el (match sc with | .nx => some t | .mx | .unscaled | .channel => none) false
          ((List.range b).map fun i =>
            Num.mul (Num.mul (el.value sc (packedEl w bits (b * k + i))) scale) (s (b * k + i)))
      leBytes plane (packEls w (blocks.flatMap fun q => q.1)) ++ blocks.map fun q => BitVec.ofNat 8 q.2

/-! ### The words -/

/-- A copy word: its instruction, its direction, its local level, and the index register and count of a gather. -/
structure CopyWord where
  i : Instr
  isIn : Bool
  lvl : Nat
  index : Option (BitVec 6 × Nat)

/-- The copy words. -/
def copyWord : Instr → Option CopyWord
  | .cpin a => some { i := .cpin a, isIn := true, lvl := a.lvl.toNat, index := none }
  | .cpout a => some { i := .cpout a, isIn := false, lvl := a.lvl.toNat, index := none }
  | .cpgather a => some { i := .cpgather a, isIn := true, lvl := 0, index := some (a.vi, a.cnt.toNat + 1) }
  | .cpscatter a => some { i := .cpscatter a, isIn := false, lvl := 0, index := some (a.vi, a.cnt.toNat + 1) }
  | _ => none

/-- The destinations of a copy, as cores of the cluster (11 R248). -/
def copyDsts (n : BankId) (mc : Nat) : List Nat :=
  if mc = 0 then [(coreOf n).val % 8] else (List.range 8).filter fun k => mc / 2 ^ k % 2 == 1

/-- The copy that a word at its head begins; the lanes of its index register are read together, once
(11 R248, R255). -/
def State.newCopy (s : State) (e : Engine) (w : CopyWord) (x : Entry) (cap : Capture) (y : Layout) : CopyOp where
  uid := x.uid
  eng := e
  isIn := w.isIn
  lay := y
  cap := cap
  la := x.caps.getD 0 0
  org := x.caps.getD 1 0
  lvl := w.lvl
  dsts := copyDsts s.cur (x.caps.getD 2 0).toNat
  idxs := match x.idxs with
    | some ts => some ts
    | none => w.index.map fun p => (List.range p.2).map fun j => lane 4 (s.here.vreg p.1.toNat) j
  cursor := 0
  flights := []
  arrivals := []

/-- The place of a bank's task among those of its die (14 R310). -/
def State.ordinalOf (s : State) (n : BankId) : Option (Nat × Nat) :=
  match (s.bank n).task with
  | none => none
  | some t => (s.launches.list.find? fun (l : Launch) => l.id == t.launch).map fun (l : Launch) =>
      (t.launch, recOrdinal l.raw (dieOf n).val fun k => (t.lidx.toList.getD k 0).toNat)

/-- Base and size of the local level at a destination: the bank's own reservation, or that of the gang member on the core
(11 R245, R250). -/
def State.copyPlace (s : State) (n : BankId) (lvl core : Nat) : Nat × Nat :=
  let own := (s.bank n).windowBase n (BitVec.ofNat 2 lvl)
  if core = (coreOf n).val % 8 then (own, (s.bank n).windowSize (BitVec.ofNat 2 lvl))
  else match s.ordinalOf n with
    | none => (own, 0)
    | some (l, j) =>
      match (s.launches.list.find? fun (x : Launch) => x.id == l).bind fun (x : Launch) =>
          x.res.find? fun g => g.die == dieOf n && g.ord == j / 8 * 8 + core with
      | none => (own, 0)
      | some g => if lvl = 0 then (padBase g.core + g.spBase, g.spSize) else (sliceBase g.core + g.mvBase, g.mvSize)

/-- The checks of 01 R28 over the in-extent elements of a row (11 R242, R248). -/
def Capture.checkRuns (c : Capture) (needR needW : Bool) (z : Nat) (runs : List Run) : Chk :=
  let aligned := runs.all fun r => r.o % z == 0
  let hit := runs.find? fun r => c.h.savesHit r.o r.n
  let out := runs.find? fun r => decide (c.h.extent.toNat < r.o + r.n)
  match hit, out, runs with
  | some r, _, _ | none, some r, _ | none, none, r :: _ => c.check needR needW aligned r.o r.n
  | none, none, [] => .pass

/-- The bytes of a row that poisoned units of `n` source bytes at `l` reach for an agent of die `d`, from byte `pos` of the row on
(03 R87). -/
def Store.badBytes (st : Store) (d : Die) (l n pos : Nat) : List (Nat × Nat) :=
  ((unitsOf l n).filter (st.badFor d)).map fun u => (pos + (max (u * 8) l - l), pos + (min (u * 8 + 8) (l + n) - l))

/-- The units that receive poison where bytes `pos … pos + n` of the row go to `l` (03 R87). -/
def badUnits (bad : List (Nat × Nat)) (l pos n : Nat) : List Nat :=
  (bad.flatMap fun p =>
    let lo := max p.1 pos
    let hi := min p.2 (pos + n)
    if lo < hi then unitsOf (l + (lo - pos)) (hi - lo) else []).eraseDups

/-- The stores of a row whose parts go to places. -/
def partPuts (bytes : List Byte) (parts : List (Nat × Nat × Nat)) : List Put :=
  parts.map fun p => { loc := p.1, bytes := (bytes.drop p.2.1).take p.2.2 }

/-- A row on its way to a place: what it stores there and the units it poisons; `src` are the parts that it was read from, none where
the row was folded. -/
def rowTo (row dst : Nat) (bytes : List Byte) (bad : List (Nat × Nat)) (src parts : List (Nat × Nat × Nat)) : RowFlight where
  row := row
  dst := dst
  puts := partPuts bytes parts
  poison := (parts.flatMap fun p => badUnits bad p.1 p.2.1 p.2.2).eraseDups
  bytes := bytes
  bad := bad
  src := src
  parts := parts

/-- A row with bytes of its own read again, of which nothing has been stored yet. -/
def RowFlight.withBytes (f : RowFlight) (bs : List Byte) : RowFlight := { f with bytes := bs, puts := partPuts bs f.parts }

/-- The bytes of a row with the source units that a choice names read again by die `d`, in every part of the row from its first unit on
(04 R111, R113; log entry 61). -/
def RowFlight.reread (f : RowFlight) (st : Store) (d : Die) (mask : Nat) : List Byte :=
  f.src.foldl (fun bs p =>
    bs.take p.2.1 ++ st.reread d p.1 mask ((bs.drop p.2.1).take p.2.2) ++ bs.drop (p.2.1 + p.2.2)) f.bytes

/-- What a copy carries: bytes, in the row's order, and their poisoned ranges. -/
structure RowData where
  bytes : List Byte
  bad : List (Nat × Nat)

/-- Reads parts of memory into a row, sensing their errors (03 R85, R87; 11 R248). -/
def State.readRow (s : State) (parts : List (Nat × Nat × Nat)) : State × RowData :=
  let d := dieOf s.cur
  let s1 := parts.foldl (fun (t : State) p =>
    ((t.senseFor d p.1 p.2.2).trafficRead d (reqOf s.cur) p.1 p.2.2).modStore fun st => st.askFills d p.1 p.2.2) s
  (s1, { bytes := parts.flatMap fun p => s1.store.view d p.1 p.2.2
         bad := parts.flatMap fun p => s1.store.badBytes d p.1 p.2.2 p.2.1 })

/-- The fill of `n` bytes (11 R246). -/
def Layout.fillBytes (y : Layout) (n : Nat) : List Byte :=
  (List.range (n / y.z)).flatMap fun _ => leBytes y.z y.fill

/-- A row whose poisoned bytes are replaced by free values: fold computes with them, and 03 R86 states no value (log entry 4). -/
def State.freeBytes (s : State) (d : RowData) : State × List Byte :=
  if d.bad.isEmpty then (s, d.bytes)
  else
    ({ s with free := s.free + d.bytes.length },
      (List.range d.bytes.length).map fun i =>
        if d.bad.any fun p => decide (p.1 ≤ i) && decide (i < p.2) then (Config.freeWord (s.free + i)).setWidth 8
        else d.bytes.getD i 0)

/-- The bytes of the smoothing vector, the tensor scale included (11 R253). -/
def CopyOp.smoothLen (c : CopyOp) : Nat :=
  4 * foldChannels c.lay.format c.rowLen + (if foldTensor c.lay.format then 4 else 0)

/-- The smoothing vector's check (11 R253). DESIGN CHOICE: where SMOOTH fails both, alignment comes before the scratchpad reservation, with
SMOOTH as TVAL; the spec gives 1.6 and 1.3 no order (log entry 65). -/
def State.smoothFault (s : State) (c : CopyOp) : Option Nat :=
  if c.lay.smooth % 4 ≠ 0 then some 6
  else if s.here.windowSize 0 < c.lay.smooth + c.smoothLen then some 3
  else none

/-- Folds a row with the smoothing vector of the copying bank's scratchpad (11 R253). DESIGN CHOICE: a poisoned unit of the vector is a free
value and neither poisons the row nor stops the copy; the spec does not say what it does (log entries 4, 65). -/
def State.foldWith (s : State) (c : CopyOp) (d : RowData) : State × RowData :=
  let p := s.readRow [(s.here.windowBase s.cur 0 + c.lay.smooth, 0, c.smoothLen)]
  let v := p.1.freeBytes p.2
  let r := v.1.freeBytes d
  let fp (k : Nat) : Num := fmtFp32.value (leNat ((v.2.drop (4 * k)).take 4))
  (r.1, { d with bytes := foldRow c.lay.format fp (fp (foldChannels c.lay.format c.rowLen)) r.2 })

/-! ### The issue of a row (11 R248, R249) -/

/-- Writes the record of a copy. -/
def Bank.setCopy (b : Bank) (c : CopyOp) : Bank :=
  if b.copies.any fun k => k.uid == c.uid then
    { b with copies := b.copies.map fun (k : CopyOp) => if k.uid = c.uid then c else k }
  else { b with copies := b.copies ++ [c] }

/-- The arrival of a copy at its barrier, a BARARV of one at scope cluster; a poisoned barrier stays as it is
(11 R251; 10 R234; 03 R86). -/
def State.arrive (s : State) (n : BankId) (c : CopyOp) : State :=
  let l := clusterBase (clusterOf n) + c.lay.barOff
  let s1 := s.sense l 16
  if s1.store.anyBad l 16 then s1
  else s1.modStore fun st =>
    st.put (dieOf n) (l + 4) (barArrive ((List.range 16).map fun k => st.homeByte (l + k)) 1)

/-- What follows once rows of a copy that has left its queue have landed: the arrival of every destination that has all of
its rows, and, with every row landed, the end of the copy, whose operation may then complete (11 R251; 04 R97). -/
def State.settleCopy (s : State) (n : BankId) (uid : Nat) : State :=
  match (s.bank n).copies.find? fun c => c.uid == uid with
  | none => s
  | some c =>
    if ((s.bank n).queue c.eng).any fun x => x.uid == uid then s
    else
      let due := if c.lay.barEn then c.dsts.filter fun d => !c.arrivals.contains d && !c.flights.any fun f => f.dst == d else []
      let s1 := due.foldl (fun (t : State) _ => t.arrive n c) s
      s1.modBank n fun b =>
        if c.flights.isEmpty then
          { b with
            copies := b.copies.filter fun k => k.uid != uid
            ops := b.ops.map fun (o : Op) => if o.uid = uid then { o with waiting := false } else o }
        else b.setCopy { c with arrivals := c.arrivals ++ due }

/-- The row of a copy issues: the copy takes its stream count with its first row, keeps its head until its last, and stops
with 1.9 after a row that carried poison under POISONPASS = 0 (11 R249, R256; 03 R87; 04 R97). In the drain of another cut its entry keeps
the offset, and the copy stops as it goes on (17 R358). -/
def State.rowIssued (s : State) (w : CopyWord) (x : Entry) (c : CopyOp) (first : Bool) (fs : List RowFlight) (o : Nat) : State :=
  let u := usesOf w.i
  let c1 : CopyOp := { c with cursor := c.cursor + 1, flights := c.flights ++ fs.map fun f => { f with sent := s.time } }
  let y : Entry := { x with popped := true, alloc := .none }
  let s1 := s.modBank s.cur fun b =>
    let b1 := if first then b.issue c.eng u x
        { opOf c.eng u x [] [] [] with waiting := true, fabric := regionOf c.cap.h.loc = .fabric }
      else b
    b1.setCopy c1
  if !c.lay.poisonPass && fs.any fun f => !f.poison.isEmpty then
    (if s.here.cut.isSome then s1.hold c.eng { y with answer := some (BitVec.ofNat 64 o) } else s1.raiseMem c.eng 9 y o)
  else if c.rows ≤ c1.cursor then s1.settleCopy s.cur c.uid
  else s1.hold c.eng y

/-- The row's data arrive from the tensor or from local storage and set out to every destination (11 R246, R248). Units of them may be
read again as the row lands (04 R113; log entry 61). -/
def State.sendRow (s : State) (w : CopyWord) (x : Entry) (c : CopyOp) (first : Bool) : State :=
  let r := c.cursor
  let runs := c.runs r
  let pieces := c.pieces r
  let o := match runs with | q :: _ => q.o | [] => c.la.toNat
  let through := runs.map fun q => (c.cap.h.loc + q.o, q.pos, q.n)
  if c.isIn then
    let p := s.readRow through
    let d := { p.2 with bytes := p.2.bytes ++ c.lay.fillBytes (c.rowLen - p.2.bytes.length) }
    let q := if c.lay.fold && !runs.isEmpty then p.1.foldWith c d else (p.1, d)
    let fs := c.dsts.map fun k =>
      let base := (s.copyPlace s.cur c.lvl k).1
      rowTo r k q.2.bytes q.2.bad (if c.lay.fold then [] else through) (pieces.map fun g => (base + g.a, g.pos, g.n))
    q.1.rowIssued w x c first fs o
  else
    let base := (s.copyPlace s.cur c.lvl ((coreOf s.cur).val % 8)).1
    let src := if runs.isEmpty then [] else pieces.map fun g => (base + g.a, g.pos, g.n)
    let p := s.readRow src
    p.1.rowIssued w x c first [rowTo r ((coreOf s.cur).val % 8) p.2.bytes p.2.bad src through] o

/-- The lines that a row writes through its handle (02 R62). -/
def Store.runLines (st : Store) (loc : Nat) (runs : List Run) : List Nat :=
  (runs.flatMap fun r => linesOf (st.resolve (loc + r.o)) r.n).eraseDups

/-- One row of a copy at its head: the local checks, the check of its in-extent elements, the allocation answer of an
unbacked destination, and its issue (11 R245-R249, R253; 02 R62). -/
def State.copyRow (s : State) (w : CopyWord) (x : Entry) (c : CopyOp) (first : Bool) : State :=
  let r := c.cursor
  let runs := c.runs r
  let tv := c.la.toNat + r * c.lay.pitch
  let x : Entry := if c.gs then { x with idxs := c.idxs } else x
  let beyond := c.dsts.any fun k =>
    let size := (s.copyPlace s.cur c.lvl k).2
    (c.pieces r).any fun g => decide (size < g.a + g.n)
  match runs with
  | [] =>
    if !c.isIn then s.sendRow w x c first
    else if c.la.toNat % 8 ≠ 0 then s.raiseMem c.eng 6 x tv
    else if beyond then s.raiseMem c.eng 3 x tv
    else s.sendRow w x c first
  | q :: _ =>
    if c.la.toNat % 8 ≠ 0 then s.raiseMem c.eng 6 x tv
    else if beyond then s.raiseMem c.eng 3 x tv
    else match x.check (c.cap.checkRuns c.isIn (!c.isIn) c.lay.z runs) with
      | .wait => s.hold c.eng x
      | .fail k => s.raiseMem c.eng k x q.o
      | .pass => s.atHome c.eng x c.cap (c.cap.h.loc + q.o) fun s x =>
        if c.lay.fold && (s.smoothFault c).isSome then
          s.raiseMem c.eng ((s.smoothFault c).getD 3) x c.lay.smooth
        else if !c.isIn && c.cap.h.unbacked && decide (2 ^ 48 ≤ s.store.resolve (c.cap.h.loc + q.o)) then
          match x.alloc with
          | .none | .arrived => s.hold c.eng { x with alloc := .asked q.o (s.store.runLines c.cap.h.loc runs) }
          | .asked .. | .late _ => s.hold c.eng x
          | .granted => s.sendRow w x c first
        else s.sendRow w x c first

/-- The request entries of a row: one for each of its pieces of at most 256 bytes (11 R249). -/
def CopyOp.rowPieces (c : CopyOp) : Nat := max 1 ((c.rowLen + 255) / 256)

/-- The copies of a core that have issued and not completed: at most 16 (11 R249). DESIGN CHOICE: a copy of a bank that is switched out counts,
though none of its rows is in flight; the spec does not say (log entry 65). -/
def State.copiesInFlight (s : State) : Nat := s.here.copies.length + (s.bank (otherBank s.cur)).copies.length

/-- A copy word at its head: it waits, fails its layout check, or issues its next row (11 R247-R249, R256). -/
def State.copyStep (s : State) (w : CopyWord) : State :=
  let p := s.begin w.i
  let x := p.1
  let s := p.2
  let b := s.here
  let u := usesOf w.i
  let e := u.eng.getD .L
  match x.cap, x.lay with
  | some cap, some y =>
    match b.copies.find? fun c => c.uid == x.uid with
    | some c =>
      if b.cut.isSome && !x.mayFinish then s.hold e x
      else if x.answer.isSome then s.raiseMem e 9 { x with answer := none } (x.answer.getD 0).toNat
      else if c.rows ≤ c.cursor then s.settleCopy s.cur x.uid
      else if !s.hasRequests x c.rowPieces then s.hold e x
      else s.copyRow w x { c with cap := cap } false
    | none =>
      match s.lwGate e u x [] true with
      | .wait => s.lwWait e x .wait
      | .exhausted => s.lwWait e x .exhausted
      | .go =>
        if 16 ≤ s.copiesInFlight then s.lwWait e x .wait
        else
          let c := s.newCopy e w x cap y
          let gang := match b.task with | some t => t.gang | none => false
          match c.layoutFault (x.caps.getD 2 0).toNat gang with
          | some (reason, field) =>
            s.raise { group := 5, kind := 1, engine := e } x (BitVec.ofNat 64 (reason + 2 ^ 8 * field))
          | none => if s.hasRequests x c.rowPieces then s.copyRow w { x with full := false } c true else s.lwWait e x .wait
  | _, _ => s.hold e x

/-- CPIN (11 R248). -/
def execCpin (a : CopyW) (s : State) : Out :=
  .next (s.copyStep { i := .cpin a, isIn := true, lvl := a.lvl.toNat, index := none })
/-- CPOUT (11 R248). -/
def execCpout (a : CopyW) (s : State) : Out :=
  .next (s.copyStep { i := .cpout a, isIn := false, lvl := a.lvl.toNat, index := none })
/-- CPGATHER (11 R254, R255). -/
def execCpgather (a : GatherW) (s : State) : Out :=
  .next (s.copyStep { i := .cpgather a, isIn := true, lvl := 0, index := some (a.vi, a.cnt.toNat + 1) })
/-- CPSCATTER (11 R254, R255). -/
def execCpscatter (a : GatherW) (s : State) : Out :=
  .next (s.copyStep { i := .cpscatter a, isIn := false, lvl := 0, index := some (a.vi, a.cnt.toNat + 1) })

/-! ### Events -/

/-- The copy word that stands at the head of an engine and has issued a row. -/
def Bank.copyAtHead (b : Bank) (e : Engine) : Option (CopyWord × Entry × List Entry) :=
  match b.queue e with
  | [] => none
  | x :: rest =>
    match x.what with
    | .word i => if b.copies.any fun c => c.uid == x.uid then (copyWord i).map fun w => (w, x, rest) else none
    | .illegal .. | .fetchFault _ | .rotate _ => none

/-- COPY_ROW_ISSUE: the next row of the copy at the head of an engine is checked and issues, while its bank executes and is not cut (11
R249, R256). -/
def execCopyRowIssue (n : BankId) (e : Engine) (s : State) : Out :=
  match (s.bank n).copyAtHead e with
  | none => .next s
  | some (w, x, rest) =>
    if (s.bank n).status = .running ∧ (s.bank n).cut = none ∧ (s.bank n).stopped = false then
      .next (({ s.modBank n fun b => b.setQueue e rest with cur := n, active := some x } : State).copyStep w)
    else .next s

/-- A row arrives where it goes: what is left of its bytes is stored, and its poisoned units are poison there (03 R87; 11 R248). -/
def Store.landRow (st : Store) (d : Die) (f : RowFlight) : Store :=
  if f.poison.isEmpty then f.puts.foldl (fun (t : Store) p => t.perform d p) st
  else st.putBad d f.poison (f.puts.flatMap Put.left)

/-- What has issued on the objects that the poison of a row reaches is performed before it. -/
def State.beforePoison (s : State) (us : List Nat) : State :=
  us.foldl (fun (t : State) u => t.performFirst (t.store.resolve (u * 8)) 8) s

/-- The flights of a copy with a row about to land at the first of its destinations: source units that a choice names are read again,
for all of the destinations together (04 R111, R113; 11 R249; log entry 61). -/
def CopyOp.rereadRow (c : CopyOp) (st : Store) (d : Die) (f : RowFlight) (mask : Nat) : List RowFlight :=
  let row := c.flights.filter fun g => g.row == f.row
  if f.src.isEmpty || row.length < c.dsts.length || row.any fun g => g.puts.any fun p => p.did != 0 then c.flights
  else
    let bs := f.reread st d mask
    c.flights.map fun g => if g.row = f.row then g.withBytes bs else g

/-- One row of a copy lands at one of its destinations, which a choice picks (04 R114; 11 R248, R250; log entry 61). -/
def State.landRow (s0 : State) (n : BankId) (uid : Nat) (p : RowFlight → Bool) : State :=
  match (s0.bank n).copies.find? fun c => c.uid == uid with
  | none => s0
  | some c =>
    let may := c.flights.filter p
    let k := s0.choose
    match may[k.1 % max 1 may.length]? with
    | none => s0
    | some g =>
      let m := k.2.choose
      let s := m.2
      let fs := c.rereadRow s.store (dieOf n) g m.1
      match takeFirst (fun (f : RowFlight) => f.row == g.row && f.dst == g.dst) fs with
      | none => s
      | some (f, rest) =>
        let d := dieOf n
        let s0 := if m.1 = 0 ∨ f.src.isEmpty then s else s.modStore fun st => f.src.foldl (fun st p => st.askFills d p.1 p.2.2) st
        let s1 := f.puts.foldl (fun (t : State) p =>
          p.left.foldl (fun (t : State) q => (t.senseMerge d q.1 q.2.length).trafficStore d (reqOf n) q.1 q.2.length) t) s0
        let s2 := (s1.beforePoison f.poison).modStore fun st =>
          (if rest.isEmpty then st.leaveArrival n uid else st).landRow d f
        (s2.modBank n fun b => b.setCopy { c with flights := rest }).settleCopy n uid

/-- Open unit `k` of the rows of a copy that are in flight is stored before the rest of its row (04 R113, R116; 05 R135; log entry 61). -/
def State.rowPart (s : State) (n : BankId) (uid k : Nat) : State :=
  match (s.bank n).copies.find? fun c => c.uid == uid with
  | none => s
  | some c =>
    match (c.flights.zipIdx.flatMap fun f => (openUnits f.1.puts).zipIdx.map fun u => (f.2, f.1, u.2))[k]? with
    | none => s
    | some (i, f, j) =>
      if f.puts.any fun p => s.store.locked p.loc then s
      else
        let u := ((openUnits f.puts).map fun u => u.2.2.1 / 8).getD j 0
        let bad := f.poison.contains u && decide ((s.putPart n [] f.puts j).2 ≠ f.puts)
        let p := (if bad then s.beforePoison [u] else s).putPart n (if bad then [u] else []) f.puts j
        let t := p.1
        t.modBank n fun b => b.setCopy { c with flights := c.flights.modify i fun g =>
          { g with puts := p.2, poison := if bad then g.poison.filter (· != u) else g.poison } }

/-- COPY_ROW_LAND: a row lands at a destination; a row for a page that is being converted waits (11 R248; 02 R52). -/
def execCopyRowLand (n : BankId) (uid row : Nat) (s : State) : Out :=
  .next (s.landRow n uid fun f => f.row == row && !f.puts.any fun p => s.store.locked p.loc)

end Sys2Proof.Machine
end

