-- ==== Sys2Proof/Machine/Pages.lean ====
section
/-! DEFINITION. Unbacked pages (02): DISCARD, WBACK, PGRSV, PGREL, PGMIG, the answer to an allocation request, late-frame
conversion, pools, and changes of the page tables. -/

namespace Sys2Proof.Machine

open Sys2Proof

/-! ### Ranges of lines -/

/-- DISCARD of `n` bytes at a location, in whole lines: unbacked lines become absent; on a page that has become backed it is
a store of zeros (02 R57). -/
def Store.discard (st : Store) (d : Die) (l n : Nat) : Store :=
  let r := st.resolve l
  let st1 := st.dropCopies d l n
  if 2 ^ 48 ≤ r then ((st1.linesIn r n).foldl (fun st p => st.dropLine p.1) st1).retest r n
  else (List.range (n / 128)).foldl (fun st k => st.put d (r + 128 * k) (List.replicate 128 0)) st1

/-- WBACK of `n` bytes at a location: every dirty line of the range reaches HBM and is clean (02 R58). -/
def Store.wback (st : Store) (d : Die) (l n : Nat) : Store :=
  (st.dropCopies d l n).writeBack (st.dirty.filter fun x => decide (l / 128 ≤ x) && decide (x * 128 < l + n))

/-! ### The page instructions (02 R55-R61) -/

/-- The gate and the checks of a page instruction: those of 01 R28 up to the rights, then its own, whose first failure is
a kind (02 R56). Once they are passed it waits at the home of a locked page as an access does (02 R52, R65). -/
def State.pageAccess (s : State) (i : Instr) (own : Entry → Capture → Option Nat) (n : Entry → Nat)
    (go : State → Entry → Capture → State) : State :=
  let p := s.begin i
  let x := p.1
  let s := p.2
  match x.cap with
  | none => s.hold .W x
  | some c =>
    let o := if (usesOf i).reads.length = 2 then (x.caps.getD 0 0).toNat else 0
    let g := s.lwGate .W (usesOf i) x (s.store.blocks (c.h.loc + o) (n x)) true
    if g ≠ .go then s.lwWait .W x g
    else
      let x := { x with full := false }
      match x.check (({ c with h := { c.h with isLocal := false } } : Capture).check false true true 0 0) with
      | .wait => s.hold .W x
      | .fail k => s.raiseMem .W k x o
      | .pass =>
        match (if x.alloc = .none then own x c else none) with
        | some k => s.raiseMem .W k x o
        | none => s.atHome .W x c c.h.loc fun s x => go s x c

/-- The own checks of DISCARD and WBACK: the kind of page, alignment to lines, the bound (02 R56). -/
def rangeChecks (unbacked : Bool) (x : Entry) (c : Capture) : Option Nat :=
  let o := (x.caps.getD 0 0).toNat
  let n := (x.caps.getD 1 0).toNat
  if c.h.isLocal || c.h.unbacked != unbacked then some 12
  else if o % 128 ≠ 0 ∨ n % 128 ≠ 0 then some 6
  else if c.h.extent.toNat < o + n then some 3
  else none

/-- A page instruction issues with its result. -/
def State.issuePage (s : State) (i : Instr) (x : Entry) (blocks : List Nat) (loads : List RegW) (waiting : Bool) : State :=
  let u := usesOf i
  s.modBank s.cur fun b => b.issue .W u x { opOf .W u x blocks loads [] with waiting := waiting }

/-- The effect of DISCARD or WBACK on the storage, by an agent of a bank; what has issued on objects in the lines of a DISCARD comes before
it (02 R57, R58, R65). -/
def State.rangeDone (s : State) (b : BankId) (i : Instr) (l n : Nat) : State :=
  match i with
  | .discard _ => ((s.traffic (reqOf b) 3 l n).performFirst (s.store.resolve l) n).modStore fun st => st.discard (dieOf b) l n
  | .wback _ => ((s.senseDirty l n).traffic (reqOf b) 4 l n).modStore fun st => st.wback (dieOf b) l n
  | _ => s

/-- A word over a range of whole lines of its page, performed as it issues or, by a choice, as it completes (02 R57, R58; 04 R96, R97;
log entry 61). -/
def State.rangeWord (s : State) (i : Instr) (unbacked : Bool) : State :=
  s.pageAccess i (rangeChecks unbacked) (fun x => (x.caps.getD 1 0).toNat) fun s x c =>
    let l := c.h.loc + (x.caps.getD 0 0).toNat
    let n := (x.caps.getD 1 0).toNat
    let k := s.choose
    let t := if k.1.testBit 0 then k.2 else k.2.rangeDone s.cur i l n
    t.modBank s.cur fun b => b.issue .W (usesOf i) x
      { opOf .W (usesOf i) x (s.store.blocks l n) [] [] with pend := k.1.testBit 0 }

/-- DISCARD (02 R57). -/
def execDiscard (a : PageR) (s : State) : Out := .next (s.rangeWord (.discard a) true)
/-- WBACK (02 R58). -/
def execWback (a : PageR) (s : State) : Out := .next (s.rangeWord (.wback a) false)

/-- The own check of PGRSV, PGREL and PGMIG: an unbacked page (02 R56). -/
def unbackedCheck (_ : Entry) (c : Capture) : Option Nat := if c.h.isLocal || !c.h.unbacked then some 12 else none

/-- The state of the pool of an unbacked location: its LIMIT, R and P. -/
def Store.poolCounts (st : Store) (l : Nat) : Nat × Nat × Nat :=
  match st.pool (dieOfLoc l) (poolOfLoc l) with
  | some p => (p.limit, p.r, p.p)
  | none => (0, 0, 0)

/-- PGRSV, PGREL and PGMIG reach no block of storage. DESIGN CHOICE: 04 R98 names the 128-byte blocks that an operation reaches and does not
say whether a page's are reached by the words that reserve for it or move it, so that a load ordered after a PGMIG is not held until that
completes (log entry 67). -/
def pageBlocks : List Nat := []

/-- PGRSV: reserves lines in the page's pool: 1.11.W past the pool's limit, status 1 past the die's capacity (02 R59). -/
def execPgrsv (a : PageP) (s : State) : Out :=
  .next (s.pageAccess (.pgrsv a) unbackedCheck (fun _ => 0) fun s x c =>
    let n := (x.caps.getD 0 0).toNat
    let l := c.h.loc
    let d := dieOfLoc l
    let k := s.store.poolCounts l
    if k.1 < k.2.1 + n then s.raiseMem .W 11 x 0
    else if s.store.capacity d < s.store.reservedOn d + n then s.issuePage (.pgrsv a) x pageBlocks [.s a.res 1] false
    else (s.modStore fun st => st.modPool d (poolOfLoc l) fun p => { p with r := p.r + n }).issuePage (.pgrsv a) x pageBlocks
      [.s a.res 0] false)

/-- PGREL: releases reserved lines that are not pinned (02 R59). -/
def execPgrel (a : PageP) (s : State) : Out :=
  .next (s.pageAccess (.pgrel a) unbackedCheck (fun _ => 0) fun s x c =>
    let l := c.h.loc
    let k := s.store.poolCounts l
    let n := min (x.caps.getD 0 0).toNat (k.2.1 - k.2.2)
    (s.modStore fun st => st.modPool (dieOfLoc l) (poolOfLoc l) fun p => { p with r := p.r - n }).issuePage (.pgrel a) x pageBlocks
      [.s a.res (BitVec.ofNat 64 n)] false)

/-! ### Moving a page (02 R52, R60) -/

/-- The unbacked lines of a page moved to another unbacked place (02 R60 step 2). DESIGN CHOICE: the spec does not say what becomes of
lines that the target pool holds under the same page number already; they become absent first (log entry 63). -/
def Store.toUnbacked (st0 : Store) (l n dst : Nat) : Store :=
  let st := (st0.linesIn dst n).foldl (fun st p => st.dropLine p.1) st0
  let ls := st.linesIn l n
  let m := st.pinnedIn l n
  let st1 := { st with mem := st.mem.copy l n dst, ecc := copyEcc st.ecc l n dst }
  let st2 := ls.foldl (fun st p => st.dropLine p.1) st1
  let st3 := { st2 with lines := ls.map (fun (p : Nat × LineSt) => (p.1 - l / 128 + dst / 128, p.2)) ++ st2.lines }
  st3.modPool (dieOfLoc dst) (poolOfLoc dst) fun p => { p with p := p.p + m }

/-- An unbacked leaf with a new home and pool, GEN counted up (02 R60 step 4). -/
def leafMoved (e : Word) (home pool : Nat) : Word :=
  let g := (leafGenUp e).toNat
  BitVec.ofNat 64 (g / 2 ^ 23 * 2 ^ 23 + pool % 256 * 2 ^ 15 + g / 2 ^ 9 % 64 * 2 ^ 9 + home % 4 * 2 ^ 7 + g % 2 ^ 7)

/-- PGMIG: moves an unbacked page to a pool of another die; it completes when its invalidation does (02 R60, Table 2.5). -/
def execPgmig (a : PageP) (s : State) : Out :=
  .next (s.pageAccess (.pgmig a) unbackedCheck (fun _ => 0) fun s x c =>
    let st := (x.caps.getD 0 0).toNat
    let td : Die := Fin.ofNat 4 (st % 4)
    let tp := st / 256 % 256
    let asn := s.here.asn
    let owned := match s.store.pool td tp with | some p => p.owner == asn | none => false
    let n := c.h.extent.toNat
    let l := s.store.resolve c.h.loc
    let issue (s : State) (r : Word) (w : Bool) : State := s.issuePage (.pgmig a) x pageBlocks [.s a.res r] w
    if st % 256 / 4 ≠ 0 ∨ 2 ^ 16 ≤ st ∨ !owned then s.raiseMem .W 11 x 0
    else if l < 2 ^ 48 then issue s 3 false
    else if dieOfLoc l = td ∧ poolOfLoc l = tp then issue s 1 false
    else
      let m := s.store.pinnedIn l n
      let va := c.h.base.toNat
      let dst := unbackedLoc td.val tp (upnOfLoc l)
      let room := match s.store.pool td tp with | some p => decide (p.p + m ≤ p.r) | none => false
      if room then
        issue (((s.senseRange l n).modStore fun st => st.toUnbacked l n dst).finishMove asn va l n dst none (fun e => leafMoved e td.val tp)
          (some (s.cur, x.uid))) 0 true
      else if !c.h.lf then s.raiseMem .W 10 x 0
      else match (s.store.pool td tp).bind fun p => p.takeFrame n with
        | none => s.raiseMem .W 14 x 0
        | some (f, p') =>
          issue ((((s.senseRange l n).modStore fun st => (st.modPool td tp fun _ => p').toFrame l n f).frameTraffic f n).finishMove asn va l n f
            (some (td, tp)) (fun e => leafBacked e f td.val) (some (s.cur, x.uid))) 2 true)

/-! ### Allocation (02 R48-R53) -/

/-- The W head of a bank, taken from its queue to act for it. -/
def State.takeW (s : State) (b : BankId) : Option (Entry × State) :=
  let x := s.bank b
  match x.qW with
  | y :: rest => some (y, { s.setBank b { x with qW := rest } with cur := b })
  | [] => none

/-- Lines pinned together; a line that was not pinned holds zeros (02 R44, R48). -/
def Store.pin (st : Store) (lines : List Nat) : Store :=
  lines.foldl (fun st x =>
    if st.lineSt x = some .pinned then st
    else
      let st1 := st.setLine x (some .pinned)
      { st1 with mem := st1.mem.clear (x * 128) 128, ecc := st1.ecc.filter fun q => q.1 / 16 != x }.modPool
        (dieOfLine x) (poolOfLine x) fun p => { p with p := p.p + 1 }) st

/-- A refused access takes its cause, or in a drain is saved as not issued (02 R51, R53; 17 R359). -/
def State.refuse (s0 : State) (x : Entry) (kind o : Nat) : State :=
  let s := s0.modStore fun st => st.leaveArrival s0.cur x.uid
  let y := { x with alloc := .none }
  if s.here.cut.isSome then s.hold .W y else s.raiseMem .W kind y o

/-- The home L2 locks a page as it refuses the request of a bank. The requests of other banks for the page that it has not answered
wait there (02 R52). -/
def State.lockPage (s : State) (b : BankId) (uid loc n : Nat) : State :=
  let asked (p : Bank × Nat) : Option Arrival := match p.1.qW with
    | y :: _ =>
      let m : BankId := Fin.ofNat 576 p.2
      match y.alloc, y.cap with
      | .asked .., some c =>
        if m == b || c.h.loc != loc || s.store.arrivals.any (fun a => a.bank == m && a.uid == y.uid) then none
        else some { bank := m, eng := .W, uid := y.uid, page := loc, len := n }
      | _, _ => none
    | [] => none
  (s.modStore fun st => st.leaveArrival b uid).modStore fun st => { st with
    locks := st.locks ++ [(loc, n)]
    arrivals := st.arrivals ++ s.banks.toList.zipIdx.filterMap asked }

/-- ALLOCATION_ANSWER: the home L2 answers the request of a W head: a hit or a grant lets the access issue; a refusal is
cause 1.10.W under LF = 0 and locks the page for its conversion under LF = 1. A request for a locked page waits, and then for those that
came before it; one that has been forwarded to a frame needs no line (02 R48-R53). -/
def execAllocationAnswer (b : BankId) (s : State) : Out :=
  match s.takeW b with
  | none => .next s
  | some (x, t) =>
    match x.alloc, x.cap with
    | .asked o lines, some c =>
      let l := c.h.loc + o
      if s.store.locked c.h.loc then .next s
      else if s.store.resolve l < 2 ^ 48 then .next (t.hold .W { x with alloc := .granted })
      else
        let shift (k : Nat) : Nat := k + s.store.resolve l / 128 - lines.headD 0
        let ls := lines.map shift
        let need := (ls.filter fun k => s.store.lineSt k != some .pinned).length
        let k := s.store.poolCounts (s.store.resolve l)
        if s.store.behindArrival b x.uid l then .next s
        else if k.2.2 + need ≤ k.2.1 ∨ need = 0 then
          .next ((t.modStore fun st => st.pin ls).hold .W { x with alloc := .granted })
        else if c.h.lf then
          .next ((t.lockPage b x.uid c.h.loc c.h.extent.toNat).hold .W { x with alloc := .late o })
        else .next (t.refuse x 10 o)
    | _, _ => .next s

/-- The page is unlocked (02 R52 step 6, R53). -/
def Store.unlock (st : Store) (l : Nat) : Store := { st with locks := st.locks.filter fun p => p.1 != l }

/-- The refused access is performed on the frame after all that waited for it (02 R52 step 6). -/
def Store.lastArrival (st : Store) (b : BankId) (uid page n : Nat) : Store :=
  { st with arrivals := st.arrivals ++ [{ bank := b, eng := .W, uid := uid, page := page, len := n }] }

/-- LATE_FRAME_CONVERSION: the page of a refused W head becomes a backed page on a frame of its pool's late reserve, and the
access may issue after those that waited; an empty reserve is cause 1.14.W, with the page unbacked and unlocked (02 R52, R53). -/
def execLateFrameConversion (b : BankId) (s : State) : Out :=
  match s.takeW b with
  | none => .next s
  | some (x, t) =>
    match x.alloc, x.cap with
    | .late o, some c =>
      let n := c.h.extent.toNat
      let l := s.store.resolve c.h.loc
      let d := dieOfLoc l
      let pn := poolOfLoc l
      if l < 2 ^ 48 then .next ((t.modStore fun st => st.unlock c.h.loc).hold .W { x with alloc := .granted })
      else match (s.store.pool d pn).bind fun p => p.takeFrame n with
        | none => .next ((t.modStore fun st => st.unlock c.h.loc).refuse x 14 o)
        | some (f, p') =>
          let t1 := ((t.senseRange l n).modStore fun st => ((st.modPool d pn fun _ => p').toFrame l n f).unlock c.h.loc).frameTraffic f n
          let t2 := t1.finishMove (t.bank b).asn c.h.base.toNat l n f (some (d, pn)) (fun e => leafBacked e f (leafHome e)) none
          let named := t1.xl.next != t2.xl.next
          let t3 := t2.modStore fun st => (st.modPool d pn fun p => if named then { p with nlate := p.nlate + 1 } else p).lastArrival b x.uid c.h.loc n
          .next (t3.hold .W { x with alloc := .granted })
    | _, _ => .next s

/-! ### Pools (02 R46, R50, R54, R429) -/

/-- The pages of a pool that hold pinned lines, by pool page number of 64 KiB, in rising order. -/
def Store.pinnedPages (st : Store) (d : Die) (pool : Nat) : List Nat :=
  sortBy (fun a b => decide (a ≤ b))
    (((st.lines.filter fun p => p.2 == .pinned && dieOfLine p.1 == d && poolOfLine p.1 == pool).map
      fun p => upnOfLoc (p.1 * 128)).eraseDups)

/-- One page leaves under teardown: converted to a late frame where its leaf has LF = 1 and the reserve holds a frame, else
its pinned lines become lost (02 R50, R53, R54). -/
def State.tearPage (s : State) (d : Die) (pool upn : Nat) : State :=
  let l := unbackedLoc d.val pool upn
  let lose (s : State) (l n : Nat) : State := (s.store.linesIn l n).foldl (fun (t : State) p => t.loseLine p.1 Store.lose) s
  match s.leafNaming l with
  | none => lose s l 0x10000
  | some r => (s.convertLate r).getD (lose s (leafLoc r.e) (pageSize r.big))

/-- Pages leave, in rising order, until no more lines are pinned than the limit (02 R50; log entry 11). -/
def State.tearDown (s : State) (d : Die) (pool limit : Nat) : List Nat → State
  | [] => s
  | u :: us =>
    match s.store.pool d pool with
    | none => s
    | some p => if p.p ≤ limit then s else (s.tearPage d pool u).tearDown d pool limit us

/-- A pool's LIMIT is set, its pinned lines above it leave, and R is at most LIMIT (02 R46, R47, R50). -/
def State.setLimit (s : State) (d : Die) (pool limit : Nat) : State :=
  let s1 := s.modStore fun st => st.modPool d pool fun p => { p with limit := limit }
  let s2 := s1.tearDown d pool limit (s1.store.pinnedPages d pool)
  s2.modStore fun st => st.modPool d pool fun p => { p with r := min p.r limit }

/-- The code of a refused mailbox request. -/
def refusedCode : Nat := 4

/-- The state of a pool is reported to hosts: LIMIT, R, P, the late reserve and the counts (02 R46). DESIGN CHOICE: that is as the pool is
created, its LIMIT set, and it is withdrawn; the spec does not say when (log entry 65). -/
def State.reportPool (s : State) (d : Die) (n : Nat) : State :=
  match s.store.pool d n with
  | some p => s.report (.poolState d p.num p.owner [p.limit, p.r, p.p, p.late64.length, p.late256.length, p.nlate.toNat, p.nlost.toNat])
  | none => s

/-- The frames of a late reserve are whole frames of the pool's home die, none of them retired (02 Table 2.1; 20 R416). -/
def State.reserveOk (s : State) (d : Die) (big : Bool) (fs : List Nat) : Bool :=
  fs.all fun f => regionOf f == .hbm d && f % pageSize big == 0 && !s.frameRetired f (pageSize big)

/-- POOL_CREATE: a new pool under a number that is free, its LIMIT at most the die's storage and its late reserve in the HBM of its
home die; its frames are free no more (02 R46, R47; 20 R417). -/
def execPoolCreate (d : Die) (pool : BitVec 8) (parms : PoolParms) (s : State) : Out :=
  if (s.store.pool d pool.toNat).isSome || decide (589824 < parms.limit) || !s.reserveOk d false parms.late64
      || !s.reserveOk d true parms.late256 then .next (s.report (.refused refusedCode))
  else .next (((s.modGaffer fun g => { g with
      free64 := g.free64.filter fun f => !parms.late64.contains f
      free256 := g.free256.filter fun f => !parms.late256.contains f }).modStore fun st => { st with pools := st.pools ++ [{
    die := d, num := pool, owner := parms.owner, limit := parms.limit, r := 0, p := 0
    late64 := parms.late64, late256 := parms.late256, nlate := 0, nlost := 0, withdrawn := false }] }).reportPool d pool.toNat)

/-- POOL_SET_LIMIT: a pool's LIMIT, with teardown where it falls below P (02 R46, R50). DESIGN CHOICE: a withdrawn pool that has not ended takes
a new LIMIT too, of which the spec does not speak (log entry 65). -/
def execPoolSetLimit (d : Die) (pool : BitVec 8) (limit : Nat) (s : State) : Out :=
  if (s.store.pool d pool.toNat).isNone || decide (589824 < limit) then .next (s.report (.refused refusedCode))
  else .next ((s.setLimit d pool.toNat limit).reportPool d pool.toNat)

/-- POOL_WITHDRAW: LIMIT becomes 0 and the pool's lines leave; the pool ends when no leaf names it (02 R429). -/
def execPoolWithdraw (d : Die) (pool : BitVec 8) (s : State) : Out :=
  if (s.store.pool d pool.toNat).isNone then .next (s.report (.refused refusedCode))
  else
    let s1 := (s.setLimit d pool.toNat 0).modStore fun st => st.modPool d pool.toNat fun p => { p with withdrawn := true }
    .next (s1.reportPool d pool.toNat).endPools

/-! ### Changes of the page tables (01 R19, R33; 02 R429, R430) -/

/-- The entry of a VA at a level, with its address, from a table of level `l`. -/
def Store.entryAt (st : Store) (va level : Nat) : Nat → Nat → Option (Nat × Word)
  | 0, _ => none
  | l + 1, table =>
    let a := table + 8 * (va / 2 ^ (16 + 12 * l) % 4096)
    let e := BitVec.ofNat 64 (st.homeNat a 8)
    if l + 1 = level then some (a, e)
    else match checkEntry (l + 1) e with
      | .table pa => st.entryAt va level l pa
      | .fault _ | .leaf => none

/-- An unbacked leaf must name a pool that the address space owns on the leaf's home die (02 R429). DESIGN CHOICE: a leaf is not written
either for a pool that has been withdrawn and has not ended; the spec does not say so (log entry 63). -/
def Store.poolAllowed (st : Store) (asn : BitVec 12) (e : Word) : Bool :=
  if e.getLsbD 0 && e.getLsbD 1 && leafU e then
    match st.pool (Fin.ofNat 4 (leafHome e)) (leafPool e) with
    | some p => p.owner == asn && !p.withdrawn
    | none => false
  else true

/-- The change of an entry of a level needs an invalidation: it removes a leaf or a table, narrows rights, moves the page, or changes U, LF or
POOL (01 R33). DESIGN CHOICE: an entry that becomes malformed is a removal of what it was, and one that was malformed removes nothing; the
spec speaks of neither (log entry 65). -/
def needsInvalidation (level : Nat) (old new : Word) : Bool :=
  match checkEntry level old, checkEntry level new with
  | .fault _, _ => false
  | .table pa, .table pa' => pa != pa'
  | .leaf, .leaf =>
    (fieldOf old 2 3 &&& fieldOf new 2 3) != fieldOf old 2 3 || fieldOf old 5 4 != fieldOf new 5 4
      || fieldOf old 15 33 != fieldOf new 15 33
  | .table _, _ | .leaf, _ => true

/-- The new entry as it is written: GEN counts up where a leaf remains in an invalidating change (01 R33). -/
def entryWritten (level : Nat) (old new : Word) : Word :=
  if needsInvalidation level old new && checkEntry level old == .leaf && checkEntry level new == .leaf then
    BitVec.ofNat 64 (new.toNat % 2 ^ 48 + (fieldOf old 48 8 + 1) % 256 * 2 ^ 48 + new.toNat / 2 ^ 56 * 2 ^ 56)
  else new

/-- The leaves that an entry at a level makes reachable (01 R16, R18). -/
def Store.leavesUnder (st : Store) (asn : BitVec 12) (va level : Nat) (e : Word) : List LeafRef :=
  match checkEntry level e with
  | .leaf => [{ asn := asn, va := va, big := decide (level = 2), addr := 0, e := e }]
  | .table pa => st.leavesFrom asn (level - 1) pa va
  | .fault _ => []

/-- An entry is not written: it would bring in an unbacked leaf of a pool that is not the address space's own, or a leaf of a retired
frame (02 R429; 20 R416). -/
def State.entryRefused (s : State) (asn : BitVec 12) (e : Word) (ls : List LeafRef) : Bool :=
  !s.store.poolAllowed asn e
    || ls.any fun r => !s.store.poolAllowed asn r.e || (!leafU r.e && s.frameRetired (entryPa r.e) (pageSize r.big))

/-- Every line of a page is absent when a leaf that names it is first made valid (02 R42). -/
def State.firstValid (s : State) (ls : List LeafRef) : State :=
  let us := ls.filter fun r => leafU r.e && !(s.store.linesIn (leafLoc r.e) (pageSize r.big)).isEmpty
  if us.isEmpty then s
  else
    let now := s.leaves.filter fun r => leafU r.e
    let named (k : Nat) : Bool := now.any fun r => decide (leafLoc r.e ≤ k * 128) && decide (k * 128 < leafLoc r.e + pageSize r.big)
    us.foldl (fun (t : State) r => t.modStore fun st =>
      ((st.linesIn (leafLoc r.e) (pageSize r.big)).filter fun p => !named p.1).foldl (fun st p => st.dropLine p.1) st) s

/-- The pools of an address space end with it: their lines are free, and their reservations are returned (02 R47, R429). DESIGN CHOICE: the
frames of their late reserves go on no free list, as those of a withdrawn pool do; the spec does not say where they go (log entry 65). -/
def State.endOwned (s : State) (asn : BitVec 12) : State :=
  let mine (d : Die) (n : Nat) : Bool := s.store.pools.any fun p => p.owner == asn && p.die == d && p.num.toNat == n
  let ls := s.store.lines.filter fun p => mine (dieOfLine p.1) (poolOfLine p.1)
  (ls.foldl (fun (t : State) p => t.performFirst (p.1 * 128) 128) s).modStore fun st =>
    let st1 := ls.foldl (fun st p => st.dropLine p.1) st
    { st1 with pools := st1.pools.filter fun p => p.owner != asn }

/-- The leaves that a change at a level replaces: those under the entry, or under the root. -/
def State.leavesOf (s : State) (asn : BitVec 12) (va : Word) (level : BitVec 2) : List LeafRef :=
  match s.xl.roots.find? fun r => r.1 == asn with
  | none => []
  | some r =>
    if level = 0 then s.store.leavesFrom asn 3 r.2 0
    else match s.store.entryAt va.toNat level.toNat 3 r.2 with
      | none => []
      | some (_, old) => s.store.leavesUnder asn (va.toNat / 2 ^ (4 + 12 * level.toNat) * 2 ^ (4 + 12 * level.toNat)) level.toNat old

/-- The unbacked pages that those leaves name. -/
def State.unbackedOf (s : State) (asn : BitVec 12) (va : Word) (level : BitVec 2) : List Nat :=
  ((s.leavesOf asn va level).filter fun r => leafU r.e).map fun r => leafLoc r.e

/-- The root of an address space is assigned, replaced or, with an entry of 0, taken away, which ends the address space. The leaves of
a root that stood go through an invalidation of all of its addresses (01 R12, R33; 02 R47; log entry 12). -/
def State.setRoot (s : State) (asn : BitVec 12) (entry : Word) : State :=
  let had := s.xl.roots.any fun r => r.1 == asn
  let ls := if entry = 0 then [] else s.store.leavesFrom asn 3 (entryPa entry) 0
  let s1 := s.firstValid ls
  let roots := s1.xl.roots.filter fun r => r.1 != asn
  let s2 : State := { s1 with xl := { s1.xl with roots := if entry = 0 then roots else (asn, entryPa entry) :: roots } }
  let s3 := if had then s2.invalidate asn 0 (2 ^ 52) none (s.unbackedOf asn 0 0) else s2
  (if entry = 0 then s3.endOwned asn else s3).endPools

/-- A change of a page whose conversion or move is not over waits (02 R430). -/
def State.changeWaits (s : State) (asn : BitVec 12) (va : Word) (level : BitVec 2) : Bool :=
  !(s.store.locks.isEmpty && s.store.forwards.isEmpty) && (s.leavesOf asn va level).any fun r => s.store.moving r.e

/-- PAGE_TABLE_CHANGE: core 3 writes an entry for a host and starts the invalidation that the change needs. Level 0 assigns
the root table of an address space (log entry 12). A change that waits is not made yet (01 R12, R19, R33; 02 R42, R429, R430). -/
def execPageTableChange (asn : BitVec 12) (va : Word) (level : BitVec 2) (entry : Word) (s : State) : Out :=
  if level = 0 then
    if entry ≠ 0 && s.entryRefused asn 0 (s.store.leavesFrom asn 3 (entryPa entry) 0) then .next (s.report (.refused refusedCode))
    else if s.changeWaits asn va level then .next s
    else .next (s.setRoot asn entry)
  else
    match (s.xl.roots.find? fun r => r.1 == asn).bind fun r => s.store.entryAt va.toNat level.toNat 3 r.2 with
    | none => .next (s.report (.refused refusedCode))
    | some (addr, old) =>
      let len := 2 ^ (4 + 12 * level.toNat)
      let base := va.toNat / len * len
      let ls := s.store.leavesUnder asn base level.toNat entry
      if s.entryRefused asn entry ls then .next (s.report (.refused refusedCode))
      else if s.changeWaits asn va level then .next s
      else
        let s1 := (s.firstValid ls).writeEntry addr (entryWritten level.toNat old entry)
        let s2 := if needsInvalidation level.toNat old entry then s1.invalidate asn base len none (s.unbackedOf asn va level) else s1
        .next s2.endPools

end Sys2Proof.Machine
end

