-- ==== Sys2Proof/Machine/Power.lean ====
section
/-! DEFINITION. Power classes, frequency classes, current budget, sensors and the marver rail (18; 09 R222). -/

namespace Sys2Proof.Machine

open Sys2Proof

/-- Changes a die's power state. -/
def State.modPower (s : State) (d : Die) (f : PwrDie → PwrDie) : State :=
  { s with power := { s.power with dies := s.power.dies.set d.val (f (s.power.dies.get d)) d.isLt } }

/-- Changes a cluster's power state. -/
def State.modCluster (s : State) (c : ClusterId) (f : PwrCluster → PwrCluster) : State :=
  { s with power := { s.power with clusters := s.power.clusters.set c.val (f (s.power.clusters.get c)) c.isLt } }

/-- The banks of a cluster. -/
def clusterBanks (c : ClusterId) : List BankId := (List.range 16).map fun k => Fin.ofNat 576 (c.val * 16 + k)

/-- The clusters of a die. -/
def dieClusters (d : Die) : List ClusterId := (List.range 9).map fun k => Fin.ofNat 36 (d.val * 9 + k)

/-- The banks of a die. -/
def dieBanks (d : Die) : List BankId := (List.range 144).map fun k => Fin.ofNat 576 (d.val * 144 + k)

/-! ### Classes and targets (18 R377-R381) -/

/-- The minimum voltage of a class, in 10 mV units (18 Table 18.1). -/
def vmin (cls : Nat) : Nat :=
  match cls with
  | 0 | 1 => 60 | 2 => 62 | 3 => 64 | 4 => 67 | 5 => 70 | 6 => 74 | _ => 78

/-- The rail that the die's clusters need, with the target of a raise in progress (18 R377). -/
def State.vneed (s : State) (d : Die) : Nat :=
  let base := (dieClusters d).foldl (fun v c => max v (vmin (s.clusterPower c).cls)) 60
  match (s.diePower d).change with
  | some ch => if ch.up then max base (vmin ch.target) else base
  | none => base

/-- A bank holds a task (18 R381). -/
def Bank.holdsTask (b : Bank) : Bool := b.status != .free && b.status != .shadow && b.task.isSome

/-- The class that a bank's request in force asks for: one taken up, else the standing one (18 R383, R384). -/
def Bank.asksClass (b : Bank) : Option Nat :=
  match b.freqPend with
  | some (4, c) => some c
  | some (5, _) => none
  | some _ | none => b.freqStand

/-- The greatest of some values. -/
def maxOpt (xs : List (Option Nat)) : Option Nat := xs.foldl (fun m x => match m, x with
  | some a, some b => some (max a b)
  | some a, none => some a
  | none, y => y) none

/-- The class to which launches with a hint raise a cluster, while they are held or have a task there, a pre-empted one too (18 R381 step 3). -/
def State.hintOf (s : State) (c : ClusterId) : Option Nat :=
  maxOpt (s.launches.list.map fun (l : Launch) =>
    let d := dieOfCluster c
    let masked := (List.range 8).any fun k => recSelects l.raw d.val (c.val % 9 * 8 + k)
    let there := (clusterBanks c).any (fun n => (s.bank n).holdsTask && (s.bank n).ofTask (·.launch) == l.id)
      || s.saves.any fun p => p.1 / 16 == c.val && p.2.ofTask (·.launch) == l.id
    let held := recHasDie l.raw d.val && (List.finRange 4).any fun e => (l.dies.get e).st == .held
    if recFhint l.raw ≠ 8 ∧ masked ∧ (held ∨ there) then some (recFhint l.raw) else none)

/-- The highest class requested on a cluster: the request of a pre-empted task does not count (18 R381 step 1). -/
def State.requestOf (s : State) (c : ClusterId) : Option Nat :=
  maxOpt ((clusterBanks c).map fun n =>
    if (s.bank n).holdsTask && (s.bank n).status != .preempted then (s.bank n).asksClass else none)

/-- A task holds a bank of the cluster, or is saved there (18 R377; 14 R308). -/
def State.clusterUsed (s : State) (c : ClusterId) : Bool :=
  (clusterBanks c).any (fun n => (s.bank n).holdsTask) || s.saves.any fun p => p.1 / 16 == c.val

/-- A cluster's target before CAP (18 R377, R381). -/
def State.wantOf (s : State) (c : ClusterId) : Nat :=
  if s.clusterUsed c || (s.hintOf c).isSome then
    max ((s.requestOf c).getD (s.clusterPower c).policy) ((s.hintOf c).getD 0)
  else 0

/-- A cluster's target (18 R381). -/
def State.targetOf (s : State) (c : ClusterId) : Nat := min (s.wantOf c) (s.diePower (dieOfCluster c)).cap

/-! ### Requests (18 R383, R384) -/

/-- A request of a bank is resolved and reported: RESULT, REASON, what FREQREQ reads, and EVPEND.FREQ. A denial leaves the
standing request (18 R384; log entry 21). -/
def Bank.reportFreq (b : Bank) (result reason : Nat) (stand : Option Nat) : Bank :=
  { b with
    freqPend := none, freqResult := result, freqReason := if result = 2 then reason else b.freqReason, freqStand := stand
    freqreq := match stand with | some c => regOf [(2, 1), (2, 0), (3, c)] | none => 0
    evpend := b.evpend ||| 4 }

/-- The requests on a cluster that has reached its target are carried out (18 R384). -/
def State.resolveCluster (s : State) (c : ClusterId) : State :=
  let d := dieOfCluster c
  let busy := match (s.diePower d).change with | some ch => ch.cluster == c | none => false
  if busy || (s.clusterPower c).cls != s.targetOf c then s
  else (clusterBanks c).foldl (fun (t : State) n =>
    match (t.bank n).freqPend with
    | some (4, k) => t.modBank n fun b => b.reportFreq 1 0 (some k)
    | some (5, _) => t.modBank n fun b => b.reportFreq 1 0 none
    | some _ | none => t) s

/-! ### Changes (18 R379) -/

/-- A cluster runs at a class from now on: what is left of its matrix operations keeps its core clocks (18 R379; 13 R290). -/
def State.setClock (s : State) (c : ClusterId) (cls : Nat) : State :=
  let old := clockMhz (s.clusterPower c).cls
  (clusterBanks c).foldl (fun (t : State) n => t.modBank n fun b => b.rescaleMma s.time old (clockMhz cls))
    (s.modCluster c fun p => { p with cls := cls })

/-- The next change of a die starts, in the order in which they arose; one that a request not taken up came before waits for that. During
the clock switch of a lowering the cluster runs on the lower clock, which is its target's (18 R379). -/
def State.startChange (s : State) (d : Die) : State :=
  match (s.diePower d).change with
  | some _ => s
  | none =>
    match takeFirst (fun q => s.targetOf q.1 != (s.clusterPower q.1).cls) (s.diePower d).wanted with
    | none => s.modPower d fun p => { p with wanted := [] }
    | some ((c, ahead), rest) =>
      let t := s.targetOf c
      if ahead.any s.power.freqOrder.contains then s
      else
      let up := decide ((s.clusterPower c).cls < t)
      (if up then s else s.setClock c t).modPower d fun p => { p with
        wanted := rest.filter fun q => s.targetOf q.1 != (s.clusterPower q.1).cls, change := some { cluster := c, target := t, up := up, switched := false } }

/-- A change opportunity of a cluster: its target is set, and a change to it arises (18 R379, R381). -/
def State.retarget (s : State) (c : ClusterId) : State :=
  let d := dieOfCluster c
  let s1 := s.modCluster c fun p => { p with target := s.targetOf c, policy := s.wantOf c }
  let s2 := if s.targetOf c = (s.clusterPower c).cls then s1
    else s1.modPower d fun p => { p with wanted := if p.wanted.any (·.1 == c) then p.wanted
        else p.wanted ++ [(c, s.power.freqOrder.filter fun b => dieOf b == d)] }
  (s2.startChange d).resolveCluster c

/-- A change is done: its cluster's requests are resolved, the peak of its crossing FIFOs counts anew, and the next change starts (18
R379, R380, R384). -/
def State.endChange (s : State) (d : Die) (c : ClusterId) : State :=
  let s1 := s.modPower d fun p => { p with change := none }
  ((s1.modCluster c fun p => { p with xpeak := max p.xin p.xout }).resolveCluster c).retarget c

/-- The change that a request of a bank asks for takes the place of its request among those that arose (18 R379). -/
def PwrDie.wantFor (p : PwrDie) (c : ClusterId) (n : BankId) : PwrDie :=
  let before := p.wanted.takeWhile fun q => !q.2.contains n
  if before.any (·.1 == c) then p
  else { p with wanted := before ++ [(c, [])] ++ (p.wanted.drop before.length).filter fun q => q.1 != c }

/-- FREQ_REQUEST_TAKEUP: the power core takes up the request of a bank: OP 10 and 11 become a class from the cluster's class,
a class below F0 or above CAP is denied, and else the target is set anew (18 R383, R384). Requests are taken up in order of
arrival and wait while a change of the die is in progress (18 R379, R396). -/
def execFreqRequestTakeup (n : BankId) (s : State) : Out :=
  let d := dieOf n
  let c := clusterOf n
  let first := (s.power.freqOrder.filter fun b => dieOf b == d).head? == some n
  if (s.diePower d).change.isSome || !first then .next s
  else
    let s1 : State := { s with power := { s.power with freqOrder := s.power.freqOrder.filter (· != n) } }
    let cur := (s.clusterPower c).cls
    let cap := (s.diePower d).cap
    let deny := fun (why : Nat) => s1.modBank n fun b => b.reportFreq 2 why b.freqStand
    let take := fun (op k : Nat) =>
      ((s1.modBank n fun b => { b with freqPend := some (op, k) }).modPower d fun p => p.wantFor c n).retarget c
    match (s.bank n).freqPend with
    | some (0, _) => .next (take 5 0)
    | some (1, k) => .next (if cap < k then (deny 2).startChange d else take 4 k)
    | some (2, _) => .next (if cap < cur + 1 then (deny 2).startChange d else take 4 (cur + 1))
    | some (3, _) => .next (if cur = 0 then (deny 1).startChange d else take 4 (cur - 1))
    | some _ | none => .next (s1.startChange d)

/-- RAIL_STEP: VDIE moves one 10 mV step of the change in progress, back down where CAP fell during a raise; a lowering ends
with its ramp (18 R377, R379, R396). -/
def execRailStep (d : Die) (s : State) : Out :=
  let p := s.diePower d
  match p.change with
  | none => .next s
  | some ch =>
    let need := s.vneed d
    if ch.up then
      if p.vdie < need then .next (s.modPower d fun q => { q with vdie := q.vdie + 1 })
      else if need < p.vdie then .next (s.modPower d fun q => { q with vdie := q.vdie - 1 })
      else .next s
    else if ch.switched && decide (need < p.vdie) then
      let s1 := s.modPower d fun q => { q with vdie := q.vdie - 1 }
      .next (if p.vdie = need + 1 then s1.endChange d ch.cluster else s1)
    else .next s

/-- CLOCK_SWITCH_END: the cluster has switched to its target. A raise, or a lowering that needs no ramp, is then done (18 R379). -/
def execClockSwitchEnd (d : Die) (s : State) : Out :=
  let p := s.diePower d
  match p.change with
  | none => .next s
  | some ch =>
    if ch.switched || (ch.up && p.vdie != s.vneed d) then .next s
    else
      let s1 := (if ch.up then s.setClock ch.cluster ch.target else s).modPower d fun q =>
        { q with change := some { ch with switched := true } }
      .next (if ch.up || decide ((s1.diePower d).vdie ≤ s1.vneed d) then s1.endChange d ch.cluster else s1)

/-- A request that is not carried out and lies above CAP is denied, that of a pre-empted task too (18 R384). -/
def Bank.denyAbove (b : Bank) (cap : Nat) : Bank :=
  match b.freqPend with
  | some (1, k) | some (4, k) => if cap < k then b.reportFreq 2 2 b.freqStand else b
  | some _ | none => b

/-- CAP becomes a value: unresolved requests above it are denied, a raise above it stops at the new maximum, and every cluster
is targeted anew (18 R378, R384, R391, R396). -/
def State.setCap (s : State) (d : Die) (cap : Nat) : State :=
  let s1 := s.modPower d fun p => { p with cap := cap }
  let s2 : State := { (dieBanks d).foldl (fun (t : State) n => t.modBank n fun b => b.denyAbove cap) s1 with
    saves := s1.saves.map fun (p : Nat × Bank) => if p.1 / 144 = d.val then (p.1, p.2.denyAbove cap) else p }
  let s3 := match (s2.diePower d).change with
    | some ch =>
      if ch.up && !ch.switched && decide (cap < ch.target) then
        let cur := (s2.clusterPower ch.cluster).cls
        let t := max (s2.targetOf ch.cluster) cur
        if t = cur then
          let s4 := s2.modPower d fun p => { p with change := some { ch with target := t, up := false, switched := true } }
          if (s4.diePower d).vdie ≤ s4.vneed d then s4.endChange d ch.cluster else s4
        else s2.modPower d fun p => { p with change := some { ch with target := t } }
      else s2
    | none => s2
  (dieClusters d).foldl (fun (t : State) c => t.retarget c) s3

/-- BOARD_CAP_CHANGE: the board cap falls, and CAP with it, or rises, and CAP with it where nothing else holds it down
(18 R378; log entry 21). -/
def execBoardCapChange (d : Die) (cap : Nat) (s : State) : Out :=
  let p := s.diePower d
  let b := min cap 7
  let s1 := s.modPower d fun q => { q with boardCap := b }
  if b < p.cap ∨ p.cap = p.boardCap then .next (s1.setCap d b) else .next s1

/-- A word of 64 bytes enters or leaves a crossing FIFO of a cluster: a full one holds its sender by credit (18 R380). -/
def State.cross (s : State) (c : ClusterId) (out enter : Bool) : State :=
  s.modCluster c fun p =>
    let f (x : Nat) : Nat := if enter then min 64 (x + 1) else x - 1
    let q := if out then { p with xout := f p.xout } else { p with xin := f p.xin }
    { q with xpeak := max q.xpeak (max q.xin q.xout) }

/-- A FREQREQ for the cluster arrived in the present core clock (18 R396). -/
def State.askedNow (s : State) (c : ClusterId) : Bool :=
  let clock (t : Nat) : Nat := t * clockMhz (s.clusterPower c).cls / 1000
  (s.clusterPower c).asked.any fun t => clock t == clock s.time

/-- STALLRATIO_SAMPLE: the ratio of memory-stalled to busy core clocks, and the policy's step where neither a request nor a
hint sets the target, and no request for the cluster arrived in the same core clock (18 R382, R396). -/
def execStallratioSample (c : ClusterId) (stalled busy : Nat) (s : State) : Out :=
  let ratio := if busy = 0 then 0 else min 0xFFFF (65536 * stalled / busy)
  let p := s.clusterPower c
  let free := (s.requestOf c).isNone && (s.hintOf c).isNone && !s.askedNow c
  let pol := if !free then p.policy
    else if 0x8000 ≤ ratio then min p.policy (s.diePower (dieOfCluster c)).cap - 1
    else if ratio < 0x4000 then min (p.policy + 1) (s.diePower (dieOfCluster c)).cap
    else p.policy
  .next ((s.modCluster c fun q => { q with sample := q.sample + 1, ratio := BitVec.ofNat 16 ratio, policy := pol }).retarget c)

/-! ### The current budget (18 R385, R386; 09 R222) -/

/-- By how much a class of a bank would raise its core's charge (09 R222). -/
def State.chargeRise (s : State) (n : BankId) (cls : Nat) : Int :=
  (max cls (s.chargeWithout (coreOf n) (some (bankNo n))) : Nat) - (s.coreCharge (coreOf n) : Int)

/-- The request that the budget can grant: one that needs no increase, or the first in order, priority 7 ahead, if the
headroom covers it (18 R386). -/
def State.grantable (s : State) (d : Die) : Option HeadReq :=
  let hs := (s.diePower d).heads
  match hs.find? fun h => decide (s.chargeRise h.bank h.cls ≤ 0) with
  | some h => some h
  | none =>
    match (hs.filter (·.urgent) ++ hs.filter (!·.urgent)).head? with
    | some h => if (s.held d : Int) + s.chargeRise h.bank h.cls ≤ (s.diePower d).budget then some h else none
    | none => none

/-- A request is granted: a task placed without its grant may start, or the class of a waiting PWRACQ or PWRREL is set, whose
old class its entry keeps until it completes (09 R222; 18 R385, R386). -/
def State.grant (s : State) (d : Die) (h : HeadReq) : State :=
  let s1 := s.modPower d fun p => { p with heads := p.heads.filter (· != h) }
  if h.placement then s1.makeReady h.bank
  else s1.modBank h.bank fun b =>
    match b.qS with
    | x :: rest => { b with qS := { x with answer := some (BitVec.ofNat 64 b.pwrCls) } :: rest, pwrCls := h.cls }
    | [] => b

/-- BUDGET_GRANT (18 R386). -/
def execBudgetGrant (d : Die) (s : State) : Out :=
  match s.grantable d with
  | some h => .next (s.grant d h)
  | none => .next s

/-- SET_BUDGET: a lowered budget revokes nothing (18 R385). -/
def execSetBudget (d : Die) (budget : Nat) (s : State) : Out := .next (s.modPower d fun p => { p with budget := budget })

/-- SetClass of the word at the S head: it completes at once where the charge does not rise; else it asks for headroom and
waits (09 R222). `fin` writes its result. -/
def State.setClass (s : State) (i : Instr) (x : Entry) (cls : Nat) (fin : Bank → Bank) : State :=
  let b := s.here
  let n := s.cur
  match x.answer with
  | some _ =>
    s.setBank n (fin ({ b with swait := .none }.sSync (usesOf i).sy { x with answer := none }))
  | none =>
    if s.chargeRise n cls ≤ 0 then
      (s.modPower (dieOf n) fun p => { p with heads := p.heads.filter fun h => h.bank != n || h.placement }).setBank n (fin ({ b with swait := .none, pwrCls := cls }.sSync (usesOf i).sy x))
    else match b.swait with
      | .power _ => s.hold .S x
      | .none | .slot _ | .ctxq .. =>
        let req : HeadReq := { bank := n, cls := cls, urgent := b.ofTask (·.prio) == 7, placement := false }
        (s.modPower (dieOf n) fun p => { p with heads := p.heads ++ [req] }).setBank n ({ b with swait := .power cls }.hold .S x)

/-- PWRACQ: a class of 1 to 15, or 1 as the result with nothing changed (09 R222). -/
def execPwracq (a : SRr) (s : State) : Out :=
  let p := s.begin (.pwracq a)
  let x := p.1
  let b := p.2.here
  if b.sReady (.pwracq a) x then
    let c := (b.sreg a.ra).toNat
    if c < 1 ∨ 15 < c then .next (p.2.setBank s.cur ((b.sSync a.sy x).setS a.rd 1))
    else .next (p.2.setClass (.pwracq a) x c fun y => y.setS a.rd 0)
  else .next (p.2.hold .S x)

/-- PWRREL: back to the declared class (09 R222). -/
def execPwrrel (a : S0) (s : State) : Out :=
  let p := s.begin (.pwrrel a)
  if p.2.here.sReady (.pwrrel a) p.1 then .next (p.2.setClass (.pwrrel a) p.1 p.2.here.pwrDecl fun y => y)
  else .next (p.2.hold .S p.1)

/-! ### Sensors (18 R389-R391) -/

/-- A column's temperature is the higher of its two readings (18 R389). -/
def CoreSt.temp (c : CoreSt) : Nat := max c.temp0 c.temp1

/-- The latest readings of a die's columns; a column without one keeps its own. -/
def State.readSensors (s : State) (d : Die) (rs : List Reading) : State :=
  rs.foldl (fun (t : State) r => t.modCore (coreAt d r.core.val) fun c => { c with temp0 := r.t0, temp1 := r.t1 }) s

/-- EVPEND.THERM is set for the tasks of a column that crossed the placement threshold; a shadow expansion holds no task (18 R390; 14
R312). -/
def State.setTherm (s old : State) (d : Die) : State :=
  let place := (s.diePower d).place
  let crossed := fun (n : Nat) =>
    let c : CoreId := Fin.ofNat 288 (n / 2)
    decide (place < (old.cores.get c).temp) != decide (place < (s.cores.get c).temp)
  let t := (dieBanks d).foldl (fun (t : State) n =>
    if (t.bank n).task.isSome && (t.bank n).status != .shadow && crossed n.val then t.modBank n fun b => { b with evpend := b.evpend ||| 8 } else t) s
  { t with saves := t.saves.map fun (p : Nat × Bank) =>
      if p.1 / 144 = d.val ∧ crossed p.1 then (p.1, { p.2 with evpend := p.2.evpend ||| 8 }) else p }

/-- The message that informs core 6 of a die above its critical limit (18 R391; 19 R411; log entry 4). -/
def criticalMsg (d : Die) : Msg :=
  let m := Config.criticalMessage d.val
  { sender := m.1, type := m.2.1, payload := m.2.2 }

/-- SENSOR_REFRESH: the readings, THERM, and CAP by the hottest column, of which core 6 is informed above critical (18 R389-R391). DESIGN
CHOICE: core 6 takes that message before the die's next refresh; the spec does not say when (log entry 67). -/
def execSensorRefresh (d : Die) (rs : List Reading) (s0 : State) : Out :=
  let s := s0.modGaffer fun g => g.take 6 (criticalMsg d)
  let s1 := (s.readSensors d rs).setTherm s d
  let p := s1.diePower d
  let hot := (List.range 72).foldl (fun m k => max m (s1.cores.get (coreAt d k)).temp) 0
  if p.critical < hot then
    let s2 := s1.setCap d 0
    .next ((s2.report (.critical d)).modGaffer fun g => g.tell 6 (criticalMsg d))
  else if p.throttle < hot then .next (s1.setCap d (p.cap - 1))
  else if hot + 20 ≤ p.throttle then .next (if p.cap < p.boardCap then s1.setCap d (p.cap + 1) else s1)
  else .next s1

/-- SET_THERMAL_LIMITS (18 R389). -/
def execSetThermalLimits (d : Die) (place throttle critical : Nat) (s : State) : Out :=
  .next (s.modPower d fun p => { p with place := place, throttle := throttle, critical := critical })

/-! ### The marver rail (18 R392-R394). VMRV counts 5 mV: 110 is 0.55 V, 150 nominal, 160 the maximum. -/

/-- MARVER_RAIL_WINDOW: at the end of a window the corrected errors are compared with SP, and the rail steps (18 R393). -/
def execMarverRailWindow (d : Die) (s : State) : Out :=
  .next (s.modPower d fun p =>
    let n := p.corrected
    if p.sp < n then { p with corrected := 0, railUp := if p.vmrv + p.railUp < 160 then p.railUp + 1 else p.railUp }
    else if 2 * n < p.sp ∧ !p.hold then
      { p with corrected := 0, railDown := if 110 + p.railDown < p.vmrv then p.railDown + 1 else p.railDown }
    else { p with corrected := 0 })

/-- MARVER_RAIL_STEP: one step of the rail ends. A downward one was in progress when upward ones arose, and finishes first
(18 R392, R394). -/
def execMarverRailStep (d : Die) (s : State) : Out :=
  .next (s.modPower d fun p =>
    if 0 < p.railDown then { p with railDown := p.railDown - 1, vmrv := max 110 (p.vmrv - 1) }
    else if 0 < p.railUp then { p with railUp := p.railUp - 1, vmrv := min 160 (p.vmrv + 1) }
    else p)

/-- UNDERVOLT_HOLD_END: 1 s after the detection the hold ends (18 R394). -/
def execUndervoltHoldEnd (d : Die) (s : State) : Out :=
  .next (s.modPower d fun p =>
    if p.hold ∧ p.holdFrom + 1000000000 ≤ s.time then { p with hold := false, calmFrom := s.time } else p)

/-- SET_POINT_RESTORE: after 60 s without an uncorrectable error SP doubles, up to its configured value (18 R394). -/
def execSetPointRestore (d : Die) (s : State) : Out :=
  .next (s.modPower d fun p =>
    if !p.hold ∧ p.calmFrom + 60000000000 ≤ s.time then { p with sp := min p.spConf (2 * p.sp), calmFrom := s.time } else p)

end Sys2Proof.Machine
end

