-- ==== Sys2Proof/Machine/Tasks.lean ====
section
/-! DEFINITION. Launches as the launch units hold them, where a task fits, its start, and its end (14 R302-R312, R314; 01 R23). -/

namespace Sys2Proof.Machine

open Sys2Proof

/-! ### Launches -/

/-- The launch with a number. -/
def State.launchOf (s : State) (id : Nat) : Option Launch := s.launches.list.find? fun (l : Launch) => l.id == id

/-- Changes a launch. -/
def State.modLaunch (s : State) (id : Nat) (f : Launch → Launch) : State :=
  { s with launches := { s.launches with list := modFirst (fun (l : Launch) => l.id == id) f s.launches.list } }

/-- Changes where a launch stands on a die. -/
def Launch.modDie (l : Launch) (d : Die) (f : LDie → LDie) : Launch :=
  { l with dies := l.dies.set d.val (f (l.dies.get d)) d.isLt }

/-- Changes where a launch stands on a die. -/
def State.modLDie (s : State) (id : Nat) (d : Die) (f : LDie → LDie) : State := s.modLaunch id fun l => l.modDie d f

/-- A launch takes the next number and is passed to every die of its record; on a die that has no task of it, it retires at once (14
R300, R302). -/
def State.submit (s : State) (raw : BitVec 2048) (queue : Option QueueId) (head : BitVec 32) (asn : BitVec 12) (byLehr : Bool)
    (chain : Option Nat) (missed : Bool) (missTrap : Option Word) : State :=
  let die (d : Fin 4) : LDie :=
    if recHasDie raw d.val then { LDie.off with
      st := if recShare raw d.val = 0 then .placedAll else .waiting, tasks := recShare raw d.val } else LDie.off
  { s with launches := { s.launches with
      next := s.launches.next + 1
      list := s.launches.list ++ [{
        id := s.launches.next, raw := raw, queue := queue, head := head, asn := asn, byLehr := byLehr, dies := Vector.ofFn die
        chain := chain, followed := false, res := [], missed := missed, missTrap := missTrap }] } }

/-- The launch enters the FIFO of its priority (14 R306). -/
def State.enterFifo (s : State) (id : Nat) (d : Die) (fifo : Nat) : State :=
  { s.modLDie id d fun x => { x with st := .eligible, fifo := fifo, order := s.launches.orders } with
    launches := { (s.modLDie id d fun x => { x with st := .eligible, fifo := fifo, order := s.launches.orders }).launches with
      orders := s.launches.orders + 1 } }

/-- The launch has retired on every die of its record (14 R311). -/
def Launch.retired (l : Launch) : Bool :=
  (List.finRange 4).all fun d => (l.dies.get d).st == .off || (l.dies.get d).st == .retired

/-! ### Where a task fits (14 R308-R310, R317) -/

/-- Base and size of a reservation. -/
abbrev Span := Nat × Nat

/-- Two spans share a byte. -/
def spansMeet (p q : Span) : Bool := decide (0 < p.2) && decide (0 < q.2) && decide (p.1 < q.1 + q.2) && decide (q.1 < p.1 + p.2)

/-- The reservations of a bank in the scratchpad and in the marver slice. -/
def Bank.spans (b : Bank) : Span × Span := ((b.spBase, b.spSize), (b.mvBase, b.mvSize))

/-- Every reservation placed on a core: those of its banks, of its pre-empted and incoming tasks, and of gangs; a shadow
expansion holds none (14 R308, R310, R312, R314). -/
def State.coreSpans (s : State) (c : CoreId) : List (Span × Span) :=
  ([bankAt c 0, bankAt c 1].filterMap fun n => if (s.bank n).status = .shadow then none else some (s.bank n).spans)
    ++ (s.saves ++ s.incoming).filterMap (fun (p : Nat × Bank) => if p.1 / 2 = c.val then some p.2.spans else none)
    ++ s.launches.list.flatMap fun (l : Launch) => l.res.filterMap fun g =>
        if g.core = c then some ((g.spBase, g.spSize), (g.mvBase, g.mvSize)) else none

/-- The lowest offset at which `size` bytes fit beside spans within a limit (14 R308). -/
def lowestFit (spans : List Span) (size limit : Nat) : Option Nat :=
  if size = 0 then some 0
  else ((0 :: spans.map fun p => p.1 + p.2).filter fun o =>
    decide (o + size ≤ limit) && spans.all fun p => !spansMeet (o, size) p).min?

/-- Where a record's reservations fit on a core (14 R308); a gang's marver reservation must stand at slice offset 0
(15 R317). -/
def State.fitOn (s : State) (c : CoreId) (raw : BitVec 2048) : Option (Nat × Nat) :=
  let spans := s.coreSpans c
  match lowestFit (spans.map Prod.fst) (recSpres raw) 0x180000, lowestFit (spans.map Prod.snd) (recMres raw) 0x780000 with
  | some a, some b => if recGang raw && b != 0 then none else some (a, b)
  | _, _ => none

/-- A place for a task: its bank and the bases of its reservations. -/
structure Spot where
  bank : BankId
  sp : Nat
  mv : Nat
  deriving DecidableEq, Repr

/-- A task pre-empted from the bank is saved (14 R308, R315). -/
def State.hasSaved (s : State) (n : BankId) : Bool := s.saves.any fun p => p.1 == n.val

/-- A slot task waits for a save on the core (14 R314). -/
def State.coreBooked (s : State) (c : CoreId) : Bool := s.incoming.any fun p => p.1 / 2 == c.val

/-- The bank that a new task takes on a core: one that holds no task, before one that holds a shadow expansion (14 R308,
R312). -/
def State.bankFor (s : State) (c : CoreId) : Option BankId :=
  let bs := [bankAt c 0, bankAt c 1].filter fun n => !s.hasSaved n
  match bs.find? fun n => (s.bank n).status == .free with
  | some n => some n
  | none => bs.find? fun n => (s.bank n).status == .shadow

/-- The spot of a candidate core (14 R308; 20 R418). -/
def State.spotOn (s : State) (c : CoreId) (raw : BitVec 2048) : Option Spot :=
  if (s.cores.get c).retired || s.coreBooked c then none
  else match s.bankFor c, s.fitOn c raw with
    | some n, some (a, b) => some { bank := n, sp := a, mv := b }
    | _, _ => none

/-- The first of the coolest (14 R309). -/
def coolest {α : Type} : List (Nat × α) → Option (Nat × α)
  | [] => none
  | x :: xs =>
    match coolest xs with
    | none => some x
    | some y => if x.1 ≤ y.1 then some x else some y

/-- What the launch unit finds for a launch's next task or gang: no candidate, only hot ones, or its spots (14 R309, R310). -/
inductive Found where
  | none | hot | at (spots : List Spot)
  deriving DecidableEq, Repr

/-- The temperature of a column. -/
def State.tempOf (s : State) (c : CoreId) : Nat := (s.cores.get c).temp

/-- The cores of a cluster. -/
def clusterCores (d : Die) (k : Nat) : List CoreId := (List.range 8).map fun i => coreAt d (8 * k + i)

/-- The spots of a list, if every one is there. -/
def allSpots : List (Option Spot) → Option (List Spot)
  | [] => some []
  | none :: _ => none
  | some x :: xs => (allSpots xs).map (x :: ·)

/-- The candidates of a launch on a die: cores, or for a gang the spots of clusters, with their temperatures (14 R308, R310). -/
def State.candidates (s : State) (l : Launch) (d : Die) : List (Nat × List Spot) :=
  if recGang l.raw then
    (List.range 9).filterMap fun k =>
      if recMask l.raw d.val / 2 ^ (8 * k) % 256 ≠ 255 then none
      else (allSpots ((clusterCores d k).map fun c => s.spotOn c l.raw)).map fun sp =>
        ((clusterCores d k).foldl (fun m c => max m (s.tempOf c)) 0, sp)
  else
    (List.range 72).filterMap fun i =>
      if recSelects l.raw d.val i then (s.spotOn (coreAt d i) l.raw).map fun sp => (s.tempOf (coreAt d i), [sp]) else none

/-- Placement steps 1 to 3 for the next task or gang of a launch (14 R309). -/
def State.findPlace (s : State) (l : Launch) (d : Die) : Found :=
  let x := l.dies.get d
  if x.tasks ≤ x.placed then .none
  else
    let cands := s.candidates l d
    let pool := if recPrio l.raw = 7 || x.skipHot then cands else cands.filter fun p => decide (p.1 ≤ (s.diePower d).place)
    match cands, coolest pool with
    | [], _ => .none
    | _ :: _, none => .hot
    | _ :: _, some p => .at p.2

/-! ### A task's start (14 R304; 01 R23) -/

/-- An empty bank: an armed stop belongs to the bank and stays (20 R419). -/
def Bank.emptied (b : Bank) : Bank := { Bank.reset with stopSeq := b.stopSeq, brk := b.brk }

/-- The bank in which the `j`-th task of a launch on a die starts; s4 holds SLOTFIRST of a slot launch (14 R304; 01 R23; 08 R192; 09 R222; 16 R344). -/
def startBank (old : Bank) (l : Launch) (d : Die) (n : BankId) (j : Nat) (sp mv time : Nat) : Bank :=
  let r := l.raw
  let cs := recTask r d.val j
  let idx := recIndex r cs
  let seed : BitVec 32 := BitVec.ofNat 32 (recSeed r) ^^^ BitVec.ofNat 32 (idx * 0x9E3779B9)
  let level (k : Nat) (v : Nat) (other : Nat) : BitVec 16 := BitVec.ofNat 16 (if k < recNloop r then v else other)
  let b : Bank := { old.emptied with
    status := .unfunded
    task := some {
      launch := l.id, index := BitVec.ofNat 32 idx, prio := recPrio r, det := recDet r, gang := recGang r
      lidx := Vector.ofFn fun k => level k.val (coordOf cs k.val) 0
      lext := Vector.ofFn fun k => level k.val (recExtent r k.val) 1
      isSlot := l.byLehr, grid := recGrid r, slotCount := BitVec.ofNat 16 (recSlotcount r), started := time }
    asn := l.asn
    code := BitVec.ofNat 64 (recCode r)
    s := (((Vector.replicate 32 (0 : Word)).set 2 (BitVec.ofNat 64 (recArgs r))).set 3 (BitVec.ofNat 64 idx)).set 4
      (if l.byLehr then BitVec.ofNat 64 (recSlotfirst r) else 0)
    pc := BitVec.ofNat 64 (recEntry r)
    srstate := if seed = 0 then 1 else seed
    evpend := if l.missed then 2 else 0
    heldMiss := l.missTrap
    pwrDecl := recPclass r
    pwrCls := recPclass r
    spBase := sp, spSize := recSpres r, mvBase := mv, mvSize := recMres r }
  { b with
    h := (((b.h.set 0 (localHandle b n 0 0 b.spSize)).set 1 (localHandle b n 1 0 b.mvSize)).set 2
      (localHandle b n 2 0 0x4000000)).set 3 (localHandle b n 3 0 0x2000000) }

/-- A task asks for its class as its core's charge (18 R385, R386). -/
def State.askFunds (s : State) (n : BankId) : State :=
  s.modPower (dieOf n) fun p => { p with heads := p.heads ++ [{
    bank := n, cls := (s.bank n).pwrCls, urgent := (s.bank n).ofTask (·.prio) == 7, placement := true }] }

/-- A placed task holds its bank and asks for its class; the class of its cluster is set anew (18 R381, R385). -/
def State.putTask (s : State) (n : BankId) (b : Bank) : State :=
  ((s.setBank n b).askFunds n).retarget (clusterOf n)

/-- A shadow expansion on a core that a placement needs is discarded (14 R312). -/
def State.dropShadow (s : State) (c : CoreId) (n : BankId) (sp mv : Span) : State :=
  [bankAt c 0, bankAt c 1].foldl (fun (t : State) m =>
    let b := t.bank m
    if b.status = .shadow ∧ (m = n ∨ spansMeet sp b.spans.1 ∨ spansMeet mv b.spans.2) then t.setBank m b.emptied else t) s

/-- The next task of a launch takes a spot: it starts there, or waits for a save in the bank (14 R307, R310, R314). -/
def State.placeOne (s : State) (id : Nat) (d : Die) (wait : Bool) (sp : Spot) : State :=
  match s.launchOf id with
  | none => s
  | some l =>
    let j := (l.dies.get d).placed
    let c := coreOf sp.bank
    let s1 := s.dropShadow c sp.bank (sp.sp, recSpres l.raw) (sp.mv, recMres l.raw)
    let b := startBank (s1.bank sp.bank) l d sp.bank j sp.sp sp.mv s.time
    let s2 := s1.modLaunch id fun (l : Launch) =>
      { l.modDie d fun x => { x with
          placed := x.placed + 1, hotSince := none, hotNs := 0, skipHot := false
          st := if x.tasks ≤ x.placed + 1 then .placedAll else x.st } with
        res := if recGang l.raw then l.res ++ [{
          die := d, ord := j, core := c, spBase := sp.sp, spSize := recSpres l.raw, mvBase := sp.mv
          mvSize := recMres l.raw, ended := false }] else l.res }
    if wait then { s2 with incoming := s2.incoming ++ [(sp.bank.val, b)] } else s2.putTask sp.bank b

/-! ### A task's end (09 R208; 14 R310, R311; 18 R386) -/

/-- A gang's member has ended; with the last one its reservations go (11 R250; 14 R310). -/
def Launch.endMember (l : Launch) (d : Die) (j : Nat) : Launch :=
  let res := l.res.map fun (g : GangRes) => if g.die = d ∧ g.ord = j then { g with ended := true } else g
  let mates (g : GangRes) : Bool := g.die == d && g.ord / 8 == j / 8
  { l with res := if (res.filter mates).all (·.ended) then res.filter fun g => !mates g else res }

/-- The task of a bank ends: the launch counts it, its reservations and its charge return, its requests are withdrawn, and
the core goes on with its other bank (09 R208; 14 R311; 18 R381, R386). -/
def State.endTask (s0 : State) (n : BankId) : State :=
  let d := dieOf n
  let s := if (s0.bank n).kind = 0 then s0 else s0.clearKind n
  let s1 := match s.ordinalOf n with
    | some (id, j) => s.modLaunch id fun (l : Launch) =>
        (l.modDie d fun x => { x with ended := x.ended + 1 }).endMember d j
    | none => s
  let s2 := (s1.modBank n Bank.emptied).modPower d fun p => { p with heads := p.heads.filter fun h => h.bank != n }
  let s3 : State := { s2 with power := { s2.power with freqOrder := s2.power.freqOrder.filter (· != n) } }
  ((s3.stopRun n).retarget (clusterOf n)).pickBank (coreOf n)

/-! ### Objects that core 1, the launch units and core 2 signal and read (14 R305, R311; 19 R405) -/

/-- The count of a semaphore through an address space; `none` where it cannot be read (14 R305). -/
def State.semCount (s : State) (d : Die) (asn : BitVec 12) (va : Nat) : Option Nat :=
  match s.locate d asn va true false with
  | .error _ => none
  | .ok l => if s.store.anyBad l 8 then none else some (s.store.homeNat l 8)

/-- A store by an agent of a die, the gaffer complex or the lehr. A line of an unbacked page is allocated where its pool has one. Where that
is refused, a page under LF = 1 becomes a backed one and takes the store (02 R44, R48-R50, R52; 03 R85; 20 Table 20.7; log entry 22). -/
def State.agentPut (s : State) (d : Die) (l : Nat) (bs : List Byte) (who : Nat := 73) (op : Nat := 1) : Option State :=
  let r := s.store.resolve l
  let need := if 2 ^ 48 ≤ r then (linesOf r bs.length).filter fun x => s.store.lineSt x != some .pinned else []
  let k := s.store.poolCounts r
  let s1 := s.senseMerge d l bs.length
  let t := if op = 1 then s1.trafficStore d (reqFor who d) l bs.length else s1.traffic (reqFor who d) op l bs.length
  if need = [] then some (t.modStore fun st => st.put d l bs)
  else if k.2.2 + need.length ≤ k.2.1 then some (t.modStore fun st => (st.pin need).put d l bs)
  else ((t.leafNaming r).bind t.convertLate).map fun u => u.modStore fun st => st.put d l bs

/-- The pieces of at most 64 KiB of a VA range, each in one page, or the kind of the fault that one meets. -/
def State.agentLocs (s : State) (d : Die) (asn : BitVec 12) (va n : Nat) (needR needW : Bool) : Except Nat (List (Nat × Nat)) :=
  let k := min n (0x10000 - va % 0x10000)
  match s.locate d asn va needR needW with
  | .error e => .error e
  | .ok l =>
    if k = n then .ok [(l, n)]
    else match s.locate d asn (va + k) needR needW with
      | .error e => .error e
      | .ok m => .ok [(l, k), (m, n - k)]

/-- A read of a VA range by an agent of a die at system scope; poison is kind 9 (03 R85, R86). -/
def State.agentRead (s : State) (d : Die) (asn : BitVec 12) (va n : Nat) (who : Nat := 73) : State × Except Nat (List Byte) :=
  match s.agentLocs d asn va n true false with
  | .error e => (s, .error e)
  | .ok ps =>
    let t := ps.foldl (fun (t : State) p => (t.traffic (reqFor who d) 0 p.1 p.2).sense p.1 p.2) s
    if ps.any fun p => t.store.anyBad p.1 p.2 then (t, .error 9)
    else (t, .ok (ps.flatMap fun p => (List.range p.2).map fun i => t.store.homeByte (p.1 + i)))

/-- A store to a VA range by an agent of a die; `none` where it cannot be performed. -/
def State.agentWrite (s : State) (d : Die) (asn : BitVec 12) (va : Nat) (bs : List Byte) (who : Nat := 73) : Option State :=
  match s.agentLocs d asn va bs.length false true with
  | .error _ => none
  | .ok ps => (ps.foldl (fun (p : Option State × List Byte) q =>
      (p.1.bind fun (t : State) => t.agentPut d q.1 (p.2.take q.2) who, p.2.drop q.2)) (some s, bs)).1

/-- SEMSIG of +1 by an agent of a die; `none` where it cannot be performed (14 R311). -/
def State.semSignal (s : State) (d : Die) (asn : BitVec 12) (va : Nat) : Option State :=
  match s.locate d asn va false true with
  | .error _ => none
  | .ok l =>
    let t := s.sense l 8
    if t.store.anyBad l 8 then none
    else
      let n := (t.store.homeNat l 8 + 1) % 2 ^ 64
      match ({ t with store := t.store.dropCopies d l 8 } : State).agentPut d l (leBytes 8 n) 73 2 with
      | none => none
      | some u => some { u with store := u.store.advance d }

end Sys2Proof.Machine
end

