-- ==== Sys2Proof/Machine/Lehr.lean ====
section
/-! DEFINITION. The lehrs and gaffer core 4: grids, conversations, the boundary, ingress, slot launches, misses, COMMIT,
RETRACT, SLOTWAIT and CTXQ (16 R330-R350; 09 R223, R224). -/

namespace Sys2Proof.Machine

open Sys2Proof

/-! ### Grids and conversations -/

/-- The TIME of boundary `n` (16 R331). -/
def boundaryTime (g : GridDesc) (n : Nat) : Nat := g.phase + n * g.period * 1000

/-- A grid of the device. -/
def State.grid (s : State) (g : GridId) : Grid := s.lehr.grids.get g

/-- Changes a grid. -/
def State.modGrid (s : State) (g : GridId) (f : Grid → Grid) : State :=
  { s with lehr := { s.lehr with grids := s.lehr.grids.set g.val (f (s.grid g)) g.isLt } }

/-- The lehr of a die runs the grid: it has started, and its stop has not taken effect there (16 R332). -/
def Grid.runsOn (x : Grid) (d : Die) : Bool :=
  x.started && match x.stopping with
    | none => true
    | some b => decide (x.next.get d ≤ b)

/-- Every slot launch of the grid has retired (16 R332). -/
def Grid.idle (x : Grid) : Bool := x.running.toList.all Option.isNone

/-- The home die of a conversation (16 R333). -/
def homeOf (m : ConvId) : Die := ⟨m.val / 2048, by omega⟩

/-- The conversation that holds a number: the latest one whose opening has taken effect, or whose open was withdrawn. -/
def State.convOf (s : State) (m : ConvId) : Option Conv := s.lehr.convs.find? fun (c : Conv) => c.m == m && !c.pending

/-- Replaces the conversation that holds its number. -/
def State.putConv (s : State) (c : Conv) : State :=
  { s with lehr := { s.lehr with convs := modFirst (fun (x : Conv) => x.m == c.m && x.pending == c.pending) (fun _ => c) s.lehr.convs } }

/-- Adds a conversation in ascending order of number. -/
def addConv (c : Conv) : List Conv → List Conv
  | [] => [c]
  | x :: xs => if x.m ≤ c.m then x :: addConv c xs else c :: x :: xs

/-! ### The lehr's accesses (16 R334, R335) -/

/-- The plain pad token. -/
def padToken : BitVec 32 := 0x01000000
/-- CORRUPT (16 Table 16.4). -/
def corruptBit : BitVec 32 := 0x02000000
/-- FILL (16 Table 16.4). -/
def fillBit : BitVec 32 := 0x04000000
/-- RETRACTED (16 Table 16.4). -/
def retractedBit : BitVec 32 := 0x08000000

/-- A token has the pad flag. -/
def isPad (t : BitVec 32) : Bool := t.getLsbD 24

/-- The location of a VA in a backed page with read and write permitted, homed on the die (16 R334). -/
def State.lehrLoc (s : State) (d : Die) (asn : BitVec 12) (va : Nat) : Option Nat :=
  match s.locate d asn va true true with
  | .error _ => none
  | .ok l =>
    match regionOf l with
    | .hbm h => if h = d then some l else none
    | .slice _ | .pad _ | .dieScratch _ | .control _ | .hole | .fabric | .unbacked _ => none

/-- Lookups of pages of a conversation are held: the lehr translates its addresses again before its next access (01 R35; 16 R334). -/
def State.convHeld (s : State) (c : Conv) : Bool :=
  !(s.xl.invals.isEmpty && s.store.locks.isEmpty) && [(c.recVa.toNat, 256), (c.listenVa.toNat, 4096), (c.speakVa.toNat, 4096),
    (c.cullVa.toNat, 16 * 2 ^ c.cull)].any fun r => s.lookupHeld (homeOf c.m) c.asn r.1 r.2

/-- Lookups that a boundary of a grid or its next slot launch needs on a die are held (01 R35). -/
def State.gridHeld (s : State) (g : GridId) (d : Die) : Bool :=
  !(s.xl.invals.isEmpty && s.store.locks.isEmpty)
    && ((s.lehr.convs.any fun (c : Conv) => (c.isOpen || c.pending) && c.grid == g && homeOf c.m == d && s.convHeld c)
      || match (s.grid g).desc with
        | none => false
        | some t => [((t.batch.get d).toNat, 4 * t.cap.get d), (t.template.toNat, 256), ((t.seq.get d).toNat, 8)].any fun r =>
            s.lookupHeld d t.asn r.1 r.2)

/-- Lookups that a host's request about a grid or a conversation needs are held; for an open, any of an address space of a grid (01 R35). -/
def State.lehrHeld (s : State) : Instr → Bool
  | .gridStart g => match (s.grid g).desc with
    | none => false
    | some t => s.lookupHeld 0 t.asn t.template.toNat 256
        || (List.finRange 4).any fun d => t.cap.get d != 0 && s.lookupHeld d t.asn (t.seq.get d).toNat 8
  | .convOpen m _ => (List.finRange 16).any fun g => match (s.grid g).desc with
    | none => false
    | some t => s.xl.invals.any fun i => i.asn == t.asn && i.dies.contains (homeOf m)
  | .convClose m => match s.convOf m with
    | none => false
    | some c => s.convHeld c
  | _ => false

/-- The location of a VA of a conversation. -/
def State.convLoc (s : State) (c : Conv) (va : Nat) : Option Nat := s.lehrLoc (homeOf c.m) c.asn va

/-- A read by the lehr of a die (03 R85; 20 Table 20.7). -/
def State.lehrSense (s : State) (d : Die) (l n : Nat) : State := (s.traffic (reqFor 72 d) 0 l n).sense l n

/-- A store by the lehr of a die (03 R85; 20 Table 20.7). -/
def State.lehrPut (s : State) (d : Die) (l : Nat) (bs : List Byte) : State :=
  ((s.senseMerge d l bs.length).traffic (reqFor 72 d) 1 l bs.length).modStore fun st => st.put d l bs

/-- A slot record as bytes (16 R335). -/
def tokenBytes (ts : List (BitVec 32)) : List Byte := ts.flatMap fun t => leBytes 4 t.toNat

/-- The 16 tokens of a slot record. -/
def Store.tokens (st : Store) (l : Nat) : List (BitVec 32) := (List.range 16).map fun i => BitVec.ofNat 32 (st.homeNat (l + 4 * i) 4)

/-- The VA of the entry of a slot in a ring (16 R334). -/
def ringVa (base : Word) (slot : Nat) : Nat := base.toNat + 64 * (slot % 64)

/-- STATUS (16 Table 16.3). -/
def Conv.status (c : Conv) : Nat :=
  2 ^ 8 * c.close.toNat + 16 * b2n c.rplay + 8 * b2n c.overrun + 4 * b2n c.missed + 2 * b2n c.heard + b2n c.isOpen

/-- The live state as the conversation record holds it, from STATUS to INGBAD (16 Table 16.2). -/
def Conv.live (c : Conv) : List Byte :=
  leBytes 4 c.status ++ leBytes 2 c.withdrawn.toNat ++ leBytes 2 c.committed.toNat ++ leBytes 8 c.frontier
    ++ leBytes 8 c.culseq.toNat ++ leBytes 4 c.misses.toNat ++ leBytes 4 c.rcount.toNat ++ leBytes 4 c.inglate.toNat
    ++ leBytes 4 c.ingbad.toNat

/-! ### Withdrawal and closing (16 R336, R347, R348) -/

/-- Slot FRONTIER + 1 + `i` is committed (16 Table 16.2). -/
def Conv.isCommitted (c : Conv) (i : Nat) : Bool := c.committed.getLsbD i

/-- The cullet entry of a withdrawal (16 Table 16.10). -/
def culletEntry (slot cause ntok : Nat) (seq : Word) : List Byte :=
  leBytes 8 slot ++ leBytes 4 seq.toNat ++ [BitVec.ofNat 8 cause, BitVec.ofNat 8 ntok] ++ leBytes 2 0

/-- Where the next cullet entry goes (16 R348). -/
def Conv.culletVa (c : Conv) : Nat := c.cullVa.toNat + 16 * (c.culseq.toNat % 2 ^ c.cull)

/-- Withdraw of the slot FRONTIER + 1 + `i`: the ring entry is marked, a cullet entry written, and the slot is withdrawn. The
answer is false, and nothing is written, where an access fails; a close skips the access that fails (16 R347, R348). -/
def State.withdraw (s : State) (c : Conv) (i cause : Nat) : State × Conv × Bool :=
  let d := homeOf c.m
  let j := c.frontier + 1 + i
  let ring := s.convLoc c (ringVa c.speakVa j)
  let s1 := match ring with | some l => s.lehrSense d l 64 | none => s
  let entry := match ring with | some l => if s1.store.anyBad l 64 then none else some l | none => none
  let log := s1.convLoc c c.culletVa
  if cause ≠ 2 ∧ (entry = none ∨ log = none) then (s1, c, false)
  else
    let c1 := { c with
      committed := c.committed &&& ~~~((1 : BitVec 16) <<< i), withdrawn := c.withdrawn ||| ((1 : BitVec 16) <<< i)
      rcount := c.rcount + 1 }
    match entry with
    | none => (s1, c1, true)
    | some l =>
      let ts := s1.store.tokens l
      let s2 := s1.lehrPut d l (tokenBytes (ts.map (· ||| retractedBit)))
      match log with
      | none => (s2, c1, true)
      | some k =>
        (s2.lehrPut d k (culletEntry j cause ((ts.filter fun t => !isPad t).length) c.culseq),
          { c1 with culseq := c.culseq + 1 }, true)

/-- The conversation closes: every committed slot is withdrawn with cause 2, OPEN becomes 0 and CLOSE is set (16 R336). -/
def State.shut (s : State) (c : Conv) (why : Nat) : State × Conv :=
  let p := (List.range 15).foldl (fun (p : State × Conv) i =>
    if p.2.isCommitted i then ((p.1.withdraw p.2 i 2).1, (p.1.withdraw p.2 i 2).2.1) else p) (s, c)
  (p.1, { p.2 with isOpen := false, close := BitVec.ofNat 4 why, closing := none, named := false, corrupt := false, staged := none })

/-- The live state is copied into the record; an open conversation whose record cannot be written closes (16 R333, R334). -/
def State.keepConv (s : State) (c : Conv) : State :=
  match s.convLoc c c.recVa.toNat with
  | some l => (s.lehrPut (homeOf c.m) (l + 120) c.live).putConv { c with recLoc := l }
  | none => if c.isOpen then (s.shut c 2).1.putConv (s.shut c 2).2 else s.putConv c

/-- An access of the lehr fails: the conversation closes at once with CLOSE = 2 (16 R334). -/
def State.failConv (s : State) (c : Conv) : State := (s.shut c 2).1.keepConv (s.shut c 2).2

/-! ### Slot launches (16 R342-R344) -/

/-- A field of a record replaced. -/
def setField (raw : BitVec 2048) (lo n x : Nat) : BitVec 2048 :=
  (raw &&& ~~~(BitVec.ofNat 2048 ((2 ^ n - 1) * 2 ^ lo))) ||| BitVec.ofNat 2048 (x % 2 ^ n * 2 ^ lo)

/-- The record of a slot launch (16 R342). -/
def slotRecord (t : BitVec 2048) (g : GridId) (d : Die) (first count seq made : Nat) : BitVec 2048 :=
  let masks := [0, 1, 2, 3].foldl (fun r k => if k = d.val then r else setField r (1152 + 128 * k) 72 0) t
  [(192, 3, 7), (1808, 4, g.val), (1728, 64, first), (1792, 16, count), (216, 4, 2 ^ d.val), (212, 3, 1), (640, 64, seq),
    (704, 64, made), (576, 64, seq)].foldl (fun r (f : Nat × Nat × Nat) => setField r f.1 f.2.1 f.2.2) masks

/-- The open conversations of a grid on a die, ascending. -/
def State.openConvs (s : State) (g : GridId) (d : Die) : List ConvId :=
  (s.lehr.convs.filter fun (c : Conv) => c.isOpen && c.grid == g && homeOf c.m == d).map (·.m)

/-- The batch table (16 R342). -/
def batchTable (ms : List ConvId) (cap : Nat) : List Byte :=
  (List.range cap).flatMap fun i => leBytes 4 (match ms[i]? with | some m => m.val | none => 0xFFFFFFFF)

/-- The batch table's bytes are stored, 64 at a time. -/
def State.writeBatch (s : State) (d : Die) (asn : BitVec 12) (va : Nat) (bs : List Byte) : Option State :=
  (List.range ((bs.length + 63) / 64)).foldl (fun (t : Option State) k =>
    t.bind fun (u : State) => u.agentWrite d asn (va + 64 * k) ((bs.drop (64 * k)).take 64) 72) (some s)

/-- A record from its 256 bytes. -/
def recordOf (bs : List Byte) : BitVec 2048 := BitVec.ofNat 2048 (leNat bs)

/-- The lehr makes the grid's next slot launch on a die, covering every boundary passed since the last, or reports that it
cannot (16 R342, R343). -/
def State.slotLaunch (s : State) (g : GridId) (d : Die) (missed : Bool) (trap : Option Word) : State :=
  let x := s.grid g
  match x.desc, x.last.get d with
  | some t, some n =>
    let first := x.firstSlot.get d
    if n < first then s
    else match s.writeBatch d t.asn (t.batch.get d).toNat (batchTable (s.openConvs g d) (t.cap.get d)) with
      | none => s.report (.gridNoLaunch g d)
      | some s1 =>
        match s1.agentRead d t.asn t.template.toNat 256 72 with
        | (s2, .error _) => s2.report (.gridNoLaunch g d)
        | (s2, .ok bs) =>
          let raw := slotRecord (recordOf bs) g d first (n - first + 1) (t.seq.get d).toNat (x.made.get d)
          if (recReject raw true).isSome then s2.report (.gridNoLaunch g d)
          else
            (s2.submit raw none 0 t.asn true none missed trap).modGrid g fun (y : Grid) => { y with
              running := y.running.set d.val (some s2.launches.next) d.isLt
              made := y.made.set d.val (y.made.get d + 1) d.isLt
              firstSlot := y.firstSlot.set d.val (n + 1) d.isLt }
  | _, _ => s

/-- The slot-miss event in a task of a launch: EVPEND.SLOTMISS, and a miss held unless one is held (16 R344). -/
def Bank.slotMiss (b : Bank) (id : Nat) (trap : Option Word) : Bank :=
  if b.task.isSome && b.ofTask (·.launch) == id then
    { b with evpend := b.evpend ||| 2, heldMiss := match b.heldMiss with | some v => some v | none => trap }
  else b

/-- The slot-miss event for the tasks of a running launch, those not yet placed included (16 R344). -/
def State.postMiss (s : State) (id : Nat) (trap : Option Word) : State :=
  let s1 := s.mapBanks fun b => b.slotMiss id trap
  let s2 : State := { s1 with incoming := s1.incoming.map fun (p : Nat × Bank) => (p.1, p.2.slotMiss id trap) }
  let s3 := s2.modLaunch id fun (l : Launch) => { l with
    missed := true, missTrap := match l.missTrap with | some v => some v | none => trap }
  (List.finRange 576).foldl (fun (t : State) n => if (t.bank n).heldMiss.isSome then t.takeMiss n else t) s3

/-- The grid is reported stopped once it is idle (16 R332). -/
def State.reportStopped (s : State) (g : GridId) : State :=
  if !(s.grid g).started && (s.grid g).idle then s.report (.gridStopped g) else s

/-- A slot launch has retired: the next one is made at once where boundaries have passed (16 R343), or the grid is reported
stopped. -/
def State.slotRetired (s : State) (id : Nat) (d : Die) : State :=
  match (List.finRange 16).find? fun g => (s.grid g).running.get d == some id with
  | none => s
  | some g =>
    let s1 := s.modGrid g fun (y : Grid) => { y with running := y.running.set d.val none d.isLt }
    if (s1.grid g).runsOn d then s1.slotLaunch g d false none else s1.reportStopped g

/-! ### The boundary (16 R336, R340, R344) -/

/-- Step 1: the listen record of slot `n` - 1 is closed (16 R340). -/
def State.closeListen (s : State) (c : Conv) (n : Nat) : Option (State × Conv) :=
  match s.convLoc c (ringVa c.listenVa (n - 1)) with
  | none => none
  | some l =>
    let ts := match c.staged with
      | some ts => ts ++ List.replicate (16 - ts.length) padToken
      | none => List.replicate 16 (if c.corrupt then padToken ||| corruptBit else padToken)
    some (s.lehrPut (homeOf c.m) l (tokenBytes ts),
      { c with staged := none, named := false, corrupt := false, heard := !isPad (ts.getD 0 padToken) })

/-- Retract-on-miss: every committed slot from `n` + 1 on is withdrawn with cause 1; slot `n` is FRONTIER + 1 (16 R344). DESIGN CHOICE: a
poisoned ring entry that it meets closes the conversation with CLOSE 2, as an access that fails does; the spec says what poison there does to a
RETRACT and to a close only (log entry 67). -/
def State.romWithdraw (s : State) (c : Conv) : State × Conv × Bool :=
  ((List.range 15).drop 1).foldl (fun (p : State × Conv × Bool) i =>
    if p.2.2 && p.2.1.isCommitted i then p.1.withdraw p.2.1 i 1 else p) (s, c, true)

/-- A group of 16 tokens: the header of 16 Table 16.6 and its token words (16 R338, R340). -/
def groupBytes (m : ConvId) (slot : Nat) (ts : List (BitVec 32)) : List Byte :=
  leBytes 16 (slot % 2 ^ 64 * 2 ^ 64 + 80 * 2 ^ 32 + 4 * 2 ^ 24 + 16 * 2 ^ 16 + m.val) ++ tokenBytes ts

/-- Step 2: speak slot `n` is played, and is a committed slot no more, so that nothing withdraws it; the last answers tell a miss and whether
the conversation stays (16 R337, R340, R344). -/
def State.play (s : State) (c : Conv) (t : GridDesc) (n : Nat) : State × Conv × Bool × Bool :=
  let d := homeOf c.m
  match s.convLoc c (ringVa c.speakVa n) with
  | none => (s, c, false, false)
  | some l =>
    let com := c.isCommitted 0
    let wd := c.withdrawn.getLsbD 0
    let s1 := if com then s.lehrSense d l 64 else s
    let bad := com && s1.store.anyBad l 64
    let miss := bad || (!com && !wd)
    let fill (f : BitVec 32) : List (BitVec 32) := t.fill.toList.map (· ||| f)
    let ts := if com && !bad then (s1.store.tokens l).map (· &&& 0x01FFFFFF)
      else if bad then fill (fillBit ||| corruptBit)
      else if wd then fill (fillBit ||| retractedBit)
      else fill fillBit
    let s2 := s1.lehrPut d l (tokenBytes ts)
    let s3 : State := { s2 with lehr := { s2.lehr with
      egress := s2.lehr.egress ++ [{ conv := c.m, endpoint := c.egress, bytes := groupBytes c.m n ts }] } }
    let c1 := { c with
      committed := c.committed &&& ~~~1, rplay := !com && wd, missed := miss, misses := if miss then c.misses + 1 else c.misses }
    if miss && t.rom then
      let p := s3.romWithdraw c1
      (p.1, p.2.1, true, p.2.2)
    else (s3, c1, miss, true)

/-- Steps 1 to 3 of one conversation, or its close; `low` is the lowest conversation that missed (16 R336, R340). DESIGN CHOICE: where
retract-on-miss closes the conversation between steps 2 and 3, its FRONTIER stays at `n` - 1, though slot `n` has been played; the spec does not
say (log entry 67). -/
def State.turnConv (g : GridId) (t : GridDesc) (n : Nat) (stop : Bool) (p : State × Option ConvId) (m : ConvId) :
    State × Option ConvId :=
  match p.1.convOf m with
  | none => p
  | some c =>
    match p.1.closeListen c n with
    | none => (p.1.failConv c, p.2)
    | some (s1, c1) =>
      if stop || c1.closing.isSome then
        let q := s1.shut c1 (if stop then 3 else c1.closing.getD 1)
        (q.1.keepConv q.2, p.2)
      else
        let r := s1.play c1 t n
        let low := match p.2 with | some k => some k | none => if r.2.2.1 then some m else none
        if !r.2.2.2 then (r.1.failConv r.2.1, low)
        else
          let c2 := r.2.1
          (r.1.keepConv { c2 with
            frontier := n, committed := c2.committed >>> 1, withdrawn := c2.withdrawn >>> 1
            overrun := ((r.1.grid g).running.get (homeOf m)).isSome }, low)

/-- Opens of a grid on a die take effect at boundary `n` (16 R336). -/
def State.openPending (s : State) (g : GridId) (d : Die) (asn : BitVec 12) (n : Nat) : State :=
  (s.lehr.convs.filter fun (c : Conv) => c.pending && c.grid == g && homeOf c.m == d).foldl (fun (t : State) c =>
    let c1 := { c with pending := false, isOpen := true, effective := true, frontier := n, asn := asn }
    let u : State := { t with lehr := { t.lehr with convs := addConv c1 (t.lehr.convs.filter fun (x : Conv) => x.m != c.m) } }
    u.keepConv c1) s

/-- The SLOTWAITs on a grid that wait on a die are answered (09 R223). -/
def State.answerSlot (s : State) (g : GridId) (d : Die) (v : Word) : State :=
  (dieBanks d).foldl (fun (t : State) n =>
    if (t.bank n).swait = .slot g.val then t.modBank n fun b => { b with
      swait := .none, qS := match b.qS with | x :: xs => { x with answer := some v } :: xs | [] => [] }
    else t) s

/-- The TVAL of a slot miss: the lowest missing conversation, and the boundary (16 R344). -/
def missTval (m : ConvId) (n : Nat) : Word := BitVec.ofNat 64 (m.val + n % 2 ^ 48 * 2 ^ 16)

/-- Step 4, and the slot-miss event of the boundary (16 R340, R342-R344). -/
def State.boundaryLaunch (s : State) (g : GridId) (d : Die) (t : GridDesc) (n : Nat) (low : Option ConvId) : State :=
  let trap := match low with | some m => if t.trapmiss then some (missTval m n) else none | none => none
  match (s.grid g).running.get d with
  | some id => if low.isSome then s.postMiss id trap else s
  | none => if t.cap.get d = 0 then s else s.slotLaunch g d low.isSome trap

/-- SLOT_BOUNDARY: the next boundary of a grid on a die is run, or the grid's stop takes effect there, once no lookup that it needs is held
(16 R332, R336, R340; 01 R35). -/
def execSlotBoundary (d : Die) (g : GridId) (s : State) : Out :=
  let x := s.grid g
  let n := x.next.get d
  match x.desc with
  | none => .next s
  | some t =>
    if !x.runsOn d || decide (s.time < boundaryTime t n) || s.gridHeld g d then .next s
    else
      let stop := x.stopping == some n
      let p := (s.openConvs g d).foldl (State.turnConv g t n stop) (s, none)
      if stop then
        let s1 := (p.1.modGrid g fun (y : Grid) => { y with next := y.next.set d.val (n + 1) d.isLt }).answerSlot g d (BitVec.allOnes 64)
        if (List.finRange 4).all fun k => !(s1.grid g).runsOn k then
          .next ((s1.modGrid g fun (y : Grid) => { y with started := false, stopping := none }).reportStopped g)
        else .next s1
      else
        let s1 := p.1.modGrid g fun (y : Grid) => { y with
          next := y.next.set d.val (n + 1) d.isLt, last := y.last.set d.val (some n) d.isLt }
        .next (((s1.openPending g d t.asn n).boundaryLaunch g d t n p.2).answerSlot g d (BitVec.ofNat 64 n))

/-! ### Hosts' requests (16 R330, R332, R336) -/

/-- GRID_CONFIGURE: the descriptor of a grid that is stopped (16 R330). -/
def execGridConfigure (g : GridId) (t : GridDesc) (s : State) : Out :=
  if (s.grid g).started || !(s.grid g).idle then .next (s.report (.refused refusedCode))
  else .next (s.modGrid g fun (x : Grid) => { x with desc := some t })

/-- Every value of a descriptor lies in its range (16 Table 16.1). -/
def gridInRange (t : GridDesc) : Bool :=
  decide (5000 ≤ t.period) && decide (t.period ≤ 500000) && decide (t.phase < 2 ^ 64) && decide (t.guardTime ≤ 20000)
    && decide (t.guardTime < t.period) && decide (t.maxtok ≤ 16) && t.fill.toList.all (fun f => decide (f.toNat < 2 ^ 24))
    && t.cap.toList.all fun c => decide (c ≤ 2048)

/-- The capacity of the started grids on a die, one grid left out (16 R330). -/
def State.capStarted (s : State) (g : GridId) (d : Die) : Nat :=
  (List.finRange 16).foldl (fun n k =>
    if k = g ∨ !(s.grid k).started then n else match (s.grid k).desc with | some t => n + t.cap.get d | none => n) 0

/-- The start's checks on one die (16 R330, Table 16.1). -/
def State.gridDieOk (s : State) (g : GridId) (t : GridDesc) (raw : BitVec 2048) (d : Die) : Bool :=
  (t.batch.get d).toNat % 64 == 0 && (t.seq.get d).toNat % 8 == 0 && (t.cap.get d == 0 || recMask raw d.val != 0)
    && decide (s.capStarted g d + t.cap.get d ≤ 2048)

/-- The first boundary run: the smallest at least 1 ms after the start (16 R332). -/
def firstBoundary (t : GridDesc) (time : Nat) : Nat := (time + 1000000 - t.phase + (t.period * 1000 - 1)) / (t.period * 1000)

/-- Core 4 stores 0 to the sequence semaphores (16 R332). -/
def State.clearSeqs (s : State) (t : GridDesc) : State :=
  (List.finRange 4).foldl (fun (u : State) d =>
    if t.cap.get d = 0 then u
    else match u.agentWrite d t.asn (t.seq.get d).toNat (leBytes 8 0) with
      | some v => v
      | none => u) s

/-- GRID_START: the checks, and the start. TEMPLATE names a launch record, which is aligned to 256 bytes (14 R300; 16 R330, R332). -/
def execGridStart (g : GridId) (s : State) : Out :=
  let x := s.grid g
  match x.desc with
  | none => .next (s.report (.refused refusedCode))
  | some t =>
    if x.started || !x.idle || !gridInRange t || t.template.toNat % 256 != 0 then .next (s.report (.refused refusedCode))
    else match s.agentRead 0 t.asn t.template.toNat 256 with
      | (s1, .error _) => .next (s1.report (.refused refusedCode))
      | (s1, .ok bs) =>
        let raw := recordOf bs
        if (recReject raw true).isSome || !(List.finRange 4).all (s1.gridDieOk g t raw) then .next (s1.report (.refused refusedCode))
        else
          let n := firstBoundary t s.time
          .next ((s1.clearSeqs t).modGrid g fun (y : Grid) => { y with
            started := true, stopping := none, next := Vector.replicate 4 n, last := Vector.replicate 4 none
            made := Vector.replicate 4 0, firstSlot := Vector.replicate 4 n, running := Vector.replicate 4 none })

/-- The smallest boundary after a TIME, not before the first that a grid runs. -/
def nextBoundary (t : GridDesc) (x : Grid) (time : Nat) : Nat :=
  max ((time + 1 - t.phase + (t.period * 1000 - 1)) / (t.period * 1000)) (x.next.toList.foldl max 0)

/-- GRID_STOP: the stop takes effect at the next boundary (16 R332). -/
def execGridStop (g : GridId) (s : State) : Out :=
  let x := s.grid g
  match x.desc with
  | none => .next s
  | some t =>
    if x.started && x.stopping.isNone then .next (s.modGrid g fun (y : Grid) => { y with stopping := some (nextBoundary t x s.time) })
    else .next s

/-- A field of a conversation record. -/
def convField (v lo n : Nat) : Nat := v / 2 ^ lo % 2 ^ n

/-- The grid, its descriptor and the contents of the record that an open names: the first defined grid in whose address space
the record names that grid and the conversation (16 R336). -/
def State.openGrid (s : State) (m : ConvId) (va : Nat) : Option (GridId × GridDesc × Nat × Nat) :=
  (List.finRange 16).findSome? fun g =>
    match (s.grid g).desc with
    | none => none
    | some t =>
      match s.lehrLoc (homeOf m) t.asn va with
      | none => none
      | some l =>
        let v := s.store.homeNat l 256
        if s.store.anyBad l 256 || convField v 16 4 != g.val || convField v 0 13 != m.val then none else some (g, t, l, v)

/-- A conversation of the grid on the die, open or with an open pending. -/
def State.convCount (s : State) (g : GridId) (d : Die) : Nat :=
  (s.lehr.convs.filter fun (c : Conv) => (c.isOpen || c.pending) && c.grid == g && homeOf c.m == d).length

/-- The checks of an open: INGRESS and EGRESS name fabric endpoints (16 R336; 19 R399). -/
def State.openOk (s : State) (m : ConvId) (va : Nat) (g : GridId) (t : GridDesc) (v : Nat) : Bool :=
  let d := homeOf m
  let cull := convField v 24 4
  let listen := convField v 640 64
  let speak := convField v 704 64
  let log := convField v 768 64
  let there (a : Nat) : Bool := (s.lehrLoc d t.asn a).isSome
  decide (4 ≤ cull) && decide (cull ≤ 12) && v / 2 ^ 1280 == 0 && convField v 28 612 == 0 && convField v 20 4 == 0
    && convField v 13 3 == 0 && va % 256 == 0 && log % 256 == 0 && speak % 4096 == 0 && listen % 4096 == 0
    && decide (convField v 832 64 ≤ 2047) && decide (convField v 896 64 ≤ 2047) && there listen && there speak && there log && there (log + 16 * 2 ^ cull - 1)
    && !(s.lehr.convs.any fun (c : Conv) => c.m == m && (c.isOpen || c.pending)) && decide (s.convCount g d < t.cap.get d)

/-- A conversation whose open is pending (16 R336, Table 16.2). -/
def newConv (m : ConvId) (g : GridId) (asn : BitVec 12) (recVa : Word) (l v : Nat) : Conv where
  m := m
  grid := g
  asn := asn
  recVa := recVa
  recLoc := l
  listenVa := BitVec.ofNat 64 (convField v 640 64)
  speakVa := BitVec.ofNat 64 (convField v 704 64)
  cullVa := BitVec.ofNat 64 (convField v 768 64)
  cull := convField v 24 4
  ingress := BitVec.ofNat 64 (convField v 832 64)
  egress := BitVec.ofNat 64 (convField v 896 64)
  pending := true
  closing := none
  effective := false
  isOpen := false
  frontier := 0
  committed := 0
  withdrawn := 0
  close := 0
  rplay := false
  overrun := false
  missed := false
  heard := false
  misses := 0
  rcount := 0
  culseq := 0
  inglate := 0
  ingbad := 0
  named := false
  corrupt := false
  staged := none

/-- CONV_OPEN: an open is checked, and refused or pending until the next boundary that runs (16 R336). -/
def execConvOpen (m : ConvId) (recVa : Word) (s : State) : Out :=
  match s.openGrid m recVa.toNat with
  | none => .next (s.report (.refused refusedCode))
  | some (g, t, l, v) =>
    let s1 := s.sense l 256
    if s1.openOk m recVa.toNat g t v then
      .next { s1 with lehr := { s1.lehr with convs := addConv (newConv m g t.asn recVa l v) s1.lehr.convs } }
    else .next (s1.report (.refused refusedCode))

/-- CONV_CLOSE: at the next boundary of its grid; a pending open is withdrawn at once, and the number then counts as never
opened, for CTXQ too (16 R336). -/
def execConvClose (m : ConvId) (s : State) : Out :=
  match s.lehr.convs.find? fun (c : Conv) => c.m == m && c.pending with
  | some c =>
    .next { s with lehr := { s.lehr with
      convs := addConv { c with pending := false } (s.lehr.convs.filter fun (x : Conv) => x.m != m) } }
  | none =>
    match s.convOf m with
    | none => .next s
    | some c =>
      if !c.isOpen then .next s
      else if (s.grid c.grid).runsOn (homeOf m) then .next (s.putConv { c with closing := some 1 })
      else .next ((s.shut c 1).1.keepConv (s.shut c 1).2)

/-! ### Ingress (16 R338, R339) -/

/-- The tokens of a group. -/
def groupTokens (bs : List Byte) (n : Nat) : List (BitVec 32) :=
  (List.range n).map fun i => BitVec.ofNat 32 (leNat ((bs.drop (16 + 4 * i)).take 4))

/-- INGRESS_GROUP: the tests of 16 Table 16.7 in their order. It waits while lookups of its conversation's pages are held (01 R35). -/
def execIngressGroup (d : Die) (grp : Ingress) (s : State) : Out :=
  let v := leNat (grp.bytes.take 16)
  let m : ConvId := Fin.ofNat 8192 (convField v 0 13)
  let drop : State := { s with lehr := { s.lehr with dropped := s.lehr.dropped.set d.val (s.lehr.dropped.get d + 1) d.isLt } }
  match s.convOf m with
  | none => .next drop
  | some c =>
    if !c.isOpen || homeOf m != d || c.ingress.toNat != grp.sender then .next drop
    else if s.convHeld c then .next { s with agenda := (s.time + 1, .event (.ingressGroup d grp)) :: s.agenda }
    else if convField v 64 64 ≠ c.frontier ∨ c.named = true then .next (s.keepConv { c with inglate := c.inglate + 1 })
    else
      let count := convField v 16 5
      let len := convField v 32 32
      let maxtok := match (s.grid c.grid).desc with | some t => t.maxtok | none => 0
      let ts := groupTokens grp.bytes count
      let ok := convField v 21 3 == 0 && convField v 13 3 == 0 && convField v 24 8 == 4 && decide (count ≤ maxtok)
        && len == 16 + 4 * count && grp.bytes.length == len && !grp.poison && ts.all fun t => decide (t.toNat < 2 ^ 24)
      if ok then .next (s.keepConv { c with named := true, staged := some ts })
      else .next (s.keepConv { c with named := true, corrupt := true, ingbad := c.ingbad + 1 })

/-! ### COMMIT and RETRACT (16 R345-R347) -/

/-- The result word (16 Table 16.9). -/
def slotResult (f count status : Nat) : Word := BitVec.ofNat 64 (f % 2 ^ 56 * 2 ^ 8 + count % 16 * 2 ^ 4 + status)

/-- Where the record of a conversation stands. -/
def State.recordLoc (s : State) (c : Conv) : Nat := s.store.resolve ((s.convLoc c c.recVa.toNat).getD c.recLoc)

/-- The conversation whose record, by its latest open, lies at a location (16 R345). -/
def State.convAt (s : State) (l : Nat) : Option ConvId :=
  (s.lehr.convs.find? fun (c : Conv) =>
    s.recordLoc c == s.store.resolve l && (c.pending || !(s.lehr.convs.any fun (x : Conv) => x.m == c.m && x.pending))).map (·.m)

/-- COMMIT of slot `k` at the lehr (16 R346). The FRONTIER of a conversation that has not been open is a free value. DESIGN CHOICE: on the record
of an open that is still pending, COMMIT and RETRACT answer with the FRONTIER of the closed conversation that held the number, and its live state
goes into its own record; 16 R333 does not say (log entry 67). -/
def State.commitAt (s : State) (m : ConvId) (k : Nat) : State × Word :=
  match s.convOf m with
  | none => (s.nextFree.2, slotResult s.nextFree.1.toNat 0 3)
  | some c =>
    if !c.effective then (s.nextFree.2, slotResult s.nextFree.1.toNat 0 3)
    else
      let f := c.frontier
      let sealed := match (s.grid c.grid).desc with
        | some t => decide (boundaryTime t k ≤ s.time + t.guardTime * 1000)
        | none => true
      if !c.isOpen then (s.keepConv c, slotResult f 0 3)
      else if k ≤ f then (s.keepConv c, slotResult f 0 1)
      else if f + 15 < k then (s.keepConv c, slotResult f 0 2)
      else if sealed then (s.keepConv c, slotResult f 0 1)
      else
        let bit : BitVec 16 := 1 <<< (k - f - 1)
        (s.keepConv { c with committed := c.committed ||| bit, withdrawn := c.withdrawn &&& ~~~bit }, slotResult f 0 0)

/-- RETRACT from slot `k` on at the lehr (16 R347). -/
def State.retractAt (s : State) (m : ConvId) (k : Nat) : State × Word :=
  match s.convOf m with
  | none => (s.nextFree.2, slotResult s.nextFree.1.toNat 0 3)
  | some c =>
    if !c.effective then (s.nextFree.2, slotResult s.nextFree.1.toNat 0 3)
    else
      let f := c.frontier
      if !c.isOpen then (s.keepConv c, slotResult f 0 3)
      else
        let r := (List.range 15).foldl (fun (p : (State × Conv × Bool) × Nat) i =>
          if p.1.2.2 && decide (k ≤ f + 1 + i) && p.1.2.1.isCommitted i then
            (p.1.1.withdraw p.1.2.1 i 0, p.2 + if (p.1.1.withdraw p.1.2.1 i 0).2.2 then 1 else 0)
          else p) ((s, c, true), 0)
        if r.1.2.2 then (r.1.1.keepConv r.1.2.1, slotResult f r.2 0) else (r.1.1.failConv r.1.2.1, slotResult f r.2 3)

/-- The checks of COMMIT and RETRACT in their order, and the operation at the lehr (16 R345). The lehr performs it as it issues or, by a
choice, as it completes: until then the operation holds the number of the conversation (04 R96; 16 R351; log entry 61). It waits while
lookups of a conversation of its address space are held (01 R35; 16 R334). -/
def State.slotOp (s : State) (i : Instr) (a : SlotOp) (act : State → ConvId → Nat → State × Word) : State :=
  let p := s.begin i
  let x := p.1
  let s := p.2
  match x.cap with
  | none => s.hold .W x
  | some c =>
    let o := (x.caps.getD 0 0).toNat
    let l := c.h.loc + o
    let g := s.lwGate .W (usesOf i) x (s.store.blocks l 256) true
    if g ≠ .go then s.lwWait .W x g
    else match ({ c with h := { c.h with isLocal := false } } : Capture).check true true true 0 0 with
      | .wait => s.hold .W x
      | .fail k => s.raiseMem .W k x o
      | .pass =>
        if c.h.isLocal || c.h.unbacked then s.raiseMem .W 12 x o
        else if o % 256 ≠ 0 then s.raiseMem .W 6 x o
        else if c.h.extent.toNat < o + 256 then s.raiseMem .W 3 x o
        else if s.lehr.convs.any fun (v : Conv) => v.asn == s.here.asn && s.convHeld v then s.hold .W x
        else match s.convAt l with
          | none => s.raise { group := 4, kind := 1, engine := .W } x (BitVec.ofNat 64 o)
          | some m =>
            let k := s.choose
            if k.1.testBit 0 then
              k.2.modBank s.cur fun b => b.issue .W (usesOf i) x
                { s.store.syncOp .W i x 5 l 256 [.s a.res (BitVec.ofNat 64 m.val)] with pend := true }
            else
              let q := act k.2 m (x.caps.getD 1 0).toNat
              q.1.issueSync .W i x 5 l 256 [.s a.res q.2] false

/-- COMMIT (16 R345, R346). -/
def execCommit (a : SlotOp) (s : State) : Out := .next (s.slotOp (.commit a) a State.commitAt)

/-- RETRACT (16 R345, R347). -/
def execRetract (a : SlotOp) (s : State) : Out := .next (s.slotOp (.retract a) a State.retractAt)

/-! ### SLOTWAIT and CTXQ (09 R223, R224) -/

/-- A waiting word of S completes with its result. -/
def Bank.finish (b : Bank) (sy : Sync) (x : Entry) (rd : BitVec 5) (v : Word) : Bank :=
  ({ b with swait := .none }.sSync sy { x with answer := none }).setS rd v

/-- SLOTWAIT: the next boundary of a grid, or all ones of a grid that is not running (09 R223). -/
def execSlotwait (a : SRr) (s : State) : Out :=
  let p := s.begin (.slotwait a)
  let x := p.1
  let b := p.2.here
  if b.sReady (.slotwait a) x then
    match x.answer, b.swait with
    | some v, _ => .next (p.2.setBank s.cur (b.finish a.sy x a.rd v))
    | none, .none =>
      let g := (b.sreg a.ra).toNat
      if 16 ≤ g ∨ (s.grid (Fin.ofNat 16 g)).desc.isNone ∨ !(s.grid (Fin.ofNat 16 g)).runsOn (dieOf s.cur) then
        .next (p.2.setBank s.cur (b.finish a.sy x a.rd (BitVec.allOnes 64)))
      else .next (p.2.setBank s.cur ({ b with swait := .slot g }.hold .S x))
    | none, .slot _ | none, .ctxq .. | none, .power _ => .next (p.2.hold .S x)
  else .next (p.2.hold .S x)

/-- CTXQ: the request goes to the lehr of the home die, and its answer is the result (09 R224). -/
def execCtxq (a : SRrr) (s : State) : Out :=
  let p := s.begin (.ctxq a)
  let x := p.1
  let b := p.2.here
  if b.sReady (.ctxq a) x then
    match x.answer, b.swait with
    | some v, _ => .next (p.2.setBank s.cur (b.finish a.sy x a.rd v))
    | none, .none => .next (p.2.setBank s.cur ({ b with swait := .ctxq (b.sreg a.ra) (b.sreg a.rb) }.hold .S x))
    | none, .slot _ | none, .ctxq .. | none, .power _ => .next (p.2.hold .S x)
  else .next (p.2.hold .S x)

/-- What CTXQ reads (09 R224). -/
def State.ctxqValue (s : State) (asn : BitVec 12) (m item : Word) : Word :=
  if 8192 ≤ m.toNat then BitVec.allOnes 64
  else match s.convOf (Fin.ofNat 8192 m.toNat) with
    | none => BitVec.allOnes 64
    | some c =>
      if !c.effective || c.asn != asn then BitVec.allOnes 64
      else match item.toNat with
        | 0 => BitVec.ofNat 64 c.frontier
        | 1 => c.misses.setWidth 64
        | 2 => BitVec.ofNat 64 c.status
        | _ => BitVec.allOnes 64

/-- CTXQ_ANSWER: the value at the lehr returns to the waiting S head (09 R224). -/
def execCtxqAnswer (n : BankId) (s : State) : Out :=
  let b := s.bank n
  match b.swait, b.qS with
  | .ctxq m item, x :: xs =>
    .next (s.setBank n { b with swait := .none, qS := { x with answer := some (s.ctxqValue b.asn m item) } :: xs })
  | _, _ => .next s

end Sys2Proof.Machine
end

