-- ==== Sys2Proof/Machine/Perform.lean ====
section
/-! DEFINITION. What an operation still does in the step in which it completes: the parts of a load that are read then, the atomics, page
words and slot words that are performed then, and the errors that its stores find (04 R96, R97; 03 R85; log entry 61). -/

namespace Sys2Proof.Machine

open Sys2Proof

/-- A COMMIT or RETRACT is performed by the lehr, on the conversation whose number its operation holds (16 R345). -/
def State.performSlot (s : State) (o : Op) (res : BitVec 5) (act : State → ConvId → Nat → State × Word) : State × Op :=
  match o.loads with
  | [.s _ m] =>
    let q := act s (Fin.ofNat 8192 m.toNat) (o.ent.caps.getD 1 0).toNat
    (q.1, { o with loads := [.s res q.2] })
  | _ => (s, o)

/-- A COMMIT or RETRACT that has issued and is not performed waits at the lehr while lookups of its conversation's pages are held, unless
the invalidation itself waits for it (01 R35; 16 R334). -/
def State.slotHeld (s : State) (o : Op) : Bool :=
  o.pend && (match o.ent.what with | .word (.commit _) | .word (.retract _) => true | _ => false)
    && !(match o.ent.cap with | some c => c.stale | none => false)
    && match o.loads with
      | [.s _ m] => (match s.convOf (Fin.ofNat 8192 m.toNat) with | some c => s.convHeld c | none => false)
      | _ => false

/-- An operation that waits for its completion is performed. Poison that its object was to receive has found it performed before
(log entry 61). -/
def State.performPend (s : State) (b : BankId) (o : Op) : State × Op :=
  let s1 := s.sense o.loc (s.store.objectSize o)
  match s1.store.performObject (dieOf b) o with
  | some (st, q) => ({ s1 with store := st }, q)
  | none =>
    match o.ent.what with
    | .word (.commit a) => s.performSlot o a.res State.commitAt
    | .word (.retract a) => s.performSlot o a.res State.retractAt
    | .word i => (s.rangeDone b i o.loc (o.ent.caps.getD 1 0).toNat, o)
    | .illegal .. | .fetchFault _ | .rotate _ => (s, o)

/-- What an operation still does as it completes. -/
def State.perform (s : State) (b : BankId) (o : Op) : State × Op :=
  let p := if o.pend then s.performPend b { o with pend := false } else (s, o)
  let q := p.1.readLate (dieOf b) p.2.ent.late p.2.loads
  (p.2.puts.foldl (fun (t : State) u => u.left.foldl (fun (t : State) w => t.senseMerge (dieOf b) w.1 w.2.length) t) q.1, { p.2 with loads := q.2 })

/-- What an operation in flight has still to read or to store is done, though it does not complete yet; a wait and a copy are performed
as they complete. -/
def State.settleOp (b : BankId) (s : State) (uid : Nat) : State :=
  match (s.bank b).ops.find? fun o => o.uid == uid with
  | none => s
  | some o =>
    if o.waiting || o.isCopy || o.spent || s.slotHeld o then s
    else
      let p := s.perform b o
      let t := (p.1.trafficPuts b p.2.puts).modStore fun st => p.2.puts.foldl (fun st q => st.perform (dieOf b) q) st
      t.modBank b fun x => { x with ops := x.ops.map fun (a : Op) =>
        if a.uid = uid then { p.2 with puts := [], ent := { p.2.ent with late := [] } } else a }

/-- An operation that pushes a token completes after all that is ordered before it: those of its predecessors that are in flight have been
performed by then, so that what follows along the token finds them so (04 R95, R106). -/
def State.settlePreds (s : State) (b : BankId) (o : Op) : State :=
  if o.push = 0 || o.spent then s else (o.ent.preds).foldl (State.settleOp b) s

/-- A part of an access of a bank's word is performed before the word's operation completes: write `k` of a load, or open unit `k` of a
store (04 R116; 05 R135; 10 R229; log entry 61). -/
def State.part (s : State) (b : BankId) (uid k : Nat) : State :=
  let stores := ((s.bank b).qW.head?.any fun x => x.uid == uid) || (s.bank b).ops.any fun o => o.uid == uid && !o.puts.isEmpty
  if stores then s.storePart b uid k else s.loadPart b uid k

end Sys2Proof.Machine
end

