-- ==== Sys2Proof/Machine/Complete.lean ====
section
/-! DEFINITION. The completion of operations, the polling of fabric objects, and remote fills (03 R79, R81; 04 R97; 10 R235). -/

namespace Sys2Proof.Machine

open Sys2Proof

/-- The scalar writes of an operation may be made: no earlier write of their registers is pending (07 R164). -/
def Bank.mayWrite (b : Bank) (o : Op) : Bool :=
  o.loads.all fun w => match w with
    | .s r _ => r == 0 || b.firstWriter o.uid r
    | .v .. | .seg .. => true

/-- The operation as it completes: a waiting SEMWAIT or BARWAIT brings the value for which its condition held (10 R235), or holds now where
its first read is still to be made; `none` while it still waits. -/
def Store.ready (st : Store) (b : BankId) (o : Op) : Option Op :=
  if o.waiting then
    match st.waits.find? fun w => w.bank == b && w.uid == o.uid with
    | some w => (w.met.or (if w.unread then w.holds st else none)).map fun v => { o with loads := [.s ((payloadUses o.ent.what).writes.getD 0 0) v] }
    | none => none
  else some o

/-- OPERATION_COMPLETE: an operation completes: what is ordered before a push is performed, what it still has to read or do is done, its stores are performed, its registers are written, its stream counts, its
token is pushed, the remote epoch advances where it synchronises the device, and the test for a token deadlock is made
(04 R97, R106; 03 R81; 07 R164, R167, R169). -/
def execOperationComplete (b : BankId) (uid : Nat) (s : State) : Out :=
  match (s.bank b).ops.find? fun o => o.uid == uid with
  | none => .next s
  | some o =>
    match s.store.ready b o with
    | none => .next s
    | some o' =>
      if (s.bank b).mayWrite o' && !s.slotHeld o then
        let p := (s.settlePreds b o').perform b o'
        .next ((p.1.complete b p.2).testDeadlock b)
      else .next s

/-- FABRIC_WAIT_POLL: the fabric port reads the object of a waiting request again (10 R235). -/
def execFabricWaitPoll (b : BankId) (uid : Nat) (s : State) : Out :=
  .next (s.modStore fun st => { st with waits := st.waits.map fun w =>
    if w.bank = b ∧ w.uid = uid ∧ w.met = none ∧ regionOf (st.resolve w.loc) = .fabric then { w with met := w.holds st } else w })

/-- REMOTE_FILL: a line returned by its home L2 is installed in the die's remote partition; one asked for before the epoch
advanced is installed invalid, which is no copy and takes no valid one's place, and a set that is left out of use takes none (03 R79, R81;
20 R416). The line is filled in a slice of the die that asked, for a requester and as a hit or miss that are free values (20 R423; log entry
4). -/
def execRemoteFill (d : Die) (line : Nat) (s : State) : Out :=
  match takeFirst (fun r => r.die == d && r.line == line) s.store.fills with
  | none => .next s
  | some (r, rest) =>
    let others := s.store.remote.filter fun q => !(q.die == d && q.line == line && (r.epoch == s.store.epoch.get d || q.epoch != s.store.epoch.get d))
    let s1 := if s.gaffer.filtersOn d then
      ({ s with free := s.free + 1 } : State).logLine d ((Config.freeWord s.free).toNat % 2 ^ 8) 5 none line else s
    .next (s1.modStore fun st => { st with
      fills := rest
      remote := if st.out.contains (.remoteSet d (line / 16)) then st.remote
        else if r.epoch = st.epoch.get d then r :: others else others })

end Sys2Proof.Machine
end

