-- ==== Sys2Proof/Machine/Handles.lean ====
section
/-! DEFINITION. The handle words XLATE, HLOCAL, HINV and HGET, the landing of their results, the end of a walk, and the end
of an invalidation (01 R24-R27, R35, R39; 09 R217, R218). -/

namespace Sys2Proof.Machine

open Sys2Proof

/-- An S word whose handle result lands later, with its push (01 R25; 09 R217, R218). -/
def Bank.launchHandle (b : Bank) (sy : Sync) (x : Entry) (r : BitVec 4) (h : Handle) : Bank :=
  let b1 := (b.doPops .S sy x).reserve .S sy.push
  { b1 with hland := b1.hland ++ [{ reg := r, h := h, push := sy.push }] }

/-- Two addresses of an address space lie in one page for a die: in one of 64 KiB, or in one of 256 MiB, which the leaf of the second
tells. -/
def State.samePage (s : State) (d : Die) (asn : BitVec 12) (va va' : Nat) : Bool :=
  va / 0x10000 == va' / 0x10000
    || (va / 0x10000000 == va' / 0x10000000 && match (s.walkVa d asn va').1 with | .leaf _ big => big | .fault _ => false)

/-- The walk that a miss joins or starts: misses to one page share a walk (01 R24). -/
def Xl.startWalk (x : Xl) (d : Die) (asn : BitVec 12) (va : Word) (same : Nat → Bool) : Nat × Xl :=
  match x.walks.find? fun w => w.die == d && w.asn == asn && same w.va.toNat with
  | some w => (w.tag, x)
  | none => (x.next, { x with walks := x.walks ++ [{ tag := x.next, die := d, asn := asn, va := va }], next := x.next + 1 })

/-- The handle that an XLATE makes, and the walks after it: faulted for a non-canonical address, the cached leaf's handle,
or pending on a walk; a lookup in a range that an invalidation holds lands pending (01 R25, R35 step 2). DESIGN CHOICE: the other fields of
a pending handle, and those of a faulted one beside FKIND, read 0; the spec gives them no value (log entry 65). -/
def State.xlateHandle (s : State) (b : BankId) (va : Word) (reqR reqW : Bool) : Handle × Xl :=
  let asn := (s.bank b).asn
  let d := dieOf b
  if 2 ^ 52 ≤ va.toNat then ({ Handle.faultedOf 7 with va := va, reqR := reqR, reqW := reqW }, s.xl)
  else
    match (if s.xl.heldBy d asn va.toNat then none else s.xl.hit d asn va.toNat) with
    | some (e, big) => (makeHandle (.leaf e big) reqR reqW va, s.xl)
    | none =>
      let p := s.xl.startWalk d asn va fun w => s.samePage d asn w va.toNat
      ({ Handle.reset with st := .pending, tag := p.1, va := va, reqR := reqR, reqW := reqW }, p.2)

/-- XLATE: the translation of a VA, which lands in its handle register later and never traps (01 R25). -/
def execXlate (a : SXlate) (s : State) : Out :=
  let p := s.begin (.xlate a)
  let b := p.2.here
  if b.sReady (.xlate a) p.1 then
    let r := p.2.xlateHandle s.cur (b.sreg a.ra) (a.rights.getLsbD 0) (a.rights.getLsbD 1)
    .next { p.2.setBank s.cur (b.launchHandle a.sy p.1 a.hd r.1) with xl := r.2 }
  else .next (p.2.hold .S p.1)

/-- The handle that an HLOCAL makes (09 R217; 01 R22). -/
def hlocalHandle (b : Bank) (id : BankId) (w : BitVec 2) (base ext : Word) : Handle :=
  let o := base.toNat
  let n := ext.toNat
  if o % 32 ≠ 0 ∨ n % 32 ≠ 0 ∨ n < 32 ∨ b.windowSize w < o + n then { Handle.faultedOf 3 with va := -1 }
  else localHandle b id w o n

/-- HLOCAL: a local handle over a part of a window (09 R217). -/
def execHlocal (a : SHlocal) (s : State) : Out :=
  let p := s.begin (.hlocal a)
  let b := p.2.here
  if b.sReady (.hlocal a) p.1 then
    .next (p.2.setBank s.cur (b.launchHandle a.sy p.1 a.hd (hlocalHandle b s.cur a.win (b.sreg a.base) (b.sreg a.ext))))
  else .next (p.2.hold .S p.1)

/-- A handle register with the results on their way to it (01 R26). -/
def Bank.latestHandle (b : Bank) (r : BitVec 4) : Handle :=
  match (b.hland.filter fun l => l.reg == r).getLast? with
  | some l => l.h
  | none => b.h.get r.toFin

/-- HINV: the register's STATE becomes invalid (01 R39; 09 R218). -/
def execHinv (a : SHinv) (s : State) : Out :=
  let p := s.begin (.hinv a)
  let b := p.2.here
  if b.sReady (.hinv a) p.1 then
    .next (p.2.setBank s.cur (b.launchHandle a.sy p.1 a.hd { b.latestHandle a.hd with st := .invalid }))
  else .next (p.2.hold .S p.1)

/-- HGET: a word of a handle register, whose results have landed before HGET is dispatched (01 R26; 09 R218). -/
def execHget (a : SHget) (s : State) : Out :=
  .next (s.sResult (.hget a) a.rd fun b =>
    if a.word = 0 then (b.h.get a.hd.toFin).word0 else (b.h.get a.hd.toFin).word1)

/-- HANDLE_LAND: the oldest handle result of a bank lands, and its push is made (01 R25). -/
def execHandleLand (n : BankId) (s : State) : Out :=
  let b := s.bank n
  match b.hland with
  | [] => .next s
  | l :: rest =>
    .next (s.setBank n (({ b with hland := rest, h := b.h.set l.reg.toNat l.h l.reg.isLt } : Bank).pushTok .S l.push))

/-- The addresses that a walk reads, from the table of level `l` (01 R19, R24). -/
def Store.walkPath (st : Store) (va : Nat) : Nat → Nat → List Nat
  | 0, _ => []
  | l + 1, table =>
    let a := table + 8 * (va / 2 ^ (16 + 12 * l) % 4096)
    a :: if st.anyBad a 8 then [] else match checkEntry (l + 1) (BitVec.ofNat 64 (st.homeNat a 8)) with
      | .table pa => st.walkPath va l pa
      | .fault _ | .leaf => []

/-- The addresses that the walk of a VA by a die reads. -/
def State.walkReads (s : State) (d : Die) (asn : BitVec 12) (va : Nat) : List Nat :=
  match s.xl.pointer d asn va 1 with
  | some e => s.store.walkPath va 1 (entryPa e)
  | none =>
    match s.xl.pointer d asn va 2 with
    | some e => s.store.walkPath va 2 (entryPa e)
    | none =>
      match s.xl.roots.find? fun r => r.1 == asn with
      | some r => s.store.walkPath va 3 r.2
      | none => []

/-- The reads of a walk: their errors are sensed, and the slices test them as walker reads. The requester number of a walker is not
stated, and is a free value (03 R85; 20 R423; log entry 4). -/
def State.readWalk (s : State) (d : Die) (asn : BitVec 12) (va : Nat) : State :=
  let as := s.walkReads d asn va
  let req (h : Die) : Nat := if h = d then (Config.freeWord s.free).toNat % 256 else 75
  as.foldl (fun (t : State) a => (t.sense a 8).traffic req 7 a 8)
    (if (List.finRange 4).any s.gaffer.filtersOn then { s with free := s.free + 1 } else s)

/-- WALK_COMPLETE: a walk ends. A clean leaf and the table pointers read fill the die's cache, and the result goes to the
handles and captures that wait on the walk; a walk in a range that an invalidation holds waits (01 R24, R27, R35). DESIGN CHOICE: a walk that
ends in a fault leaves the pointers that it read, of which the spec does not speak (log entry 65). -/
def execWalkComplete (tag : Nat) (s0 : State) : Out :=
  match takeFirst (fun w => w.tag == tag) s0.xl.walks with
  | none => .next s0
  | some (w, rest) =>
    if s0.xl.heldBy w.die w.asn w.va.toNat then .next s0
    else
      let s := s0.readWalk w.die w.asn w.va.toNat
      let r := s.walkVa w.die w.asn w.va.toNat
      let leaf : List DtcEntry := match r.1 with
        | .leaf e big => [{ die := w.die, asn := w.asn, page := w.va.toNat / pageSize big, big := big, leaf := e }]
        | .fault _ => []
      let ptrs := r.2.map fun (q : Nat × Word) =>
        ({ die := w.die, asn := w.asn, level := q.1, pre := w.va.toNat / 2 ^ (16 + 12 * q.1), entry := q.2 } : PtrEntry)
      .next ({ s with xl := { s.xl with walks := rest, dtc := leaf ++ s.xl.dtc, ptrs := ptrs ++ s.xl.ptrs } }.mapBanks
        fun b => b.walked tag r.1)

/-- The entry is a PGMIG, which itself waits for the invalidation that it started (02 R60). -/
def Entry.isMigration (x : Entry) : Bool :=
  match x.what with
  | .word (.pgmig _) => true
  | _ => false

/-- A capture lies in a range. -/
def capInRange (c : Option Capture) (base len : Nat) : Bool := match c with | some c => c.h.inRange base len | none => false

/-- A word at a queue head has an access that has passed its check and is not complete: it waits at a home or for an allocation
answer, or it holds stores to make or parts of a load to read (01 R35 step 6; 10 R231). -/
def Entry.passedOpen (x : Entry) : Bool := x.alloc != .none || !x.puts.isEmpty || !x.late.isEmpty

/-- An access of the bank that has passed its check in the range is not complete (01 R35 step 6). Of a copy these are the rows that
have issued and not landed: one that is stopped holds nothing (01 R36). -/
def Bank.reaches (b : Bank) (base len : Nat) : Bool :=
  b.ops.any (fun o => !o.isCopy && !o.spent && !o.ent.isMigration && capInRange o.ent.cap base len)
    || (b.qL ++ b.qW).any (fun x => x.passedOpen && capInRange x.cap base len)
    || b.copies.any fun c => !c.flights.isEmpty && c.cap.h.inRange base len

/-- The banks of a die that may hold such an access. -/
def State.dieReaches (s : State) (d : Die) (asn : BitVec 12) (base len : Nat) : Bool :=
  ((s.banks.toList.drop (d.val * 144)).take 144).any fun b => b.asn == asn && b.reaches base len

/-- The place of a page that no leaf names is given back: a frame to the late reserve that it came from (02 R430). DESIGN CHOICE: the lines of an
unbacked place become absent; 02 R430 speaks of a frame only (log entry 56). -/
def Store.giveBack (st : Store) (f : Forward) : Store :=
  match f.pool with
  | some (d, n) => st.modPool d n fun p =>
      if f.len = 0x10000 then { p with late64 := p.late64 ++ [f.dst] } else { p with late256 := p.late256 ++ [f.dst] }
  | none => (st.linesIn f.dst f.len).foldl (fun st p => st.dropLine p.1) st

/-- What the end of an invalidation on every die brings: forwarding entries go, the place of an orphan is given back, the PGMIG that
started it can complete, and pages that waited for its end move, and pools end (02 R52 step 7, R60 step 5, R429, R430; 20 R417). -/
def State.invalDone (s : State) (i : Inval) : State :=
  let orphans := s.store.forwards.filter fun f => f.inval == i.id && f.orphan
  let s1 : State := { s with
    xl := { s.xl with invals := s.xl.invals.filter fun j => j.id != i.id }
    store := orphans.foldl Store.giveBack { s.store with forwards := s.store.forwards.filter fun f => f.inval != i.id } }
  let s2 := match i.pgmig with
    | none => s1
    | some (b, u) => s1.modBank b fun x => { x with ops := x.ops.map fun (o : Op) => if o.uid = u then { o with waiting := false } else o }
  s2.retryMoves.endPools

/-- INVALIDATION_RELEASE: every access of the range that had passed its check on the die has completed; the die releases
the lookups it held and reports (01 R35 step 6). -/
def execInvalidationRelease (d : Die) (id : Nat) (s : State) : Out :=
  match s.xl.invals.find? fun i => i.id == id with
  | none => .next s
  | some i =>
    if !i.dies.contains d || s.dieReaches d i.asn i.base i.len then .next s
    else
      let j := { i with dies := i.dies.filter (· != d) }
      if j.dies.isEmpty then .next (s.invalDone i)
      else .next { s with xl := { s.xl with invals := modFirst (fun k => k.id == id) (fun _ => j) s.xl.invals } }

end Sys2Proof.Machine
end

