-- ==== Sys2Proof/Machine/Launch.lean ====
section
/-! DEFINITION. The launch units and core 1: END and YIELD, eligibility, ageing, placement, pre-emption, retirement, chains and
shadow expansions, frequency holds (09 R208, R209; 14 R305-R316; 19 R409, R410). -/

namespace Sys2Proof.Machine

open Sys2Proof

/-! ### END and YIELD -/

/-- Nothing of the bank's words is left but the S queue: queues, operations, copies, C writes and handle results
(04 R119; 09 R208). -/
def Bank.quiet (b : Bank) : Bool :=
  b.qL.isEmpty && b.qC.isEmpty && b.qW.isEmpty && b.ops.isEmpty && b.copies.isEmpty && b.flights.isEmpty && b.mma.isEmpty
    && b.hland.isEmpty

/-- Every copy and operation of the task has completed, those that stood at a handler's entry too (04 R119). -/
def Bank.allDone (b : Bank) : Bool :=
  b.quiet && match b.image with
    | some g => g.ops.all (·.spent) && g.copies.isEmpty
    | none => true

/-- END: the task ends once everything it issued has completed. Its push needs a place and is discarded (09 R202, R208; 04 R119). -/
def execEndt (a : S0) (s : State) : Out :=
  let p := s.begin (.endt a)
  let b := p.2.here
  if b.cut.isNone && b.popsOk .S a.sy p.1 && b.canPush .S a.sy.push && b.allDone then .next (p.2.endTask s.cur)
  else .next (p.2.hold .S p.1)

/-- The launches whose tasks wait for banks on a die, in the order of 14 R307. -/
def State.fifoOrder (s : State) (d : Die) : List Launch :=
  sortBy (fun (l m : Launch) =>
    decide ((m.dies.get d).fifo < (l.dies.get d).fifo)
      || ((m.dies.get d).fifo == (l.dies.get d).fifo && decide ((l.dies.get d).order ≤ (m.dies.get d).order)))
    (s.launches.list.filter fun (l : Launch) => (l.dies.get d).st == .eligible && decide ((l.dies.get d).placed < (l.dies.get d).tasks))

/-- The launch's next task on a die stands in a shadow bank (14 R312). -/
def State.shadowOf (s : State) (l : Launch) (d : Die) : Option BankId :=
  (dieBanks d).find? fun n => (s.bank n).status == .shadow && (s.bank n).ofTask (·.launch) == l.id

/-- The spots of a launch's next task or gang once a bank is freed, where its core is in the mask and as cool as placement asks (14
R308-R310). -/
def State.spotsWith (s : State) (n : BankId) (l : Launch) : Option (List Spot) :=
  let d := dieOf n
  let c := coreOf n
  let cores := if recGang l.raw then clusterCores d (c.val % 72 / 8) else [c]
  let cool := recPrio l.raw == 7 || (l.dies.get d).skipHot || cores.all fun k => decide (s.tempOf k ≤ (s.diePower d).place)
  if cool && cores.all fun k => recSelects l.raw d.val (k.val % 72) then
    allSpots (cores.map fun k =>
      if k = c then (s.fitOn c l.raw).map fun p => { bank := n, sp := p.1, mv := p.2 } else s.spotOn k l.raw)
  else none

/-- A launch waits for a bank on the core of a yielding bank, and its next task or gang fits once the bank is freed: it finds no place
without it (09 R209; 14 R308-R310, R314). -/
def State.wantsBank (s : State) (n : BankId) (l : Launch) : Option (List Spot) :=
  let d := dieOf n
  let placed := match s.findPlace l d with | .at _ => true | .none | .hot => false
  if decide ((s.bank n).ofTask (·.prio) ≤ (l.dies.get d).fifo) && !placed && (s.shadowOf l d).isNone then s.spotsWith n l else none

/-- The launch whose task takes the bank of a yielding task, with its spots (09 R209; 14 R314; 17 R372). -/
def State.yieldTo (s : State) (n : BankId) : Option (Nat × List Spot) :=
  if (s.bank n).kind ≠ 0 ∨ (s.bank n).inh = true ∨ s.hasSaved n ∨ s.coreBooked (coreOf n) ∨ (s.cores.get (coreOf n)).retired then none
  else (s.fifoOrder (dieOf n)).findSome? fun (l : Launch) => (s.wantsBank n l).map fun p => (l.id, p)

/-! ### Eligibility (14 R305, R312, R313; 19 R405, R410) -/

/-- The semaphores that a launch waits for, and their counts; a chained record waits for its predecessor's DONE (14 R305,
R312). -/
def State.waitsOf (s : State) (l : Launch) : List (Nat × Nat) :=
  ((List.range (recNwait l.raw)).map fun w => (recWaddr l.raw w, recWval l.raw w))
    ++ match l.chain with
      | none => []
      | some p => match s.launchOf p with
        | none => []
        | some q => [(recDone q.raw, recDies q.raw)]

/-- An earlier launch of the same queue has not become eligible on the die: launches of one queue become eligible in ring order
(19 R405). -/
def State.behind (s : State) (l : Launch) (d : Die) : Bool :=
  l.chain.isNone && l.queue.isSome && s.launches.list.any fun (m : Launch) =>
    m.queue == l.queue && m.chain.isNone && decide (m.id < l.id) && (m.dies.get d).st == .waiting

/-- The clusters of a launch's mask on a die. -/
def maskClusters (l : Launch) (d : Die) : List ClusterId :=
  (dieClusters d).filter fun c => recMask l.raw d.val / 2 ^ (8 * (c.val % 9)) % 256 != 0

/-- Lookups that the end of a launch on a die needs are held: those of DONE, and those of the successor of a slot launch (01 R35; 14 R311;
16 R343). -/
def State.retireHeld (s : State) (l : Launch) (d : Die) : Bool :=
  (recDone l.raw != 0 && s.lookupHeld d l.asn (recDone l.raw) 8)
    || (l.byLehr && (List.finRange 16).any fun g => (s.grid g).running.get d == some l.id && s.gridHeld g d)

/-- The launch retires on a die: DONE is signalled, or the failure reported; a slot launch's successor may follow (14 R311;
16 R343). -/
def State.retireOn (s : State) (l : Launch) (d : Die) : State :=
  let s1 := if recDone l.raw = 0 then s
    else match s.semSignal d l.asn (recDone l.raw) with
      | some t => t
      | none => s.report (.doneFailed l.id d)
  let s2 := s1.modLDie l.id d fun x => { x with st := .retired }
  if l.byLehr then s2.slotRetired l.id d else s2

/-- The SEMWAIT of a die for a wait of a launch, where it has been made. -/
def Store.lwait (st : Store) (id : Nat) (d : Die) (k : Nat) : Option LaunchWait :=
  st.lwaits.find? fun w => w.launch == id && w.die == d && w.k == k

/-- Keeps where the SEMWAIT of a die for a wait of a launch stands. -/
def Store.setLwait (st : Store) (w : LaunchWait) : Store :=
  { st with lwaits := w :: st.lwaits.filter fun v => !(v.launch == w.launch && v.die == w.die && v.k == w.k) }

/-- The SEMWAITs of a die for the waits of a launch are over. -/
def Store.dropLwaits (st : Store) (id : Nat) (d : Die) : Store :=
  { st with lwaits := st.lwaits.filter fun v => !(v.launch == id && v.die == d) }

/-- Wait `k` of a launch on a die, for a count at an address: it completes at the first write that satisfies it, or at once, and the
die's remote epoch advances; `none` where its semaphore cannot be read. It waits while lookups of its address are held (14 R305; 10 R234,
R235; 03 R81; 01 R35). -/
def State.testWait (s : State) (l : Launch) (d : Die) (k : Nat) (w : Nat × Nat) : State × Option Bool :=
  let met (l' : Nat) (t : State) : State × Option Bool := (t.modStore fun st =>
    (st.setLwait { launch := l.id, die := d, k := k, asn := l.asn, va := w.1, loc := l', val := w.2, met := true, done := true }).advance d,
      some true)
  match s.store.lwait l.id d k with
  | some { met := true, done := true, .. } => (s, some true)
  | some { met := true, done := false, loc := a, .. } => met a s
  | some { met := false, .. } | none =>
    if s.lookupHeld d l.asn w.1 8 then (s, some false)
    else match s.locate d l.asn w.1 true false with
    | .error _ => (s, none)
    | .ok a =>
      let t := (s.traffic (reqFor 73 d) 8 a 8).sense a 8
      if t.store.anyBad a 8 then (t, none)
      else if w.2 ≤ t.store.homeNat a 8 then met a t
      else (t.modStore fun st => st.setLwait {
        launch := l.id, die := d, k := k, asn := l.asn, va := w.1, loc := a, val := w.2, met := false, done := false }, some false)

/-- The waits of a launch on a die from the `k`-th on: whether all have completed, or `none` where one cannot be read. -/
def State.testWaits (l : Launch) (d : Die) : Nat → List (Nat × Nat) → State → State × Option Bool
  | _, [], s => (s, some true)
  | k, w :: ws, s =>
    match s.testWait l d k w with
    | (t, none) => (t, none)
    | (t, some x) => match State.testWaits l d (k + 1) ws t with
      | (u, some y) => (u, some (x && y))
      | (u, none) => (u, none)

/-- The clusters of all of a launch's masks (14 R313). -/
def hintClusters (l : Launch) : List ClusterId := (List.finRange 4).flatMap fun d => if recHasDie l.raw d.val then maskClusters l d else []

/-- Every cluster of a launch's masks runs at its hint's class, or at CAP (19 R410). -/
def State.hintMet (s : State) (l : Launch) : Bool :=
  (hintClusters l).all fun c => decide (min (recFhint l.raw) (s.diePower (dieOfCluster c)).cap ≤ (s.clusterPower c).cls)

/-- The waits of a launch are tested on a die. A wait that cannot be read ends the launch there; once all have completed the launch
enters the FIFO of its priority, after a hold for its frequency hint where it has one (14 R305, R306, R313). -/
def State.testLaunch (s : State) (d : Die) (id : Nat) : State :=
  match s.launchOf id with
  | none => s
  | some l =>
    if (l.dies.get d).st ≠ .waiting then s
    else match State.testWaits l d 0 (s.waitsOf l) s with
      | (t, none) => if t.retireHeld l d then t else ((t.modStore fun st => st.dropLwaits id d).report (.waitFailed id d)).retireOn l d
      | (t, some all) =>
        if !all || t.behind l d then t
        else
          let u := (t.modStore fun st => st.dropLwaits id d).modLDie id d fun x => { x with since := s.time, aged := 0 }
          if recFhint l.raw = 8 then u.enterFifo id d (recPrio l.raw)
          else (hintClusters l).foldl State.retarget (u.modLDie id d fun x => { x with st := .held })

/-- A launch takes its next ageing step on a die: it moves to the tail of the next FIFO (14 R306). -/
def State.ageLaunch (s : State) (d : Die) (l : Launch) : State :=
  (s.enterFifo l.id d ((l.dies.get d).fifo + 1)).modLDie l.id d fun y => { y with aged := y.aged + 1 }

/-- The TIME of the next ageing step of a launch on a die: one for every full millisecond since it became eligible (14 R306). -/
def LDie.ageAt (x : LDie) : Nat := x.since + (x.aged + 1) * 1000000

/-- An ageing step of a launch on a die is due (14 R306). -/
def State.ages (s : State) (d : Die) (l : Launch) : Bool :=
  let x := l.dies.get d
  x.st == .eligible && decide (x.fifo < 6) && decide (x.ageAt ≤ s.time)

/-- The launch whose ageing step on a die is due first. -/
def State.ageNext (s : State) (d : Die) : Option Launch :=
  (sortBy (fun (l m : Launch) => decide ((l.dies.get d).ageAt ≤ (m.dies.get d).ageAt)) (s.launches.list.filter (s.ages d))).head?

/-- The ageing steps that are due on a die are made, in their order. -/
def State.ageDie (d : Die) : Nat → State → State
  | 0, s => s
  | n + 1, s => match s.ageNext d with
    | some l => State.ageDie d n (s.ageLaunch d l)
    | none => s

/-- LAUNCH_ELIGIBLE (14 R305). -/
def execLaunchEligible (d : Die) (id : Nat) (s : State) : Out := .next (s.testLaunch d id)

/-- YIELD: it completes where no launch of the task's priority or a higher one waits for its bank. Ageing steps that are due come before what
becomes eligible now. Where a launch waits, its task takes the bank, and YIELD stands at its head with its pops taken until the pre-empted task resumes,
and completes then (09 R209; 14 R314, R316). -/
def execYield (a : S0) (s : State) : Out :=
  let p := s.begin (.yield a)
  let x := p.1
  let fin (u : State) : State := u.setBank s.cur { u.here.sSync a.sy x with pc := x.idx + 1, ctl := false }
  if p.2.here.sReady (.yield a) x then
    if x.popped then .next (fin p.2)
    else
      let aged := State.ageDie (dieOf s.cur) (6 * p.2.launches.list.length) p.2
      let t := aged.launches.list.foldl (fun (t : State) (l : Launch) => t.testLaunch (dieOf s.cur) l.id) aged
      match t.yieldTo s.cur with
      | none => .next (fin t)
      | some (id, spots) =>
        let u := spots.foldl (fun (u : State) sp => u.placeOne id (dieOf s.cur) true sp) t
        .next ((u.modBank s.cur fun b => (b.doPops .S a.sy x).hold .S { x with popped := true }).cutBank s.cur .preempt)
  else .next (p.2.hold .S x)

/-- FHINT_HOLD_EXPIRY: the hold of a launch ends when every cluster of its masks has the class, or after 100 µs (19 R410). -/
def execFhintHoldExpiry (d : Die) (id : Nat) (s : State) : Out :=
  match s.launchOf id with
  | none => .next s
  | some l =>
    let x := l.dies.get d
    if x.st = .held ∧ (s.hintMet l = true ∨ x.since + 100000 ≤ s.time) then
      .next ((hintClusters l).foldl State.retarget (s.enterFifo id d (recPrio l.raw)))
    else .next s

/-- LAUNCH_AGEING: for every full millisecond since it became eligible a launch moves to the tail of the next FIFO, up to
FIFO 6 (14 R306). -/
def execLaunchAgeing (d : Die) (id : Nat) (s : State) : Out :=
  match s.launchOf id with
  | none => .next s
  | some l => if s.ages d l then .next (s.ageLaunch d l) else .next s

/-! ### Placement and pre-emption (14 R307-R310, R314) -/

/-- The bank's task may be a victim of a priority-7 task: no handler of it runs, whose image its save area holds, and no stop of it is due,
whose 5.5.S comes first (14 R314, R315; 17 R372; 20 R428). -/
def State.isVictim (s : State) (n : BankId) : Bool :=
  let b := s.bank n
  b.task.isSome && b.ofTask (·.prio) != 7 && b.cut.isNone && !b.inh && !s.hasSaved n && !(b.status == .running && b.stopDue)
    && (b.kind == 0 || (b.kind == 1 && b.status == .switchedOut))
    && (b.status == .running || b.status == .ready || b.status == .switchedOut || b.status == .unfunded)

/-- The first victim comes before the second: lowest PRIO, latest started, lowest core, bank 0 (14 R314). -/
def State.victimLe (s : State) (m n : BankId) : Bool :=
  let p := (s.bank m).ofTask (·.prio)
  let q := (s.bank n).ofTask (·.prio)
  let t := (s.bank m).ofTask (·.started)
  let u := (s.bank n).ofTask (·.started)
  decide (p < q) || (p == q && (decide (u < t) || (t == u && decide (m.val ≤ n.val))))

/-- A victim on a core, with the slot task's reservations beside those that stay (14 R314). -/
def State.victimsOn (s : State) (c : CoreId) (raw : BitVec 2048) : List Spot :=
  if (s.cores.get c).retired || s.coreBooked c then []
  else match s.fitOn c raw with
    | none => []
    | some p => ([bankAt c 0, bankAt c 1].filter s.isVictim).map fun n => { bank := n, sp := p.1, mv := p.2 }

/-- The best of some victims. -/
def State.bestVictim (s : State) (vs : List Spot) : Option Spot := (sortBy (fun p q => s.victimLe p.bank q.bank) vs).head?

/-- What a priority-7 launch that finds no candidate takes: the spots, each with a mark where its task is pre-empted
(14 R314). -/
def State.takeVictims (s : State) (l : Launch) (d : Die) : Option (List (Spot × Bool)) :=
  if recGang l.raw then
    let clusters := (List.range 9).filterMap fun k =>
      if recMask l.raw d.val / 2 ^ (8 * k) % 256 ≠ 255 then none
      else
        let per := (clusterCores d k).map fun c => match s.spotOn c l.raw with
          | some p => some (p, false)
          | none => (s.bestVictim (s.victimsOn c l.raw)).map fun p => (p, true)
        if per.any Option.isNone then none
        else some (((per.filterMap id).filter Prod.snd).length, per.filterMap id)
    (coolest clusters).map Prod.snd
  else
    (s.bestVictim (((List.range 72).filter fun i => recSelects l.raw d.val i).flatMap fun i =>
      s.victimsOn (coreAt d i) l.raw)).map fun p => [(p, true)]

/-- A victim is pre-empted: cut at the next core clock if it executes, or saved as it stands; one that has no grant yet asks for none
meanwhile (17 R371, R372; 18 R385). -/
def State.preempt (s : State) (n : BankId) : State :=
  if (s.bank n).status = .running then s.cutBank n .preempt
  else
    let t := if (s.bank n).status = .unfunded then s.modPower (dieOf n) fun p => { p with heads := p.heads.filter fun h => h.bank != n }
      else s
    (t.modBank n fun b => { b with cutAt := if b.status = .switchedOut then b.cutAt else s.time }).saveBank n

/-- A launch tries to place its next task or gang; `none` where nothing is placed. -/
def State.placeNext (s : State) (l : Launch) (d : Die) : Option State :=
  if (s.shadowOf l d).isSome then none
  else match s.findPlace l d with
    | .at spots => some (spots.foldl (fun (t : State) p => t.placeOne l.id d false p) s)
    | .hot => none
    | .none =>
      if recPrio l.raw ≠ 7 then none
      else (s.takeVictims l d).map fun ps => ps.foldl (fun (t : State) p =>
        let u := t.placeOne l.id d true p.1
        if p.2 then u.preempt p.1.bank else u) s

/-- The time that a launch's next task spends at step 2 of placement goes on or stops (14 R309). -/
def State.noteHot (s : State) (l : Launch) (d : Die) : State :=
  match s.findPlace l d, (l.dies.get d).hotSince with
  | .hot, none => s.modLDie l.id d fun x => { x with hotSince := some s.time }
  | .none, some t => s.modLDie l.id d fun x => { x with hotSince := none, hotNs := x.hotNs + (s.time - t) }
  | .hot, some _ | .none, none | .at _, _ => s

/-- A launch whose predecessor's task runs beside an idle bank is expanded there (14 R312). -/
def State.expandShadow (s : State) (l : Launch) (d : Die) : Option State :=
  let x := l.dies.get d
  match l.chain with
  | none => none
  | some p =>
    if x.st ≠ .waiting ∨ x.tasks ≤ x.placed ∨ recGang l.raw = true ∨ (s.shadowOf l d).isSome then none
    else ((List.range 72).map (coreAt d)).findSome? fun c =>
      let pair := [(bankAt c 0, bankAt c 1), (bankAt c 1, bankAt c 0)].find? fun q =>
        (s.bank q.1).status == .running && (s.bank q.1).ofTask (·.launch) == p && (s.bank q.2).status == .free && !s.hasSaved q.2
      if !recSelects l.raw d.val (c.val % 72) || s.coreBooked c || (s.cores.get c).retired then none
      else match pair, s.fitOn c l.raw with
        | some q, some (a, b) =>
          some (s.setBank q.2 { startBank (s.bank q.2) l d q.2 x.placed a b s.time with status := .shadow })
        | _, _ => none

/-- TASK_PLACEMENT: the launch unit offers banks to its launches in order, and the first that can places its next task or gang;
where none can, core 1 may expand a chained launch (14 R307-R310, R312, R314). -/
def execTaskPlacement (d : Die) (s : State) : Out :=
  let order := s.fifoOrder d
  let t := order.foldl (fun (t : State) l => t.noteHot l d) s
  match order.findSome? fun (l : Launch) => t.placeNext l d with
  | some u => .next u
  | none =>
    match t.launches.list.findSome? fun (l : Launch) => t.expandShadow l d with
    | some u => .next u
    | none => .next t

/-- PLACEMENT_THERMAL_TIMEOUT: after 1 ms at step 2 a task skips it (14 R309). -/
def execPlacementThermalTimeout (d : Die) (id : Nat) (s : State) : Out :=
  match s.launchOf id with
  | none => .next s
  | some l =>
    match (l.dies.get d).hotSince with
    | some t =>
      if t + 1000000 ≤ s.time + (l.dies.get d).hotNs then .next (s.modLDie id d fun x => { x with skipHot := true }) else .next s
    | none => .next s

/-- SHADOW_START: a shadow bank whose launch has become eligible on its die holds its task and starts (14 R312); an expansion on a
retired core is discarded (20 R418). -/
def execShadowStart (n : BankId) (s : State) : Out :=
  let d := dieOf n
  let b := s.bank n
  match b.status, s.launchOf (b.ofTask (·.launch)) with
  | .shadow, some l =>
    if (s.cores.get (coreOf n)).retired then .next (s.setBank n b.emptied)
    else if (l.dies.get d).st = .eligible ∧ (l.dies.get d).placed < (l.dies.get d).tasks then
      let s1 := s.modLDie l.id d fun x => { x with
        placed := x.placed + 1, hotSince := none, hotNs := 0, skipHot := false
        st := if x.tasks ≤ x.placed + 1 then .placedAll else x.st }
      .next (s1.putTask n { b with status := .unfunded, task := b.task.map fun (t : TaskInfo) => { t with started := s.time } })
    else .next s
  | _, _ => .next s

/-! ### Retirement and chains (14 R311, R312; 19 R409) -/

/-- LAUNCH_RETIRE: a launch all of whose tasks on the die have ended retires there and signals DONE; one without tasks there does so
at once. It waits while lookups that it needs are held (14 R302, R311; 01 R35). -/
def execLaunchRetire (d : Die) (id : Nat) (s : State) : Out :=
  match s.launchOf id with
  | none => .next s
  | some l =>
    let x := l.dies.get d
    if x.st = .placedAll ∧ x.tasks ≤ x.ended ∧ s.retireHeld l d = false then .next (s.retireOn l d) else .next s

/-- The code of a queue's STATE (19 Table 19.4). -/
def QSt.code : QSt → Nat
  | .unmapped => 0 | .pending => 1 | .mapped => 2 | .error => 3

/-- A control block as HBM keeps it; its fetch state is 0 until core 2 fetches an entry, and then the device's own (19 Table 19.4; log entry
4). -/
def Qcb.bytes (c : Qcb) (free : Nat) : List Byte :=
  (List.range 37).map (fun k => if c.fetched then (Config.freeWord (free + k)).setWidth 8 else 0)
    ++ leBytes 1 ((match c.slot with | some k => k.val | none => 0))
    ++ leBytes 2 (c.st.code + c.parms.asn.toNat * 2 ^ 4)
    ++ leBytes 2 (c.parms.prio % 8 * 2 + c.parms.sizelog % 32 * 2 ^ 8)
    ++ leBytes 1 c.err ++ leBytes 1 c.rej ++ leBytes 4 c.rejIdx.toNat ++ leBytes 4 c.tail.toNat ++ leBytes 4 c.head.toNat
    ++ leBytes 8 c.parms.ringVa.toNat ++ List.replicate 64 0

/-- Changes a queue control block. One that holds no slot is kept in die 0's HBM (19 R406). -/
def State.modQueue (s : State) (q : QueueId) (f : Qcb → Qcb) : State :=
  match s.gaffer.queues.get q with
  | none => s
  | some c =>
    let t := s.modGaffer fun g => { g with queues := g.queues.set q.val (some (f c)) q.isLt }
    if (f c).slot.isSome then t
    else { (t.agentPut 0 (s.gaffer.qcbPa + 128 * q.val) ((f c).bytes s.free)).getD t with free := s.free + 37 }

/-- The reason of a rejection is reported on a queue (14 R301; 19 R409, Table 19.4). -/
def State.rejectOn (s : State) (q : Option QueueId) (head : BitVec 32) (reason : Nat) (r : Report) : State :=
  let s1 := s.report r
  match q with
  | none => s1
  | some k => s1.modQueue k fun (c : Qcb) => { c with rej := reason, rejIdx := head }

/-- CHAIN_FETCH: core 1 fetches the record at NEXT of a launch and submits it, or ends the chain with its reason; the reason of a
NEXT that cannot be read is a free value (14 R312; 19 R409; log entry 4). -/
def execChainFetch (id : Nat) (s : State) : Out :=
  match s.launchOf id with
  | none => .next s
  | some l =>
    if recNext l.raw = 0 ∨ l.followed = true ∨ s.lookupHeld 0 l.asn (recNext l.raw) 256 = true then .next s
    else
      let s1 := s.modLaunch id fun (m : Launch) => { m with followed := true }
      match s1.agentRead 0 l.asn (recNext l.raw) 256 with
      | (s2, .error _) =>
        let r := s2.nextFree.1.toNat % 256
        .next (s2.nextFree.2.rejectOn l.queue l.head r (.chainEnded l.queue r))
      | (s2, .ok bs) =>
        let raw := recordOf bs
        match recReject raw false with
        | some r => .next (s2.rejectOn l.queue l.head r (.chainEnded l.queue r))
        | none =>
          let s3 := s2.submit raw l.queue l.head l.asn false (some id) false none
          match l.queue with
          | none => .next s3
          | some k => .next (s3.modQueue k fun (c : Qcb) => { c with subs := c.subs ++ [s2.launches.next] })

end Sys2Proof.Machine
end

