-- ==== Sys2Proof/Machine/Vector.lean ====
section
/-! DEFINITION. The vector and predicate words (12 R266-R279), one repetition of each. -/

namespace Sys2Proof.Machine

open Sys2Proof

/-! ### Operands -/

/-- The physical register of a vector field at a repetition (07 R176, R178). -/
def vIx (b : Bank) (k : BitVec 6) (x : Entry) : Fin 64 := physV b.rbv (k.toNat + x.rep)

/-- The value of a vector field at a repetition. -/
def vSrc (b : Bank) (k : BitVec 6) (x : Entry) : Vec := b.v.get (vIx b k x)

/-- The predicate field, which does not advance (07 R178; 12 R260). -/
def pFix (b : Bank) (p : BitVec 4) : Pred := b.preg p.toNat

/-- A predicate in a register field at a repetition (07 R178). -/
def pSrc (b : Bank) (p : BitVec 4) (x : Entry) : Pred := b.preg (p.toNat + x.rep)

/-- A vector field as a register that is read. -/
def vRd (b : Bank) (k : BitVec 6) (x : Entry) : CReg := .v (vIx b k x)

/-- The predicate field as a register that is read. -/
def pRd (b : Bank) (p : BitVec 4) : CReg := .p (physP b.rbp p.toNat)

/-- A predicate register field as a register that is read. -/
def pRdj (b : Bank) (p : BitVec 4) (x : Entry) : CReg := .p (physP b.rbp (p.toNat + x.rep))

/-- What a repetition writes: the value, the bytes it writes, and the stochastic state after it. -/
structure VOut where
  val : Vec
  mask : Pred
  L : BitVec 32

/-- A word that writes a vector register. -/
def State.vWord (s : State) (i : Instr) (vd : BitVec 6) (rep : BitVec 5) (lat charge : Nat) (sr : Bool)
    (reads : Bank → Entry → List CReg) (f : Bank → Entry → VOut) : State :=
  s.cWord i {
    reps := rep.toNat + 1, sr := sr, charge := charge, reads := reads, wait := fun _ _ => false, fault := fun _ _ => none
    eff := fun t x =>
      let o := f t.here x
      { st := t.modBank t.cur fun b => { b with srstate := o.L }
        tgt := some (.v (vIx t.here vd x) o.val o.mask), lat := lat, late := false, poison := false, addr := 0 } }

/-- A word that writes a predicate register; a write to p0 is discarded (12 R260). -/
def State.pWord (s : State) (i : Instr) (pd : BitVec 4) (rep : BitVec 5) (reads : Bank → Entry → List CReg)
    (f : Bank → Entry → Pred × Pred) : State :=
  s.cWord i {
    reps := rep.toNat + 1, sr := false, charge := 2, reads := reads, wait := fun _ _ => false, fault := fun _ _ => none
    eff := fun t x =>
      let o := f t.here x
      let k := pd.toNat + x.rep
      { st := t, tgt := some (if k = 0 then .nothing else .p (physP t.here.rbp k) o.1 o.2)
        lat := 2, late := false, poison := false, addr := 0 } }

/-! ### Lanes -/

/-- The lanes of a result in ascending order: excluded lanes are not computed, and each computed one steps the stochastic
state first where `sr` says so (08 R192; 12 R261). -/
def lanesFrom (sr : Bool) (act : Nat → Bool) (f : Nat → Nat → Nat) : List Nat → BitVec 32 → List Nat × BitVec 32
  | [], l => ([], l)
  | i :: is, l =>
    if act i then
      let l1 := if sr then stepL l else l
      let q := lanesFrom sr act f is l1
      (f l1.toNat i :: q.1, q.2)
    else
      let q := lanesFrom sr act f is l
      (0 :: q.1, q.2)

/-- An element-wise result under a merge mask (12 R261, R266). -/
def elemwise (ty : VTy) (p : Pred) (sr : Bool) (l : BitVec 32) (f : Nat → Nat → Nat) : VOut :=
  let q := lanesFrom sr (laneActive p ty.width) f (List.range (lanesOf ty)) l
  { val := vecOfLanes ty.width q.1, mask := laneMask p ty.width, L := q.2 }

/-- A register whose every byte is written: the lanes of the list, then zeros. -/
def wholeReg (w : Nat) (xs : List Nat) (l : BitVec 32) : VOut := { val := vecOfLanes w xs, mask := BitVec.allOnes 256, L := l }

/-- An arithmetic result: rounded once, or wrapped or saturated (12 R266, R267). -/
def arith (ty : VTy) (md : BitVec 5) (l : Nat) (fl : Num) (z : Int) : Nat :=
  match fmtOf ty with
  | some f => f.round (rndOf md) l false fl
  | none => bitsOfInt (8 * ty.width) (if md.getLsbD 4 then satInt (8 * ty.width) z else z)

/-- A word of two sources and a mod field: its exact value on floating lanes and on integer lanes. -/
def State.vBin (s : State) (i : Instr) (a : CBin) (lat charge : Nat) (third : Bool)
    (fl : Num → Num → Num → Num) (z : Int → Int → Int → Int) : State :=
  s.vWord i a.vd a.rep lat charge (srOf a.ty a.md)
    (fun b x => [vRd b a.va x, vRd b a.vb x, pRd b a.pr] ++ if third then [vRd b a.vd x] else [])
    fun b x =>
      let w := a.ty.width
      let va := vSrc b a.va x
      let vb := vSrc b a.vb x
      let vc := vSrc b a.vd x
      elemwise a.ty (pFix b a.pr) (srOf a.ty a.md) b.srstate fun l k =>
        arith a.ty a.md l (fl (elemValue a.ty (lane w va k)) (elemValue a.ty (lane w vb k)) (elemValue a.ty (lane w vc k)))
          (z (intOf (8 * w) (lane w va k)) (intOf (8 * w) (lane w vb k)) (intOf (8 * w) (lane w vc k)))

/-- A word of one source and a mod field. -/
def State.vUn (s : State) (i : Instr) (a : CUn) (lat charge : Nat) (f : Nat → Nat → Nat) : State :=
  s.vWord i a.vd a.rep lat charge (srOf a.ty a.md) (fun b x => [vRd b a.va x, pRd b a.pr]) fun b x =>
    let va := vSrc b a.va x
    elemwise a.ty (pFix b a.pr) (srOf a.ty a.md) b.srstate fun l k => f l (lane a.ty.width va k)

/-- A word of two sources without a mod field, lane by lane. -/
def State.vTri (s : State) (i : Instr) (a : CTri) (lat : Nat) (f : Nat → Nat → Nat) : State :=
  s.vWord i a.vd a.rep lat 2 false (fun b x => [vRd b a.va x, vRd b a.vb x, pRd b a.pr]) fun b x =>
    let va := vSrc b a.va x
    let vb := vSrc b a.vb x
    elemwise a.ty (pFix b a.pr) false b.srstate fun _ k => f (lane a.ty.width va k) (lane a.ty.width vb k)

/-! ### Arithmetic (12 R266-R268) -/

/-- negp of a mod field (07 R157). -/
def negp (md : BitVec 5) : Bool := md.getLsbD 4

/-- nega of a mod field (07 R157). -/
def nega (md : BitVec 5) : Bool := md.getLsbD 3

/-- The rounding is rdn, under which a zero sum of opposite signs is −0. -/
def isRdn (md : BitVec 5) : Bool := rndOf md == 2

/-- VADD (12 R266, R267). -/
def execVadd (a : CBin) (s : State) : Out :=
  .next (s.vBin (.vadd a) a 4 2 false (fun x y _ => Num.add (isRdn a.md) (x.negIf (negp a.md)) (y.negIf (nega a.md)))
    fun x y _ => x + y)

/-- VSUB (12 R266, R267). -/
def execVsub (a : CBin) (s : State) : Out :=
  .next (s.vBin (.vsub a) a 4 2 false (fun x y _ => Num.add (isRdn a.md) (x.negIf (negp a.md)) (y.negIf (!nega a.md)))
    fun x y _ => x - y)

/-- VMUL (12 R266, R267). -/
def execVmul (a : CBin) (s : State) : Out :=
  .next (s.vBin (.vmul a) a 4 2 false (fun x y _ => (Num.mul x y).negIf (negp a.md)) fun x y _ => x * y)

/-- VFMA: one rounding of ±(a × b) + (±c), c being vd at issue (12 R266, R267). -/
def execVfma (a : CBin) (s : State) : Out :=
  .next (s.vBin (.vfma a) a 4 2 true
    (fun x y c => Num.add (isRdn a.md) ((Num.mul x y).negIf (negp a.md)) (c.negIf (nega a.md))) fun x y c => x * y + c)

/-- VMIN (12 R266; 08 R196). -/
def execVmin (a : CTri) (s : State) : Out :=
  .next (s.vTri (.vmin a) a 2 fun x y => if orderKey a.ty y < orderKey a.ty x then y else x)

/-- VMAX (12 R266; 08 R196). -/
def execVmax (a : CTri) (s : State) : Out :=
  .next (s.vTri (.vmax a) a 2 fun x y => if orderKey a.ty x < orderKey a.ty y then y else x)

/-- VABS: the sign bit cleared, or |a| wrapped or saturated (12 R266, R267). -/
def execVabs (a : CUn) (s : State) : Out :=
  .next (s.vUn (.vabs a) a 2 2 fun _ x =>
    if a.ty.isFloat then x % 2 ^ (8 * a.ty.width - 1)
    else
      let z : Int := (intOf (8 * a.ty.width) x).natAbs
      bitsOfInt (8 * a.ty.width) (if a.md.getLsbD 4 then satInt (8 * a.ty.width) z else z))

/-- VDIV (12 R268). -/
def execVdiv (a : CBin) (s : State) : Out :=
  .next (s.vBin (.vdiv a) a 12 3 false (fun x y _ => (Num.div x y).negIf (negp a.md)) fun x _ _ => x)

/-- VRCP (12 R268). -/
def execVrcp (a : CUn) (s : State) : Out :=
  .next (s.vUn (.vrcp a) a 6 3 fun l x => arith a.ty a.md l (Num.rcp (elemValue a.ty x)) 0)

/-- VRSQ (12 R268). -/
def execVrsq (a : CUn) (s : State) : Out :=
  .next (s.vUn (.vrsq a) a 6 3 fun l x => arith a.ty a.md l (Num.rsq (elemValue a.ty x)) 0)

/-- VEXP2 (12 R268). -/
def execVexp2 (a : CUn) (s : State) : Out :=
  .next (s.vUn (.vexp2 a) a 6 3 fun l x => arith a.ty a.md l (Num.exp2 (elemValue a.ty x)) 0)

/-- VLOG2 (12 R268). -/
def execVlog2 (a : CUn) (s : State) : Out :=
  .next (s.vUn (.vlog2 a) a 6 3 fun l x => arith a.ty a.md l (Num.log2 (elemValue a.ty x)) 0)

/-- VSQRT (12 R268). -/
def execVsqrt (a : CUn) (s : State) : Out :=
  .next (s.vUn (.vsqrt a) a 12 3 fun l x => arith a.ty a.md l (Num.sqrt (elemValue a.ty x)) 0)

/-! ### Conversion and quantisation (12 R269, R270) -/

/-- One converted lane: a copy where the types agree, else one rounding (08 R193, R194). -/
def convertEl (src dst : VTy) (rnd l : Nat) (nan : Bool) (x : Nat) : Nat :=
  if src = dst then x else elemRound dst rnd l nan (elemValue src x)

/-- VCVT: lanes past the source's lanes are zero (12 R269). -/
def execVcvt (a : CCvt) (s : State) : Out :=
  let sr := a.rnd.toNat == 5
  .next (s.vWord (.vcvt a) a.vd a.rep 4 2 sr (fun b x => [vRd b a.va x, pRd b a.pr]) fun b x =>
    let va := vSrc b a.va x
    elemwise a.ty (pFix b a.pr) sr b.srstate fun l k =>
      if k < min (lanesOf a.src) (lanesOf a.ty) then convertEl a.src a.ty a.rnd.toNat l a.nan (lane a.src.width va k) else 0)

/-- Splits a list into runs of `n`. -/
def chunks {α : Type} (n : Nat) : Nat → List α → List (List α)
  | 0, _ => []
  | k + 1, xs => xs.take n :: chunks n k (xs.drop n)

/-- The exact quotient by the smoothing lane, rounded to FP32 (08 R198). -/
def smoothed (x sm : Nat) : Num := fmtFp32.value (fmtFp32.round 0 0 false (Num.div (fmtFp32.value x) (fmtFp32.value sm)))

/-- The bytes of a quantised register: the elements, then one scale byte per block (12 R270, Table 12.5). -/
def quantReg (el : MEl) (nx : Bool) (nanMode : Bool) (va vb vd : Vec) : Vec :=
  let t := fmtFp32.value (lane 4 vd 0)
  let n := if nx then 8 else 32
  let qs := (List.range 64).map fun k => smoothed (lane 4 va k) (lane 4 vb k)
  let bs := (chunks n (64 / n) qs).map (quantBlock el (if nx then some t else none) nanMode)
  let els := bs.flatMap (·.1)
  BitVec.ofNat 2048 (packEls el.width els + 2 ^ (64 * el.width) * packEls 8 (bs.map (·.2)))

/-- VQNT (12 R270). -/
def execVqnt (a : CQnt) (s : State) : Out :=
  .next (s.vWord (.vqnt a) a.vd a.rep 8 3 false
    (fun b x => [vRd b a.va x, vRd b a.vb x] ++ if a.nx then [vRd b a.vd x] else [])
    fun b x =>
      { val := quantReg (narrowEl a.elem.toNat) a.nx a.nan (vSrc b a.va x) (vSrc b a.vb x) (vSrc b a.vd x)
        mask := BitVec.allOnes 256, L := b.srstate })

/-- The lanes of a dequantised register: one rounding of element × scale × smoothing (12 R270). -/
def dequantLanes (el : MEl) (nx : Bool) (va vb vd : Vec) : List Nat :=
  let n := if nx then 8 else 32
  let t := fmtFp32.value (lane 4 vd 0)
  (List.range 64).map fun k =>
    let e := el.value (if nx then .nx else .mx) (packedEl el.width va.toNat k)
    let sb := packedEl 8 (va.toNat / 2 ^ (64 * el.width)) (k / n)
    let sc := if nx then Num.mul (ue5m3 sb) t else e8m0 sb
    fmtFp32.round 0 0 false (Num.mul (Num.mul e sc) (fmtFp32.value (lane 4 vb k)))

/-- VDQNT (12 R270). -/
def execVdqnt (a : CDqnt) (s : State) : Out :=
  .next (s.vWord (.vdqnt a) a.vd a.rep 4 3 false
    (fun b x => [vRd b a.va x, vRd b a.vb x] ++ if a.nx then [vRd b a.vd x] else [])
    fun b x =>
      wholeReg 4 (dequantLanes (narrowEl a.elem.toNat) a.nx (vSrc b a.va x) (vSrc b a.vb x) (vSrc b a.vd x)) b.srstate)

/-! ### Comparison, selection, logic, shifts (12 R271-R274) -/

/-- A predicate whose lanes of `w` bits are the truths of `f` (12 R260). -/
def predOf (w : Nat) (f : Nat → Bool) : Pred :=
  let ls := (List.range (256 / w)).map f
  BitVec.ofNat 256 (laneMask.packBits ((List.range 256).map fun b => ls.getD (b / w) false))

/-- The relations (12 Table 12.6). -/
def relHolds (rel : Nat) (x y : Int) : Bool :=
  match rel with
  | 0 => x == y
  | 1 => x != y
  | 2 => decide (x < y)
  | 3 => decide (x ≤ y)
  | 4 => decide (y < x)
  | _ => decide (y ≤ x)

/-- VCMP (12 R271). -/
def execVcmp (a : CCmp) (s : State) : Out :=
  .next (s.pWord (.vcmp a) a.pd a.rep (fun b x => [vRd b a.va x, vRd b a.vb x, pRd b a.pr]) fun b x =>
    let w := a.ty.width
    let va := vSrc b a.va x
    let vb := vSrc b a.vb x
    (predOf w fun k => relHolds a.rel.toNat (orderKey a.ty (lane w va k)) (orderKey a.ty (lane w vb k)),
      laneMask (pFix b a.pr) w))

/-- VSEL: the predicate selects, and every lane is written (12 R272). -/
def execVsel (a : CTri) (s : State) : Out :=
  .next (s.vWord (.vsel a) a.vd a.rep 2 2 false (fun b x => [vRd b a.va x, vRd b a.vb x, pRd b a.pr]) fun b x =>
    { val := mergeBytes (vSrc b a.vb x) (vSrc b a.va x) (laneMask (pFix b a.pr) a.ty.width)
      mask := BitVec.allOnes 256, L := b.srstate })

/-- A bitwise word (12 R273). -/
def State.vBits (s : State) (i : Instr) (a : CTri) (f : Vec → Vec → Vec) : State :=
  s.vWord i a.vd a.rep 2 2 false (fun b x => [vRd b a.va x, vRd b a.vb x, pRd b a.pr]) fun b x =>
    { val := f (vSrc b a.va x) (vSrc b a.vb x), mask := laneMask (pFix b a.pr) a.ty.width, L := b.srstate }

/-- VAND (12 R273). -/
def execVand (a : CTri) (s : State) : Out := .next (s.vBits (.vand a) a fun x y => x &&& y)
/-- VOR (12 R273). -/
def execVor (a : CTri) (s : State) : Out := .next (s.vBits (.vor a) a fun x y => x ||| y)
/-- VXOR (12 R273). -/
def execVxor (a : CTri) (s : State) : Out := .next (s.vBits (.vxor a) a fun x y => x ^^^ y)

/-- VSHL: a count of the width or more shifts everything out; with saturation the exact value is clamped (12 R274). -/
def execVshl (a : CBin) (s : State) : Out :=
  .next (s.vWord (.vshl a) a.vd a.rep 2 2 false (fun b x => [vRd b a.va x, vRd b a.vb x, pRd b a.pr]) fun b x =>
    let w := a.ty.width
    let va := vSrc b a.va x
    let vb := vSrc b a.vb x
    elemwise a.ty (pFix b a.pr) false b.srstate fun _ k =>
      let z := intOf (8 * w) (lane w va k) * (2 ^ min (lane w vb k) (8 * w) : Nat)
      bitsOfInt (8 * w) (if a.md.getLsbD 4 then satInt (8 * w) z else z))

/-- VSHR (12 R274). -/
def execVshr (a : CTri) (s : State) : Out :=
  .next (s.vTri (.vshr a) a 2 fun x k => x / 2 ^ min k (8 * a.ty.width))

/-- VSHRA (12 R274). -/
def execVshra (a : CTri) (s : State) : Out :=
  .next (s.vTri (.vshra a) a 2 fun x k =>
    bitsOfInt (8 * a.ty.width) (intOf (8 * a.ty.width) x / (2 ^ min k (8 * a.ty.width) : Nat)))

/-! ### Moves and scalar transfer (12 R275, R276) -/

/-- VMOV (12 R275). -/
def execVmov (a : CMov) (s : State) : Out :=
  .next (s.vWord (.vmov a) a.vd a.rep 2 2 false (fun b x => [vRd b a.va x, pRd b a.pr]) fun b x =>
    { val := vSrc b a.va x, mask := laneMask (pFix b a.pr) a.ty.width, L := b.srstate })

/-- The lane value of a VMOVI (12 Table 12.7). -/
def moviLane (ty : VTy) (imm : BitVec 16) : Nat :=
  match ty with
  | .fp32 => imm.toNat * 2 ^ 16
  | .bf16 | .fp16 | .i16 => imm.toNat
  | .i32 => (imm.signExtend 32).toNat
  | .e4m3 | .e5m2 | .i8 => imm.toNat % 256

/-- VMOVI (12 R275). -/
def execVmovi (a : CMovi) (s : State) : Out :=
  .next (s.vWord (.vmovi a) a.vd a.rep 2 2 false (fun _ _ => []) fun b _ =>
    wholeReg a.ty.width ((List.range (lanesOf a.ty)).map fun _ => moviLane a.ty a.imm) b.srstate)

/-- VFROMS (12 R275). -/
def execVfroms (a : CFroms) (s : State) : Out :=
  .next (s.vWord (.vfroms a) a.vd a.rep 2 2 false (fun b _ => [pRd b a.pr]) fun b x =>
    elemwise a.ty (pFix b a.pr) false b.srstate fun _ _ => (x.caps.getD 0 0).toNat % 2 ^ (8 * a.ty.width))

/-- VTOS: one lane to a scalar register, written when it lands; s0 discards it (12 R276). -/
def execVtos (a : CTos) (s : State) : Out :=
  .next (s.cWord (.vtos a) {
    reps := 1, sr := false, charge := 2, reads := fun b x => [vRd b a.va x], wait := fun _ _ => false, fault := fun _ _ => none
    eff := fun t x =>
      let w := a.ty.width
      let v := lane w (vSrc t.here a.va x) ((x.caps.getD 0 0).toNat % lanesOf a.ty)
      let r : Word := if a.ty.isFloat then BitVec.ofNat 64 v else BitVec.ofNat 64 (bitsOfInt 64 (intOf (8 * w) v))
      { st := t, tgt := some (if a.sd = 0 then .nothing else .s a.sd r), lat := 4, late := false, poison := false, addr := 0 } })

/-! ### Reductions (08 R197; 12 R277) -/

/-- The levels of the reduction tree: at each, lane i takes lane i + N/2^j (08 R197). -/
def treeSum (f : Nat → Nat → Nat) : Nat → List Nat → Nat
  | 0, xs => xs.headD 0
  | k + 1, xs =>
    let h := xs.length / 2
    if h = 0 then xs.headD 0 else treeSum f k (List.zipWith f (xs.take h) (xs.drop h))

/-- One addition of the tree: FP32 under RNE, or INT32 wrapped or saturated (08 R197). -/
def redAdd (fl sat : Bool) (x y : Nat) : Nat :=
  if fl then fmtFp32.round 0 0 false (Num.add false (fmtFp32.value x) (fmtFp32.value y))
  else
    let z := intOf 32 x + intOf 32 y
    bitsOfInt 32 (if sat then satInt 32 z else z)

/-- A lane as it enters the tree: widened to FP32 or INT32; an excluded one as −0 or 0 (08 R197). -/
def redLane (ty : VTy) (act : Bool) (x : Nat) : Nat :=
  if ty.isFloat then (if act then fmtFp32.round 0 0 false (elemValue ty x) else 0x80000000)
  else if act then bitsOfInt 32 (intOf (8 * ty.width) x) else 0

/-- A reduction: every byte of the destination is written. -/
def State.vRed (s : State) (i : Instr) (vd va : BitVec 6) (pr : BitVec 4) (ty : VTy) (rep : BitVec 5)
    (f : (Nat → Bool) → (Nat → Nat) → Nat) : State :=
  s.vWord i vd rep 8 2 false (fun b x => [vRd b va x, pRd b pr]) fun b x =>
    let p := pFix b pr
    let v := vSrc b va x
    { val := BitVec.ofNat 2048 (f (laneActive p ty.width) (lane ty.width v)), mask := BitVec.allOnes 256, L := b.srstate }

/-- VREDADD (08 R197; 12 R277). -/
def execVredadd (a : CUn) (s : State) : Out :=
  .next (s.vRed (.vredadd a) a.vd a.va a.pr a.ty a.rep fun act ln =>
    treeSum (redAdd a.ty.isFloat (a.md.getLsbD 4)) 8 ((List.range (lanesOf a.ty)).map fun k => redLane a.ty (act k) (ln k)))

/-- The element that an excluded lane enters VREDMAX or VREDMIN as: the least or the greatest (12 Table 12.8). -/
def redNeutral (ty : VTy) (greatest : Bool) : Nat :=
  let w := 8 * ty.width
  if ty.isFloat then (if greatest then 2 ^ (w - 1) - 1 else 2 ^ w - 1)
  else if greatest then 2 ^ (w - 1) - 1 else 2 ^ (w - 1)

/-- The lanes of a reduction with the excluded ones replaced. -/
def redLanes (ty : VTy) (neutral : Nat) (act : Nat → Bool) (ln : Nat → Nat) : List Nat :=
  (List.range (lanesOf ty)).map fun k => if act k then ln k else neutral

/-- VREDMAX (12 R277). -/
def execVredmax (a : CMov) (s : State) : Out :=
  .next (s.vRed (.vredmax a) a.vd a.va a.pr a.ty a.rep fun act ln =>
    (redLanes a.ty (redNeutral a.ty false) act ln).foldl (fun x y => if orderKey a.ty x < orderKey a.ty y then y else x)
      (redNeutral a.ty false))

/-- VREDMIN (12 R277). -/
def execVredmin (a : CMov) (s : State) : Out :=
  .next (s.vRed (.vredmin a) a.vd a.va a.pr a.ty a.rep fun act ln =>
    (redLanes a.ty (redNeutral a.ty true) act ln).foldl (fun x y => if orderKey a.ty y < orderKey a.ty x then y else x)
      (redNeutral a.ty true))

/-- VARGMAX: the lowest active lane of the greatest value, 0xFFFFFFFF where none is active (12 R277; 08 R196). -/
def execVargmax (a : CMov) (s : State) : Out :=
  .next (s.vRed (.vargmax a) a.vd a.va a.pr a.ty a.rep fun act ln =>
    let best := ((List.range (lanesOf a.ty)).filter act).foldl (fun (m : Option Nat) k =>
      match m with
      | none => some k
      | some j => if orderKey a.ty (ln j) < orderKey a.ty (ln k) then some k else some j) none
    best.getD 0xFFFFFFFF)

/-! ### Permutes (12 R278) -/

/-- VPERM (12 R278). -/
def execVperm (a : CTri) (s : State) : Out :=
  .next (s.vWord (.vperm a) a.vd a.rep 3 2 false (fun b x => [vRd b a.va x, vRd b a.vb x, pRd b a.pr]) fun b x =>
    let w := a.ty.width
    let va := vSrc b a.va x
    let vb := vSrc b a.vb x
    elemwise a.ty (pFix b a.pr) false b.srstate fun _ k => lane w va (lane w vb k % lanesOf a.ty))

/-- VSLIDE (12 R278). -/
def execVslide (a : CSlide) (s : State) : Out :=
  .next (s.vWord (.vslide a) a.vd a.rep 3 2 false (fun b x => [vRd b a.va x, pRd b a.pr]) fun b x =>
    let va := vSrc b a.va x
    let k := (x.caps.getD 0 0).toInt
    elemwise a.ty (pFix b a.pr) false b.srstate fun _ i =>
      if 0 ≤ (i : Int) + k ∧ (i : Int) + k < lanesOf a.ty then lane a.ty.width va ((i : Int) + k).toNat else 0)

/-- VBCAST (12 R278). -/
def execVbcast (a : CSlide) (s : State) : Out :=
  .next (s.vWord (.vbcast a) a.vd a.rep 2 2 false (fun b x => [vRd b a.va x, pRd b a.pr]) fun b x =>
    let v := lane a.ty.width (vSrc b a.va x) ((x.caps.getD 0 0).toNat % lanesOf a.ty)
    elemwise a.ty (pFix b a.pr) false b.srstate fun _ _ => v)

/-- VIOTA (12 R278). -/
def execViota (a : CIota) (s : State) : Out :=
  .next (s.vWord (.viota a) a.vd a.rep 2 2 false (fun b _ => [pRd b a.pr]) fun b _ =>
    elemwise a.ty (pFix b a.pr) false b.srstate fun _ k => k % 2 ^ (8 * a.ty.width))

/-! ### Predicates (12 R279) -/

/-- A word of two predicates. -/
def State.pBits (s : State) (i : Instr) (a : PBin) (f : Pred → Pred → Pred) : State :=
  s.pWord i a.pd a.rep (fun b x => [pRdj b a.pa x, pRdj b a.pb x, pRd b a.pr]) fun b x =>
    (f (pSrc b a.pa x) (pSrc b a.pb x), laneMask (pFix b a.pr) a.ty.width)

/-- PAND (12 R279). -/
def execPand (a : PBin) (s : State) : Out := .next (s.pBits (.pand a) a fun x y => x &&& y)
/-- POR (12 R279). -/
def execPor (a : PBin) (s : State) : Out := .next (s.pBits (.por a) a fun x y => x ||| y)
/-- PXOR (12 R279). -/
def execPxor (a : PBin) (s : State) : Out := .next (s.pBits (.pxor a) a fun x y => x ^^^ y)

/-- PNOT (12 R279). -/
def execPnot (a : PUn) (s : State) : Out :=
  .next (s.pWord (.pnot a) a.pd a.rep (fun b x => [pRdj b a.pa x, pRd b a.pr]) fun b x =>
    (~~~(pSrc b a.pa x), laneMask (pFix b a.pr) a.ty.width))

/-- PSET (12 R279). -/
def execPset (a : PSetW) (s : State) : Out :=
  .next (s.pWord (.pset a) a.pd a.rep (fun b _ => [pRd b a.pr]) fun b x =>
    (predOf a.ty.width fun k => decide (k < (x.caps.getD 0 0).toNat), laneMask (pFix b a.pr) a.ty.width))

end Sys2Proof.Machine
end

