-- ==== Sys2Proof/Machine/Matrix.lean ====
section
/-! DEFINITION. The matrix words and the K-steps of the matrix engine (13). -/

namespace Sys2Proof.Machine

open Sys2Proof

/-! ### Format words (13 R285-R287) -/

/-- The scaling of a format code. -/
def scalingOf (code : Nat) : Option Scaling := (matFmt code).map (·.2)

/-- A code carries an operand scale: per-channel or NX (13 R287). -/
def hasTrailer (code : Nat) : Bool :=
  match scalingOf code with
  | some .nx | some .channel => true
  | some .unscaled | some .mx | none => false

/-- An illegal format word (13 R288 check 3). -/
def badFormatWord (fw : BitVec 32) : Bool :=
  fwField fw 26 2 == 3 || fwField fw 30 2 != 0 || decide (95 < fwField fw 12 7)
    || (fw.getLsbD 28 && !hasTrailer (fwField fw 0 6)) || (fw.getLsbD 29 && !hasTrailer (fwField fw 6 6))

/-- The codes of an integer K-step (08 R188). -/
def intCode (code : Nat) : Bool := code == 0x03 || code == 0x0D || code == 0x0E || code == 0x0F

/-! ### Operands (13 R286, R289, R295) -/

/-- One operand of an MMA as a K-step reads it: `isB`, its code, rows or columns in its tile, the last valid one, the local
address of the tile, whether the element plane is transposed, and the operand scales with their bad units. -/
structure Operand where
  isB : Bool
  code : Nat
  rows : Nat
  lim : Nat
  tile : Nat
  trailer : Nat
  transposed : Bool
  scales : List (BitVec 32)
  bad : List Bool

/-- Operand A of K-step `k`. -/
def Mma.operandA (m : Mma) (k : Nat) : Operand where
  isB := false
  code := fwField m.fw 0 6
  rows := 96
  lim := fwField m.fw 12 7
  tile := m.pa + k * tileBytes 96 (fwField m.fw 0 6)
  trailer := m.pa + m.n * tileBytes 96 (fwField m.fw 0 6)
  transposed := m.transposed
  scales := m.gA
  bad := m.badA

/-- Operand B of K-step `k`. -/
def Mma.operandB (m : Mma) (k : Nat) : Operand where
  isB := true
  code := fwField m.fw 6 6
  rows := 128
  lim := fwField m.fw 19 7
  tile := m.pb + k * tileBytes 128 (fwField m.fw 6 6)
  trailer := m.pb + m.n * tileBytes 128 (fwField m.fw 6 6)
  transposed := false
  scales := m.gB
  bad := m.badB

/-- The index of element (r, m) in its plane (13 Table 13.2). -/
def Operand.index (o : Operand) (r m : Nat) : Nat := if o.transposed then 96 * m + r else 32 * r + m

/-- The operand scale of row or column `r` is number 0 for an NX tensor scale, `r` for a per-channel one. -/
def Operand.scaleIx (o : Operand) (r : Nat) : Nat := if scalingOf o.code = some .channel then r else 0

/-- The local address of the bad unit that substitutes an element: of its own bits, of its block scale, or of its operand
scale (13 R295). `bad` tells whether the unit at a local address is bad. DESIGN CHOICE: where several bad units substitute one element,
MERRLOG.ADDR names the first of them in that order, the element's lower unit before its upper; 13 R296 does not say (log entry 67). -/
def Operand.subst (o : Operand) (bad : Nat → Bool) (r m : Nat) : Option Nat :=
  match matFmt o.code with
  | none => none
  | some (el, sc) =>
    let w := el.width
    let i := o.index r m
    let u0 := (o.tile + w * i / 8) / 8 * 8
    let u1 := (o.tile + (w * i + w - 1) / 8) / 8 * 8
    let sb := (o.tile + o.rows * 4 * w + (if sc = .mx then r else 4 * r + m / 8)) / 8 * 8
    if bad u0 then some u0
    else if bad u1 then some u1
    else if sc.fixed && bad sb then some sb
    else if o.bad.getD (o.scaleIx r) false then some ((o.trailer + 4 * o.scaleIx r) / 8 * 8)
    else none

/-- The value of element (r, m): decoded value × block scale × operand scale (08 R187). -/
def Operand.value (o : Operand) (plane : Nat) (r m : Nat) : Num :=
  match matFmt o.code with
  | none => .nan
  | some (el, sc) =>
    let w := el.width
    let e := el.value sc (packedEl w plane (o.index r m))
    let sb (k : Nat) : Nat := packedEl 8 plane (o.rows * 4 * w + k)
    let e1 := match sc with
      | .mx => Num.mul e (e8m0 (sb r))
      | .nx => Num.mul e (ue5m3 (sb (4 * r + m / 8)))
      | .unscaled | .channel => e
    match o.scales with
    | [] => e1
    | _ => Num.mul e1 (fmtFp32.value (o.scales.getD (o.scaleIx r) 0).toNat)

/-- The values of the valid rows or columns, substituted elements as zero (13 R295). -/
def Operand.values (o : Operand) (plane : Nat) (bad : Nat → Bool) : Array (Array Num) :=
  ((List.range (o.lim + 1)).map fun r =>
    ((List.range 32).map fun m =>
      if (o.subst bad r m).isSome then .fin false 0 0 false else o.value plane r m).toArray).toArray

/-- The substitutions of an operand in order of row and column, each with its local address (13 R296). -/
def Operand.substs (o : Operand) (bad : Nat → Bool) : List (Nat × Nat × Nat) :=
  if o.isB then
    (List.range 32).flatMap fun m => (List.range (o.lim + 1)).filterMap fun r => (o.subst bad r m).map fun a => (m, r, a)
  else
    (List.range (o.lim + 1)).flatMap fun r => (List.range 32).filterMap fun m => (o.subst bad r m).map fun a => (r, m, a)

/-! ### One K-step (08 R189, R190; 13 R289) -/

/-- The integer of an exact value of an integer element. -/
def Num.toInt : Num → Int
  | .fin s m e _ => signedAt s m e 0
  | .nan | .inf _ => 0

/-- An element of the accumulator after a K-step, and whether it saturated. -/
def kstepEl (integer neg : Bool) (base : BitVec 32) (as bs : Array Num) : BitVec 32 × Bool :=
  if integer then
    let sum := (List.range 32).foldl (fun (z : Int) m => z + (as.getD m .nan).toInt * (bs.getD m .nan).toInt) 0
    let t := base.toInt + if neg then -sum else sum
    (BitVec.ofInt 32 (satInt 32 t), decide (satInt 32 t ≠ t))
  else
    let t := (List.range 32).foldl (fun (z : Num) m => Num.add false z ((Num.mul (as.getD m .nan) (bs.getD m .nan)).negIf neg))
      (fmtFp32.value base.toNat)
    (BitVec.ofNat 32 (fmtFp32.round 0 0 false t), false)

/-- The values of a function at `n` numbers from `k` on. -/
def listFrom {α : Type} (f : Nat → α) : Nat → Nat → List α
  | 0, _ => []
  | n + 1, k => f k :: listFrom f n (k + 1)

theorem listFrom_length {α : Type} (f : Nat → α) (n k : Nat) : (listFrom f n k).length = n := by
  induction n generalizing k with
  | zero => rfl
  | succ n ih => rw [listFrom, List.length_cons, ih]

/-- A vector by its elements. -/
def tabulate {α : Type} (n : Nat) (f : Nat → α) : Vector α n := ⟨(listFrom f n 0).toArray, by simp [listFrom_length]⟩

/-- An element of the accumulator after K-step `k` of an MMA, and whether it saturated: the valid region is updated (13 R287, R289). -/
def Mma.kstep (m : Mma) (k : Nat) (old : Vector (BitVec 32) 12288) (as bs : Array (Array Num)) (e : Nat) : BitVec 32 × Bool :=
  let mode := fwField m.fw 26 2
  let integer := intCode (fwField m.fw 0 6) && intCode (fwField m.fw 6 6)
  let i := e / 128
  let j := e % 128
  let was := old[e]?.getD 0
  if i ≤ fwField m.fw 12 7 ∧ j ≤ fwField m.fw 19 7 then
    kstepEl integer (mode == 2) (if k = 0 ∧ mode = 1 then 0 else was) (as.getD i #[]) (bs.getD j #[])
  else (was, false)

/-- The bits of MSTAT that a K-step sets (13 Table 13.6). -/
def mstatBits (a : Fin 4) (sat sub lost : Bool) : Word :=
  regOf [(1, bit sat), (1, bit sub), (1, bit lost), (5, 0), (4, if sub then 2 ^ a.val else 0), (4, if sat then 2 ^ a.val else 0)]

/-- MERRLOG of a substitution (13 Table 13.7). -/
def merrlogOf (a : Fin 4) (opnd k row col addr : Nat) : Word :=
  regOf [(32, addr), (8, 0), (7, col), (1, 0), (7, row), (5, k), (1, opnd), (2, a.val), (1, 1)]

/-- The bank's flags after the substitutions of a K-step (13 R296). -/
def Bank.noteSubsts (b : Bank) (a : Fin 4) (k : Nat) (sat : Bool) (subs : List (Nat × Nat × Nat × Nat)) : Bank :=
  match subs with
  | [] => { b with mstat := b.mstat ||| mstatBits a sat false false }
  | (op, row, col, addr) :: rest =>
    let full := b.merrlog.getLsbD 63
    { b with
      mstat := b.mstat ||| mstatBits a sat true (full || !rest.isEmpty)
      merrlog := if full then b.merrlog else merrlogOf a op k row col addr }

/-- What a K-step reads of an operand: the elements of its valid rows or columns and their block scales, as local addresses and lengths
(13 R287, R295). -/
def Operand.reads (o : Operand) : List (Nat × Nat) :=
  match matFmt o.code with
  | none => []
  | some (el, sc) =>
    let w := el.width
    let v := o.lim + 1
    (if o.transposed then (List.range 32).map fun m => (o.tile + 12 * w * m, (v * w + 7) / 8) else [(o.tile, 4 * w * v)])
      ++ [(o.tile + o.rows * 4 * w, v * sc.plane)]

/-- The running MMA performs and writes its next K-step, whose operands' errors are sensed; with the last one it completes and
pushes its token (03 R85; 13 R289, R290, R295). -/
def State.kstep (s0 : State) (n : BankId) : State :=
  let s1 := (s0.relookAll n).startMma n
  let b0 := s1.bank n
  match b0.mma with
  | [] => s1
  | m :: rest =>
    let look (o : Operand) (window : BitVec 2) (s : State) : State :=
      o.reads.foldl (fun (t : State) r => t.sense (b0.windowBase n window + r.1) r.2) s
    let s := look (m.operandB m.k) 1 (look (m.operandA m.k) 0 s1)
    let b := s.bank n
    let side (o : Operand) (window : BitVec 2) : Array (Array Num) × List (Nat × Nat × Nat) :=
      let base := b.windowBase n window
      let plane := leNat (s.store.view (dieOf n) (base + o.tile) (tileBytes o.rows o.code))
      let bad := fun (a : Nat) => s.store.badUnit ((base + a) / 8)
      (o.values plane bad, o.substs bad)
    let pa := side (m.operandA m.k) 0
    let pb := side (m.operandB m.k) 1
    let r := m.kstep m.k (b.acc.get m.acc) pa.1 pb.1
    let subs := pa.2.map (fun q => (0, q)) ++ pb.2.map (fun q => (1, q))
    let b1 := { b with
      acc := b.acc.set m.acc.val (tabulate 12288 fun e => (r e).1) m.acc.isLt
      wroteAcc := if b.wroteAcc.contains m.acc then b.wroteAcc else m.acc :: b.wroteAcc }
    let b2 := b1.noteSubsts m.acc m.k ((List.range 12288).any fun e => (r e).2) subs
    if m.n ≤ m.k + 1 then s.setBank n (({ b2 with mma := rest } : Bank).pushTok .C m.push)
    else
      let step := clocksNs (clockMhz (s.clusterPower (clusterOf n)).cls) (kstepClocks m.fw)
      s.setBank n { b2 with mma := { m with k := m.k + 1, nextNs := m.nextNs + step } :: rest }

/-- KSTEP_WRITE: a K-step's result is written, and after the last one the waiting MMA starts (13 R290). -/
def execKstepWrite (n : BankId) (s : State) : Out :=
  if (s.bank n).status == .running && (s.bank n).cut.isNone && !(s.bank n).mma.isEmpty then
    .next (((s.kstep n).startMma n).testDeadlock n)
  else .next s

/-! ### MMA and MMAT (13 R288-R290, R294) -/

/-- An FPUSH or FPUSHI that has not executed stands before the word (09 R221). -/
def Bank.formatAwaited (b : Bank) (uid : Nat) : Bool :=
  b.qS.any fun y => decide (y.uid < uid) && match y.what with
    | .word (.fpush _) | .word (.fpushi _) => true
    | _ => false

/-- The format word that an MMA of that number pops: the oldest, where its push comes before the MMA (09 R221; log entry 16). -/
def Bank.formatHead (b : Bank) (uid : Nat) : Option (BitVec 32) :=
  match b.fq with
  | [] => none
  | (u, fw) :: _ => if u ≤ uid then some fw else none

/-- What the head of an MMA answers to checks 1 to 5 (13 R288): the format word, a wait for it, or a cause and its TVAL. -/
inductive MmaChk where
  | pass (m : Mma) | wait | fail (c : Cause) (tval : Word)

/-- The MMA that a word would issue. -/
def mmaOf (a : MmaW) (t : Bool) (x : Entry) (fw : BitVec 32) : Mma where
  uid := x.uid
  acc := a.acc.toFin
  transposed := t
  pa := (x.caps.getD 0 0).toNat
  pb := (x.caps.getD 1 0).toNat
  n := a.n.toNat + 1
  k := 0
  fw := fw
  gA := []
  gB := []
  badA := []
  badB := []
  started := false
  nextNs := 0
  endNs := 0
  push := a.sy.push

/-- A cause of C. -/
def causeC (g k : Nat) : Cause := { group := g, kind := k, engine := .C }

/-- Checks 1 to 5 (13 R288). -/
def Bank.mmaCheck (b : Bank) (a : MmaW) (t : Bool) (x : Entry) : MmaChk :=
  match b.formatHead x.uid with
  | none => if b.formatAwaited x.uid then .wait else .fail (causeC 3 1) 0
  | some fw =>
    let m := mmaOf a t x fw
    if (matFmt (fwField fw 0 6)).isNone || (matFmt (fwField fw 6 6)).isNone then .fail (causeC 3 0) (fw.setWidth 64)
    else if badFormatWord fw then .fail (causeC 3 2) (fw.setWidth 64)
    else if m.pa % 32 ≠ 0 then .fail (causeC 1 6) (BitVec.ofNat 64 m.pa)
    else if m.pb % 32 ≠ 0 then .fail (causeC 1 6) (BitVec.ofNat 64 m.pb)
    else if b.spSize < m.pa + m.bytesA then .fail (causeC 1 3) (BitVec.ofNat 64 m.pa)
    else if b.mvSize < m.pb + m.bytesB then .fail (causeC 1 3) (BitVec.ofNat 64 m.pb)
    else .pass m

/-- An earlier C write to local storage or to an accumulator has not landed (13 Table 13.5). -/
def Bank.mmaMustLand (b : Bank) : Bool :=
  b.flights.any fun f => match f.tgt with
    | .acc _ _ | .accClear _ | .store => true
    | .v _ _ _ | .p _ _ _ | .s _ _ | .nothing => false

/-- MMA and MMAT: the checks at the head, the waits of 13 Table 13.5, the power check, and the issue, which pops the format
word (13 R288, R290). -/
def State.mmaWord (s0 : State) (i : Instr) (a : MmaW) (transposed : Bool) : State :=
  let p := s0.begin i
  let x := p.1
  let s1 := p.2
  if s1.here.cut.isSome || !s1.here.popsOk .C a.sy x || !s1.here.canPush .C a.sy.push then s1.hold .C x
  else
    let s2 := s1.relook s1.cur
    match s2.here.landDue with
    | (b1, some f) => (s2.setBank s2.cur ((b1.hold .C x).poisonTrap f)).endWaits s2.cur
    | (b1, none) =>
      let s := s2.setBank s2.cur b1
      match b1.mmaCheck a transposed x with
      | .wait => s.hold .C x
      | .fail c tval => s.raise c x tval
      | .pass m =>
        if b1.slackOut then s.hold .C x
        else if b1.mmaMustLand then (s.modBank s.cur fun b => { b with engcyc := b.engcyc + 1 }).hold .C x
        else if 2 ≤ b1.mma.length then s.hold .C x
        else
          let mhz := clockMhz (s.clusterPower (clusterOf s.cur)).cls
          let d := kstepClocks m.fw
          let start := b1.mma.foldl (fun n y => max n y.endNs) (s.time + clocksNs mhz 1)
          let adds := (List.range m.n).map fun k => (bucketOf (start + k * d * 1000 / mhz), 5 * d)
          match b1.overClass adds with
          | some tot => s.raise (causeC 5 0) x (overTval b1.pwrCls tot)
          | none =>
            let b2 := ((b1.takePops .C a.sy.pop).reserve .C a.sy.push).book (bucketOf s.time) adds
            let b3 := { b2 with
              fq := b2.fq.drop 1, engcyc := b2.engcyc + 1
              mma := b2.mma ++ [m.startAt start mhz] }
            (s.setBank s.cur b3).startMma s.cur

/-- MMA (13 R289). -/
def execMma (a : MmaW) (s : State) : Out := .next (s.mmaWord (.mma a) a false)
/-- MMAT: A's element plane is transposed (13 R289). -/
def execMmat (a : MmaW) (s : State) : Out := .next (s.mmaWord (.mmat a) a true)

/-! ### Accumulators (13 R291-R294) -/

/-- An issued MMA to the accumulator has not completed (13 R294). -/
def Bank.accBusy (b : Bank) (a : BitVec 2) : Bool := b.mma.any fun m => m.acc == a.toFin

/-- ACLR (13 R291). -/
def execAclr (a : AclrW) (s : State) : Out :=
  .next (s.cWord (.aclr a) {
    reps := 1, sr := false, charge := 1, reads := fun _ _ => [], wait := fun t _ => t.here.accBusy a.acc
    fault := fun _ _ => none
    eff := fun t _ =>
      { st := t, tgt := some (.accClear a.acc.toFin), lat := 2, late := false, poison := false, addr := 0 } })

/-- The beats of `n` rows (13 Table 13.4). -/
def beatsOf (ty : VTy) (n : Nat) : Nat :=
  match ty.width with
  | 4 => 2 * n
  | 2 => n
  | _ => (n + 1) / 2

/-- The first accumulator word of beat `p` and how many words it holds (13 Table 13.4). -/
def beatWords (ty : VTy) (row n p : Nat) : Nat × Nat :=
  match ty.width with
  | 4 => ((row + p / 2) * 128 + 64 * (p % 2), 64)
  | 2 => ((row + p) * 128, 128)
  | _ => ((row + 2 * p) * 128, 128 * min 2 (n - 2 * p))

/-- An accumulator word as an element (13 R292). -/
def accOut (ty : VTy) (rnd l : Nat) (x : BitVec 32) : Nat :=
  match ty with
  | .fp32 | .i32 => x.toNat
  | .i16 | .i8 => bitsOfInt (8 * ty.width) (satInt (8 * ty.width) x.toInt)
  | .bf16 | .fp16 | .e4m3 | .e5m2 => elemRound ty rnd l false (fmtFp32.value x.toNat)

/-- An element as an accumulator word: sign-extended, or widened exactly (13 R292). -/
def accIn (ty : VTy) (x : Nat) : BitVec 32 :=
  match ty with
  | .fp32 | .i32 => BitVec.ofNat 32 x
  | .i16 | .i8 => BitVec.ofInt 32 (intOf (8 * ty.width) x)
  | .bf16 | .fp16 | .e4m3 | .e5m2 => BitVec.ofNat 32 (fmtFp32.round 0 0 false (elemValue ty x))

/-- `cnt` accumulator words from `start` on as elements, with the stochastic steps by row and column (13 R292; 08 R192). -/
def accLanes (ty : VTy) (rnd start cnt : Nat) (acc : Vector (BitVec 32) 12288) (l : BitVec 32) : List Nat × BitVec 32 :=
  lanesFrom (rnd == 5) (fun _ => true) (fun l k => accOut ty rnd l (acc[start + k]?.getD 0)) (List.range cnt) l

/-- ARD: one beat writes one vector register (13 R292). -/
def execArd (a : ArdW) (s : State) : Out :=
  let n := a.rows.toNat + 1
  .next (s.cWord (.ard a) {
    reps := beatsOf a.ty n, sr := a.rnd == 5, charge := 2, reads := fun _ _ => [], wait := fun t _ => t.here.accBusy a.acc
    fault := fun _ _ => none
    eff := fun t x =>
      let w := beatWords a.ty a.row.toNat n x.rep
      let q := accLanes a.ty a.rnd.toNat w.1 w.2 (t.here.acc.get a.acc.toFin) t.here.srstate
      { st := t.modBank t.cur fun b => { b with srstate := q.2 }
        tgt := some (.v (physV t.here.rbv (a.v.toNat + x.rep)) (vecOfLanes a.ty.width q.1) (BitVec.allOnes 256))
        lat := 4, late := false, poison := false, addr := 0 } })

/-- AWR: one beat reads one vector register into accumulator words (13 R292). -/
def execAwr (a : AwrW) (s : State) : Out :=
  let n := a.rows.toNat + 1
  .next (s.cWord (.awr a) {
    reps := beatsOf a.ty n, sr := false, charge := 2
    reads := fun b x => [.v (physV b.rbv (a.v.toNat + x.rep))], wait := fun t _ => t.here.accBusy a.acc
    fault := fun _ _ => none
    eff := fun t x =>
      let w := beatWords a.ty a.row.toNat n x.rep
      let v := t.here.vreg (a.v.toNat + x.rep)
      { st := t
        tgt := some (.acc a.acc.toFin ((List.range w.2).map fun k => (w.1 + k, accIn a.ty (lane a.ty.width v k))))
        lat := 4, late := false, poison := false, addr := 0 } })

/-- ASTS: one beat stores 256 bytes of the converted accumulator (13 R293). -/
def execAsts (a : AstsW) (s : State) : Out :=
  let w := a.ty.width
  let addr := fun (x : Entry) => (x.caps.getD 0 0).toNat
  .next (s.cWord (.asts a) {
    reps := 48 * w, sr := a.rnd == 5, charge := 1, reads := fun _ _ => []
    wait := fun t x => t.here.accBusy a.acc || t.here.mmaOverlap 0 (addr x) (12288 * w)
    fault := fun t x => if x.rep = 0 then localFault t.here 0 (addr x) (12288 * w) else none
    eff := fun t x =>
      let q := accLanes a.ty a.rnd.toNat (256 / w * x.rep) (256 / w) (t.here.acc.get a.acc.toFin) t.here.srstate
      let l := t.here.windowBase t.cur 0 + addr x + 256 * x.rep
      { st := (t.modBank t.cur fun b => { b.settleReads l 256 with srstate := q.2 }).modStore fun st =>
          st.put (dieOf t.cur) l (vecBytes (vecOfLanes w q.1))
        tgt := some .store, lat := 6, late := false, poison := false, addr := 0 } })

end Sys2Proof.Machine
end

