-- ==== Sys2Proof/Machine/Worklist.lean ====
section
/-! DEFINITION. The compaction unit and its words WLAPPEND and WLTAKE (15 R323-R329). -/

namespace Sys2Proof.Machine

open Sys2Proof

/-! ### The words -/

/-- The gate and the checks of a word on list `k` of a group (15 R324): the state and the rights of the capture, a window-3
handle, alignment, the bound, poison, and the group's own checks. -/
def State.groupAccess (s : State) (e : Engine) (i : Instr) (needW : Bool) (list : Entry → Nat)
    (go : State → Entry → Nat → State) : State :=
  let p := s.begin i
  let x := p.1
  let s := p.2
  match x.cap with
  | none => s.hold e x
  | some c =>
    let o := (x.caps.getD 0 0).toNat
    let l := c.h.loc + o
    let g := s.lwGate e (usesOf i) x (s.store.blocks l 64) true
    if g ≠ .go then s.lwWait e x g
    else
      let x := { x with full := false }
      match ({ c with h := { c.h with isLocal := false } } : Capture).check true needW true 0 0 with
      | .wait => s.hold e x
      | .fail k => s.raiseMem e k x o
      | .pass =>
        let k := list x
        if !c.h.isLocal || c.h.window != 3 then s.raiseMem e 12 x o
        else if o % 64 ≠ 0 then s.raiseMem e 6 x o
        else if c.h.extent.toNat < o + 64 then s.raiseMem e 3 x o
        else
          let s := s.sense l 64
          if s.store.anyBad l 64 then s.raiseMem e 9 x o
          else if c.h.extent.toNat < o + s.store.groupSize l then s.raiseMem e 3 x o
          else
            let s := if k < s.store.nlists l then s.sense (l + 64 + 16 * k) 16 else s
            if k < s.store.nlists l ∧ s.store.anyBad (l + 64 + 16 * k) 16 then s.raiseMem e 9 x o
            else match s.store.groupFault l k with
              | some r => s.raise { group := 5, kind := 2, engine := e } x (BitVec.ofNat 64 r)
              | none => go s x l

/-- WLAPPEND: the status, and an item appended where it is 0 (15 R325). It is performed as it issues or, by a choice, later (04 R96; log
entry 61). -/
def execWlappend (a : Atom) (s : State) : Out :=
  .next (s.groupAccess .W (.wlappend a) true (fun x => (x.caps.getD 2 0).toNat) fun s x l =>
    let c := s.choose
    if c.1.testBit 0 then c.2.issuePend .W (.wlappend a) x a.scope l 64 [.s a.res 0]
    else
      let r := s.store.append (dieOf s.cur) l (x.caps.getD 2 0).toNat (x.caps.getD 1 0)
      ({ c.2 with store := r.1 } : State).issueSync .W (.wlappend a) x a.scope l 64 [.s a.res (BitVec.ofNat 64 r.2)] false)

/-- The registration of the WLTAKE of an entry. -/
def Store.wlOf (st : Store) (b : BankId) (uid : Nat) : Option WlWait := st.wlWaits.find? fun w => w.bank == b && w.uid == uid

/-- Registering would make every participant wait, so that the unit reads the headers of all lists (15 R326). -/
def Store.lastParticipant (st : Store) (l : Nat) : Bool := st.waiting l + 1 == st.npart l

/-- A WLTAKE leaves its head with its answer (15 R326). -/
def State.wlAnswered (s : State) (a : Atom) (x : Entry) (l : Nat) (v : Word) : State :=
  (s.modStore fun st => { st with wlWaits := st.wlWaits.filter fun w => !(w.bank == s.cur && w.uid == x.uid) }).issueSync
    .L (.wltake a) x a.scope l 64 [.s a.res v] false

/-- WLTAKE: an item, or all ones of a group that is done; else it registers and holds the L head, which it leaves with its answer once its
stream has room (15 R326; 04 R118). -/
def execWltake (a : Atom) (s : State) : Out :=
  let p := s.begin (.wltake a)
  match p.2.store.wlOf s.cur p.1.uid with
  | some w =>
    match w.answer with
    | some v =>
      if p.2.here.cut.isSome then .next (p.2.hold .L p.1)
      else if p.2.here.outstanding a.od.stream == 255 then .next (p.2.lwWait .L p.1 .exhausted)
      else .next (p.2.wlAnswered a p.1 w.group v)
    | none => .next (p.2.hold .L p.1)
  | none =>
    .next (s.groupAccess .L (.wltake a) false (fun x => (x.caps.getD 1 0).toNat) fun s x l =>
      let k := (x.caps.getD 1 0).toNat
      let d := dieOf s.cur
      if s.store.listLen l k ≠ 0 then
        let o := s.store.itemLoc l k (s.store.listHead l k)
        let s := s.sense o 8
        if s.store.anyBad o 8 then s.raiseMem .L 9 x (x.caps.getD 0 0).toNat
        else
          let q := s.store.takeItem d l k
          ({ s with store := q.2 } : State).wlAnswered a x l q.1
      else if s.store.groupDone l then s.wlAnswered a x l (BitVec.allOnes 64)
      else
        let s := if s.store.lastParticipant l then s.sense (l + 64) (16 * s.store.nlists l) else s
        if s.store.lastParticipant l && s.store.anyBad (l + 64) (16 * s.store.nlists l) then s.raiseMem .L 9 x (x.caps.getD 0 0).toNat
        else (s.modStore fun st => st.registerWl d { bank := s.cur, uid := x.uid, group := l, list := k, answer := none }).hold .L x)

end Sys2Proof.Machine
end

