-- ==== Sys2Proof/Machine/Traps.lean ====
section
/-! DEFINITION. The drain of a cut bank and its delivery, the answers to a cause, the end of a save, the restore of a
pre-empted task, and ERET (17 R357-R374). -/

namespace Sys2Proof.Machine

open Sys2Proof

/-! ### The drain (17 R359, Table 17.4) -/

/-- A PGMIG that has issued waits for the invalidation that it started (02 R60). -/
def Bank.migrates (b : Bank) : Bool := b.ops.any fun o => o.ent.isMigration && o.waiting

/-- The drain can end: no access that has passed its check waits at a home, for an allocation answer or for a late-frame conversion, no row
waits for a locked page, no migration is on its way, and the lehr holds no COMMIT or RETRACT (17 Table 17.4; 02 R49, R52; 01 R35). -/
def State.drained (s : State) (n : BankId) : Bool :=
  let b := s.bank n
  b.cut.isSome && !((b.qL ++ b.qW).any fun x => x.alloc != .none) && !b.migrates
    && !(b.copies.any fun c => c.flights.any fun f => f.puts.any fun p => s.store.locked p.loc) && !b.ops.any s.slotHeld

/-- The handle results on their way land, and their pushes are made. -/
def Bank.landHandles (b : Bank) : Bank :=
  b.hland.foldl (fun (b : Bank) (l : HLand) => ({ b with h := b.h.set l.reg.toNat l.h l.reg.isLt } : Bank).pushTok .S l.push)
    { b with hland := [] }

/-- A waiting WLTAKE that is answered issues in the drain; one that is not drops its registration (15 R328). -/
def State.drainWl (s : State) (n : BankId) : State :=
  match (s.bank n).qL with
  | [] => s
  | x :: rest =>
    match x.what, s.store.wlOf n x.uid with
    | .word (.wltake a), some w =>
      match w.answer with
      | some v =>
        { (({ s.modBank n fun b => { b with qL := rest } with cur := n } : State).wlAnswered a x w.group v) with cur := s.cur }
      | none => s.modStore fun st => st.dropWl (dieOf n) n
    | _, _ => s

/-- A SEMWAIT or BARWAIT that still waits is withdrawn: its entry stands again at the L head, not issued (10 R236). -/
def Bank.withdrawWait (b : Bank) (o : Op) : Bank :=
  let b1 := (b.uncountIssue o.stream).unreserve o.eng o.push
  { b1 with ops := b1.ops.filter fun a => a.uid != o.uid, qL := o.ent :: b1.qL }

/-- Every unmet wait of the bank is withdrawn; one whose first read is still to be made is unmet where that finds it so (10 R236). -/
def State.withdrawWaits (s : State) (n : BankId) : State :=
  let unmet (w : SyncWait) : Bool := w.bank == n && w.met.isNone && !(w.unread && (w.holds s.store).isSome)
  let gone := sortBy (fun (o p : Op) => decide (p.uid ≤ o.uid))
    ((s.bank n).ops.filter fun o => s.store.waits.any fun w => w.uid == o.uid && unmet w)
  (s.modBank n fun b => gone.foldl Bank.withdrawWait b).modStore fun st => { st with waits := st.waits.filter fun w => !unmet w }

/-- The bank is cut for poison that the L head found (03 R86). -/
def Bank.cutByPoison (b : Bank) : Bool := b.cut == some (.cause { group := 1, kind := 9, engine := .L })

/-- The loads of the repetitions and segments of an entry of L that have passed are made (10 R231; 17 R357), but for registers that
an earlier word has still to write (07 R164), and for the segments of a repetition that found poison, which the entry keeps
(10 R231). Their late parts are read. -/
def State.landEntry (s : State) (n : BankId) (x : Entry) : State × Entry :=
  if x.got.isEmpty then (s, x)
  else
    let p := s.readLate (dieOf n) x.late x.got
    let b := p.1.bank n
    let stays (w : RegW) : Bool := match w with
      | .s r _ => !b.firstWriter x.uid r
      | .v .. => false
      | .seg _ _ _ rep => b.cutByPoison && x.seg != 0 && rep == x.rep
    let made := p.2.filter fun w => !stays w
    (p.1.setBank n (made.foldl Bank.regW b), { x with got := p.2.filter stays, late := [], done := x.done ++ scalarRegs made })

/-- What the entries of L have loaded before the cut is made, though waits stand before them (10 R229, R231; 17 R357). -/
def State.landPartial (s : State) (n : BankId) : State :=
  let p := (s.bank n).qL.foldl (fun (p : State × List Entry) x =>
    let q := p.1.landEntry n x
    (q.1, p.2 ++ [q.2])) (s, [])
  p.1.modBank n fun b => { b with qL := p.2 }

/-- The stores of the repetitions of the W head that have passed are performed (17 R357). -/
def State.storePartial (s : State) (n : BankId) : State :=
  match (s.bank n).qW with
  | [] => s
  | x :: rest =>
    let t := (x.puts.flatMap Put.left).foldl (fun (t : State) q =>
      ((t.senseMerge (dieOf n) q.1 q.2.length).trafficStore (dieOf n) (reqOf n) q.1 q.2.length).modStore fun st => st.put (dieOf n) q.1 q.2) s
    t.modBank n fun b => { b with qW := { x with puts := [] } :: rest }

/-- Every row that has issued lands (11 R256). -/
def State.landRows (s : State) (n : BankId) : State :=
  (s.bank n).copies.foldl (fun (t : State) c => c.flights.foldl (fun (u : State) _ => u.landRow n c.uid fun _ => true) t) s

/-- An operation completes in the drain unless it waits. Where words that have not issued, or C writes that have not landed, write one
of its registers before it, what it writes there is kept until they have (04 R121; 07 R163, R164). -/
def State.drainOp (n : BankId) (s : State) (uid : Nat) : State :=
  match (s.bank n).ops.find? fun o => o.uid == uid with
  | none => s
  | some o =>
    match s.store.ready n o with
    | none => s
    | some o' =>
      let p := (s.settlePreds n o').perform n o'
      let now (w : RegW) : Bool := (p.1.bank n).mayWrite { p.2 with loads := [w] }
      let kept := p.2.loads.filter fun w => !now w
      let t := p.1.complete n { p.2 with loads := p.2.loads.filter now }
      if kept.isEmpty then t
      else t.modBank n fun b => { b with ops := b.ops ++ [{ p.2 with
        loads := kept, puts := [], scope := none, blocks := [], waiting := false, fabric := false, spent := true
        dest := scalarRegs kept
        ent := { p.2.ent with late := [] } }] }

/-- The K-steps that had begun at the cut end, and their results are written (13 R297; 17 Table 17.4). -/
def State.endKsteps (n : BankId) (mhz : Nat) : Nat → State → State
  | 0, s => s
  | k + 1, s =>
    match (s.bank n).mma with
    | m :: _ => if m.begun mhz (s.bank n).cutAt then State.endKsteps n mhz k (s.kstep n) else s
    | [] => s

/-- What stands before the cut is finished: S, L, W and C as 17 Table 17.4 gives. Writes of registers that operations in flight had still to
make before others are made first. Local loads in flight keep the bytes that they have read (log entry 61). -/
def State.drain (s : State) (n : BankId) : State :=
  let s1 := (((s.modBank n Bank.landHandles).landPartial n).drainWl n).withdrawWaits n
  let s2 := (s1.storePartial n).landRows n
  let s3 := ((sortBy (fun (a b : Nat) => decide (a ≤ b)) ((s2.bank n).ops.map (·.uid))).foldl (State.drainOp n) s2).landPartial n
  let s4 := State.endKsteps n (clockMhz (s.clusterPower (clusterOf n)).cls) 3 s3
  (s4.modStore fun st => { st with arrivals := st.arrivals.filter fun a => a.bank != n }).modBank n fun b =>
    { b with flights := b.flights.map fun (f : Flight) => { f with arrived := true, relook := 0 } }

/-! ### Delivery (17 R360, R362, R363, R371) -/

/-- The message that brings a bank's cause to core 6 (17 R360; 19 R411; log entry 4). -/
def causeMsg (n : BankId) (code : Nat) : Msg :=
  let m := Config.causeMessage n.val code
  { sender := m.1, type := m.2.1, payload := m.2.2 }

/-- A bank's cause goes to core 6 (17 R360; 19 Table 19.7). -/
def Gaffer.tellCause (g : Gaffer) (n : BankId) (code : Nat) : Gaffer :=
  { g with causes := g.causes ++ [(n, code)] }.tell 6 (causeMsg n code)

/-- Core 6 takes the messages of a bank's causes as firmware answers them. -/
def Gaffer.takeCauses (g : Gaffer) (n : BankId) : Gaffer :=
  (g.causes.filter fun p => p.1 == n).foldl (fun (g : Gaffer) p => g.take 6 (causeMsg n p.2))
    { g with causes := g.causes.filter fun p => p.1 != n }

/-- Core 6 has received what the bank's cause brings: no message of it waits at its sender (19 R411). -/
def Gaffer.received (g : Gaffer) (n : BankId) : Bool :=
  (g.causes.filter fun p => p.1 == n).all fun p => !g.senders.any fun q => q.1 == 6 && q.2 == causeMsg n p.2

/-- Delivery to the gaffer complex: the header with KIND 1, the bank switched out, the cause in the mailbox of core 6, and the
core goes on with its other bank (17 R360). -/
def State.toGaffer (s : State) (n : BankId) : State :=
  let t := (s.writeFrame n 1).modBank n Bank.switchOut
  ((t.modGaffer fun g => g.tellCause n ((s.bank n).tcause.toNat % 2 ^ 9)).stopRun n).pickBank (coreOf n)

/-- A bank enters its handler. One that a HALT stopped at its cause stands there switched out, and its core goes on with its other bank (17
R363; 20 R419, R428). -/
def State.toTask (s : State) (n : BankId) : State :=
  let t := (s.writeFrame n 2).modBank n Bank.enterHandler
  if (s.bank n).stopped then ((t.modBank n fun b => { b with status := .switchedOut }).stopRun n).pickBank (coreOf n) else t

/-- DRAIN_COMPLETE: a cut bank has drained and is delivered: to its handler, to the gaffer complex, to its core's other bank, or
to a save. A pre-emption that a cause came into proceeds from the cause's cut (17 R358-R363, R371). -/
def execDrainComplete (n : BankId) (s : State) : Out :=
  if !s.drained n then .next s
  else
    let t := s.drain n
    match (t.bank n).cut with
    | none => .next s
    | some (.cause c) =>
      if (t.bank n).toHandler c then .next (t.toTask n)
      else if s.incoming.any fun p => p.1 == n.val then .next ((t.toGaffer n).saveBank n)
      else .next (t.toGaffer n)
    | some .switch =>
      .next (((t.modBank n fun b => { b with status := .ready, cut := none, readySince := s.time }).stopRun n).pickBank (coreOf n))
    | some .preempt => .next (((t.saveBank n).stopRun n).pickBank (coreOf n))

/-! ### The answers to a cause (17 R361, R362, R372) -/

/-- The capture is translated again: the VA of a stale, faulted or pending capture with its rights, as XLATE does (17 R361). -/
def State.refreshEntry (n : BankId) (p : List Entry × State) (x : Entry) : List Entry × State :=
  match x.cap with
  | none => (p.1 ++ [x], p.2)
  | some c =>
    if c.stale || c.h.st == .faulted || c.h.st == .pending then
      let va : Word := if c.h.st = .valid then c.h.base.setWidth 64 else c.h.va
      if va = -1 then (p.1 ++ [x], p.2)
      else
        let r := p.2.xlateHandle n va c.h.reqR c.h.reqW
        (p.1 ++ [{ x with cap := some { h := r.1, stale := false } }], { p.2 with xl := r.2 })
    else (p.1 ++ [x], p.2)

/-- Every saved entry of L and W is refreshed; handle registers are not written (17 R361). DESIGN CHOICE: where a handler runs, the captures in
its image stay as they were cut, and only the entries in its queues are refreshed; the spec does not say (log entry 67). -/
def State.refreshBank (s : State) (n : BankId) : State :=
  let l := (s.bank n).qL.foldl (State.refreshEntry n) ([], s)
  let w := (s.bank n).qW.foldl (State.refreshEntry n) ([], l.2)
  w.2.modBank n fun b => { b with qL := l.1, qW := w.1 }

/-- How the cause of a bank is answered: groups 0 and 2, and an error of a save region at a restore, with End; 1.4 with a refresh; of the
causes that go through TVEC, which came here for want of a handler or from one, 4.0.S with Resume and the others with End; the rest as
firmware decides (17 R361, R363, R364, R373). -/
def Bank.answered (b : Bank) (a : Answer) : Answer :=
  let code := b.tcause.toNat % 2 ^ 9
  if code / 64 = 0 ∨ code / 64 = 2 ∨ (code / 4 = 5 * 16 + 3 ∧ b.tval.toNat % 2 ^ 8 = 8) then .endTask
  else if code / 4 = 1 * 16 + 4 then .refresh
  else if code / 64 = 3 ∨ code / 64 = 4 ∨ code / 4 = 5 * 16 then (if code / 4 = 4 * 16 ∧ b.inh = false then .resume else .endTask)
  else a

/-- The cause of a bank is answered: the bank resumes, resumes after a refresh, or its task ends at the cut and is reported on
its launch's queue (17 R361). -/
def State.answerNow (s : State) (n : BankId) (a0 : Answer) : State :=
  let b := s.bank n
  let a := b.answered a0
  let t := (s.modGaffer fun g => g.takeCauses n).modBank n fun x =>
    { x with awaits := false, answer := none, stopped := false }
  match a with
  | .resume => t.switchBack n
  | .refresh => (t.refreshBank n).switchBack n
  | .endTask => (t.report (.taskEnded (b.ofTask (·.launch)) (b.tcause.toNat % 2 ^ 9))).endTask n

/-- Firmware's answer for a bank: at once where its task is switched out there, after the restore where it is pre-empted; a bank that a
HALT stopped at the entry of its handler goes on there, or ends (17 R361, R372; 20 R421, R428). -/
def State.answerCause (s : State) (n : BankId) (a : Answer) : State :=
  let b := s.bank n
  if b.stopped && !b.awaits && b.status == .switchedOut then
    let t := s.modBank n fun x => { x with stopped := false }
    match a with
    | .resume => t.switchIn n
    | .refresh => (t.refreshBank n).switchIn n
    | .endTask => (t.report (.taskEnded (b.ofTask (·.launch)) (b.tcause.toNat % 2 ^ 9))).endTask n
  else if b.awaits && b.status == .switchedOut then s.answerNow n a
  else if b.awaits && b.status == .preempted then s.modBank n fun x => { x with answer := some a }
  else { s with saves := s.saves.map fun (p : Nat × Bank) =>
    if p.1 = n.val ∧ p.2.awaits = true then (p.1, { p.2 with answer := some a }) else p }

/-- RESUME (17 R361). -/
def execResume (n : BankId) (s : State) : Out := .next (s.answerCause n .resume)
/-- REFRESH (17 R361). -/
def execRefresh (n : BankId) (s : State) : Out := .next (s.answerCause n .refresh)
/-- ANSWER_END: END as firmware's answer (17 R361). -/
def execAnswerEnd (n : BankId) (s : State) : Out := .next (s.answerCause n .endTask)

/-! ### Save and restore (14 R314; 17 R371-R374) -/

/-- The task that waits for the save of a bank starts there; the eight tasks of a gang, which were booked together, one on each core of a
cluster, start in their banks once every one of those banks is free (14 R310, R314). -/
def State.startIncoming (s : State) (id : Nat) (n : BankId) : State :=
  let gang := s.incoming.any fun p => p.1 == n.val && p.2.task.any (·.gang)
  let booked := s.incoming.filter fun p => p.2.ofTask (·.launch) == id && p.1 / 16 == (clusterOf n).val
  let ps := if gang then (booked.drop ((booked.findIdx fun p => p.1 == n.val) / 8 * 8)).take 8 else s.incoming.filter fun p => p.1 == n.val
  if ps.all fun p => (s.bank (Fin.ofNat 576 p.1)).status == .free then
    ps.foldl (fun (t : State) p =>
      let n : BankId := Fin.ofNat 576 p.1
      t.putTask n { p.2 with
        stopSeq := (t.bank n).stopSeq, brk := (t.bank n).brk
        task := p.2.task.map fun (k : TaskInfo) => { k with started := s.time } })
      { s with incoming := s.incoming.filter fun p => !ps.any fun q => q.1 == p.1 }
  else s

/-- PREEMPTION_SAVE_END: the save is written, and the bank goes to the task that waits for it. A task saved before it had its grant
stays without one (14 R314; 17 R371; 18 R385). -/
def execPreemptionSaveEnd (n : BankId) (s : State) : Out :=
  let b := s.bank n
  if b.status ≠ .preempted then .next s
  else
    let kept : Bank := if s.shelved n then { b with status := .unfunded } else b
    let s1 := (({ s with saves := s.saves ++ [(n.val, kept)] } : State).modBank n Bank.emptied).retarget (clusterOf n)
    match s.incoming.find? fun p => p.1 == n.val with
    | none => .next s1
    | some p => .next (s1.startIncoming (p.2.ofTask (·.launch)) n)

/-- The entry that a cause of a restore names: PC and sequence number of the image (17 R373; log entry 30). -/
def Bank.imageEntry (b : Bank) : Entry := { b.capture (.rotate 0) with uid := b.uid, idx := if b.ctl then b.pc - 1 else b.pc }

/-- A cause of a restored bank, delivered as it stands to the gaffer complex (17 R373). -/
def State.failRestore (s : State) (n : BankId) (c : Cause) (tval : Word) : State :=
  (s.modBank n fun b => { b.raise c b.imageEntry tval false with cutAt := s.time }).toGaffer n

/-- A FREQREQ that the power core has not taken up arrives there again with its task (18 R383). -/
def State.requeueFreq (s : State) (n : BankId) : State :=
  match (s.bank n).freqPend with
  | some (op, _) => if op < 4 then
      { s with power := { s.power with freqOrder := s.power.freqOrder.filter (· != n) ++ [n] } } else s
  | none => s

/-- Regions of a bank's save area are read: what is wrong with their units is sensed, and the first uncorrectable one is named (17 R354,
R373; 03 R85, R90). -/
def State.readArea (s : State) (n : BankId) (ranges : List (Nat × Nat)) : State × Option Nat :=
  if s.store.clean then (s, none)
  else
    let area := ranges.map fun r => (saveBase n + r.1, r.2)
    let t := area.foldl (fun (t : State) r => t.sense r.1 r.2) s
    (t, (area.flatMap fun r => unitsOf r.1 r.2).find? t.store.badUnit)

/-- TVAL of 5.3.S for a unit of a bank's save area (17 R355). -/
def saveTval (n : BankId) (u : Nat) : Word := BitVec.ofNat 64 (8 + (u - saveBase n / 8) * 2 ^ 16)

/-- RESTORE: a pre-empted task comes back into its freed bank: its save area is checked, ECC and CHECK over every region, and the task is
ready or still switched out, where an answer given meanwhile takes effect. One that had no grant asks for its class again (17 R372-R374;
18 R383, R385). -/
def execRestore (n : BankId) (s : State) : Out :=
  match s.saves.find? (fun p => p.1 == n.val), s.frames.find? (fun p => p.1 == n.val) with
  | some (_, b), some (_, was) =>
    if (s.bank n).status ≠ .free then .next s
    else
      let s1 : State := { s with saves := s.saves.filter fun p => p.1 != n.val, frames := s.frames.filter fun p => p.1 != n.val }
      let old := s1.bank n
      let s2 := ((s1.setBank n { b with stopSeq := old.stopSeq, brk := old.brk }).retarget (clusterOf n)).requeueFreq n
      match s2.readArea n (was.frameRanges 3) with
      | (s3, some u) => .next (s3.failRestore n { group := 5, kind := 3, engine := .S } (saveTval n u))
      | (s3, none) =>
        if s3.store.homeNat (saveBase n + 0x3FDF8) 8 ≠ (s3.store.frameCrc n (was.frameRanges 3)).toNat then
          .next (s3.failRestore n { group := 2, kind := 1, engine := .S } 0)
        else if b.awaits then
          let s4 : State := { s3.modBank n fun x => { x with status := .switchedOut, kind := 1 } with
            store := s3.store.put (dieOf n) (saveBase n + 0x3FC00) (le8 1) }
          match b.answer with
          | some a => .next (s4.answerNow n a)
          | none => .next s4
        else if b.status = .unfunded then .next ((s3.clearKind n).askFunds n)
        else .next ((s3.switchBack n).testDeadlock n)
  | _, _ => .next s

/-! ### ERET (09 R215; 17 R365) -/

/-- ERET: outside a handler 0.5.S; else it waits as END does, and the bank goes on at the cut at which the handler was entered,
with a miss held meanwhile taken first. An uncorrectable unit in the image of the save area raises 5.3.S instead (17 R354, R364, R365; 03
R90). DESIGN CHOICE: its own push needs a place and goes the way of the handler's
tokens, which ERET discards (09 R202; log entry 63). -/
def execEret (a : S0) (s : State) : Out :=
  let p := s.begin (.eret a)
  let b := p.2.here
  match b.image with
  | none => .next (p.2.raise { group := 0, kind := 5, engine := .S } p.1 (((encode (.eret a)).getD 0).setWidth 64))
  | some g =>
    if b.cut.isNone && b.popsOk .S a.sy p.1 && b.canPush .S a.sy.push && b.quiet then
      let mhz := clockMhz (s.clusterPower (clusterOf s.cur)).cls
      match p.2.readArea s.cur (({ b with frameNo := g.frameNo } : Bank).frameRanges 2) with
      | (t, some u) => .next (t.raise { group := 5, kind := 3, engine := .S } p.1 (saveTval s.cur u))
      | (t, none) => .next ((((t.setBank s.cur ((b.leaveHandler g).resumeMma s.time mhz)).startMma s.cur).clearKind s.cur).takeMiss s.cur)
    else .next (p.2.hold .S p.1)

end Sys2Proof.Machine
end

