-- ==== Sys2Proof/Machine/Debug.lean ====
section
/-! DEFINITION. Debug: HALT, STOPSEQ, BREAK, the status word, and writes to a quiesced bank (20 R419-R421). -/

namespace Sys2Proof.Machine

open Sys2Proof

/-- 5.5.S. -/
def stopCause : Cause := { group := 5, kind := 5, engine := .S }

/-- Cause 5.5.S of a match at the head of an engine, which stands after the cut; TSTATE.ENGINE names the queue (20 R419). -/
def Bank.stopAt (b : Bank) (e : Engine) (x : Entry) (tval : Word) : Bank :=
  { b.raise stopCause x tval false with tstate := tstateOf { stopCause with engine := e } b.inh x, stopped := true }

/-- HALT reaches a bank whose task stands at a saved cut: it is stopped there; one that has not started is stopped as it starts
(20 R419). -/
def Bank.haltSaved (b : Bank) : Bank :=
  if b.status = .unfunded then { b with halt := true }
  else if b.awaits || b.stopped then { b with stopped := true }
  else { b.stopAt .S b.sEntry 0 with cut := b.cut, awaits := true }

/-- The frame of a pre-empted task is written anew (17 R368). -/
def State.rewriteFrame (s : State) (n : BankId) (b : Bank) : State :=
  { s with
    store := ((b.frame n 3).foldl (fun st r => st.put (dieOf n) (saveBase n + r.1) r.2) s.store).seal n (b.frameRanges 3)
    frames := s.frames.map fun p => if p.1 = n.val then (p.1, { b with status := p.2.status }) else p }

/-- Changes a pre-empted task, in its bank or saved, and its frame. -/
def State.modSaved (s : State) (n : BankId) (f : Bank → Bank) : State :=
  if (s.bank n).status = .preempted then (s.modBank n f).rewriteFrame n (f (s.bank n))
  else match s.saves.find? fun p => p.1 == n.val with
    | none => s
    | some (_, b) =>
      ({ s with saves := s.saves.map fun p => if p.1 = n.val then (p.1, f p.2) else p } : State).rewriteFrame n (f b)

/-- Core 6 receives 5.5 of a bank that had no cause (17 R360; 20 R419). -/
def State.tellStop (s : State) (n : BankId) (old : Bank) : State :=
  if old.awaits || old.stopped || old.status == .unfunded then s
  else s.modGaffer fun g => g.tellCause n stopCause.code

/-- HALT: a bank that executes is cut at its next core clock; one that is switched out or pre-empted is stopped at its saved cut; with
a cause of the bank, the cause stands and the bank is stopped at it; a task that has not started is stopped in its first core clock
(20 R419, R428). -/
def execHalt (n : BankId) (s : State) : Out :=
  let b := s.bank n
  match b.status, b.cut with
  | .running, none => .next ((s.modBank n fun b => b.stopAt .S b.sEntry 0).endWaits n)
  | .running, some (.cause _) => .next (s.modBank n fun b => { b with stopped := true })
  | .running, some .switch => .next (s.modBank n fun b => b.stopAt .S b.sEntry 0)
  | .running, some .preempt => .next ((s.modBank n Bank.haltSaved).tellStop n b)
  | .ready, _ => .next (((s.modBank n fun b => { b.stopAt .S b.sEntry 0 with cutAt := s.time })).toGaffer n)
  | .switchedOut, _ => .next ((s.modBank n Bank.haltSaved).tellStop n b)
  | .preempted, _ => .next ((s.modSaved n Bank.haltSaved).tellStop n b)
  | .free, _ | .shadow, _ =>
    match s.saves.find? fun p => p.1 == n.val with
    | some (_, x) => .next ((s.modSaved n Bank.haltSaved).tellStop n x)
    | none => .next s
  | .unfunded, _ => .next (s.modBank n fun b => { b with halt := true })

/-- STOPSEQ: a stop at a sequence number of an engine is armed, beside those that are (20 R419). -/
def execStopseq (n : BankId) (e : Engine) (q : BitVec 16) (s : State) : Out :=
  .next (s.modBank n fun b => { b with stopSeq := b.stopSeq.filter (· != (e, q)) ++ [(e, q)] })

/-- BREAK: a stop at an instruction index is armed, beside those that are (20 R419). -/
def execBrk (n : BankId) (idx : Word) (s : State) : Out :=
  .next (s.modBank n fun b => { b with brk := b.brk.filter (· != idx) ++ [idx] })

/-- DEBUG_DISARM: the armed stops of the bank are withdrawn (20 R419, R421). -/
def execDebugDisarm (n : BankId) (s : State) : Out := .next (s.modBank n fun b => { b with stopSeq := [], brk := [] })

/-- DEBUG_STOP_MATCH: a HALT that waited for the task's start, or an armed stop that matches at a queue head before its entry issues. Of
matches on several engines the first in the engines' order is taken. A STOPSEQ that has matched is no longer armed; a BREAK stays armed
until it is withdrawn (17 R358; 20 R419, R421; log entry 33). -/
def execDebugStopMatch (n : BankId) (s : State) : Out :=
  let b := s.bank n
  let seq (q : Engine × BitVec 16) (x : Entry) : State :=
    (s.modBank n fun b => { b.stopAt q.1 x 1 with stopSeq := b.stopSeq.filter (· != q) }).endWaits n
  if b.status ≠ .running ∨ b.cut.isSome then .next s
  else if b.halt then .next ((s.modBank n fun b => { b.stopAt .S b.sEntry 0 with halt := false }).endWaits n)
  else match b.seqAt .S, b.brkMatch, b.seqMatch with
    | some (q, x), _, _ => .next (seq q x)
    | none, some x, _ => .next ((s.modBank n fun b => b.stopAt .S x (BitVec.ofNat 64 (2 + x.idx.toNat * 2 ^ 8))).endWaits n)
    | none, none, some (q, x) => .next (seq q x)
    | none, none, none => .next s

/-- A stopped bank is quiesced: it has drained, its rows have landed, and it holds no request entry (20 R420). -/
def Bank.quiesced (b : Bank) : Bool :=
  b.stopped && b.cut.isNone && b.copies.all (fun c => c.flights.isEmpty) && b.requests == 0

/-- The debugger's request names the task in the bank; else a stopped task that is saved. -/
def State.debugsBank (s : State) (n : BankId) : Bool :=
  (s.bank n).stopped || !(s.saves.any fun p => p.1 == n.val && p.2.stopped)

/-- The bank that a debugger's request names: a stopped task that is pre-empted, or the task in the bank. -/
def State.debugged (s : State) (n : BankId) : Bank :=
  if s.debugsBank n then s.bank n
  else match s.saves.find? fun p => p.1 == n.val with
    | some p => p.2
    | none => s.bank n

/-- STATUS: the debug status word goes into the reply (20 R420, Table 20.4). -/
def execStatus (n : BankId) (s : State) : Out :=
  let b := s.debugged n
  let armed := !(s.bank n).stopSeq.isEmpty || !(s.bank n).brk.isEmpty
  .next (s.modGaffer fun g => { g with
    status := regOf [(1, bit b.stopped), (1, bit b.quiesced), (1, bit armed), (29, 0), (8, b.kind), (8, 0), (16, b.tstate.toNat / 2 ^ 16 % 2 ^ 16)] })

/-- What a debugger reads of a bank (20 R421). -/
def State.debugItem (s : State) (n : BankId) (b : Bank) : DebugItem → DebugValue
  | .sreg r => .word (b.sreg r).toNat
  | .vreg r => .word (b.v.get r.toFin).toNat
  | .preg r => .word (if r = 0 then BitVec.allOnes 256 else b.p.get r.toFin : Pred).toNat
  | .yfield y f => match (b.y.get y.toFin)[f.toNat]? with | some x => .word x.toNat | none => .none
  | .accWord a row col => match (b.acc.get a.toFin)[row * 128 + col]? with | some x => .word x.toNat | none => .none
  | .ctl cr => match (s.setBank n b).creg n cr with | some x => .word x.toNat | none => .none
  | .handle h => .word ((b.h.get h.toFin).word0.toNat + (b.h.get h.toFin).word1.toNat * 2 ^ 64)
  | .format k => match b.fq[k]? with | some x => .word x.2.toNat | none => .none
  | .entry e k => match (b.queue e)[k]? with | some x => .entry x | none => .none
  | .flight k => match b.flights[k]? with | some x => .flight x | none => .none
  | .mma k => match b.mma[k]? with | some x => .mma x | none => .none
  | .copy k => match b.copies[k]? with | some x => .copy x | none => .none
  | .streams => .streams (b.qiss.toList.map (·.toNat)) (b.qdone.toList.map (·.toNat)) b.tok.toList b.rsv.toList

/-- A commander's debugger reads an item of a quiesced bank, or of a quiesced task that is pre-empted (20 R421; log entry 62). -/
def State.debugRead (s : State) (ep : EndpointId) (n : BankId) (item : DebugItem) : State :=
  if !s.boot.commanders.contains ep then s.report (.refusedAccess ep)
  else if !(s.debugged n).quiesced then s.report (.refused refusedCode)
  else s.report (.debugValue n item (s.debugItem n (s.debugged n) item))

/-- A field of a layout register replaced. -/
def setField32 (y : Layout) (f : Nat) (x : BitVec 32) : Layout := y.setIfInBounds f x

/-- A debugger's write of one register (20 R421). -/
def Bank.debugSet (b : Bank) : DebugTarget → Bank
  | .sreg r x => b.setS r x
  | .vreg r x => b.setV r.toFin x
  | .preg r x => b.setP r.toFin x
  | .yfield y f x => { b with y := b.y.set y.toNat (setField32 (b.y.get y.toFin) f.toNat x) y.isLt }
  | .accWord a row col x =>
    { b with
      acc := b.acc.set a.toNat ((b.acc.get a.toFin).setIfInBounds (row * 128 + col) x) a.isLt
      wroteAcc := if b.wroteAcc.contains a.toFin then b.wroteAcc else a.toFin :: b.wroteAcc }
  | .ctl _ _ => b

/-- Changes the task that a debugger's request names; one that is pre-empted has its frame written anew. -/
def State.modDebugged (s : State) (n : BankId) (f : Bank → Bank) : State :=
  if s.debugsBank n && (s.bank n).status != .preempted then s.modBank n f else s.modSaved n f

/-- DEBUG_WRITE: a register of a quiesced bank, or of a quiesced task that is pre-empted; a control register where 09 Table 9.4 marks it
RW (20 R421). -/
def execDebugWrite (n : BankId) (tgt : DebugTarget) (s : State) : Out :=
  let b := s.debugged n
  if !b.quiesced then .next (s.report (.refused refusedCode))
  else match tgt with
    | .ctl cr x =>
      match cregWrite cr (((s.setBank n b).creg n cr).getD 0) x with
      | none => .next (s.report (.refused refusedCode))
      | some (.srstate v) => .next (s.modDebugged n fun b => { b with srstate := v, srPend := [] })
      | some w =>
        if s.debugsBank n && b.status != .preempted then .next (s.cregSet n b.uid w)
        else .next (s.modDebugged n fun y => y.cregSet y.uid w)
    | .sreg .. | .vreg .. | .preg .. | .yfield .. | .accWord .. => .next (s.modDebugged n fun b => b.debugSet tgt)

end Sys2Proof.Machine
end

