-- ==== Sys2Proof/Machine/Queues.lean ====
section
/-! DEFINITION. Fabric ports, device time, user queues, and the accesses of fabric endpoints (19 R397-R408, R412, R413; 20 R423). -/

namespace Sys2Proof.Machine

open Sys2Proof

/-! ### Ports (19 R397, R401) -/

/-- Changes a port. -/
def State.modPort (s : State) (p : PortId) (f : Port → Port) : State :=
  { s with fabric := { s.fabric with ports := s.fabric.ports.set p.val (f (s.fabric.ports.get p)) p.isLt } }

/-- FLIT_RETRANSMIT: a flit whose CRC failed, which a choice picks, is sent again from the replay buffer, where it stays until its receiver
acknowledges it (19 R397; log entry 61). -/
def execFlitRetransmit (p : PortId) (s : State) : Out :=
  let k := s.choose
  .next (k.2.modPort p fun x => match x.replay[k.1 % max 1 x.replay.length]? with
    | some f => { x with resent := x.resent.filter (· != f) ++ [f] }
    | none => x)

/-- Flits held at their sources follow into the replay buffer, in order, while it has room (19 R401). -/
def Port.fill (x : Port) : Port :=
  let n := 512 - x.replay.length
  { x with replay := x.replay ++ x.held.take n, held := x.held.drop n }

/-- A flit enters the replay buffer as it is sent, and waits at its source while the buffer is full (19 R397, R401). -/
def Port.send (x : Port) (id : Nat) : Port := { x with held := x.held ++ [id] }.fill

/-- The receiver acknowledges the oldest flit (19 R397). -/
def Port.acked (x : Port) : Port :=
  ({ x with replay := x.replay.drop 1, resent := x.resent.filter fun f => x.replay.head? != some f } : Port).fill

/-- How long a lane's corrected errors count towards its rate: 1 ms. DESIGN CHOICE: 19 R401 names a rate and a threshold and no time that
they are taken over (log entry 65). -/
def laneWindow : Nat := 1000000

/-- A lane of the port counts a corrected error at a TIME; those that no rate counts any more are dropped (19 R401). -/
def Port.laneErr (x : Port) (lane : Fin 4) (time : Nat) : Port :=
  { x with errs := (x.errs.filter fun p => decide (time < p.2 + laneWindow)) ++ [(lane, time)] }

/-- The rate of a lane's corrected errors at a TIME (19 R401). -/
def Port.laneRate (x : Port) (lane : Fin 4) (time : Nat) : Nat :=
  (x.errs.filter fun p => p.1 == lane && decide (time < p.2 + laneWindow)).length

/-- The port's use changes; how long it has stayed under 25 % counts anew as it falls below (19 R401). -/
def Port.setUse (x : Port) (percent time : Nat) : Port :=
  { x with use := percent, useSince := if percent < 25 ∧ x.use < 25 then x.useSince else time }

/-- A port sheds lanes: a lane's rate of corrected errors has passed the threshold, or its use has stayed under 25 % for 1 ms (19 R401). -/
def State.shedDue (s : State) (p : PortId) : Bool :=
  let x := s.fabric.ports.get p
  !x.training && decide (1 < x.lanes)
    && ((match s.fabric.laneLimit with | some n => (List.finRange 4).any fun k => decide (n < x.laneRate k s.time) | none => false)
      || (decide (x.use < 25) && decide (x.useSince + 1000000 ≤ s.time)))

/-- A port restores lanes: its use passes 50 % (19 R401). -/
def State.restoreDue (s : State) (p : PortId) : Bool :=
  let x := s.fabric.ports.get p
  !x.training && decide (x.lanes < 4) && decide (50 < x.use)

/-- A lane change starts: flits on the wire are marked for resending, and the lanes' errors count anew (19 R401). -/
def Port.change (x : Port) (lanes : Nat) : Port := { x with goal := lanes, training := true, resent := x.replay, errs := [] }

/-- LANE_SHED: from 4 lanes to 2, or from 2 to 1, where the port is to shed lanes (19 R401). -/
def execLaneShed (p : PortId) (s : State) : Out :=
  .next (if s.shedDue p then s.modPort p fun x => x.change (x.lanes / 2) else s)

/-- LANE_RESTORE: from 1 lane to 2, or from 2 to 4, where the port is to restore lanes (19 R401). -/
def execLaneRestore (p : PortId) (s : State) : Out :=
  .next (if s.restoreDue p then s.modPort p fun x => x.change (x.lanes * 2) else s)

/-- LINK_RETRAINED: the port runs at its new width, and the marked flits have been resent in order (19 R401). A width that its use did
not ask for is tested anew from now on. -/
def execLinkRetrained (p : PortId) (s : State) : Out :=
  .next (s.modPort p fun x => if x.training then { x with lanes := x.goal, training := false, resent := [], useSince := s.time } else x)

/-! ### Errors of fabric accesses (19 R400) -/

/-- Whether a load or store is one of segments, its step and the size of a repetition (10 Tables 10.1, 10.3). -/
def memShape : Instr → Option (Bool × BitVec 4 × Nat)
  | .ldb a | .ldbu a | .stb a => some (false, a.step, 1)
  | .ldh a | .ldhu a | .sth a => some (false, a.step, 2)
  | .ldw a | .ldwu a | .stw a => some (false, a.step, 4)
  | .ldd a | .std a => some (false, a.step, 8)
  | .vldb a => some (false, a.step, 8)
  | .vld a | .vst a => some (false, a.step, 256)
  | .vlds a | .vsts a => some (true, a.step, 32)
  | _ => none

/-- The shape of an entry that is a load or store. -/
def Entry.shape (x : Entry) : Option (Bool × BitVec 4 × Nat) :=
  match x.what with
  | .word i => memShape i
  | .illegal .. | .fetchFault _ | .rotate _ => none

/-- Access `k` of an entry, as they are numbered in their order: the entry at that repetition and segment, and its physical address (19
R400). -/
def Entry.accessAt (x : Entry) (k : Nat) : Entry × Nat :=
  let base := match x.cap with | some c => c.h.loc | none => 0
  match x.shape with
  | some (false, step, z) =>
    let y : Entry := { x with rep := k }
    (y, base + y.repOffset step z)
  | some (true, step, _) =>
    let y : Entry := { x with rep := k / 8, seg := k % 8 }
    (y, base + y.segOffset step)
  | none => (x, base + (x.caps.getD 0 0).toNat)

/-- Access `k` of an operation. -/
def Op.accessAt (o : Op) (k : Nat) : Entry × Nat := o.ent.accessAt k

/-- The accesses of an entry that have passed, in their order; `whole` where all have. -/
def Entry.accessNos (x : Entry) (whole : Bool) : List Nat :=
  let all := match x.shape with | some (true, _, _) => 8 * (x.rep + 1) | some (false, _, _) | none => x.rep + 1
  List.range (if whole then all else x.accessNo)

/-- The access that brings a write of a load. -/
def Entry.loadNo (x : Entry) : RegW → Nat
  | .s r _ => (payloadUses x.what).writes.idxOf r
  | .v _ _ rep => rep
  | .seg _ k _ rep => 8 * rep + k

/-- The access of store `j` of those that an entry has still to make. -/
def Entry.storeNo (x : Entry) (whole : Bool) (ps : List Put) (j : Nat) : Nat :=
  match ps[j]? with
  | none => 0
  | some p =>
    let ks := (x.accessNos whole).filter fun k => (x.accessAt k).2 == p.loc
    ks.reverse.getD ((ps.drop (j + 1)).filter fun q => q.loc == p.loc).length 0

/-- The accesses of a load or store that are in flight, each with its place among what is left to write and to store (19 R400). -/
def Entry.inFlight (x : Entry) (whole : Bool) (ws : List RegW) (ps : List Put) : List (Nat × Nat) :=
  (ws.zipIdx.map fun p => (p.2, x.loadNo p.1)) ++ (List.range ps.length).map fun j => (ws.length + j, x.storeNo whole ps j)

/-- The parts still to be read of a load without those of its writes from `j` on, `n` of them. -/
def dropLate (late : List Late) (j n : Nat) : List Late :=
  (late.filter fun l => decide (l.index < j) || decide (j + n ≤ l.index)).map fun (l : Late) =>
    if j < l.index then { l with index := l.index - n } else l

/-- TVAL of 5.4 (19 R400). -/
def fabricTval (pa reason : Nat) : Word := BitVec.ofNat 64 (pa % 2 ^ 48 + reason % 256 * 2 ^ 56)

/-- 5.4 of an access whose error returns: the bank is cut, whatever switch or pre-emption was to come. Where a cause has cut it, that cause
stands, and 5.4 is raised when the bank goes on (19 R400; 17 R358). -/
def State.failAccess (s : State) (n : BankId) (e : Engine) (x : Entry) (tval : Word) (keep : Bool) : State :=
  match (s.bank n).cut with
  | some (.cause _) => s.modBank n fun b => { (if keep then b.hold e x else b) with failed := b.failed ++ [(x, e, tval)] }
  | some .preempt | some .switch | none =>
    (s.modBank n fun b => b.raise { group := 5, kind := 4, engine := e } x tval keep).endWaits n

/-- How long an access waits for its acknowledgement (19 R400). -/
def ackLimit : Nat := 1000000

/-- Access `k` of an entry has waited 1 ms for its acknowledgement at a TIME, counted from its own issue (19 R400, R413). -/
def Entry.overdue (x : Entry) (time k : Nat) : Bool := match x.since[k]? with | some t => decide (t + ackLimit ≤ time) | none => false

/-- Access `k` of an entry may end for a reason: for want of an acknowledgement, reason 1, only after 1 ms (19 R400). -/
def State.mayFail (s : State) (x : Entry) (reason k : Nat) : Bool := reason != 1 || x.overdue s.time k

/-- One access of those in flight that may end for a reason, which a choice picks, fails: a load writes no destination, and a free value tells
whether a store was performed. The answer is what is left to write and to store, what is left to read, and the access; `none` where
none may (19 R400; log entries 4, 61). -/
def State.failOne (s : State) (x : Entry) (whole : Bool) (c reason : Nat) (kept : Bool) (ws : List RegW) (ps : List Put) :
    Option (List RegW × List Put × List Late × Nat) :=
  let ks := (x.inFlight whole ws ps).filter fun p => s.mayFail x reason p.2
  (ks[c % max 1 ks.length]?).map fun p =>
    if p.1 < ws.length then
      let r := arrivalRun ws p.1
      (ws.take r.1 ++ ws.drop (r.1 + r.2), ps, dropLate x.late r.1 r.2, p.2)
    else (ws, if kept then ps else ps.eraseIdx (p.1 - ws.length), x.late, p.2)

/-- An operation in flight fails. An access of a load or store fails alone, and what is left of its word is made in the drain; a
synchronising word ends without its result, and a free value tells whether it was performed (19 R400). -/
def State.failOp (s : State) (n : BankId) (o : Op) (c reason : Nat) : State :=
  let f := s.nextFree
  let kept := f.1.getLsbD 0
  if o.ent.shape.isSome then
    match s.failOne o.ent true c reason kept o.loads o.puts with
    | none => s
    | some (ws, ps, late, k) =>
      let q := o.accessAt k
      (f.2.modBank n fun b => { b with ops := b.ops.map fun (a : Op) => if a.uid = o.uid then { a with
        loads := ws, puts := ps, ent := { a.ent with late := late }
        dest := a.dest.filter fun r => (scalarRegs ws).contains r } else a }).failAccess n o.eng q.1 (fabricTval q.2 reason) false
  else if !s.mayFail o.ent reason 0 then s
  else
    let p := if o.pend && kept then f.2.performPend n { o with pend := false } else (f.2, o)
    let q := o.accessAt 0
    (p.1.complete n { p.2 with pend := false, loads := [], puts := [] }).failAccess n o.eng q.1 (fabricTval q.2 reason) false

/-- An access of a word that stands at its head with repetitions or segments in flight fails (19 R400). -/
def State.failHead (s : State) (n : BankId) (e : Engine) (x : Entry) (c reason : Nat) : State :=
  let f := s.nextFree
  match s.failOne x false c reason (f.1.getLsbD 0) x.got x.puts with
  | none => s
  | some (ws, ps, late, k) =>
    let q := x.accessAt k
    (f.2.modBank n fun b => b.setQueue e ({ x with got := ws, puts := ps, late := late } :: (b.queue e).drop 1)).failAccess
      n e q.1 (fabricTval q.2 reason) false

/-- A row of a copy fails: the copy stops as 11 R256 gives, the cursor names the row, and its word stands at its head again. -/
def State.failCopyRow (s : State) (n : BankId) (o : Op) (c : CopyOp) (f : RowFlight) (reason : Nat) : State :=
  let pa := match c.runs f.row with | q :: _ => c.cap.h.loc + q.o | [] => c.cap.h.loc
  let c1 : CopyOp := { c with cursor := min c.cursor f.row, flights := c.flights.filter fun g => g.row != f.row }
  (s.modBank n fun b => b.setCopy c1).failAccess n o.eng { o.ent with popped := true } (fabricTval pa reason)
    (!((s.bank n).queue o.eng).any fun x => x.uid == o.uid)

/-- The entry at an L or W head of that number whose accesses go to the fabric. -/
def Bank.fabricHead (b : Bank) (uid : Nat) : Option (Engine × Entry) :=
  [(Engine.L, b.qL.head?), (Engine.W, b.qW.head?)].findSome? fun q => q.2.bind fun x =>
    if x.uid == uid && (match x.cap with | some c => regionOf c.h.loc == .fabric | none => false) then some (q.1, x) else none

/-- FABRIC_COMPLETION_ERROR: an access that was refused or had no acknowledgement for 1 ms ends with 5.4, in a drain too, and the bank is
cut. A choice tells which of a word's accesses or rows it was, of those to which the reason can apply (19 R400; log entry 61). -/
def execFabricCompletionError (n : BankId) (uid reason : Nat) (s : State) : Out :=
  let k := s.choose
  match (s.bank n).ops.find? fun o => o.uid == uid && o.fabric with
  | some o =>
    if o.isCopy then
      match (s.bank n).copies.find? fun c => c.uid == uid with
      | none => .next s
      | some c =>
        let fs := c.flights.filter fun f => reason != 1 || decide (f.sent + ackLimit ≤ s.time)
        match fs[k.1 % max 1 fs.length]? with
        | none => .next s
        | some f => .next (k.2.failCopyRow n o c f reason)
    else .next (k.2.failOp n o k.1 reason)
  | none =>
    match (s.bank n).fabricHead uid with
    | some (e, x) => .next (k.2.failHead n e x k.1 reason)
    | none => .next s

/-! ### Device time (19 R402) -/

/-- A rate within 100 ppm. -/
def clampRate (x : Int) : Int := max (-100) (min 100 x)

/-- TIME_MESSAGE: the rate of TIME is set so that the difference to the master goes in the millisecond to the next message, by at
most 100 ppm (19 R402; log entry 31). -/
def execTimeMessage (master : Word) (s : State) : Out :=
  .next { s with fabric := { s.fabric with
    rate := clampRate ((master.toNat : Int) - (s.time : Int)), lastMessage := s.time, freeRun := false } }

/-- TIME_SYNC_LOSS: after 10 ms without a message the device free-runs, and core 7 tells the hosts (19 R402). -/
def execTimeSyncLoss (s : State) : Out :=
  if s.fabric.freeRun || decide (s.time < s.fabric.lastMessage + 10000000) then .next s
  else .next (({ s with fabric := { s.fabric with rate := 0, freeRun := true } } : State).report .syncLoss)

/-- TIME advances by some nominal nanoseconds at its rate (19 R402). -/
def State.tick (s : State) (ns : Nat) : State :=
  let n := s.fabric.frac + ns * (1000000 + s.fabric.rate).toNat
  { s with time := s.time + n / 1000000, fabric := { s.fabric with frac := n % 1000000 } }

/-! ### User queues (19 R405-R408) -/

/-- The number of entries not fetched. -/
def Qcb.pending (c : Qcb) : BitVec 32 := c.tail - c.head

/-- A queue enters error (19 R406, R407). -/
def State.queueError (s : State) (q : QueueId) (err : Nat) : State :=
  (s.modQueue q fun (c : Qcb) => { c with st := .error, err := err, slot := none }).report (.queueError q)

/-- The queues in a state, with their control blocks, in order of number. -/
def State.queuesIn (s : State) (p : Qcb → Bool) : List (QueueId × Qcb) :=
  (List.finRange 64).filterMap fun q => match s.gaffer.queues.get q with
    | some c => if p c then some (q, c) else none
    | none => none

/-- The effective priority of a pending queue (19 R408). -/
def Qcb.effPrio (c : Qcb) (time : Nat) : Nat := min 6 (c.parms.prio + (time - c.pendSince) / 1000000)

/-- The first of the best members of a list. -/
def bestOf {α : Type} (le : α → α → Bool) (xs : List α) : Option α := (sortBy le xs).head?

/-- The pending queue that is mapped next: highest effective priority, pending longest, lowest number (19 Table 19.5). -/
def State.nextPending (s : State) : Option (QueueId × Qcb) :=
  bestOf (fun a b => decide (b.2.effPrio s.time < a.2.effPrio s.time)
    || (a.2.effPrio s.time == b.2.effPrio s.time && decide (a.2.pendSince ≤ b.2.pendSince))) (s.queuesIn fun c => c.st == .pending)

/-- A hardware slot that no queue holds: the lowest. -/
def State.freeSlot (s : State) : Option (Fin 32) :=
  (List.finRange 32).find? fun k => (s.queuesIn fun c => c.slot == some k).isEmpty

/-- A queue is mapped on a slot and keeps its effective priority (19 R408). -/
def State.mapQueue (s : State) (q : QueueId) (k : Fin 32) : State :=
  s.modQueue q fun (c : Qcb) => { c with st := .mapped, slot := some k, eff := c.effPrio s.time, mapSince := s.time }

/-- A queue is unmapped: pending anew if it is not empty (19 R408). -/
def State.unmapQueue (s : State) (q : QueueId) : State :=
  s.modQueue q fun (c : Qcb) => { c with
    slot := none, st := if c.pending = 0 then .unmapped else .pending, pendSince := s.time }

/-- The mapped queue that step 2 unmaps: empty for 20 µs, and longest (19 Table 19.5). -/
def State.emptyMapped (s : State) : Option (QueueId × Qcb) :=
  bestOf (fun a b => decide (a.2.emptySince ≤ b.2.emptySince))
    (s.queuesIn fun c => c.st == .mapped && c.pending == 0 && decide (c.emptySince + 20000 ≤ s.time))

/-- The mapped queue that step 3 unmaps: mapped for 100 µs, below the best pending queue; lowest effective priority, mapped
longest, highest number (19 Table 19.5). -/
def State.weakMapped (s : State) (eff : Nat) : Option (QueueId × Qcb) :=
  bestOf (fun a b => decide (a.2.eff < b.2.eff) || (a.2.eff == b.2.eff && (decide (a.2.mapSince < b.2.mapSince)
    || (a.2.mapSince == b.2.mapSince && decide (b.1.val ≤ a.1.val)))))
    (s.queuesIn fun c => c.st == .mapped && decide (c.mapSince + 100000 ≤ s.time) && decide (c.eff < eff))

/-- One mapping decision; `none` where none applies (19 Table 19.5). -/
def State.mapStep (s : State) : Option State :=
  match s.nextPending with
  | none => none
  | some (q, c) =>
    match s.freeSlot with
    | some k => some (s.mapQueue q k)
    | none =>
      match s.emptyMapped with
      | some (m, _) => some (s.unmapQueue m)
      | none => (s.weakMapped (c.effPrio s.time)).map fun p => s.unmapQueue p.1

/-- Decisions until none applies. -/
def State.mapSteps : Nat → State → State
  | 0, s => s
  | n + 1, s => match s.mapStep with
    | some t => State.mapSteps n t
    | none => s

/-- Core 2 makes its mapping decisions, until none applies: at every doorbell, at every change of a queue's emptiness, and every 10 µs (19
R408). -/
def State.mapQueues (s : State) : State := State.mapSteps 256 s

/-- A point of every 10 µs has come. DESIGN CHOICE: those points are the multiples of 10 µs of TIME; 19 R408 does not say where they lie (log
entry 65). -/
def State.decides (s : State) : Bool := decide (s.gaffer.qAt < s.time / 10000)

/-- QUEUE_SCHEDULE: core 2's decisions of every 10 µs, in order (19 R408). -/
def execQueueSchedule (s : State) : Out :=
  .next (if s.decides then (s.modGaffer fun g => { g with qAt := s.time / 10000 }).mapQueues else s)

/-- A doorbell as core 2 takes it: the tail is tested and set; an overflow puts the queue in error; an unmapped queue becomes pending; and
mapping decisions follow (19 R407, R408). -/
def State.takeBell (s : State) (q : QueueId) (tail : BitVec 32) : State :=
  match s.gaffer.queues.get q with
  | none => s
  | some c =>
    (if 2 ^ c.parms.sizelog < (tail - c.head).toNat then s.queueError q 1
    else s.modQueue q fun (c : Qcb) => { c with
      tail := tail
      emptySince := if tail = c.head ∧ c.pending ≠ 0 then s.time else c.emptySince
      st := if c.st = .unmapped then .pending else c.st
      pendSince := if c.st = .unmapped then s.time else c.pendSince }).mapQueues

/-- A request for core 2 stands in the command mailbox unanswered (19 R412, Table 19.7). -/
def Gaffer.queueRequest (g : Gaffer) : Bool :=
  match g.request with
  | some (_, _, .queueCreate ..) | some (_, _, .queueReset _) | some (_, _, .queueDestroy _) => true
  | _ => false

/-- DOORBELL: core 2 takes it, behind a request for core 2 that arrived before it (19 R407, R408, R413). -/
def execDoorbell (q : QueueId) (tail : BitVec 32) (s : State) : Out :=
  if s.gaffer.queueRequest then .next (s.modGaffer fun g => { g with bells := g.bells ++ [(q, tail)] }) else .next (s.takeBell q tail)

/-- The doorbells that arrived behind a request are taken, in their order (19 R413). -/
def State.takeBells (s : State) : State :=
  s.gaffer.bells.foldl (fun (t : State) p => t.takeBell p.1 p.2) (s.modGaffer fun g => { g with bells := [] })

/-! ### Ring entries (19 R405, R406) -/

/-- What core 2 reads at the head of a mapped queue: nothing there, a fault, or the type and operand of the entry. -/
inductive RingEntry where
  | none | fault | entry (kind : Nat) (va : Nat)
  deriving DecidableEq, Repr

/-- The entry at HEAD of a mapped queue; core 2 waits while lookups of its address are held (19 R405; 01 R35). -/
def State.ringEntry (s : State) (c : Qcb) : State × RingEntry :=
  let va := c.parms.ringVa.toNat + 16 * (c.head.toNat % 2 ^ c.parms.sizelog)
  if c.st ≠ .mapped ∨ c.pending = 0 ∨ s.lookupHeld 0 c.parms.asn va 16 = true then (s, .none)
  else
    match s.agentRead 0 c.parms.asn va 16 with
    | (t, .error _) => (t, .fault)
    | (t, .ok bs) => (t, .entry (leNat (bs.take 1)) (leNat (bs.drop 8)))

/-- The entry at HEAD is consumed; where the queue becomes empty mapping decisions follow (19 R405, R408). -/
def State.consume (s : State) (q : QueueId) : State :=
  let t := s.modQueue q fun (c : Qcb) => { c with
    head := c.head + 1, fetched := true, emptySince := if c.head + 1 = c.tail then s.time else c.emptySince }
  if (t.gaffer.queues.get q).any fun c => c.pending == 0 then t.mapQueues else t

/-- An event of the entry at the head of a queue. -/
def State.onEntry (s : State) (q : QueueId) (f : State → Qcb → RingEntry → State) : Out :=
  match s.gaffer.queues.get q with
  | none => .next s
  | some c => .next (f (s.ringEntry c).1 c (s.ringEntry c).2)

/-- RING_NOP (19 Table 19.3). -/
def execRingNop (q : QueueId) (s : State) : Out :=
  s.onEntry q fun t _ e => match e with
    | .entry 0 _ => t.consume q
    | .entry .. | .none | .fault => t

/-- LAUNCH: the record is checked and submitted, or its reason reported; a record that cannot be read is a ring fetch fault
(14 R301; 19 R405, R406; log entry 32). -/
def execLaunch (q : QueueId) (s : State) : Out :=
  s.onEntry q fun t c e => match e with
    | .entry 1 va =>
      if t.lookupHeld 0 c.parms.asn va 256 then s
      else match t.agentRead 0 c.parms.asn va 256 with
      | (u, .error _) => u.queueError q 2
      | (u, .ok bs) =>
        let raw := recordOf bs
        match recReject raw false with
        | some r => (u.rejectOn (some q) c.head r (.reject (some q) r)).consume q
        | none =>
          ((u.submit raw (some q) c.head c.parms.asn false none false none).modQueue q fun (x : Qcb) =>
            { x with subs := x.subs ++ [u.launches.next] }).consume q
    | .entry .. | .none | .fault => t

/-- Launches have all retired on every die (14 R311). -/
def State.allRetired (s : State) (ids : List Nat) : Bool :=
  ids.all fun id => match s.launchOf id with | some l => l.retired | none => true

/-- The oldest SIGNAL that a queue has fetched, where every launch that the queue submitted before it has retired and no lookup that it needs
is held (19 Table 19.3; 01 R35). -/
def State.signalDue (s : State) (q : QueueId) : Option (BitVec 12 × Nat) :=
  match s.gaffer.queues.get q with
  | some c => match c.signals with
    | (asn, va, ids) :: _ => if s.allRetired ids && !s.lookupHeld 0 asn va 8 then some (asn, va) else none
    | [] => none
  | none => none

/-- RING_SIGNAL: an entry of type 2 at HEAD is consumed, and once every launch that the queue submitted before it has retired, SEMSIG of 1 at
system scope; the entries behind it are fetched meanwhile (19 R405, Table 19.3; log entries 32, 67). -/
def execRingSignal (q : QueueId) (s : State) : Out :=
  match s.signalDue q with
  | some (asn, va) =>
    let t := match s.semSignal 0 asn va with
      | some u => u
      | none => s.report (.signalFailed q)
    .next (t.modQueue q fun (c : Qcb) => { c with signals := c.signals.drop 1 })
  | none =>
    s.onEntry q fun t c e => match e with
      | .entry 2 va => (t.modQueue q fun (x : Qcb) => { x with signals := x.signals ++ [(c.parms.asn, va, c.subs)] }).consume q
      | .entry .. | .none | .fault => t

/-- RING_UNKNOWN_TYPE: the queue enters error with ERR 3, and the entry is not consumed (19 Table 19.3). -/
def execRingUnknownType (q : QueueId) (s : State) : Out :=
  s.onEntry q fun t _ e => match e with
    | .entry k _ => if 3 ≤ k then t.queueError q 3 else t
    | .none | .fault => t

/-- RING_FETCH_FAULT: the queue enters error with ERR 2 (19 R406). -/
def execRingFetchFault (q : QueueId) (s : State) : Out :=
  s.onEntry q fun t _ e => match e with
    | .fault => t.queueError q 2
    | .none | .entry .. => t

/-! ### Requests for queues (19 R405, R406, R412) -/

/-- The host fields of a queue are legal (19 R405, Table 19.4). -/
def queueOk (p : QueueParms) : Bool :=
  decide (4 ≤ p.sizelog) && decide (p.sizelog ≤ 16) && decide (p.prio ≤ 6) && p.ringVa.toNat % (16 * 2 ^ p.sizelog) == 0

/-- A queue that a host creates. -/
def newQcb (parms : QueueParms) (time : Nat) : Qcb where
  parms := parms
  head := 0
  tail := 0
  rejIdx := 0
  rej := 0
  err := 0
  st := .unmapped
  slot := none
  eff := 0
  pendSince := time
  mapSince := time
  emptySince := time
  subs := []

/-- QUEUE_CREATE: SIZELOG is 4 to 16, PRIO 0 to 6, and the ring aligned to its size. For a queue that stands unmapped or in error it
changes the host fields (19 R405, R406, R413, Table 19.4; log entry 63). -/
def execQueueCreate (q : QueueId) (parms : QueueParms) (s : State) : Out :=
  if !queueOk parms then .next (s.report (.refused refusedCode)).takeBells
  else match s.gaffer.queues.get q with
    | none =>
      .next ((s.modGaffer fun g => { g with queues := g.queues.set q.val (some (newQcb parms s.time)) q.isLt }).modQueue q fun c => c).takeBells
    | some c =>
      if c.st = .unmapped ∨ c.st = .error then .next (s.modQueue q fun (c : Qcb) => { c with parms := parms }).takeBells
      else .next (s.report (.refused refusedCode)).takeBells

/-- QUEUE_RESET: ERR is cleared, HEAD and TAIL become 0, and the queue is unmapped; where that empties it mapping decisions follow (19 R407,
R408, R413). DESIGN CHOICE: a SIGNAL that the queue has fetched stays to be performed, and QUEUE_DESTROY drops it; the spec does not say (log
entry 67). -/
def execQueueReset (q : QueueId) (s : State) : Out :=
  let t := s.modQueue q fun (c : Qcb) => { c with head := 0, tail := 0, err := 0, st := .unmapped, slot := none, emptySince := s.time }
  .next (if (s.gaffer.queues.get q).any fun c => c.pending != 0 then t.mapQueues else t).takeBells

/-- QUEUE_DESTROY (19 R412, R413). -/
def execQueueDestroy (q : QueueId) (s : State) : Out :=
  .next (s.modGaffer fun g => { g with queues := g.queues.set q.val none q.isLt }).takeBells

/-! ### Accesses by physical address (19 R403, R404) -/

/-- The operations that the command mailbox carries: those of queues, pools, grids, conversations, page tables and limits, those of core
6's debugger and filters, and those of attestation (19 R412; 20 R419, R423, R427). -/
def mailboxCarries : Instr → Bool
  | .queueCreate .. | .queueReset _ | .queueDestroy _ | .poolCreate .. | .poolSetLimit .. | .poolWithdraw .. | .gridConfigure ..
  | .gridStart _ | .gridStop _ | .convOpen .. | .convClose _ | .pageTableChange .. | .setThermalLimits .. | .setBudget ..
  | .setTrafficFilter .. | .halt _ | .stopseq .. | .brk .. | .debugDisarm _ | .status _ | .debugWrite .. | .resume _ | .refresh _
  | .answerEnd _ | .attest .. | .commanderSignature .. | .commanderRelease _ => true
  | _ => false

/-- A commander submits a request by its sequence number. One written while the last is unanswered is refused with status 1 and has no
effect; one that names no operation of the mailbox is refused (19 R412; log entry 63). -/
def State.submitRequest (s : State) (ep : EndpointId) (seq : Word) (i : Option Instr) : State :=
  if s.gaffer.request.isSome then s.modGaffer fun g => { g with reply := some (seq, 1) }
  else match i with
    | some j =>
      if mailboxCarries j then s.modGaffer fun g => { g with request := some (ep, seq, j) }
      else s.modGaffer fun g => { g with reply := some (seq, refusedCode) }
    | none => s.modGaffer fun g => { g with reply := some (seq, refusedCode) }

/-- A write into the request area of the command mailbox; one that reaches the sequence number submits (19 R412). -/
def State.writeMailbox (s : State) (ep : EndpointId) (off : Nat) (bytes : List Byte) : State :=
  let m := s.gaffer.mbox.writes off bytes
  let t := s.modGaffer fun g => { g with mbox := m }
  if off + bytes.length ≤ 0xF8 then t
  else t.submitRequest ep (BitVec.ofNat 64 (leNat (m.reads 0xF8 8))) (Config.requestOf (m.reads 0 0xF8))

/-- What a write to a control page does: a doorbell, an ingress group, a request, or nothing (19 R404, R407, R412). -/
def State.writeControl (s : State) (ep : EndpointId) (d : Die) (off : Nat) (bytes : List Byte) : Out :=
  if off < 0x400000 then
    if d = 0 ∧ off % 0x10000 = 0 ∧ bytes.length = 4 then
      execDoorbell (Fin.ofNat 64 (off / 0x10000)) (BitVec.ofNat 32 (leNat bytes)) s
    else .next s
  else if off < 0x410000 then execIngressGroup d { sender := ep, bytes := bytes, poison := false } s
  else if d = 0 ∧ 0x500000 ≤ off ∧ off + bytes.length ≤ 0x500100 then .next (s.writeMailbox ep (off - 0x500000) bytes)
  else .next s

/-- A datum of the telemetry pages as a number (18 R389; 19 Table 19.2; 20 R422). -/
def State.telemetry (s : State) : Config.Telemetry → Nat
  | .blank => 0
  | .temp c k => let x := s.cores.get (Fin.ofNat 288 c); if k = 0 then x.temp0 else x.temp1
  | .vdie d => (s.diePower (Fin.ofNat 4 d)).vdie
  | .vmrv d => (s.diePower (Fin.ofNat 4 d)).vmrv
  | .cls c => (s.clusterPower (Fin.ofNat 36 c)).cls
  | .limit d 0 => (s.diePower (Fin.ofNat 4 d)).place
  | .limit d 1 => (s.diePower (Fin.ofNat 4 d)).throttle
  | .limit d 2 => (s.diePower (Fin.ofNat 4 d)).critical
  | .errors l => match s.gaffer.records.find? fun r => r.loc == l with | some r => r.count | none => 0
  | .cell c r k => (((s.cores.get (Fin.ofNat 288 c)).bcm.get (Fin.ofNat 8 r)).get (Fin.ofNat 32 k)).toNat

/-- The bytes of the last reply: what it says, then the request's sequence number (19 R412). -/
def Gaffer.replyArea (g : Gaffer) : List Byte :=
  match g.reply with
  | some (seq, status) =>
    let bs := (Config.replyBytes status g.status).take 0xF8
    bs ++ List.replicate (0xF8 - bs.length) 0 ++ leBytes 8 seq.toNat
  | none => List.replicate 0x100 0

/-- A byte of a die's control pages: zero in a hole, the request and the reply of the mailbox, a byte of a telemetry datum, and a free value
of a page whose contents the spec does not lay out (19 R404, R412; log entry 4). -/
def State.controlByte (s : State) (d : Die) (off free : Nat) : Byte :=
  let open' : Byte := (Config.freeWord free).setWidth 8
  if off < 0x400000 then (if d = 0 then open' else 0)
  else if off < 0x410000 then open'
  else if 0x500000 ≤ off ∧ off < 0x510000 then
    if d ≠ 0 then 0
    else if off < 0x500100 then s.gaffer.mbox.read (off - 0x500000)
    else if 0x508000 ≤ off ∧ off < 0x508100 then s.gaffer.replyArea.getD (off - 0x508000) 0
    else open'
  else if 0x600000 ≤ off ∧ off < 0x700000 then
    let t := Config.telemetryAt d.val (off - 0x600000)
    (leBytes 8 (s.telemetry t.1)).getD (t.2 % 8) 0
  else 0

/-- A read of control pages, byte by byte (19 R404). -/
def State.readControl (s : State) (ep : EndpointId) (d : Die) (off n : Nat) : State :=
  ({ s with free := s.free + n } : State).report (.data ep ((List.range n).map fun k => s.controlByte d (off + k) (s.free + k)))

/-- A host's write to HBM by physical address: it reaches HBM, and so every agent of the device but where the home L2 holds the line
dirty, whose later write-back overwrites it (03 R83; 04 R109). DESIGN CHOICE: a line that is not dirty is taken as not cached (log entry
62). -/
def Store.hostPut (st : Store) (d : Die) (l : Nat) (bs : List Byte) : Store :=
  let n := bs.length
  (linesOf l n).foldl (fun (st : Store) x =>
    let a := max l (x * 128)
    let part := (bs.drop (a - l)).take (min (l + n) (x * 128 + 128) - a)
    if st.dirty.contains x then
      { st with
        hbm := st.hbm.writes a part
        hbmEcc := st.hbmEcc.filter fun p => !(decide (a ≤ p.1 * 8) && decide (p.1 * 8 + 8 ≤ a + part.length)) }
    else (st.put d a part).writeBack [x]) st

/-- An access of a commander: HBM, as it stands behind the L2s, and the control pages (19 R403; 03 R83). DESIGN CHOICE: one that reaches a
hole of the physical map stops; the spec gives it no outcome (log entry 66). -/
def State.commanderAccess (s : State) (ep : EndpointId) (a : EpAccess) : Out :=
  let pa := match a with | .read p _ => p | .write p _ => p
  let n := match a with | .read _ n => n | .write _ bs => bs.length
  match regionOf pa, regionOf (pa + (n - 1)) with
  | .hole, _ | _, .hole => .fault .physicalHole
  | .hbm d, _ =>
    match a with
    | .read .. =>
      let t := (unitsOf pa n).foldl State.senseHbm s
      .next (t.report (.data ep ((List.range n).map fun k => t.store.hbm.read (pa + k))))
    | .write _ bs => .next (s.modStore fun st => st.hostPut d pa bs)
  | .control d, _ =>
    let off := pa - (localBase d + 0xC0000000)
    match a with
    | .read .. => .next (s.readControl ep d off n)
    | .write _ bs => s.writeControl ep d off bs
  | .slice _, _ | .pad _, _ | .dieScratch _, _ | .fabric, _ | .unbacked _, _ => .next (s.report (.refusedAccess ep))

/-- An access of another endpoint: the pages exported to it, and the ingress pages (19 R403). -/
def State.strangerAccess (s : State) (ep : EndpointId) (a : EpAccess) : Out :=
  let pa := match a with | .read p _ => p | .write p _ => p
  let n := match a with | .read _ n => n | .write _ bs => bs.length
  if s.boot.exports.any fun x => x.1 == ep && decide (x.2.1 ≤ pa) && decide (pa + n ≤ x.2.1 + x.2.2) then s.commanderAccess ep a
  else
    match regionOf pa, a with
    | .control d, .write _ bs =>
      let off := pa - (localBase d + 0xC0000000)
      if 0x400000 ≤ off ∧ off < 0x410000 then execIngressGroup d { sender := ep, bytes := bs, poison := false } s
      else .next (s.report (.refusedAccess ep))
    | _, _ => .next (s.report (.refusedAccess ep))

/-- FABRIC_ENDPOINT_ACCESS: an access by physical address is performed, or refused (19 R403, R404). -/
def execFabricEndpointAccess (ep : EndpointId) (acc : EpAccess) (s : State) : Out :=
  if s.boot.commanders.contains ep then s.commanderAccess ep acc else s.strangerAccess ep acc

/-- SET_TRAFFIC_FILTER: one of the four filters of a die, and the die's log ring of 2^12 to 2^20 entries in its HBM; a new ring
starts empty (20 R423). -/
def execSetTrafficFilter (d : Die) (parms : FilterParms) (s : State) : Out :=
  let last := parms.ringPa + 16 * 2 ^ parms.ringLog - 1
  if parms.ringLog < 12 ∨ 20 < parms.ringLog ∨ regionOf parms.ringPa ≠ .hbm d ∨ regionOf last ≠ .hbm d ∨ parms.ringPa % 16 ≠ 0 then
    .next (s.report (.refused refusedCode))
  else
    let r := s.gaffer.rings.get d
    let r' : LogRing := if r.pa = parms.ringPa ∧ r.log = parms.ringLog then r else { pa := parms.ringPa, log := parms.ringLog, next := 0, dropped := 0 }
    .next (s.modGaffer fun g => { g with
      filters := g.filters.set d.val ((g.filters.get d).set parms.idx.val (some parms) parms.idx.isLt) d.isLt
      rings := g.rings.set d.val r' d.isLt })

end Sys2Proof.Machine
end

