-- ==== Sys2Proof/Machine/ScalarCtl.lean ====
section
/-! DEFINITION. Branches, jumps, LOOPB, the control register words, TRAP and WAITEV (09 R206, R207, R210, R214, R216). -/

namespace Sys2Proof.Machine

open Sys2Proof

/-! ### Branches and jumps (09 R206) -/

/-- A branch: the next index is the target where the condition holds, else the following one. -/
def State.branch (s : State) (i : Instr) (cond : Bank → Bool) (off : BitVec 25) : State :=
  s.sControl i (fun _ b => b) fun x b => if cond b then x.idx + sext off else x.idx + 1

/-- BEQ (09 R206). -/
def execBeq (a : SBr) (s : State) : Out := .next (s.branch (.beq a) (fun b => b.sreg a.ra == b.sreg a.rb) a.off)
/-- BNE (09 R206). -/
def execBne (a : SBr) (s : State) : Out := .next (s.branch (.bne a) (fun b => b.sreg a.ra != b.sreg a.rb) a.off)
/-- BLT (09 R206). -/
def execBlt (a : SBr) (s : State) : Out := .next (s.branch (.blt a) (fun b => (b.sreg a.ra).slt (b.sreg a.rb)) a.off)
/-- BGE (09 R206). -/
def execBge (a : SBr) (s : State) : Out := .next (s.branch (.bge a) (fun b => !(b.sreg a.ra).slt (b.sreg a.rb)) a.off)
/-- BLTU (09 R206). -/
def execBltu (a : SBr) (s : State) : Out := .next (s.branch (.bltu a) (fun b => (b.sreg a.ra).ult (b.sreg a.rb)) a.off)
/-- BGEU (09 R206). -/
def execBgeu (a : SBr) (s : State) : Out := .next (s.branch (.bgeu a) (fun b => !(b.sreg a.ra).ult (b.sreg a.rb)) a.off)

/-- JAL: the link index, and a jump by the offset (09 R206). -/
def execJal (a : SJal) (s : State) : Out :=
  .next (s.sControl (.jal a) (fun x b => b.setS a.rd (x.idx + 1)) fun x _ => x.idx + sext a.off)

/-- JALR: the target is read before the link is written (09 R206). -/
def execJalr (a : SImm) (s : State) : Out :=
  let target := s.here.sreg a.ra + sext a.imm
  .next (s.sControl (.jalr a) (fun x b => b.setS a.rd (x.idx + 1)) fun _ _ => target)

/-! ### LOOPB (09 R207; 07 R177; 20 R422) -/

/-- The rotate entry that a LOOPB appends to the C queue. -/
def Bank.addRotate (b : Bank) (x : Entry) (m : BitVec 2) : Bank :=
  if m = 0 then b else { b with qC := b.qC ++ [{ b.capture (.rotate m) with uid := x.uid, idx := x.idx }] }

/-- Bits of a register as a number. -/
def fieldLow (w : Word) (lo n : Nat) : Nat := w.toNat / 2 ^ lo % 2 ^ n

/-- The core's snapshot of its bank-conflict matrix, taken in a core clock by a LOOPB of bank `k` at an index. A LOOPB of the other
bank in the clock of a snapshot takes no second one; of the two, bank 0's is recorded. What the cells count in that very clock is not in
it (20 R422, R428). -/
def CoreSt.snapshot (c : CoreSt) (k : Fin 2) (idx : Word) (clock : Nat) : CoreSt :=
  let record (n : Nat) : Word := regOf [(16, k.val), (16, n), (32, idx.toNat)]
  if c.snapAt = some (clock, 1 - k) then (if k = 0 then { c with bcSnap := record (fieldLow c.bcSnap 16 16) } else c)
  else { c with
    bcRow := Vector.ofFn fun r => (c.bcm.get r).toList.foldl (· + ·) 0 - BitVec.ofNat 32 (c.fresh.filter (· == (clock, r))).length
    bcSnap := record (fieldLow c.bcSnap 16 16 + 1)
    snapAt := some (clock, k) }

/-- The executing bank's LOOPB takes its core's snapshot in the present core clock. -/
def State.snapshot (s : State) (k : Fin 2) (idx : Word) : State :=
  s.modCore (coreOf s.cur) fun c => c.snapshot k idx (s.time * clockMhz (s.clusterPower (clusterOf s.cur)).cls / 1000)

/-- LOOPB: the counter steps down, a rotate entry is queued, and the branch is taken while the counter is nonzero; falling
through takes the core's snapshot (09 R207). -/
def execLoopb (a : SLoop) (s : State) : Out :=
  let p := s.begin (.loopb a)
  let x := p.1
  let b := p.2.here
  if b.sReady (.loopb a) x && (decide (a.m = 0) || b.hasRoom .C) then
    let b1 := (b.sSync a.sy x).setS a.counter (b.sreg a.counter - 1)
    let again := b1.sreg a.counter != 0
    let b2 := { b1.addRotate x a.m with pc := if again then x.idx + sext a.off else x.idx + 1, ctl := false }
    let t := p.2.setBank s.cur b2
    .next (if again then t else t.snapshot (bankNo s.cur) x.idx)
  else .next (p.2.hold .S x)

/-! ### Control registers (09 R210) -/

/-- Cause 0.4.S at the entry in hand, with the encoded word as TVAL (09 R210; 17 Table 17.3). -/
def State.badCreg (s : State) (i : Instr) (x : Entry) : State :=
  s.raise { group := 0, kind := 4, engine := .S } x (((encode i).getD 0).setWidth 64)

/-- CRD: the register's value at S's own execution; of a number that is not assigned 0.4.S, as the word reaches the head (07 R160; 09
R210). -/
def execCrd (a : SCrd) (s : State) : Out :=
  let p := s.begin (.crd a)
  match p.2.creg s.cur a.cr with
  | none => .next (p.2.badCreg (.crd a) p.1)
  | some v =>
    if p.2.here.sReady (.crd a) p.1 then .next (p.2.setBank s.cur ((p.2.here.sSync a.sy p.1).setS a.rd v))
    else .next (p.2.hold .S p.1)

/-- A write of a control register: one indivisible read-modify-write; of a register that takes none 0.4.S, as the word reaches the head
(07 R160; 09 R210). -/
def State.cregWord (s : State) (i : Instr) (a : SCwr) (f : Word → Word → Word) : State :=
  let p := s.begin i
  let old := (p.2.creg s.cur a.cr).getD 0
  match cregWrite a.cr old (f old (p.2.here.sreg a.ra)) with
  | none => p.2.badCreg i p.1
  | some w =>
    if p.2.here.sReady i p.1 then (p.2.setBank s.cur (p.2.here.sSync a.sy p.1)).cregSet s.cur p.1.uid w
    else p.2.hold .S p.1

/-- CWR (09 R210). -/
def execCwr (a : SCwr) (s : State) : Out := .next (s.cregWord (.cwr a) a fun _ v => v)
/-- CSET (09 R210). -/
def execCset (a : SCwr) (s : State) : Out := .next (s.cregWord (.cset a) a fun old v => old ||| v)
/-- CCLR (09 R210). -/
def execCclr (a : SCwr) (s : State) : Out := .next (s.cregWord (.cclr a) a fun old v => old &&& ~~~v)

/-! ### TRAP and WAITEV (09 R214, R216) -/

/-- TRAP: cause 5.15.S with the immediate as TVAL. TRAP completes in raising it: its push is made and the saved pc is the
next index (09 R214). -/
def execTrap (a : STrap) (s : State) : Out :=
  let p := s.begin (.trap a)
  let x := p.1
  if p.2.here.sReady (.trap a) x then
    let b := { p.2.here.sSync a.sy x with pc := x.idx + 1, ctl := false }
    .next ((p.2.setBank s.cur (b.raise { group := 5, kind := 15, engine := .S } x (sext a.imm) false)).endWaits s.cur)
  else .next (p.2.hold .S x)

/-- The events that a WAITEV takes now: pending ones of its mask, and bit 0 where its deadline is reached (09 R216). -/
def waitevGot (a : SWait) (b : Bank) (time : Nat) : Word :=
  (b.evpend &&& a.mask.setWidth 64 &&& 0x1E) ||| (if a.mask.getLsbD 0 && decide ((b.sreg a.ra).toNat ≤ time) then 1 else 0)

/-- WAITEV: waits for an event of its mask or the deadline, and takes the events (09 R216). -/
def execWaitev (a : SWait) (s : State) : Out :=
  let p := s.begin (.waitev a)
  let b := p.2.here
  let got := waitevGot a b s.time
  if b.sReady (.waitev a) p.1 && (got != 0 || a.mask == 0) then
    .next (p.2.setBank s.cur
      (({ b.sSync a.sy p.1 with evpend := b.evpend &&& ~~~(got &&& 0x1E) } : Bank).setS a.rd got))
  else .next (p.2.hold .S p.1)

/-- WAITEV_DEADLINE: the deadline of the bank's waiting WAITEV is reached, and the wait ends (09 R216). -/
def execWaitevDeadline (n : BankId) (s : State) : Out :=
  let b := s.bank n
  match b.qS with
  | x :: rest =>
    match x.what with
    | .word (.waitev a) =>
      if a.mask.getLsbD 0 && decide ((b.sreg a.ra).toNat ≤ s.time) && b.cut.isNone then
        execWaitev a { s.setBank n { b with qS := rest } with cur := n, active := some x }
      else .next s
    | _ => .next s
  | [] => .next s

end Sys2Proof.Machine
end

