-- ==== Sys2Proof/Machine/Dispatch.lean ====
section
/-! DEFINITION. What each instruction and event does: one arm per row of the table. -/

namespace Sys2Proof.Machine

open Sys2Proof

/-- The meaning of every row of the table. -/
def exec (i : Instr) (s : State) : Host.Outcome State Fault Refusal :=
  match i with
  | .nop a => Sys2Proof.Machine.execNop a s
  | .add a => Sys2Proof.Machine.execAdd a s
  | .sub a => Sys2Proof.Machine.execSub a s
  | .mul a => Sys2Proof.Machine.execMul a s
  | .mulh a => Sys2Proof.Machine.execMulh a s
  | .mulhu a => Sys2Proof.Machine.execMulhu a s
  | .div a => Sys2Proof.Machine.execDiv a s
  | .divu a => Sys2Proof.Machine.execDivu a s
  | .rem a => Sys2Proof.Machine.execRem a s
  | .remu a => Sys2Proof.Machine.execRemu a s
  | .and a => Sys2Proof.Machine.execAnd a s
  | .or a => Sys2Proof.Machine.execOr a s
  | .xor a => Sys2Proof.Machine.execXor a s
  | .sll a => Sys2Proof.Machine.execSll a s
  | .srl a => Sys2Proof.Machine.execSrl a s
  | .sra a => Sys2Proof.Machine.execSra a s
  | .slt a => Sys2Proof.Machine.execSlt a s
  | .sltu a => Sys2Proof.Machine.execSltu a s
  | .min a => Sys2Proof.Machine.execMin a s
  | .max a => Sys2Proof.Machine.execMax a s
  | .addi a => Sys2Proof.Machine.execAddi a s
  | .andi a => Sys2Proof.Machine.execAndi a s
  | .ori a => Sys2Proof.Machine.execOri a s
  | .xori a => Sys2Proof.Machine.execXori a s
  | .slli a => Sys2Proof.Machine.execSlli a s
  | .srli a => Sys2Proof.Machine.execSrli a s
  | .srai a => Sys2Proof.Machine.execSrai a s
  | .slti a => Sys2Proof.Machine.execSlti a s
  | .li a => Sys2Proof.Machine.execLi a s
  | .lih a => Sys2Proof.Machine.execLih a s
  | .beq a => Sys2Proof.Machine.execBeq a s
  | .bne a => Sys2Proof.Machine.execBne a s
  | .blt a => Sys2Proof.Machine.execBlt a s
  | .bge a => Sys2Proof.Machine.execBge a s
  | .bltu a => Sys2Proof.Machine.execBltu a s
  | .bgeu a => Sys2Proof.Machine.execBgeu a s
  | .jal a => Sys2Proof.Machine.execJal a s
  | .jalr a => Sys2Proof.Machine.execJalr a s
  | .loopb a => Sys2Proof.Machine.execLoopb a s
  | .endt a => Sys2Proof.Machine.execEndt a s
  | .crd a => Sys2Proof.Machine.execCrd a s
  | .cwr a => Sys2Proof.Machine.execCwr a s
  | .cset a => Sys2Proof.Machine.execCset a s
  | .cclr a => Sys2Proof.Machine.execCclr a s
  | .trap a => Sys2Proof.Machine.execTrap a s
  | .eret a => Sys2Proof.Machine.execEret a s
  | .waitev a => Sys2Proof.Machine.execWaitev a s
  | .xlate a => Sys2Proof.Machine.execXlate a s
  | .hlocal a => Sys2Proof.Machine.execHlocal a s
  | .hinv a => Sys2Proof.Machine.execHinv a s
  | .hget a => Sys2Proof.Machine.execHget a s
  | .yset a => Sys2Proof.Machine.execYset a s
  | .yget a => Sys2Proof.Machine.execYget a s
  | .yclr a => Sys2Proof.Machine.execYclr a s
  | .fpush a => Sys2Proof.Machine.execFpush a s
  | .fpushi a => Sys2Proof.Machine.execFpushi a s
  | .pwracq a => Sys2Proof.Machine.execPwracq a s
  | .pwrrel a => Sys2Proof.Machine.execPwrrel a s
  | .slotwait a => Sys2Proof.Machine.execSlotwait a s
  | .ctxq a => Sys2Proof.Machine.execCtxq a s
  | .yield a => Sys2Proof.Machine.execYield a s
  | .ldb a => Sys2Proof.Machine.execLdb a s
  | .ldbu a => Sys2Proof.Machine.execLdbu a s
  | .ldh a => Sys2Proof.Machine.execLdh a s
  | .ldhu a => Sys2Proof.Machine.execLdhu a s
  | .ldw a => Sys2Proof.Machine.execLdw a s
  | .ldwu a => Sys2Proof.Machine.execLdwu a s
  | .ldd a => Sys2Proof.Machine.execLdd a s
  | .vld a => Sys2Proof.Machine.execVld a s
  | .vlds a => Sys2Proof.Machine.execVlds a s
  | .vldb a => Sys2Proof.Machine.execVldb a s
  | .cpin a => Sys2Proof.Machine.execCpin a s
  | .cpgather a => Sys2Proof.Machine.execCpgather a s
  | .semwait a => Sys2Proof.Machine.execSemwait a s
  | .barwait a => Sys2Proof.Machine.execBarwait a s
  | .wltake a => Sys2Proof.Machine.execWltake a s
  | .vldl a => Sys2Proof.Machine.execVldl a s
  | .vstl a => Sys2Proof.Machine.execVstl a s
  | .vldm a => Sys2Proof.Machine.execVldm a s
  | .vstm a => Sys2Proof.Machine.execVstm a s
  | .vadd a => Sys2Proof.Machine.execVadd a s
  | .vsub a => Sys2Proof.Machine.execVsub a s
  | .vmul a => Sys2Proof.Machine.execVmul a s
  | .vfma a => Sys2Proof.Machine.execVfma a s
  | .vmin a => Sys2Proof.Machine.execVmin a s
  | .vmax a => Sys2Proof.Machine.execVmax a s
  | .vabs a => Sys2Proof.Machine.execVabs a s
  | .vdiv a => Sys2Proof.Machine.execVdiv a s
  | .vrcp a => Sys2Proof.Machine.execVrcp a s
  | .vrsq a => Sys2Proof.Machine.execVrsq a s
  | .vexp2 a => Sys2Proof.Machine.execVexp2 a s
  | .vlog2 a => Sys2Proof.Machine.execVlog2 a s
  | .vsqrt a => Sys2Proof.Machine.execVsqrt a s
  | .vcvt a => Sys2Proof.Machine.execVcvt a s
  | .vqnt a => Sys2Proof.Machine.execVqnt a s
  | .vdqnt a => Sys2Proof.Machine.execVdqnt a s
  | .vcmp a => Sys2Proof.Machine.execVcmp a s
  | .vsel a => Sys2Proof.Machine.execVsel a s
  | .vand a => Sys2Proof.Machine.execVand a s
  | .vor a => Sys2Proof.Machine.execVor a s
  | .vxor a => Sys2Proof.Machine.execVxor a s
  | .vshl a => Sys2Proof.Machine.execVshl a s
  | .vshr a => Sys2Proof.Machine.execVshr a s
  | .vshra a => Sys2Proof.Machine.execVshra a s
  | .vmov a => Sys2Proof.Machine.execVmov a s
  | .vmovi a => Sys2Proof.Machine.execVmovi a s
  | .vfroms a => Sys2Proof.Machine.execVfroms a s
  | .vtos a => Sys2Proof.Machine.execVtos a s
  | .vredadd a => Sys2Proof.Machine.execVredadd a s
  | .vredmax a => Sys2Proof.Machine.execVredmax a s
  | .vredmin a => Sys2Proof.Machine.execVredmin a s
  | .vargmax a => Sys2Proof.Machine.execVargmax a s
  | .vperm a => Sys2Proof.Machine.execVperm a s
  | .vslide a => Sys2Proof.Machine.execVslide a s
  | .vbcast a => Sys2Proof.Machine.execVbcast a s
  | .viota a => Sys2Proof.Machine.execViota a s
  | .pand a => Sys2Proof.Machine.execPand a s
  | .por a => Sys2Proof.Machine.execPor a s
  | .pxor a => Sys2Proof.Machine.execPxor a s
  | .pnot a => Sys2Proof.Machine.execPnot a s
  | .pset a => Sys2Proof.Machine.execPset a s
  | .rbset a => Sys2Proof.Machine.execRbset a s
  | .slack a => Sys2Proof.Machine.execSlack a s
  | .mma a => Sys2Proof.Machine.execMma a s
  | .mmat a => Sys2Proof.Machine.execMmat a s
  | .aclr a => Sys2Proof.Machine.execAclr a s
  | .ard a => Sys2Proof.Machine.execArd a s
  | .awr a => Sys2Proof.Machine.execAwr a s
  | .asts a => Sys2Proof.Machine.execAsts a s
  | .stb a => Sys2Proof.Machine.execStb a s
  | .sth a => Sys2Proof.Machine.execSth a s
  | .stw a => Sys2Proof.Machine.execStw a s
  | .std a => Sys2Proof.Machine.execStd a s
  | .vst a => Sys2Proof.Machine.execVst a s
  | .vsts a => Sys2Proof.Machine.execVsts a s
  | .aadd a => Sys2Proof.Machine.execAadd a s
  | .amin a => Sys2Proof.Machine.execAmin a s
  | .amax a => Sys2Proof.Machine.execAmax a s
  | .aand a => Sys2Proof.Machine.execAand a s
  | .aor a => Sys2Proof.Machine.execAor a s
  | .axor a => Sys2Proof.Machine.execAxor a s
  | .aswap a => Sys2Proof.Machine.execAswap a s
  | .acas a => Sys2Proof.Machine.execAcas a s
  | .afadd a => Sys2Proof.Machine.execAfadd a s
  | .semsig a => Sys2Proof.Machine.execSemsig a s
  | .bararv a => Sys2Proof.Machine.execBararv a s
  | .cpout a => Sys2Proof.Machine.execCpout a s
  | .cpscatter a => Sys2Proof.Machine.execCpscatter a s
  | .discard a => Sys2Proof.Machine.execDiscard a s
  | .wback a => Sys2Proof.Machine.execWback a s
  | .pgrsv a => Sys2Proof.Machine.execPgrsv a s
  | .pgrel a => Sys2Proof.Machine.execPgrel a s
  | .pgmig a => Sys2Proof.Machine.execPgmig a s
  | .wlappend a => Sys2Proof.Machine.execWlappend a s
  | .commit a => Sys2Proof.Machine.execCommit a s
  | .retract a => Sys2Proof.Machine.execRetract a s
  | .wordDispatch b => Sys2Proof.Machine.execWordDispatch b s
  | .illegalWord b e => Sys2Proof.Machine.execIllegalWord b e s
  | .fetchFault b => Sys2Proof.Machine.execFetchFault b s
  | .handleLand b => Sys2Proof.Machine.execHandleLand b s
  | .walkComplete tag => Sys2Proof.Machine.execWalkComplete tag s
  | .invalidationRelease d id => Sys2Proof.Machine.execInvalidationRelease d id s
  | .allocationAnswer b => Sys2Proof.Machine.execAllocationAnswer b s
  | .lateFrameConversion b => Sys2Proof.Machine.execLateFrameConversion b s
  | .remoteFill d line => Sys2Proof.Machine.execRemoteFill d line s
  | .operationComplete b uid => Sys2Proof.Machine.execOperationComplete b uid s
  | .fabricWaitPoll b uid => Sys2Proof.Machine.execFabricWaitPoll b uid s
  | .patrolScrub unit => Sys2Proof.Machine.execPatrolScrub unit s
  | .copyRowIssue b e => Sys2Proof.Machine.execCopyRowIssue b e s
  | .copyRowLand b uid row => Sys2Proof.Machine.execCopyRowLand b uid row s
  | .cWriteLand b => Sys2Proof.Machine.execCWriteLand b s
  | .lateLoadArrival b => Sys2Proof.Machine.execLateLoadArrival b s
  | .slackExpiry b => Sys2Proof.Machine.execSlackExpiry b s
  | .idleEngineCycle b => Sys2Proof.Machine.execIdleEngineCycle b s
  | .rotateEntry b => Sys2Proof.Machine.execRotateEntry b s
  | .kstepWrite b => Sys2Proof.Machine.execKstepWrite b s
  | .drainComplete b => Sys2Proof.Machine.execDrainComplete b s
  | .resume b => Sys2Proof.Machine.execResume b s
  | .refresh b => Sys2Proof.Machine.execRefresh b s
  | .answerEnd b => Sys2Proof.Machine.execAnswerEnd b s
  | .preemptionSaveEnd b => Sys2Proof.Machine.execPreemptionSaveEnd b s
  | .restore b => Sys2Proof.Machine.execRestore b s
  | .launch q => Sys2Proof.Machine.execLaunch q s
  | .launchEligible d l => Sys2Proof.Machine.execLaunchEligible d l s
  | .launchAgeing d l => Sys2Proof.Machine.execLaunchAgeing d l s
  | .taskPlacement d => Sys2Proof.Machine.execTaskPlacement d s
  | .placementThermalTimeout d l => Sys2Proof.Machine.execPlacementThermalTimeout d l s
  | .launchRetire d l => Sys2Proof.Machine.execLaunchRetire d l s
  | .chainFetch l => Sys2Proof.Machine.execChainFetch l s
  | .shadowStart b => Sys2Proof.Machine.execShadowStart b s
  | .fhintHoldExpiry d l => Sys2Proof.Machine.execFhintHoldExpiry d l s
  | .gridConfigure g desc => Sys2Proof.Machine.execGridConfigure g desc s
  | .gridStart g => Sys2Proof.Machine.execGridStart g s
  | .gridStop g => Sys2Proof.Machine.execGridStop g s
  | .convOpen m recVa => Sys2Proof.Machine.execConvOpen m recVa s
  | .convClose m => Sys2Proof.Machine.execConvClose m s
  | .slotBoundary d g => Sys2Proof.Machine.execSlotBoundary d g s
  | .ingressGroup d grp => Sys2Proof.Machine.execIngressGroup d grp s
  | .freqRequestTakeup b => Sys2Proof.Machine.execFreqRequestTakeup b s
  | .railStep d => Sys2Proof.Machine.execRailStep d s
  | .clockSwitchEnd d => Sys2Proof.Machine.execClockSwitchEnd d s
  | .stallratioSample c stalled busy => Sys2Proof.Machine.execStallratioSample c stalled busy s
  | .budgetGrant d => Sys2Proof.Machine.execBudgetGrant d s
  | .sensorRefresh d readings => Sys2Proof.Machine.execSensorRefresh d readings s
  | .marverRailWindow d => Sys2Proof.Machine.execMarverRailWindow d s
  | .undervoltHoldEnd d => Sys2Proof.Machine.execUndervoltHoldEnd d s
  | .setPointRestore d => Sys2Proof.Machine.execSetPointRestore d s
  | .flitRetransmit p => Sys2Proof.Machine.execFlitRetransmit p s
  | .laneShed p => Sys2Proof.Machine.execLaneShed p s
  | .laneRestore p => Sys2Proof.Machine.execLaneRestore p s
  | .linkRetrained p => Sys2Proof.Machine.execLinkRetrained p s
  | .fabricCompletionError b uid reason => Sys2Proof.Machine.execFabricCompletionError b uid reason s
  | .timeMessage master => Sys2Proof.Machine.execTimeMessage master s
  | .timeSyncLoss => Sys2Proof.Machine.execTimeSyncLoss s
  | .doorbell q tail => Sys2Proof.Machine.execDoorbell q tail s
  | .queueSchedule => Sys2Proof.Machine.execQueueSchedule s
  | .ringNop q => Sys2Proof.Machine.execRingNop q s
  | .ringSignal q => Sys2Proof.Machine.execRingSignal q s
  | .ringUnknownType q => Sys2Proof.Machine.execRingUnknownType q s
  | .queueCreate q parms => Sys2Proof.Machine.execQueueCreate q parms s
  | .queueReset q => Sys2Proof.Machine.execQueueReset q s
  | .queueDestroy q => Sys2Proof.Machine.execQueueDestroy q s
  | .poolCreate d pool parms => Sys2Proof.Machine.execPoolCreate d pool parms s
  | .poolSetLimit d pool limit => Sys2Proof.Machine.execPoolSetLimit d pool limit s
  | .poolWithdraw d pool => Sys2Proof.Machine.execPoolWithdraw d pool s
  | .pageTableChange asn va level entry => Sys2Proof.Machine.execPageTableChange asn va level entry s
  | .setThermalLimits d place throttle critical => Sys2Proof.Machine.execSetThermalLimits d place throttle critical s
  | .setBudget d budget => Sys2Proof.Machine.execSetBudget d budget s
  | .setTrafficFilter d parms => Sys2Proof.Machine.execSetTrafficFilter d parms s
  | .halt b => Sys2Proof.Machine.execHalt b s
  | .stopseq b e q => Sys2Proof.Machine.execStopseq b e q s
  | .brk b idx => Sys2Proof.Machine.execBrk b idx s
  | .debugDisarm b => Sys2Proof.Machine.execDebugDisarm b s
  | .debugStopMatch b => Sys2Proof.Machine.execDebugStopMatch b s
  | .status b => Sys2Proof.Machine.execStatus b s
  | .debugWrite b tgt => Sys2Proof.Machine.execDebugWrite b tgt s
  | .errorWindowExpiry loc => Sys2Proof.Machine.execErrorWindowExpiry loc s
  | .deviceStart env => Sys2Proof.Machine.execDeviceStart env s
  | .startWatchdog => Sys2Proof.Machine.execStartWatchdog s
  | .writeImage img => Sys2Proof.Machine.execWriteImage img s
  | .fullStart => Sys2Proof.Machine.execFullStart s
  | .attest host nonce => Sys2Proof.Machine.execAttest host nonce s
  | .commanderSignature host sig => Sys2Proof.Machine.execCommanderSignature host sig s
  | .commanderRelease host => Sys2Proof.Machine.execCommanderRelease host s
  | .waitevDeadline b => Sys2Proof.Machine.execWaitevDeadline b s
  | .ctxqAnswer b => Sys2Proof.Machine.execCtxqAnswer b s
  | .fabricEndpointAccess ep acc => Sys2Proof.Machine.execFabricEndpointAccess ep acc s
  | .ringFetchFault q => Sys2Proof.Machine.execRingFetchFault q s
  | .boardCapChange d cap => Sys2Proof.Machine.execBoardCapChange d cap s
  | .marverRailStep d => Sys2Proof.Machine.execMarverRailStep d s
  | .powerLoss => Sys2Proof.Machine.execPowerLoss s

end Sys2Proof.Machine
end

