-- ==== Sys2Proof/Machine/Environment.lean ====
section
/-! DEFINITION. What happens around the programs and has no row of its own in the opcode table, and which items of the agenda the device
takes in its present mode (log entry 62). -/

namespace Sys2Proof.Machine

open Sys2Proof

/-! ### The levels, the ports, the scratchpad banks (03 R78, R84; 18 R380; 19 R397, R401; 20 R417, R422) -/

/-- A unit meets an error; what reads as poison goes on doing so. -/
def addEcc (u : Nat) (x : Ecc) (es : List (Nat × Ecc)) : List (Nat × Ecc) :=
  if es.any fun p => p.1 == u && p.2 == .poison then es else (u, x) :: es.filter fun p => p.1 != u

/-- A unit of a level or an L2 meets an error, where there is one: not in an unbacked line without a frame, nor in a set that is left out of
use. What has issued on its object is performed before it becomes unreadable (02 R42; 03 R84; 20 R416; log entry 61). -/
def State.unitError (s : State) (u : Nat) (x : Ecc) : State :=
  if (2 ^ 48 ≤ u * 8 ∧ s.store.lineSt (u / 16) ≠ some .pinned) ∨ s.store.leftOut (u / 16) = true then s
  else (if x = .single then s else s.performFirst (u * 8) 8).modStore fun st => { st with ecc := addEcc u x st.ecc }

/-- A 32-byte unit of HBM meets an error; a dirty line stands in its L2 instead (03 R78, R84). -/
def State.hbmError (s : State) (u : Nat) (x : Ecc) : State :=
  (if x = .single ∨ s.store.dirty.contains (u / 16) = true then s else s.performFirst (u / 4 * 32) 32).modStore
    fun st => { st with hbmEcc := addEcc u x st.hbmEcc }

/-- The L2 of a die may hold a line: its own backed line, where its set is in use, an unbacked line with a frame there, or a remote copy. -/
def Store.mayHold (st : Store) (d : Die) (line : Nat) : Bool :=
  match regionOf (line * 128) with
  | .hbm h => if h = d then !st.leftOut line else (st.copyOf d line).isSome
  | .unbacked h => h == d && st.lineSt line == some .pinned
  | .slice _ | .pad _ | .dieScratch _ | .control _ | .hole | .fabric => false

/-- The tag of a line in the L2 of a die meets an error (03 R84; 20 Table 20.1). -/
def State.tagError (s : State) (d : Die) (line : Nat) (single : Bool) : State :=
  if s.store.mayHold d line then
    (if single || remoteHomed d (line * 128) then s else s.performFirst (line * 128) 128).modStore fun st => { st with
      tagEcc := (d, line, single) :: st.tagEcc.filter fun p => !(p.1 == d && p.2.1 == line) }
  else s

/-- A unit of a die's copy of a remote line meets an error (03 R84). -/
def Store.copyError (st : Store) (d : Die) (u : Nat) (x : Ecc) : Store :=
  { st with remote := st.remote.map fun (r : RLine) => if r.die = d ∧ r.line = u / 16 then { r with ecc := addEcc u x r.ecc } else r }

/-- The engine of a bank whose register file, queue, FIFO or stream state a structure of 17 Table 17.3 is, by the structure's number, and that
it holds an entry or a register of an index. DEDUCED: the registers s, h and y are the S engine's, and v, p and the accumulators the C engine's
(17 R354, R355; log entry 60). -/
def Bank.holdsUnit (b : Bank) (e : Engine) (structure' : Fin 8) (index : Nat) : Bool :=
  match structure' with
  | 0 => e == .S && decide (index < 32)
  | 1 => e == .C && decide (index < 64)
  | 2 => e == .C && decide (index < 16)
  | 3 => e == .S && decide (index < 16)
  | 4 => e == .S && decide (index < 8)
  | 5 => e == .C && decide (index < 4)
  | 6 => decide (index < (b.queue e).length)
  | 7 => true

/-- An error in a structure of a bank waits for the engine that meets it, with its TVAL: the structure and the index, other bits zero (17
R354, R355). -/
def Bank.unitError (b : Bank) (e : Engine) (structure' : Fin 8) (index : BitVec 16) (single : Bool) : Bank :=
  if b.holdsUnit e structure' index.toNat then
    { b with upset := b.upset ++ [(e, BitVec.ofNat 64 (structure'.val + index.toNat * 2 ^ 16), single)] }
  else b

/-- A requester loses a scratchpad bank in a core clock (20 R422, R428). -/
def CoreSt.conflict (c : CoreSt) (row : Fin 8) (k : Fin 32) (clock : Nat) : CoreSt :=
  { c with
    bcm := c.bcm.set row.val ((c.bcm.get row).set k.val ((c.bcm.get row).get k + 1) k.isLt) row.isLt
    fresh := (c.fresh.filter fun p => p.1 == clock) ++ [(clock, row)] }

/-- Core 3 puts a frame on its free list: a whole frame of HBM that is not retired and not there already (20 R416, R417). -/
def Gaffer.freeFrame (g : Gaffer) (pa : Nat) (big : Bool) : Gaffer :=
  let n := pageSize big
  let whole := match regionOf pa, regionOf (pa + n - 1) with
    | .hbm d, .hbm e => d == e && pa % n == 0
    | _, _ => false
  let kept := (List.range (n / 0x10000)).all fun k => !g.retired.contains (.frame (pa / 0x10000 + k))
  if !whole || !kept || (if big then g.free256 else g.free64).contains pa then g
  else if big then { g with free256 := g.free256 ++ [pa] } else { g with free64 := g.free64 ++ [pa] }

/-! ### The command mailbox and exports (19 R403, R412; 20 R427) -/

/-- A request of an endpoint that the mailbox takes: a commander's, or an endpoint's part in its own attestation, by which it gains its
rights (19 R403, R412; 20 R427; log entry 63). -/
def State.mayRequest (s : State) (ep : EndpointId) : Instr → Bool
  | .attest h _ | .commanderSignature h _ | .commanderRelease h => h == ep
  | _ => s.boot.commanders.contains ep

/-- The device runs: it has been started (20 R425, R426). -/
def State.ready (s : State) : Bool := s.boot.mode == .ready

/-- An endpoint submits a request; one without the right is refused at its sender, and a device in minimal mode serves none (19 R403, R412;
20 R426, R428). -/
def State.request (s : State) (ep : EndpointId) (seq : Word) (i : Instr) : State :=
  if !s.ready then (if s.boot.mode == .minimal then s.report (.refused 4) else s)
  else if s.mayRequest ep i then s.submitRequest ep seq (some i) else s.report (.refusedAccess ep)

/-- A commander lends an endpoint pages by physical address (19 R403). -/
def State.lend (s : State) (giver ep : EndpointId) (pa len : Nat) : State :=
  if s.boot.commanders.contains giver then { s with boot := { s.boot with exports := s.boot.exports ++ [(ep, pa, len)] } }
  else s.report (.refusedAccess giver)

/-- What a request waits for: firmware's answer to a cause, until core 6 has the message that brings it; a page-table change, until the
conversion or move of its page is over; and what needs lookups that are held, until they are released (17 R361; 19 R411; 02 R430; 01
R35). -/
def State.answerable (s : State) : Instr → Bool
  | .resume n | .refresh n | .answerEnd n => s.gaffer.received n
  | .pageTableChange asn va level _ => !s.changeWaits asn va level
  | i => !s.lehrHeld i

/-- The request in the mailbox is carried out: its operation, and the state in which it acts, where the reply carries its sequence number
(19 R412). -/
def State.requestDue (s : State) : Option (Instr × State) :=
  match s.gaffer.request with
  | some (_, seq, i) =>
    if s.answerable i then some (i, s.modGaffer fun g => { g with request := none, reply := some (seq, 0) }) else none
  | none => none

/-! ### What the device takes (17 R361; 19 R403, R412; 20 R426) -/

/-- The gaffer cores beside core 0 run: not in minimal mode, nor in the start that it was asked for. A device that was not started holds what
is placed there from outside (20 R426; log entry 9). -/
def State.coresRun (s : State) : Bool := s.boot.mode == .ready || s.boot.mode == .off

/-- An event of the agenda may happen. What hosts, the time master and core 7 do reaches a device that runs; operations of the mailbox come
as requests, but for firmware's own answers; a doorbell is a commander's; a K-step's result is written when its time has come (13 R290; 17
R361; 19 R402, R403, R412; 20 R426). -/
def State.admits (s : State) : Instr → Bool
  | .resume n | .refresh n | .answerEnd n => s.ready && s.answerable (.resume n)
  | .doorbell .. => s.ready && !s.boot.commanders.isEmpty
  | .ingressGroup .. | .timeMessage _ | .fabricEndpointAccess .. | .launch _ | .ringNop _ | .ringSignal _ | .ringUnknownType _
  | .ringFetchFault _ | .queueSchedule | .chainFetch _ | .slotBoundary .. => s.ready
  | .sensorRefresh .. | .boardCapChange .. | .stallratioSample .. | .freqRequestTakeup _ | .railStep _ | .clockSwitchEnd _
  | .budgetGrant _ | .marverRailWindow _ | .marverRailStep _ | .undervoltHoldEnd _ | .setPointRestore _ | .patrolScrub _
  | .errorWindowExpiry _ | .laneShed _ | .laneRestore _ | .timeSyncLoss | .taskPlacement _ | .launchEligible .. | .launchAgeing ..
  | .launchRetire .. | .fhintHoldExpiry .. | .placementThermalTimeout .. | .shadowStart _ | .invalidationRelease .. => s.coresRun
  | .kstepWrite n => match (s.bank n).mma with | m :: _ => decide (m.nextNs ≤ s.time) | [] => true
  | i => !mailboxCarries i

/-- What happens in an item of the agenda beside the events and the engines' heads (log entry 62). -/
def State.happens (s : State) : Act → State
  | .event _ | .issue .. => s
  | .evict line => s.evictLine line
  | .unitError u x => s.unitError u x
  | .hbmError u x => s.hbmError u x
  | .tagError d line single => s.tagError d line single
  | .part b uid k => s.part b uid k
  | .rowPart b uid k => s.rowPart b uid k
  | .copyError d u x => s.modStore fun st => st.copyError d u x
  | .bankError b e structure' index single => s.modBank b fun x => x.unitError e structure' index single
  | .gafferError w => if s.coresRun then s.countError .gafferMem w else s
  | .bankConflict c row k => s.modCore c fun x => x.conflict row k (s.time * clockMhz (s.clusterPower (clusterOfCore c)).cls / 1000)
  | .crossing c out enter => s.cross c out enter
  | .flit p id => s.modPort p fun x => x.send id
  | .flitAck p => s.modPort p Port.acked
  | .laneError p lane => s.modPort p fun x => x.laneErr lane s.time
  | .portUse p percent => s.modPort p fun x => x.setUse percent s.time
  | .laneLimit n => if s.coresRun then { s with fabric := { s.fabric with laneLimit := some n } } else s
  | .request ep seq i => s.request ep seq i
  | .lend giver ep pa len => if s.ready then s.lend giver ep pa len else s
  | .debugRead ep n item => if s.ready then s.debugRead ep n item else s
  | .startLost => s.startLost
  | .freeFrame pa big => if s.coresRun then s.modGaffer fun g => g.freeFrame pa big else s

end Sys2Proof.Machine
end

