-- ==== Sys2Proof/Machine/Schedule.lean ====
section
/-! DEFINITION. The model's own schedule (log entry 3): which event or word comes next, and the state in which it acts. Every
agent of the device has its turn, and an event has its turn only while what the spec asks for it holds. -/

namespace Sys2Proof.Machine

open Sys2Proof

/-- What a step does: an event or word and the state it acts on, or a state that is only passed through. -/
abbrev Plan := Option Instr × State

/-! ### The turns of a bank -/

/-- The bank's engines take heads: it executes and is neither cut nor stopped (17 R357; 20 R419). -/
def Bank.takes (b : Bank) : Bool := b.status == .running && b.cut.isNone && !b.stopped

/-- A cut bank's L or W head that has passed its check, and whose page's home has let it go on, is still to issue: it goes on in the drain
(02 R49, R52; 17 R357). -/
def Bank.finishes (b : Bank) (e : Engine) : Bool :=
  (e == .L || e == .W) && b.status == .running && b.cut.isSome && (b.queue e).head?.any Entry.mayFinish

/-- Single-bit errors in a bank's state are corrected as an engine meets them, each of weight 1 at the core (03 R84, R85; 20 R415). -/
def State.correctUpsets (s : State) (b : BankId) (e : Engine) : State :=
  let mine (u : Engine × Word × Bool) : Bool := u.1 == e && u.2.2
  ((s.bank b).upset.filter mine).foldl (fun (t : State) _ => t.countError (.core (coreOf b)) 1)
    (if (s.bank b).upset.isEmpty then s else s.modBank b fun x => { x with upset := x.upset.filter fun u => !mine u })

/-- An uncorrectable error in the registers, queues, FIFOs or stream state of a bank stops it: 5.3.e at the head of the engine that
meets it, with the structure and the index in TVAL, and an error of weight 2 at the core (03 R90; 17 R354, R355; 20 Table 20.1;
log entry 60). -/
def State.meetUpset (s : State) (b : BankId) (u : Engine × Word × Bool) (y : Entry) : State :=
  ((s.modBank b fun x =>
    { x with upset := x.upset.filter (· != u) }.raise { group := 5, kind := 3, engine := u.1 } y u.2.1 false).endWaits b).countError
      (.core (coreOf b)) 2

/-- An error of a fabric access that returned while another cause cut the bank is raised as the bank goes on (19 R400; 17 R358). -/
def State.raiseFailed (s : State) (b : BankId) : Option State :=
  match (s.bank b).failed with
  | (x, e, tval) :: rest =>
    if (s.bank b).takes then
      some ((s.modBank b fun y => { y with failed := rest }.raise { group := 5, kind := 4, engine := e } x tval false).endWaits b)
    else none
  | [] => none

/-- An engine takes the head of its queue (07 R160, R162, R177); an armed stop that matches comes first (20 R419), and then an error
that the engine meets in the bank's state (03 R90). -/
def State.takeHead (s0 : State) (b : BankId) (e : Engine) : Plan :=
  let s := if (s0.bank b).takes then s0.correctUpsets b e else s0
  let x := s.bank b
  if !(x.takes || x.finishes e) then (none, s)
  else if x.takes && x.stopDue then (some (.debugStopMatch b), s)
  else
    match x.queue e with
    | [] => (none, s)
    | y :: rest =>
      match x.upset.find? fun u => u.1 == e && x.takes with
      | some u => (none, s.meetUpset b u y)
      | none =>
      match y.what with
      | .word i => (some i, { s.setBank b (x.setQueue e rest) with cur := b, active := some y })
      | .illegal .. => (some (.illegalWord b e), s)
      | .fetchFault _ => (some (.fetchFault b), s)
      | .rotate _ => (some (.rotateEntry b), s)

/-- A word may issue in the clock in which it is dispatched: nothing stands before it in its queue, no stop is armed for
the bank, and its state holds no uncorrectable error (07 R162; 03 R90; 20 R419). -/
def Bank.issuesAtOnce (b : Bank) (w : Payload) : Bool :=
  (b.queue (payloadEngine w)).isEmpty && b.stopSeq.isEmpty && b.brk.isEmpty && !b.halt && b.upset.isEmpty

/-- The dispatcher's turn: a word whose queue is empty issues at once, else WORD_DISPATCH (07 R162). -/
def State.dispatchPlan (s : State) (b : BankId) : Option Plan :=
  if (s.bank b).dispatches then
    match s.nextPayload b with
    | none => none
    | some w =>
      if (s.bank b).canDispatch w then
        match w with
        | .word i =>
          if (s.bank b).issuesAtOnce w then some (some i, { s.fetched b with cur := b, active := none }) else some (some (.wordDispatch b), s)
        | .illegal .. | .fetchFault _ | .rotate _ => some (some (.wordDispatch b), s)
      else none
  else none

/-- The W head's allocation request can be answered, or its page converted: the page is not locked, and no access waits there before it
(02 R49, R52). -/
def State.allocDue (s : State) (n : BankId) : Option Instr :=
  match (s.bank n).qW with
  | [] => none
  | x :: _ =>
    match x.alloc, x.cap with
    | .asked o _, some c =>
      if s.store.locked c.h.loc || (decide (2 ^ 48 ≤ s.store.resolve (c.h.loc + o)) && s.store.behindArrival n x.uid (c.h.loc + o)) then none
      else some (.allocationAnswer n)
    | .late _, some _ => some (.lateFrameConversion n)
    | _, _ => none

/-- The first operation of a bank that can complete (04 R97; 07 R164; 10 R235; 01 R35). -/
def State.completable (s : State) (n : BankId) : Option Nat :=
  ((s.bank n).ops.find? fun o => !s.slotHeld o && match s.store.ready n o with
    | some o' => (s.bank n).mayWrite o'
    | none => false).map (·.uid)

/-- The first waiting operation whose fabric object now meets its condition (10 R235). -/
def State.pollDue (s : State) (n : BankId) : Option Nat :=
  (s.store.waits.find? fun w =>
    w.bank == n && w.met.isNone && regionOf (s.store.resolve w.loc) == .fabric && (w.holds s.store).isSome).map (·.uid)

/-- An access in flight of an entry has waited 1 ms for its acknowledgement. A load that only a register keeps from being made has had it (19
R400; 07 R164). -/
def State.unacknowledged (s : State) (b : Bank) (x : Entry) (whole : Bool) (ws : List RegW) (ps : List Put) : Bool :=
  (x.inFlight whole ws ps).any fun p => x.overdue s.time p.2 && (ws[p.1]?).all (b.canWrite x.uid ws)

/-- An access or a row of a bank that goes to the fabric has waited 1 ms for its acknowledgement: the number of its word (19 R400). -/
def State.timedOut (s : State) (n : BankId) : Option Nat :=
  let b := s.bank n
  let late (o : Op) : Bool :=
    if o.isCopy then b.copies.any fun c => c.uid == o.uid && c.flights.any fun f => decide (f.sent + ackLimit ≤ s.time)
    else if o.ent.shape.isSome then s.unacknowledged b o.ent true o.loads o.puts
    else b.mayWrite o && o.ent.overdue s.time 0
  ((b.ops.find? fun o => o.fabric && !o.waiting && !o.spent && late o).map (·.uid)).or
    ([b.qL.head?, b.qW.head?].findSome? fun y => y.bind fun x =>
      if (b.fabricHead x.uid).isSome && s.unacknowledged b x false x.got x.puts then some x.uid else none)

/-- The running matrix operation's next result is to be written now (13 R290). -/
def Bank.kstepDue (b : Bank) (time : Nat) : Bool :=
  match b.mma with
  | m :: _ => decide (m.nextNs ≤ time)
  | [] => false

/-- The first row of a copy of a bank that can land (11 R248; 02 R52). -/
def State.rowDue (s : State) (n : BankId) : Option (Nat × Nat) :=
  (s.bank n).copies.findSome? fun c =>
    (c.flights.find? fun f => !f.puts.any fun p => s.store.locked p.loc).map fun f => (c.uid, f.row)

/-- The event of a bank that executes and is not cut. -/
def State.runningDue (s : State) (n : BankId) : Option Instr :=
  let b := s.bank n
  if b.stopped then none
  else if b.stopDue then some (.debugStopMatch n)
  else if !b.hland.isEmpty then some (.handleLand n)
  else match s.timedOut n with
  | some u => some (.fabricCompletionError n u 1)
  | none =>
  match s.completable n with
    | some u => some (.operationComplete n u)
    | none =>
      match s.pollDue n with
      | some u => some (.fabricWaitPoll n u)
      | none =>
        match s.rowDue n with
        | some (u, r) => some (.copyRowLand n u r)
        | none =>
          match b.swait with
          | .ctxq .. => some (.ctxqAnswer n)
          | .none | .slot _ | .power _ =>
            if b.kstepDue s.time then some (.kstepWrite n)
            else if b.flights.any fun f => !f.arrived then some (.lateLoadArrival n)
            else if s.idles n then some (.idleEngineCycle n)
            else if s.deadlocked n then some (.cWriteLand n)
            else none

/-- The event of a bank that is due: in a drain its end or what it waits for, else what its operations in flight bring. -/
def State.bankDue (s : State) (n : BankId) : Option Instr :=
  let b := s.bank n
  match b.status with
  | .running =>
    match s.allocDue n with
    | some i => some i
    | none =>
      if b.cut.isNone then s.runningDue n
      else if s.drained n then some (.drainComplete n)
      else ((s.completable n).map fun u => .operationComplete n u).or ((s.rowDue n).map fun p => .copyRowLand n p.1 p.2)
  | .preempted => some (.preemptionSaveEnd n)
  | .shadow =>
    match s.launchOf (b.ofTask (·.launch)) with
    | some l =>
      let x := l.dies.get (dieOf n)
      if x.st == .eligible && decide (x.placed < x.tasks) then some (.shadowStart n) else none
    | none => none
  | .free => if s.hasSaved n && !(s.incoming.any fun p => p.1 == n.val) then some (.restore n) else none
  | .unfunded | .ready | .switchedOut => none

/-- The W head whose stores in flight hold the last request entries of the core: they are performed before it completes (03 R72; 10 R228). -/
def State.storesDue (s : State) (b : BankId) : Option Nat :=
  match (s.bank b).qW with
  | x :: _ => if !x.puts.isEmpty && decide (768 ≤ (s.bank b).requests + (s.bank (otherBank b)).requests) then some x.uid else none
  | [] => none

/-- The turn of one agent of a bank. -/
def State.slotPlan (s : State) (b : BankId) : Slot → Option Plan
  | .dispatch => s.dispatchPlan b
  | .S => if (s.bank b).qS.isEmpty || !(s.bank b).takes then none else some (s.takeHead b .S)
  | .L => if (s.bank b).qL.isEmpty || !((s.bank b).takes || (s.bank b).finishes .L) then none else some (s.takeHead b .L)
  | .C => if (s.bank b).qC.isEmpty || !(s.bank b).takes then none else some (s.takeHead b .C)
  | .W => if (s.bank b).qW.isEmpty || !((s.bank b).takes || (s.bank b).finishes .W) then none else some (s.takeHead b .W)
  | .events =>
    match (if (s.bank b).takes then (s.bank b).partDue else none), (if (s.bank b).takes then s.storesDue b else none) with
    | some (u, k), _ => some (none, s.loadPart b u k)
    | none, some u => some (none, s.storePart b u 0)
    | none, none => (s.bankDue b).map fun i => (some i, s)

/-- The slots from one on, in rotation. -/
def Slot.rotation : Slot → List Slot
  | .dispatch => [.dispatch, .S, .L, .C, .W, .events]
  | .S => [.S, .L, .C, .W, .events, .dispatch]
  | .L => [.L, .C, .W, .events, .dispatch, .S]
  | .C => [.C, .W, .events, .dispatch, .S, .L]
  | .W => [.W, .events, .dispatch, .S, .L, .C]
  | .events => [.events, .dispatch, .S, .L, .C, .W]

/-- The slot after one. -/
def Slot.next : Slot → Slot
  | .dispatch => .S | .S => .L | .L => .C | .C => .W | .W => .events | .events => .dispatch

/-- The turn of a bank: the first of its agents, in rotation, that has something to do. -/
def State.bankPlan (s : State) (b : BankId) : List Slot → Plan
  | [] => (none, s)
  | k :: ks =>
    match (s.modBank b fun x => { x with slot := k.next }).slotPlan b k with
    | some p => p
    | none => s.bankPlan b ks

/-! ### The turns of the device -/

/-- A wait of a launch on a die is to be made, or to be completed, or cannot be read any more, and no lookup that this needs is held (14
R305; 01 R35). -/
def State.waitMoves (s : State) (l : Launch) (d : Die) (k : Nat) (w : Nat × Nat) : Bool :=
  let v := s.store.lwait l.id d k
  if v.any (·.done) then false
  else if v.any (·.met) then true
  else if s.lookupHeld d l.asn w.1 8 then false
  else match s.locate d l.asn w.1 true false with
    | .error _ => !s.retireHeld l d
    | .ok a => if s.store.anyBad a 8 then !s.retireHeld l d else v.isNone || decide (w.2 ≤ s.store.homeNat a 8)

/-- What else is due of a launch on a die (14 R305, R309, R311; 19 R410). -/
def State.launchDue (s : State) (l : Launch) (d : Die) : Option Instr :=
  let x := l.dies.get d
  match x.st with
  | .off | .retired => none
  | .waiting =>
    let ws := (s.waitsOf l).zipIdx
    if ws.any (fun w => s.waitMoves l d w.2 w.1) || (!s.behind l d && ws.all fun w => (s.store.lwait l.id d w.2).any (·.done)) then
      some (.launchEligible d l.id)
    else none
  | .held => if s.hintMet l || decide (x.since + 100000 ≤ s.time) then some (.fhintHoldExpiry d l.id) else none
  | .eligible =>
    match x.hotSince with
      | some t =>
        if !x.skipHot && decide (t + 1000000 ≤ s.time + x.hotNs) then some (.placementThermalTimeout d l.id) else none
      | none => none
  | .placedAll => if decide (x.tasks ≤ x.ended) && !s.retireHeld l d then some (.launchRetire d l.id) else none

/-- What is due of the launches: ageing steps before arrivals at the same time, chains to fetch, and what each die has to do (14 R305-R312,
R316). -/
def State.launchesDue (s : State) : Option Instr :=
  ((List.finRange 4).findSome? fun d => (s.ageNext d).map fun l => .launchAgeing d l.id).or
    (s.launches.list.findSome? fun (l : Launch) =>
      if recNext l.raw != 0 && !l.followed && !s.lookupHeld 0 l.asn (recNext l.raw) 256 then some (.chainFetch l.id) else (List.finRange 4).findSome? fun d => s.launchDue l d)

/-- A placement, an expansion or a note of waiting is to be made on a die (14 R307-R310, R312). -/
def State.placementDue (s : State) : Option Instr :=
  if s.launches.list.isEmpty then none
  else (List.finRange 4).findSome? fun d =>
    let order := s.fifoOrder d
    let hot (l : Launch) : Bool := match s.findPlace l d, (l.dies.get d).hotSince with
      | .hot, none | .none, some _ => true
      | .hot, some _ | .none, none | .at _, _ => false
    if order.any (fun l => (s.placeNext l d).isSome || hot l)
        || s.launches.list.any (fun l => (s.expandShadow l d).isSome) then some (.taskPlacement d)
    else none

/-- What is due of the queues: a mapping decision, a SIGNAL that was fetched, or the entry at a head (19 R405, R406, R408). -/
def State.queuesDue (s : State) : Option Instr :=
  if s.gaffer.queues.all (·.isNone) then none
  else if s.decides && s.nextPending.isSome then some .queueSchedule
  else (List.finRange 64).findSome? fun q =>
    match s.gaffer.queues.get q with
    | none => none
    | some c =>
      if (s.signalDue q).isSome then some (.ringSignal q)
      else match (s.ringEntry c).2 with
      | .none => none
      | .fault => some (.ringFetchFault q)
      | .entry 0 _ => some (.ringNop q)
      | .entry 1 va => if s.lookupHeld 0 c.parms.asn va 256 then none else some (.launch q)
      | .entry 2 _ => some (.ringSignal q)
      | .entry _ _ => some (.ringUnknownType q)

/-- A grid's boundary is reached on a die (16 R332). -/
def State.gridsDue (s : State) : Option Instr :=
  (List.finRange 16).findSome? fun g =>
    let x := s.grid g
    match x.desc with
    | none => none
    | some t => if !x.started then none
      else (List.finRange 4).findSome? fun d =>
        if x.runsOn d && decide (boundaryTime t (x.next.get d) ≤ s.time) && !s.gridHeld g d then some (.slotBoundary d g) else none

/-- What is due of a die's power and rails (18 R379, R383, R386, R392, R394). -/
def State.powerDue (s : State) : Option Instr :=
  (List.finRange 4).findSome? fun d =>
    let p := s.diePower d
    if !p.heads.isEmpty && (s.grantable d).isSome then some (.budgetGrant d)
    else if p.railUp != 0 || p.railDown != 0 then some (.marverRailStep d)
    else if p.hold && decide (p.holdFrom + 1000000000 ≤ s.time) then some (.undervoltHoldEnd d)
    else if !p.hold && decide (p.sp < p.spConf) && decide (p.calmFrom + 60000000000 ≤ s.time) then some (.setPointRestore d)
    else match p.change with
      | some ch =>
        if ch.up then some (if p.vdie != s.vneed d then .railStep d else .clockSwitchEnd d)
        else some (if ch.switched then .railStep d else .clockSwitchEnd d)
      | none => (s.power.freqOrder.find? fun b => dieOf b == d).map fun b => .freqRequestTakeup b

/-- What is due of translation and the remote partitions (01 R24, R35; 03 R79). -/
def State.storeDue (s : State) : Option Instr :=
  match s.xl.walks.find? fun w => !s.xl.heldBy w.die w.asn w.va.toNat with
  | some w => some (.walkComplete w.tag)
  | none =>
    match s.store.fills with
    | r :: _ => some (.remoteFill r.die r.line)
    | [] => s.xl.invals.findSome? fun i =>
        (i.dies.find? fun d => !s.dieReaches d i.asn i.base i.len).map fun d => .invalidationRelease d i.id

/-- What is due of links, device time and error records (19 R401, R402; 20 R415). -/
def State.linksDue (s : State) : Option Instr :=
  match (List.finRange 24).find? fun p => (s.fabric.ports.get p).training with
  | some p => some (.linkRetrained p)
  | none =>
    match (List.finRange 24).find? s.shedDue, (List.finRange 24).find? s.restoreDue with
    | some p, _ => some (.laneShed p)
    | none, some p => some (.laneRestore p)
    | none, none =>
    if !s.fabric.freeRun && decide (s.fabric.lastMessage + 10000000 ≤ s.time) then some .timeSyncLoss
    else (s.gaffer.records.find? fun r => !r.lasting && decide (errWindow ≤ s.time - r.first)).map fun r => .errorWindowExpiry r.loc

/-- The event of the device that is due, with the state in which it acts. What the gaffer complex, the launch units and the lehrs do waits
until the device runs, and in minimal mode only core 0 does (20 R416, R426). -/
def State.due (s : State) : Option (Instr × State) :=
  let here (i : Option Instr) : Option (Instr × State) := i.map fun i => (i, s)
  let run (i : Option (Instr × State)) : Option (Instr × State) := if s.ready then i else none
  let on (i : Option (Instr × State)) : Option (Instr × State) := if s.coresRun then i else none
  (on (here s.storeDue)).or ((run (here (s.gridsDue.or (s.queuesDue.or (s.launchesDue.or s.placementDue))))).or
    ((run s.requestDue).or ((on (here s.powerDue)).or (run (here s.linksDue)))))

/-! ### Whose turn it is -/

/-- The bank of a core that has an event due while it does not execute. -/
def State.idleDue (s : State) (c : CoreId) : Option Instr :=
  let ev (k : Fin 2) : Option Instr := if (s.bank (bankAt c k)).status == .running then none else s.bankDue (bankAt c k)
  (ev 0).or (ev 1)

/-- The turn of a core: an event of a bank that does not execute, else the turn of the bank that does. -/
def State.corePlan (s : State) (c : CoreId) : Plan :=
  match s.idleDue c with
  | some i => (some i, s)
  | none =>
    match (s.cores.get c).run with
    | some k =>
      match s.raiseFailed (bankAt c k) with
      | some t => (none, t)
      | none => s.bankPlan (bankAt c k) (s.bank (bankAt c k)).slot.rotation
    | none => (none, s)

/-- The turn of the device: a consequence that a record which has become lasting has still to have, or the event that is due (20 R415). -/
def State.devicePlan (s : State) : Plan :=
  match (if s.coresRun then s.lastingDue else none), s.due with
  | some loc, _ => (none, s.madeLasting loc)
  | none, some p => (some p.1, p.2)
  | none, none => (none, s)

/-- The agent has something to do: a core with a bank that executes or an event, or the device with an event. -/
def State.hasTurn (s : State) (k : Nat) : Bool :=
  if h : k < 288 then (s.cores.get ⟨k, h⟩).run.isSome || (s.idleDue ⟨k, h⟩).isSome else (s.coresRun && s.lastingDue.isSome) || s.due.isSome

/-- What the device does by itself: the turn of the next agent, from `turn` on, that has something to do. -/
def State.ownPlan (s : State) : Plan :=
  match ((List.range 289).map fun k => (s.turn.val + k) % 289).find? s.hasTurn with
  | none => (none, s)
  | some k =>
    let t : State := { s with turn := Fin.ofNat 289 (k + 1) }
    if h : k < 288 then t.corePlan ⟨k, h⟩ else t.devicePlan

/-- What the next step does: the agenda's head once its time has come, else what the device does by itself, while TIME goes on
(log entry 3). -/
def State.plan (s : State) : Plan :=
  match s.agenda with
  | (t, act) :: rest =>
    if t ≤ s.time then
      let t : State := { s with agenda := rest }
      match act with
      | .event i => (if t.admits i then some i else none, t)
      | .issue b e => t.takeHead b e
      | other => (none, t.happens other)
    else (s.tick s.pace).ownPlan
  | [] => (s.tick s.pace).ownPlan

/-! ### A program from outside (log entry 9) -/

/-- A task that runs one word placed from outside: code at VA 0 on the page at physical address 0, executable. -/
def placedTask : TaskInfo where
  launch := 0
  index := 0
  prio := 0
  det := false
  gang := false
  lidx := Vector.replicate 6 0
  lext := Vector.replicate 6 1
  isSlot := false
  grid := 0
  slotCount := 0
  started := 0

/-- Bank 0 of core 0 runs a task of address space 0 whose code page is cached in die 0, its next word is `w`, its queues
are empty, and nothing else is due (log entry 9). -/
def State.placeWord (s : State) (_nbits w : Nat) : State :=
  let s1 := { s with
    agenda := [], cur := 0, active := none, turn := 0
    store := { s.store with mem := s.store.mem.writes 0 (bytesOfWord (BitVec.ofNat 48 w)) }
    xl := { s.xl with dtc := { die := 0, asn := 0, page := 0, big := false, leaf := 0x13 } :: s.xl.dtc, invals := [] }
    cores := s.cores.set 0 { s.cores.get 0 with run := some 0 } }
  s1.modBank 0 fun b => { b with
    status := .running, task := some placedTask, asn := 0, code := 0, pc := 0, ctl := false, stopFetch := false, cut := none
    stopped := false, slot := .dispatch, qS := [], qL := [], qC := [], qW := [], stopSeq := [], brk := [], halt := false
    upset := [], failed := [] }

end Sys2Proof.Machine
end

