-- ==== Sys2Proof/Machine/Step.lean ====
section
/-! DEFINITION. One step of the device, and the placing of a word where the next step fetches it. -/

namespace Sys2Proof.Machine

open Sys2Proof

/-- One step: what the schedule puts next acts by its meaning. -/
def step (s : State) : Host.Outcome State Fault Refusal :=
  match s.plan with
  | (some i, t) => exec i t
  | (none, t) => .next t

/-- A word placed where the next step fetches it (log entry 9). -/
def State.withFetchWord (s : State) (nbits w : Nat) : State := s.placeWord nbits w

end Sys2Proof.Machine
end

