-- ==== Sys2Proof/Safety.lean ====
section
/-! DEFINITION. What counts as a safe run, and the terms in which the statements speak of words, frames and states. -/

namespace Sys2Proof.Machine

open Sys2Proof

/-- A run of `k` steps from a state is safe: no step of it ends in a fault or a refusal. -/
def State.safeFor (s : State) (k : Nat) : Prop := ∃ t : State, Sys2Proof.core.run k s = .next t

/-! ### A word in hand -/

/-- The queue entry with which a word acts: the one taken from its queue head, or its dispatch now (07 R162, R163). -/
def State.inHand (s : State) (i : Instr) : Entry := (s.begin i).1

/-- The state in which a word acts. -/
def State.acting (s : State) (i : Instr) : State := (s.begin i).2

/-- S takes the word: its pops are there, its push can reserve a place, no scalar register that it reads or writes has a write
pending, and its bank is not cut (09 R202; 17 R357). -/
def State.sGo (s : State) (i : Instr) : Prop := (s.acting i).here.sReady i (s.inHand i) = true

/-! ### Frames -/

/-- Nothing but the bank that executes has changed, and no entry is in hand: memory, the other banks, translation, launches,
power, the fabric and the gaffer complex are as before. -/
def State.bankOnly (s t : State) : Prop :=
  t = { s with banks := t.banks, active := none } ∧ ∀ n, n ≠ s.cur → t.bank n = s.bank n

/-- Of a bank, only scalar registers, token counts, and what dispatch moves (the index of the next word, the count of words,
the marks that stop the dispatcher, the streams' members) have changed: every vector, predicate, handle and layout register,
every accumulator, every queue and every control register is as before. -/
def Bank.scalarsOnly (b c : Bank) : Prop :=
  c = { b with s := c.s, tok := c.tok, rsv := c.rsv, pc := c.pc, uid := c.uid, ctl := c.ctl, stopFetch := c.stopFetch, reach := c.reach }

/-- The effect of an S word that writes one scalar register with `x`: that register reads `x`, or 0 if it is s0, every other
scalar register reads as before, and nothing else has changed but what dispatch and the sync fields move. -/
def State.scalarDone (s t : State) (rd : BitVec 5) (x : Word) : Prop :=
  s.bankOnly t ∧ s.here.scalarsOnly t.here ∧ t.here.sreg rd = (if rd = 0 then 0 else x)
    ∧ ∀ r, r ≠ rd → t.here.sreg r = s.here.sreg r

/-! ### Accesses of L and W -/

/-- Every unit that `n` bytes at a location touch is correct, at home and in the dies' copies of it: no stored error, no lost line, and
neither an error in HBM against its line nor one of its tag (03 R79, R84, R85). -/
def State.clean (s : State) (l n : Nat) : Prop :=
  ∀ u ∈ unitsOf l n, let a := s.store.resolve (u * 8) / 8
    s.store.unitEcc a = none ∧ s.store.badUnit u = false ∧ (∀ p ∈ s.store.hbmEcc, p.1 / 16 ≠ a / 16)
      ∧ (∀ p ∈ s.store.tagEcc, p.2.1 ≠ a / 16) ∧ ∀ r ∈ s.store.remote, ∀ p ∈ r.ecc, p.1 ≠ a

/-- No traffic filter of the device is enabled, so that no slice writes to a log ring (20 R423). -/
def State.filtersOff (s : State) : Prop := ∀ d, s.gaffer.filtersOn d = false

/-- No storage unit, HBM unit or remote copy holds an error, and no unbacked line is lost (02 R54; 03 R84). -/
def Store.noErrors (st : Store) : Prop := st.clean = true ∧ ∀ p ∈ st.lines, p.2 ≠ .lost

/-- The word at its engine's head may make its current access with its captured handle: nothing holds it there (04 R98, R118; 03 R72),
the check passes or has passed (01 R28), and its page is neither locked for a conversion nor reached first by another access (02
R52). -/
def State.accessGo (s : State) (e : Engine) (i : Instr) (a : Access) (last : Bool) (c : Capture) : Prop :=
  (s.inHand i).cap = some c
    ∧ (s.acting i).lwGate e (usesOf i) (s.inHand i) (s.store.blocks (c.h.loc + a.o) a.z) last = .go
    ∧ (s.inHand i).check (c.check a.needR a.needW a.aligned a.o a.z) = .pass ∧ s.store.locked (c.h.loc + a.o) = false
    ∧ s.store.behindArrival s.cur (s.inHand i).uid (c.h.loc + a.o) = false

/-- The storage apart from the marks of accesses that wait at a page's home, or have waited there and are not performed yet (02 R52). -/
def Store.marksAside (st : Store) : Store := { st with arrivals := [] }

/-- No word of any bank has an access on an object or a range still to be performed (log entry 61). -/
def State.nonePends (s : State) : Prop := ∀ n, ∀ o ∈ (s.bank n).ops, o.pend = false

/-- A write needs no allocation answer, or has been given it (02 R49). -/
def State.allocGo (s : State) (i : Instr) (c : Capture) (l : Nat) : Prop :=
  (c.h.unbacked = false ∨ s.store.resolve l < 2 ^ 48) ∨ (s.inHand i).alloc = .granted

/-- Of a bank, the registers, handles, layouts, accumulators and control registers are as before. -/
def Bank.sameRegisters (b c : Bank) : Prop :=
  c.s = b.s ∧ c.v = b.v ∧ c.p = b.p ∧ c.h = b.h ∧ c.y = b.y ∧ c.acc = b.acc ∧ c.fq = b.fq ∧ c.srstate = b.srstate ∧ c.mstat = b.mstat
    ∧ c.merrlog = b.merrlog ∧ c.evpend = b.evpend ∧ c.tcause = b.tcause ∧ c.tval = b.tval ∧ c.tstate = b.tstate
    ∧ c.tvec = b.tvec ∧ c.tsave = b.tsave ∧ c.freqreq = b.freqreq ∧ c.pwrCls = b.pwrCls

end Sys2Proof.Machine
end

