-- ==== Sys2Proof/Certificates/Slice0/Obligations.lean ====
section
/-! DEFINITION. The statements about the model, in the order of the spec's families. Each names the rules that it rests on. -/

open Sys2Proof Sys2Proof.Machine

/-! ### S words: registers (09) -/

/-- The register words of 09 Table 9.2 with two sources, division apart, and their values. -/
def Sys2Proof.Machine.arithmetic (a : SRrr) : List (Instr × (Word → Word → Word)) :=
  [(.add a, fun x y => x + y), (.sub a, fun x y => x - y), (.mul a, fun x y => x * y),
   (.mulh a, fun x y => BitVec.ofInt 64 (x.toInt * y.toInt / 2 ^ 64)), (.mulhu a, fun x y => BitVec.ofNat 64 (x.toNat * y.toNat / 2 ^ 64)),
   (.and a, fun x y => x &&& y), (.or a, fun x y => x ||| y), (.xor a, fun x y => x ^^^ y),
   (.sll a, fun x y => x <<< (y.toNat % 64)), (.srl a, fun x y => x >>> (y.toNat % 64)),
   (.sra a, fun x y => x.sshiftRight (y.toNat % 64)), (.slt a, fun x y => if x.toInt < y.toInt then 1 else 0),
   (.sltu a, fun x y => if x.toNat < y.toNat then 1 else 0), (.min a, fun x y => if x.toInt ≤ y.toInt then x else y),
   (.max a, fun x y => if x.toInt ≤ y.toInt then y else x)]

/-- The immediate words of 09 Table 9.2 and their values; the shifts take their amount from the low six bits. -/
def Sys2Proof.Machine.immediate (a : SImm) (b : SShift) : List (Instr × BitVec 5 × BitVec 5 × (Word → Word)) :=
  [(.addi a, a.rd, a.ra, fun x => x + a.imm.signExtend 64), (.andi a, a.rd, a.ra, fun x => x &&& a.imm.signExtend 64),
   (.ori a, a.rd, a.ra, fun x => x ||| a.imm.signExtend 64), (.xori a, a.rd, a.ra, fun x => x ^^^ a.imm.signExtend 64),
   (.slti a, a.rd, a.ra, fun x => if x.toInt < a.imm.toInt then 1 else 0),
   (.slli b, b.rd, b.ra, fun x => x <<< b.sh.toNat), (.srli b, b.rd, b.ra, fun x => x >>> b.sh.toNat),
   (.srai b, b.rd, b.ra, fun x => x.sshiftRight b.sh.toNat)]

/-- 09 R203: each register form of Table 9.2, division apart, writes rd with the value of the table, s0 discards the write, and
nothing else changes; it completes whenever S takes it (R202). -/
def Sys2Proof.Machine.saidArithmeticResults : Prop :=
  ∀ (s : State) (a : SRrr), ∀ p ∈ arithmetic a, s.sGo p.1 →
    ∃ t, exec p.1 s = .next t ∧ s.scalarDone t a.rd (p.2 (s.here.sreg a.ra) (s.here.sreg a.rb))

/-- 09 R203: each immediate form of Table 9.2 writes rd with the value of the table, and nothing else changes. -/
def Sys2Proof.Machine.saidImmediateResults : Prop :=
  ∀ (s : State) (a : SImm) (b : SShift), ∀ p ∈ immediate a b, s.sGo p.1 →
    ∃ t, exec p.1 s = .next t ∧ s.scalarDone t p.2.1 (p.2.2.2 (s.here.sreg p.2.2.1))

/-- 09 R203, 07 R161: in SLLI, SRLI and SRAI imm25[24:6] is unused, and a word in which it is not zero is illegal with kind 0.1. -/
def Sys2Proof.Machine.saidShiftBitsZero : Prop :=
  ∀ w : IWord, w.extractLsb' 46 2 = 0 → w.extractLsb' 35 6 ∈ [(0x18 : BitVec 6), 0x19, 0x1A] → w.extractLsb' 6 19 ≠ 0 →
    decode w = .error .reserved

/-- 09 R204: division never traps and gives the results of Table 9.3; the ordinary cases truncate toward zero, so that
a = quotient × b + remainder. -/
def Obligations.DivisionResults : Prop :=
  ∀ (s : State) (a : SRrr), let x := s.here.sreg a.ra; let y := s.here.sreg a.rb
    (s.sGo (.div a) → ∃ t q, exec (.div a) s = .next t ∧ s.scalarDone t a.rd q
      ∧ (y = 0 → q = BitVec.allOnes 64) ∧ (x = BitVec.intMin 64 → y = BitVec.allOnes 64 → q = x)
      ∧ (y ≠ 0 → ¬(x = BitVec.intMin 64 ∧ y = BitVec.allOnes 64) → q.toInt = x.toInt.tdiv y.toInt))
    ∧ (s.sGo (.rem a) → ∃ t r, exec (.rem a) s = .next t ∧ s.scalarDone t a.rd r
      ∧ (y = 0 → r = x) ∧ (x = BitVec.intMin 64 → y = BitVec.allOnes 64 → r = 0) ∧ (y ≠ 0 → r.toInt = x.toInt.tmod y.toInt))
    ∧ (s.sGo (.divu a) → ∃ t q, exec (.divu a) s = .next t ∧ s.scalarDone t a.rd q
      ∧ (y = 0 → q = BitVec.allOnes 64) ∧ (y ≠ 0 → q.toNat = x.toNat / y.toNat))
    ∧ (s.sGo (.remu a) → ∃ t r, exec (.remu a) s = .next t ∧ s.scalarDone t a.rd r
      ∧ (y = 0 → r = x) ∧ (y ≠ 0 → r.toNat = x.toNat % y.toNat))

/-- 09 R205: LI writes the sign-extended immediate; LIH shifts it up by 30 and keeps the low 30 bits of rd. -/
def Sys2Proof.Machine.saidConstantResults : Prop :=
  ∀ (s : State) (a : SLi),
    (s.sGo (.li a) → ∃ t, exec (.li a) s = .next t ∧ s.scalarDone t a.rd (a.imm.signExtend 64))
    ∧ (s.sGo (.lih a) → ∃ t, exec (.lih a) s = .next t
      ∧ s.scalarDone t a.rd ((a.imm.signExtend 64 <<< 30) ||| (s.here.sreg a.rd &&& BitVec.ofNat 64 (2 ^ 30 - 1))))

/-- The register, immediate and constant words of Table 9.2 write rd with their value and change nothing else (R203, R205). -/
def Obligations.RegisterResults : Prop := saidArithmeticResults ∧ saidImmediateResults ∧ saidShiftBitsZero ∧ saidConstantResults

/-! ### S words: control flow (09 R206, R207) -/

/-- The branches of 09 R206 and their conditions. -/
def Sys2Proof.Machine.branches (a : SBr) : List (Instr × (Word → Word → Bool)) :=
  [(.beq a, fun x y => decide (x = y)), (.bne a, fun x y => decide (x ≠ y)), (.blt a, fun x y => decide (x.toInt < y.toInt)),
   (.bge a, fun x y => decide (y.toInt ≤ x.toInt)), (.bltu a, fun x y => decide (x.toNat < y.toNat)),
   (.bgeu a, fun x y => decide (y.toNat ≤ x.toNat))]

/-- 09 R206: a branch at index i goes on at i + off25 where its condition holds and at i + 1 elsewhere; JAL and JALR write the link
index i + 1 and go on at i + off30 and at S[ra] + imm25, read before rd is written; the dispatcher is freed, and nothing else
changes. -/
def Sys2Proof.Machine.saidControlFlowResults : Prop :=
  ∀ s : State,
    (∀ a : SBr, ∀ p ∈ branches a, s.sGo p.1 → ∃ t, exec p.1 s = .next t ∧ s.scalarDone t 0 0 ∧ t.here.ctl = false
      ∧ t.here.pc = if p.2 (s.here.sreg a.ra) (s.here.sreg a.rb) then (s.inHand p.1).idx + a.off.signExtend 64
          else (s.inHand p.1).idx + 1)
    ∧ (∀ a : SJal, s.sGo (.jal a) → ∃ t, exec (.jal a) s = .next t ∧ s.scalarDone t a.rd ((s.inHand (.jal a)).idx + 1)
      ∧ t.here.ctl = false ∧ t.here.pc = (s.inHand (.jal a)).idx + a.off.signExtend 64)
    ∧ (∀ a : SImm, s.sGo (.jalr a) → ∃ t, exec (.jalr a) s = .next t ∧ s.scalarDone t a.rd ((s.inHand (.jalr a)).idx + 1)
      ∧ t.here.ctl = false ∧ t.here.pc = s.here.sreg a.ra + a.imm.signExtend 64)

/-- 09 R207: LOOPB steps its counter down modulo 2^64, appends the rotate entry of m ≠ 0 to the C queue, and branches while the
counter that was written is nonzero (never with s0); falling through, it also takes the core's snapshot: the eight row sums of the
bank-conflict matrix, less what its cells count in that very clock (R428), with the bank, the count of snapshots and the index in BCSNAP. Where the core's other bank has taken one in the
same core clock it takes no second one, and bank 0's is the one recorded (20 R422). With m ≠ 0 it needs a place in the C queue. -/
def Sys2Proof.Machine.saidLoopResult : Prop :=
  ∀ (s : State) (a : SLoop), let i : Instr := .loopb a; let x := s.inHand i; let n := s.here.sreg a.counter - 1
    s.sGo i → (a.m = 0 ∨ s.here.qC.length < 128) →
    ∃ t, exec i s = .next t ∧ t.here.sreg a.counter = (if a.counter = 0 then 0 else n)
      ∧ (∀ r, r ≠ a.counter → t.here.sreg r = s.here.sreg r)
      ∧ t.here.pc = (if a.counter ≠ 0 ∧ n ≠ 0 then x.idx + a.off.signExtend 64 else x.idx + 1) ∧ t.here.ctl = false
      ∧ t.here.qC.map (·.what) = s.here.qC.map (·.what) ++ (if a.m = 0 then [] else [.rotate a.m])
      ∧ t.here = { s.here with
          s := t.here.s, qC := t.here.qC, tok := t.here.tok, rsv := t.here.rsv, pc := t.here.pc, uid := t.here.uid
          ctl := t.here.ctl, stopFetch := t.here.stopFetch, reach := t.here.reach }
      ∧ (∀ b, b ≠ s.cur → t.bank b = s.bank b)
      ∧ t = { s with active := none, banks := t.banks, cores := t.cores }
      ∧ (a.counter ≠ 0 ∧ n ≠ 0 → t.cores = s.cores)
      ∧ (¬(a.counter ≠ 0 ∧ n ≠ 0) →
          let q := s.cores.get (coreOf s.cur); let q' := t.cores.get (coreOf s.cur)
          let clock := s.time * clockMhz (s.clusterPower (clusterOf s.cur)).cls / 1000
          q'.bcm = q.bcm ∧ (∀ c, c ≠ coreOf s.cur → t.cores.get c = s.cores.get c)
            ∧ (q.snapAt ≠ some (clock, 1 - bankNo s.cur) →
                (∀ k, q'.bcRow.get k = (q.bcm.get k).toList.foldl (· + ·) 0
                    - BitVec.ofNat 32 (q.fresh.filter (· == (clock, k))).length) ∧ fieldLow q'.bcSnap 0 16 = (bankNo s.cur).val
                ∧ fieldLow q'.bcSnap 16 16 = (fieldLow q.bcSnap 16 16 + 1) % 2 ^ 16 ∧ fieldLow q'.bcSnap 32 32 = x.idx.toNat % 2 ^ 32)
            ∧ (q.snapAt = some (clock, 1 - bankNo s.cur) → q'.bcRow = q.bcRow
                ∧ (bankNo s.cur = 1 → q'.bcSnap = q.bcSnap)
                ∧ (bankNo s.cur = 0 → fieldLow q'.bcSnap 0 16 = 0 ∧ fieldLow q'.bcSnap 16 16 = fieldLow q.bcSnap 16 16
                    ∧ fieldLow q'.bcSnap 32 32 = x.idx.toNat % 2 ^ 32)))

/-- Branches, jumps and LOOPB fix the next index, the link and the counter (R206, R207, R163, R177, R422). -/
def Obligations.ControlFlow : Prop := saidControlFlowResults ∧ saidLoopResult

/-! ### S words: the bank's own state (09 R208-R224; 01 R25) -/

/-- 09 R210: CRD writes rd with the register's value at S's own execution, and nothing else changes. -/
def Sys2Proof.Machine.saidControlRegisterRead : Prop :=
  ∀ (s : State) (a : SCrd) (v : Word), s.sGo (.crd a) → (s.acting (.crd a)).creg s.cur a.cr = some v →
    ∃ t, exec (.crd a) s = .next t ∧ s.scalarDone t a.rd v

/-- What a write of a value to a control register stores, given the old value; none where 09 Table 9.4 gives no RW access
(09 R210, R213; 00 R11; 08 Table 8.5; 13 Tables 13.5, 13.6; 18 Table 18.4). -/
def Sys2Proof.Machine.cregStored (n : BitVec 13) (old new : Word) : Option Word :=
  if n = 0x022 then some ((new &&& 0x10) ||| (old &&& new &&& 0xE))
  else if n = 0x060 then some (new &&& 0xFF07)
  else if n = 0x061 then some (new &&& 0xFFFF7F00FFFFFFFF)
  else if n = 0x063 then some (if new &&& 0xFFFFFFFF = 0 then 1 else new &&& 0xFFFFFFFF)
  else if n = 0x082 then some (new &&& 0x73)
  else if n = 0x0C3 then some (new &&& 0x80000000FFFFFFFF)
  else if n = 0x0C4 then some new
  else none

/-- The three control register writes and their new value from the old one and S[ra] (09 R210). -/
def Sys2Proof.Machine.cregWrites (a : SCwr) : List (Instr × (Word → Word → Word)) :=
  [(.cwr a, fun _ v => v), (.cset a, fun old v => old ||| v), (.cclr a, fun old v => old &&& ~~~v)]

/-- 09 R210, R213: CWR, CSET and CCLR store the new value's writable bits in a register whose access is RW; afterwards the register
reads so, scalar registers keep their values, and memory, the other banks and the clusters' power state stay but for when a FREQREQ arrived. -/
def Sys2Proof.Machine.saidControlRegisterWrite : Prop :=
  ∀ (s : State) (a : SCwr), ∀ p ∈ cregWrites a, ∀ old w,
    s.sGo p.1 → (s.acting p.1).creg s.cur a.cr = some old → cregStored a.cr old (p.2 old (s.here.sreg a.ra)) = some w →
    ∃ t, exec p.1 s = .next t ∧ t.creg s.cur a.cr = some w ∧ (∀ r, t.here.sreg r = s.here.sreg r)
      ∧ (∀ n, n ≠ s.cur → t.bank n = s.bank n)
      ∧ t = { s with
          active := none, banks := t.banks, power := { s.power with freqOrder := t.power.freqOrder, clusters := t.power.clusters } }
      ∧ ∀ c, t.clusterPower c = { s.clusterPower c with asked := (t.clusterPower c).asked }

/-- 09 R210: a number that Table 9.4 does not assign, and a write to a register whose access is RO, raise 0.4.S with the word as
TVAL as the word reaches the S head, whatever it waits for (07 R160), and the bank is cut there; no scalar register is written, and no
token is taken or pushed. -/
def Sys2Proof.Machine.saidControlRegisterTraps : Prop :=
  ∀ s : State,
    (∀ a : SCrd, s.here.cut = none → (s.acting (.crd a)).creg s.cur a.cr = none →
      ∃ t w, exec (.crd a) s = .next t ∧ encode (.crd a) = some w ∧ t.here.tcause = 0x8010 ∧ t.here.tval = w.setWidth 64
        ∧ t.here.cut = some (.cause { group := 0, kind := 4, engine := .S }) ∧ t.here.tok = s.here.tok ∧ ∀ r, t.here.sreg r = s.here.sreg r)
    ∧ ∀ a : SCwr, ∀ p ∈ cregWrites a, s.here.cut = none → cregStored a.cr 0 0 = none →
      ∃ t w, exec p.1 s = .next t ∧ encode p.1 = some w ∧ t.here.tcause = 0x8010 ∧ t.here.tval = w.setWidth 64
        ∧ t.here.cut = some (.cause { group := 0, kind := 4, engine := .S }) ∧ t.here.tok = s.here.tok ∧ ∀ r, t.here.sreg r = s.here.sreg r

/-- CRD, CWR, CSET and CCLR read and write the control registers, and trap on unassigned and read-only ones (R210, R211, R212, R213, R11). -/
def Obligations.ControlRegisters : Prop := saidControlRegisterRead ∧ saidControlRegisterWrite ∧ saidControlRegisterTraps

/-- 09 R214, 17 R357, R360: TRAP, once S takes it (R202), completes in raising 5.15.S: TCAUSE 0x817C (0x017C with VALID), TVAL the
sign-extended immediate, TSTATE the index, sequence number and engine, its pops and its push made, the saved PC its index + 1; the bank
is cut there, and no register and no byte of memory changes. 5.15 is no handler's cause (17 Table 17.1): where nothing of the task is
in flight and no task waits for the bank, the drain that follows switches the bank out with a trap frame of KIND 1 and the cause in core 6's mailbox. -/
def Sys2Proof.Machine.saidTrapTaken : Prop :=
  ∀ (s : State) (a : STrap), let x := s.inHand (.trap a); let c : Cause := { group := 5, kind := 15, engine := .S }
    s.sGo (.trap a) → ∃ t, exec (.trap a) s = .next t
      ∧ t.here.tcause = 0x817C ∧ t.here.tval = a.imm.signExtend 64 ∧ t.here.tstate = tstateOf c s.here.inh x
      ∧ t.here.cut = some (.cause c) ∧ t.here.pc = x.idx + 1 ∧ t.here.ctl = false ∧ t.here.qS.map (·.uid) = s.here.qS.map (·.uid)
      ∧ t.here.tok = ((s.acting (.trap a)).here.sSync a.sy x).tok
      ∧ (∀ r, t.here.sreg r = s.here.sreg r) ∧ t.here.v = s.here.v ∧ t.here.p = s.here.p ∧ t.here.h = s.here.h ∧ t.here.y = s.here.y
      ∧ t.here.acc = s.here.acc ∧ t.store = s.store ∧ (∀ n, n ≠ s.cur → t.bank n = s.bank n)
      ∧ ((s.acting (.trap a)).here.quiet = true → (∀ p ∈ s.incoming, p.1 ≠ s.cur.val) →
          ∃ u, exec (.drainComplete s.cur) t = .next u ∧ u.here.status = .switchedOut ∧ u.here.kind = 1 ∧ u.here.awaits = true
            ∧ u.here.cut = none ∧ u.here.tcause = 0x817C ∧ u.here.tval = a.imm.signExtend 64 ∧ (s.cur, 0x17C) ∈ u.gaffer.causes)

/-- 09 R215, R202, 17 R364, R365: ERET of a running handler, with its pops there and a place for its push, returns once everything the
handler issued is done: the queues, the operations, the writes in flight, the tokens and the PC of the image come back, INH and KIND
become 0 and dispatch goes on at the saved PC; scalar, vector, predicate, handle and layout registers and the accumulators keep what
the handler left in them, and so do storage, but for KIND in the frame, and the other banks, beside what the read of the image in the save area
finds of errors, and where no error is found in the operand scales of the first MMA (13 R297). An uncorrectable unit in that image raises
5.3.S at the ERET instead (17 R354; 03 R90). A slot miss held during the handler is then taken at once as 4.0.S, before the S head executes; else the
bank is not cut. -/
def Sys2Proof.Machine.saidHandlerReturn : Prop :=
  ∀ (s : State) (a : S0) (g : HImage), let u := (s.acting (.eret a)).here
    let w := (s.acting (.eret a)).readArea s.cur (({ u with frameNo := g.frameNo } : Bank).frameRanges 2)
    u.image = some g → u.status = .running → u.cut = none → u.popsOk .S a.sy (s.inHand (.eret a)) = true → u.canPush .S a.sy.push = true → u.quiet = true →
    (s.store.clean = true → w = (s.acting (.eret a), none))
    ∧ (∀ k, w.2 = some k → ∃ t, exec (.eret a) s = .next t ∧ t.here.tcause = tcauseOf { group := 5, kind := 3, engine := .S }
        ∧ t.here.tval = BitVec.ofNat 64 (8 + (k - saveBase s.cur / 8) * 2 ^ 16)
        ∧ t.here.cut = some (.cause { group := 5, kind := 3, engine := .S }))
    ∧ (w.2 = none → ∃ t, exec (.eret a) s = .next t ∧ t.here.pc = g.pc ∧ t.here.qS.map (·.uid) = g.qS.map (·.uid) ∧ t.here.qL = g.qL ∧ t.here.qC = g.qC
      ∧ t.here.qW = g.qW ∧ t.here.ops = g.ops ∧ t.here.copies = g.copies ∧ t.here.flights = g.flights.map (·.resumed u.engcyc)
      ∧ t.here.mma.map (·.uid) = g.mma.map (·.uid) ∧ t.here.tok = g.tok ∧ t.here.rsv = g.rsv ∧ t.here.ctl = g.ctl
      ∧ t.here.image = none ∧ t.here.kind = 0 ∧ t.here.s = s.here.s ∧ t.here.v = s.here.v ∧ t.here.p = s.here.p ∧ t.here.h = s.here.h
      ∧ t.here.y = s.here.y ∧ t.here.acc = s.here.acc
      ∧ ((∀ m ∈ g.mma.head?, m.started = true) ∨ s.store.clean = true → (∀ n, n ≠ s.cur → t.bank n = w.1.bank n)
          ∧ t.store = w.1.store.put (dieOf s.cur) (saveBase s.cur + 0x3FC00) (le8 0))
      ∧ (u.heldMiss = none → t.here.cut = none ∧ t.here.qS = g.qS ∧ t.here.tstate = (s.here.tstate &&& ~~~(1 : Word)))
      ∧ (∀ v, u.heldMiss = some v → t.here.heldMiss = none ∧ t.here.tval = v
          ∧ t.here.cut = some (.cause { group := 4, kind := 0, engine := .S })
          ∧ t.here.tcause = tcauseOf { group := 4, kind := 0, engine := .S }))

/-- 09 R215: ERET while TSTATE shows no handler raises 0.5.S with the word as TVAL. -/
def Sys2Proof.Machine.saidReturnOutsideHandler : Prop :=
  ∀ (s : State) (a : S0), s.sGo (.eret a) → s.here.image = none → ∃ t w, exec (.eret a) s = .next t ∧ encode (.eret a) = some w
    ∧ t.here.tcause = 0x8014 ∧ t.here.tval = w.setWidth 64 ∧ t.here.cut = some (.cause { group := 0, kind := 5, engine := .S })

/-- TRAP takes its cause, ERET returns from the handler, and ERET outside one traps (R214, R215, R357, R365). -/
def Obligations.TrapAndReturn : Prop := saidTrapTaken ∧ saidHandlerReturn ∧ saidReturnOutsideHandler

/-- What a WAITEV takes at a TIME: the pending events of its mask, and bit 0 where its deadline is reached (09 R216). -/
def Sys2Proof.Machine.waitTakes (b : Bank) (a : SWait) (time : Nat) : Word :=
  (b.evpend &&& a.mask.setWidth 64 &&& 0x1E) ||| (if a.mask.getLsbD 0 = true ∧ (b.sreg a.ra).toNat ≤ time then 1 else 0)

/-- 09 R216: WAITEV ends when an event of its mask is pending, its deadline is reached or its mask is zero; it writes what it took and
clears the events taken. WAITEV_DEADLINE ends the wait of the WAITEV at a bank's S head, with bit 0 in its result. -/
def Sys2Proof.Machine.saidWaitForEvent : Prop :=
  (∀ (s : State) (a : SWait), s.sGo (.waitev a) → (waitTakes s.here a s.time ≠ 0 ∨ a.mask = 0) →
    ∃ t, exec (.waitev a) s = .next t ∧ s.bankOnly t
      ∧ t.here.sreg a.rd = (if a.rd = 0 then 0 else waitTakes s.here a s.time) ∧ (∀ r, r ≠ a.rd → t.here.sreg r = s.here.sreg r)
      ∧ t.here.evpend = (s.here.evpend &&& ~~~(waitTakes s.here a s.time &&& 0x1E))
      ∧ s.here.scalarsOnly { t.here with evpend := s.here.evpend })
  ∧ ∀ (s : State) (n : BankId) (a : SWait) (x : Entry) (rest : List Entry),
      (s.bank n).qS = x :: rest → x.what = .word (.waitev a) → a.mask.getLsbD 0 = true → ((s.bank n).sreg a.ra).toNat ≤ s.time →
      ({ s.bank n with qS := rest } : Bank).sReady (.waitev a) x = true →
      ∃ t, exec (.waitevDeadline n) s = .next t ∧ (a.rd ≠ 0 → ((t.bank n).sreg a.rd).getLsbD 0 = true) ∧ (t.bank n).qS = rest

/-- 09 R209, 14 R314, R316: YIELD completes at once where no launch waits for a bank on its core, launches that become eligible now
included, after the ageing steps that are due; the word after it sees the same state. Where one of its priority or higher waits and its next task fits, the task is
pre-empted at the YIELD, which stands at its head until the task resumes and completes then. -/
def Sys2Proof.Machine.saidYieldResult : Prop :=
  ∀ (s : State) (a : S0), s.sGo (.yield a) →
    let x := s.inHand (.yield a)
    let aged := State.ageDie (dieOf s.cur) (6 * s.launches.list.length) (s.acting (.yield a))
    let u := aged.launches.list.foldl (fun (t : State) (l : Launch) => t.testLaunch (dieOf s.cur) l.id) aged
    (x.popped = true ∨ (s.launches.list.all fun l => (l.dies.get (dieOf s.cur)).st != .waiting && !s.ages (dieOf s.cur) l) = true
        ∧ u.yieldTo s.cur = none →
      ∃ t, exec (.yield a) s = .next t ∧ s.scalarDone t 0 0 ∧ t.here.pc = x.idx + 1 ∧ t.here.ctl = false)
    ∧ (x.popped = false → u.yieldTo s.cur = none → ∃ t, exec (.yield a) s = .next t
        ∧ t.bank s.cur = { u.here.sSync a.sy x with pc := x.idx + 1, ctl := false })
    ∧ ∀ id spots, x.popped = false → u.yieldTo s.cur = some (id, spots) → ∃ t y, exec (.yield a) s = .next t
        ∧ (t.bank s.cur).cut = some .preempt ∧ (t.bank s.cur).qS.head? = some y ∧ y.uid = x.uid ∧ y.popped = true

/-- 09 R223, R224: SLOTWAIT of a grid that is none of 0-15, not defined or stopped writes all ones at once; SLOTWAIT and CTXQ write
the answer that the lehr has given. CTXQ_ANSWER answers the CTXQ at a bank's S head with the value at the lehr. -/
def Sys2Proof.Machine.saidSlotQueries : Prop :=
  (∀ (s : State) (a : SRr), let i : Instr := .slotwait a; let g := (s.here.sreg a.ra).toNat
    s.sGo i →
    ((s.inHand i).answer = none → s.here.swait = .none →
      (16 ≤ g ∨ (s.grid (Fin.ofNat 16 g)).desc = none ∨ (s.grid (Fin.ofNat 16 g)).runsOn (dieOf s.cur) = false) →
      ∃ t, exec i s = .next t ∧ t.here.sreg a.rd = (if a.rd = 0 then 0 else BitVec.allOnes 64)
        ∧ ∀ r, r ≠ a.rd → t.here.sreg r = s.here.sreg r)
    ∧ ∀ v, (s.inHand i).answer = some v → ∃ t, exec i s = .next t ∧ s.bankOnly t ∧ t.here.swait = .none
        ∧ t.here.sreg a.rd = (if a.rd = 0 then 0 else v) ∧ ∀ r, r ≠ a.rd → t.here.sreg r = s.here.sreg r)
  ∧ (∀ (s : State) (a : SRrr) (v : Word), let i : Instr := .ctxq a
    s.sGo i → (s.inHand i).answer = some v → ∃ t, exec i s = .next t ∧ s.bankOnly t ∧ t.here.swait = .none
        ∧ t.here.sreg a.rd = (if a.rd = 0 then 0 else v) ∧ ∀ r, r ≠ a.rd → t.here.sreg r = s.here.sreg r)
  ∧ ∀ (s : State) (n : BankId) (m item : Word) (x : Entry) (rest : List Entry),
    (s.bank n).swait = .ctxq m item → (s.bank n).qS = x :: rest → ∃ t v, exec (.ctxqAnswer n) s = .next t
      ∧ (t.bank n).qS = { x with answer := some v } :: rest ∧ (t.bank n).swait = .none ∧ t.store = s.store
      ∧ (8192 ≤ m.toNat → v = BitVec.allOnes 64) ∧ (3 ≤ item.toNat → v = BitVec.allOnes 64)
      ∧ ∀ c, m.toNat < 8192 → s.convOf (Fin.ofNat 8192 m.toNat) = some c → c.effective = true → c.asn = (s.bank n).asn →
        (item = 0 → v = BitVec.ofNat 64 c.frontier) ∧ (item = 1 → v = c.misses.setWidth 64) ∧ (item = 2 → v = BitVec.ofNat 64 c.status)

/-- Of the device, only the bank that executes has changed, and its request for headroom is withdrawn (09 R222). -/
def Sys2Proof.Machine.classOnly (s t : State) : Prop :=
  t = { s with banks := t.banks, power := { s.power with dies := t.power.dies }, active := none }
    ∧ (∀ n, n ≠ s.cur → t.bank n = s.bank n)
    ∧ ∀ d, t.diePower d = if d = dieOf s.cur then
        { s.diePower d with heads := (s.diePower d).heads.filter fun h => h.bank != s.cur || h.placement } else s.diePower d

/-- 09 R222: PWRACQ of a class outside 1-15 writes 1 and changes nothing else; of a class that does not raise its core's charge it sets
PWRCLS.CLASS and writes 0; PWRREL goes back to the declared class. A class that raises the charge asks for headroom and waits at its
head, and completes once it is granted. -/
def Obligations.PowerClass : Prop :=
  (∀ (s : State) (a : SRr), let i : Instr := .pwracq a; let c := (s.here.sreg a.ra).toNat
    s.sGo i →
    ((c = 0 ∨ 15 < c) → ∃ t, exec i s = .next t ∧ s.scalarDone t a.rd 1)
    ∧ (1 ≤ c → c ≤ 15 → (s.inHand i).answer = none → (s.acting i).chargeRise s.cur c ≤ 0 →
        ∃ t, exec i s = .next t ∧ classOnly s t ∧ t.here.pwrCls = c ∧ t.here.sreg a.rd = 0
          ∧ ∀ r, r ≠ a.rd → t.here.sreg r = s.here.sreg r)
    ∧ (1 ≤ c → c ≤ 15 → (s.inHand i).answer = none → 0 < (s.acting i).chargeRise s.cur c → s.here.swait = .none →
        ∃ t, exec i s = .next t ∧ t.here.swait = .power c ∧ t.here.qS = s.inHand i :: s.here.qS ∧ t.here.pwrCls = s.here.pwrCls
          ∧ ∃ h ∈ (t.diePower (dieOf s.cur)).heads, h.bank = s.cur ∧ h.cls = c ∧ h.placement = false)
    ∧ (1 ≤ c → c ≤ 15 → ∀ v, (s.inHand i).answer = some v → ∃ t, exec i s = .next t ∧ s.bankOnly t ∧ t.here.swait = .none
        ∧ t.here.pwrCls = s.here.pwrCls ∧ t.here.sreg a.rd = 0 ∧ ∀ r, r ≠ a.rd → t.here.sreg r = s.here.sreg r))
  ∧ ∀ (s : State) (a : S0), let i : Instr := .pwrrel a
    s.sGo i → (s.inHand i).answer = none → (s.acting i).chargeRise s.cur s.here.pwrDecl ≤ 0 →
      ∃ t, exec i s = .next t ∧ classOnly s t ∧ t.here.pwrCls = s.here.pwrDecl ∧ ∀ r, t.here.sreg r = s.here.sreg r

/-- 01 R25: XLATE never traps; its handle lands later. A non-canonical address makes a handle faulted with kind 7; a cached leaf makes its
handle, or one faulted with kind 1 where a right is missing; a miss, or a lookup that an invalidation holds (R35), makes a pending handle and
starts or joins the page's walk. -/
def Sys2Proof.Machine.saidTranslateResult : Prop :=
  ∀ (s : State) (a : SXlate), let i : Instr := .xlate a; let va := s.here.sreg a.ra; let d := dieOf s.cur
    let r := a.rights.getLsbD 0; let w := a.rights.getLsbD 1
    s.sGo i → ∃ t h, exec i s = .next t ∧ t.here.hland = s.here.hland ++ [{ reg := a.hd, h := h, push := a.sy.push }]
      ∧ t.here.h = s.here.h ∧ (∀ q, t.here.sreg q = s.here.sreg q) ∧ t.store = s.store
      ∧ (2 ^ 52 ≤ va.toNat → h.st = .faulted ∧ h.fkind = 7)
      ∧ (va.toNat < 2 ^ 52 → s.xl.heldBy d s.here.asn va.toNat = false → ∀ e big, s.xl.hit d s.here.asn va.toNat = some (e, big) →
          if (r = true → e.getLsbD 2 = true) ∧ (w = true → e.getLsbD 3 = true) then
            h.st = .valid ∧ h.rd = r ∧ h.wr = w ∧ h.extent.toNat = pageSize big ∧ h.base.toNat = va.toNat - va.toNat % pageSize big
              ∧ h.loc = leafLoc e ∧ h.unbacked = leafU e ∧ h.home.toNat = leafHome e ∧ h.gen.toNat = fieldOf e 48 8
              ∧ h.size = (if big then 1 else 0) ∧ h.isLocal = false
          else h.st = .faulted ∧ h.fkind = 1)
      ∧ (va.toNat < 2 ^ 52 → s.xl.heldBy d s.here.asn va.toNat = true ∨ s.xl.hit d s.here.asn va.toNat = none →
          h.st = .pending ∧ h.va = va ∧ h.reqR = r ∧ h.reqW = w
            ∧ ∃ k ∈ t.xl.walks, k.tag = h.tag ∧ k.die = d ∧ k.asn = s.here.asn ∧ s.samePage d s.here.asn k.va.toNat va.toNat = true)

/-- 09 R217: HLOCAL makes a faulted handle of kind 3 where base or extent is no multiple of 32, the extent is under 32 or the range
leaves the window; else a valid local handle over it. -/
def Sys2Proof.Machine.saidLocalHandleResult : Prop :=
  ∀ (s : State) (a : SHlocal), let i : Instr := .hlocal a; let b := (s.here.sreg a.base).toNat; let e := (s.here.sreg a.ext).toNat
    s.sGo i → ∃ t h, exec i s = .next t ∧ t.here.hland = s.here.hland ++ [{ reg := a.hd, h := h, push := a.sy.push }]
      ∧ s.bankOnly t ∧ (∀ q, t.here.sreg q = s.here.sreg q) ∧ t.here.h = s.here.h
      ∧ if b % 32 ≠ 0 ∨ e % 32 ≠ 0 ∨ e < 32 ∨ s.here.windowSize a.win < b + e then h.st = .faulted ∧ h.fkind = 3
        else h.st = .valid ∧ h.isLocal = true ∧ h.size = 2 ∧ h.window = a.win.setWidth 3 ∧ h.base = BitVec.ofNat 52 b
          ∧ h.extent = BitVec.ofNat 32 e ∧ h.rd = true ∧ h.wr = true ∧ h.gen = 0 ∧ h.unbacked = false
          ∧ h.home.toNat = (dieOf s.cur).val ∧ h.loc = s.here.windowBase s.cur a.win + b

/-- 09 R218, 01 R25, R39: HINV lands the register's handle, as the results on their way to it leave it, with STATE invalid and its other fields
kept; HGET writes a word of a handle register; HANDLE_LAND writes the
oldest result into its register, and the others stay: that the oldest lands first is the model's choice (log entry 25). -/
def Sys2Proof.Machine.saidHandleRegisters : Prop :=
  (∀ (s : State) (a : SHinv), s.sGo (.hinv a) → ∃ t h, exec (.hinv a) s = .next t
    ∧ t.here.hland = s.here.hland ++ [{ reg := a.hd, h := h, push := a.sy.push }]
    ∧ h = { (((s.here.hland.filter fun l => l.reg == a.hd).getLast?.map (·.h)).getD (s.here.h.get a.hd.toFin)) with st := .invalid }
    ∧ s.bankOnly t ∧ ∀ q, t.here.sreg q = s.here.sreg q)
  ∧ (∀ (s : State) (a : SHget), s.sGo (.hget a) → ∃ t, exec (.hget a) s = .next t
    ∧ s.scalarDone t a.rd (if a.word = 0 then (s.here.h.get a.hd.toFin).word0 else (s.here.h.get a.hd.toFin).word1))
  ∧ ∀ (s : State) (n : BankId) (l : HLand) (rest : List HLand), (s.bank n).hland = l :: rest → ∃ t, exec (.handleLand n) s = .next t
    ∧ (t.bank n).hland = rest ∧ (t.bank n).h.get l.reg.toFin = l.h ∧ (∀ k, k ≠ l.reg.toFin → (t.bank n).h.get k = (s.bank n).h.get k)
    ∧ (t.bank n).s = (s.bank n).s ∧ t.store = s.store ∧ ∀ m, m ≠ n → t.bank m = s.bank m

/-- XLATE, HLOCAL, HINV and HGET, and the landing of a handle result (R22, R24, R25, R39, R217, R218). -/
def Obligations.Handles : Prop := saidTranslateResult ∧ saidLocalHandleResult ∧ saidHandleRegisters

/-- 09 R219: YSET writes the low 32 bits of a register to one field, YGET reads one zero-extended, YCLR clears a layout register. -/
def Sys2Proof.Machine.saidLayoutRegisters : Prop :=
  (∀ (s : State) (a : SYfield), a.field.toNat < 24 → s.sGo (.yset a) → ∃ t, exec (.yset a) s = .next t ∧ s.bankOnly t
    ∧ (t.here.y.get a.y.toFin).field a.field.toNat = (s.here.sreg a.s).setWidth 32
    ∧ (∀ f, f ≠ a.field.toNat → (t.here.y.get a.y.toFin).field f = (s.here.y.get a.y.toFin).field f)
    ∧ (∀ k, k ≠ a.y.toFin → t.here.y.get k = s.here.y.get k) ∧ s.here.scalarsOnly { t.here with y := s.here.y }
    ∧ ∀ r, t.here.sreg r = s.here.sreg r)
  ∧ (∀ (s : State) (a : SYfield), s.sGo (.yget a) → ∃ t, exec (.yget a) s = .next t
    ∧ s.scalarDone t a.s (((s.here.y.get a.y.toFin).field a.field.toNat).setWidth 64))
  ∧ ∀ (s : State) (a : SYclr), s.sGo (.yclr a) → ∃ t, exec (.yclr a) s = .next t ∧ s.bankOnly t
    ∧ (∀ f, (t.here.y.get a.y.toFin).field f = 0) ∧ (∀ k, k ≠ a.y.toFin → t.here.y.get k = s.here.y.get k)
    ∧ s.here.scalarsOnly { t.here with y := s.here.y } ∧ ∀ r, t.here.sreg r = s.here.sreg r

/-- 09 R220: FPUSH appends the low 32 bits of a register and FPUSHI the zero-extended immediate to the format queue, with the number of the word
that pushes it (R221); with 16 words in it
they wait at the S head and push nothing. -/
def Sys2Proof.Machine.saidFormatQueue : Prop :=
  (∀ (s : State) (a : SRa), s.sGo (.fpush a) → s.here.fq.length < 16 → ∃ t, exec (.fpush a) s = .next t ∧ s.bankOnly t
    ∧ t.here.fq = s.here.fq ++ [((s.inHand (.fpush a)).uid, (s.here.sreg a.ra).setWidth 32)] ∧ s.here.scalarsOnly { t.here with fq := s.here.fq })
  ∧ (∀ (s : State) (a : SFpushi), s.sGo (.fpushi a) → s.here.fq.length < 16 → ∃ t, exec (.fpushi a) s = .next t ∧ s.bankOnly t
    ∧ t.here.fq = s.here.fq ++ [((s.inHand (.fpushi a)).uid, a.imm.setWidth 32)] ∧ s.here.scalarsOnly { t.here with fq := s.here.fq })
  ∧ (∀ (s : State) (a : SRa), 16 ≤ s.here.fq.length → ∃ t, exec (.fpush a) s = .next t ∧ t.here.fq = s.here.fq
      ∧ t.here.qS = s.inHand (.fpush a) :: s.here.qS)
  ∧ ∀ (s : State) (a : SFpushi), 16 ≤ s.here.fq.length → ∃ t, exec (.fpushi a) s = .next t ∧ t.here.fq = s.here.fq
      ∧ t.here.qS = s.inHand (.fpushi a) :: s.here.qS

/-- YSET, YGET and YCLR act on one layout register, FPUSH and FPUSHI on the format queue (R219, R220). -/
def Obligations.LayoutsAndFormats : Prop := saidLayoutRegisters ∧ saidFormatQueue

/-- 09 R208, R202, 04 R119: NOP has no effect beyond its sync fields. END, with its pops there and a place for its push, ends the task once
nothing it issued is left, what stands in a handler's image included: its bank is free and keeps no queue entry, and, outside a saved or
trapped task, memory is unchanged. That its scalar registers are zero from then on (R304 gives that at the next task's start), that armed
debug stops stay (log entry 29) and that END looks into the handler image, which is kept (log entry 38), are the model's choices. -/
def Sys2Proof.Machine.saidEndAndNop : Prop :=
  (∀ (s : State) (a : S0), s.sGo (.nop a) → ∃ t, exec (.nop a) s = .next t ∧ s.scalarDone t 0 0)
  ∧ ∀ (s : State) (a : S0), let u := (s.acting (.endt a)).here
    u.cut = none → u.popsOk .S a.sy (s.inHand (.endt a)) = true → u.canPush .S a.sy.push = true → u.allDone = true →
    ∃ t, exec (.endt a) s = .next t ∧ t.here.status = .free ∧ t.here.task = none ∧ t.here.qS = [] ∧ t.here.qL = [] ∧ t.here.qC = []
      ∧ t.here.qW = [] ∧ (∀ r, t.here.sreg r = 0) ∧ t.here.brk = s.here.brk ∧ t.here.stopSeq = s.here.stopSeq
      ∧ (s.here.kind = 0 → t.store = s.store)

/-- WAITEV, YIELD, SLOTWAIT, CTXQ, NOP and END complete with their results (R208, R209, R216, R223, R224, R119, R314). -/
def Obligations.WaitsAndEnds : Prop := saidWaitForEvent ∧ saidYieldResult ∧ saidSlotQueries ∧ saidEndAndNop

/-! ### L words and W words: loads, stores, atomics (10; 02 R49; 04 R97) -/

/-- The scalar loads, their sizes, and what the register gets from the little-endian number read (10 Table 10.1). -/
def Sys2Proof.Machine.scalarLoads (a : MemS) : List (Instr × Nat × (Nat → Word)) :=
  [(.ldb a, 1, fun x => (BitVec.ofNat 8 x).signExtend 64), (.ldbu a, 1, fun x => BitVec.ofNat 64 x),
   (.ldh a, 2, fun x => (BitVec.ofNat 16 x).signExtend 64), (.ldhu a, 2, fun x => BitVec.ofNat 64 x),
   (.ldw a, 4, fun x => (BitVec.ofNat 32 x).signExtend 64), (.ldwu a, 4, fun x => BitVec.ofNat 64 x),
   (.ldd a, 8, fun x => BitVec.ofNat 64 x)]

/-- The scalar stores and their sizes (10 Table 10.1). -/
def Sys2Proof.Machine.scalarStores (a : MemS) : List (Instr × Nat) := [(.stb a, 1), (.sth a, 2), (.stw a, 4), (.std a, 8)]

/-- A repetition that has passed its check: the last one makes an operation with what all of them loaded and store; an earlier one
keeps the head for the next (07 R178; 04 R97). -/
def Sys2Proof.Machine.repetitionDone (s t : State) (e : Engine) (x : Entry) (last : Bool) (got : List RegW) (puts : List Put) : Prop :=
  s.here.sameRegisters t.here ∧ (∀ n, n ≠ s.cur → t.bank n = s.bank n)
    ∧ if last then ∃ o, t.here.ops = s.here.ops ++ [o] ∧ o.uid = x.uid ∧ o.eng = e ∧ o.loads = got ∧ o.puts = puts ∧ o.waiting = false
      else t.here.ops = s.here.ops
        ∧ ∃ y, t.here.queue e = y :: s.here.queue e ∧ y.uid = x.uid ∧ y.rep = x.rep + 1 ∧ y.seg = 0 ∧ y.got = got ∧ y.puts = puts

/-- 10 R229, Table 10.1: a scalar load reads its bytes at the handle's place plus base + j × step × z and extends them. The data of the
last repetition is written to register reg + j when the operation completes; that of an earlier one as it arrives: here at once, where
no earlier word has still to write that register (07 R164) and no choice has a part of it read later (log entry 61), else later. s0 discards what is written to it. Memory reads as before everywhere. -/
def Obligations.ScalarLoads : Prop :=
  ∀ (s : State) (a : MemS) (c : Capture), ∀ p ∈ scalarLoads a,
    let x := s.inHand p.1; let o := (x.caps.getD 0 0).toNat + x.rep * a.step.toNat * p.2.1; let last := x.rep == a.rep.toNat
    let r := a.reg + BitVec.ofNat 5 x.rep; let v := p.2.2 (leNat (s.store.view (dieOf s.cur) (c.h.loc + o) p.2.1))
    let now := !last && lateMask x (s.choices.headD 0) (c.h.loc + o) p.2.1 == 0 && (s.acting p.1).here.firstWriter x.uid r
    s.accessGo .L p.1 { o := o, z := p.2.1, needR := true, needW := false, aligned := o % p.2.1 == 0 } last c →
    s.clean (c.h.loc + o) p.2.1 →
    ∃ t, exec p.1 s = .next t
      ∧ (now = false → repetitionDone s t .L x last (x.got ++ [.s r v]) x.puts)
      ∧ (now = true → t.here.sreg r = (if r = 0 then 0 else v) ∧ (∀ k, k ≠ r → t.here.sreg k = s.here.sreg k)
          ∧ s.here.sameRegisters { t.here with s := s.here.s } ∧ t.here.ops = s.here.ops ∧ (∀ n, n ≠ s.cur → t.bank n = s.bank n)
          ∧ ∃ y, t.here.qL = y :: s.here.qL ∧ y.uid = x.uid ∧ y.rep = x.rep + 1 ∧ y.seg = 0 ∧ y.got = x.got ∧ y.done = x.done ++ [r])
      ∧ (s.filtersOff → ∀ d l, t.store.viewByte d l = s.store.viewByte d l)

/-- 10 R230, R231, Table 10.3: VLD reads 256 bytes into register reg + j of the rotated file, VLDB one 8-byte unit into all its units,
VLDS eight 32-byte segments at a pitch, one at a time, each the bytes of its place in the register; memory reads as before. -/
def Obligations.VectorLoads : Prop :=
  ∀ (s : State) (a : MemV) (c : Capture),
    (let i : Instr := .vld a; let x := s.inHand i; let o := x.repOffset a.step 256; let last := x.rep == a.rep.toNat
      s.accessGo .L i { o := o, z := 256, needR := true, needW := false, aligned := o % 8 == 0 } last c → s.clean (c.h.loc + o) 256 →
      ∃ t, exec i s = .next t
        ∧ repetitionDone s t .L x last (x.got ++ [.v (physV s.here.rbv (a.reg.toNat + x.rep))
            (vecOf (s.store.view (dieOf s.cur) (c.h.loc + o) 256)) x.rep]) x.puts
        ∧ (s.filtersOff → ∀ d l, t.store.viewByte d l = s.store.viewByte d l))
    ∧ (let i : Instr := .vldb a; let x := s.inHand i; let o := x.repOffset a.step 8; let last := x.rep == a.rep.toNat
      s.accessGo .L i { o := o, z := 8, needR := true, needW := false, aligned := o % 8 == 0 } last c → s.clean (c.h.loc + o) 8 →
      ∃ t, exec i s = .next t
        ∧ repetitionDone s t .L x last (x.got ++ [.v (physV s.here.rbv (a.reg.toNat + x.rep))
            (vecOf ((List.range 32).flatMap fun _ => s.store.view (dieOf s.cur) (c.h.loc + o) 8)) x.rep]) x.puts
        ∧ (s.filtersOff → ∀ d l, t.store.viewByte d l = s.store.viewByte d l))
    ∧ (let i : Instr := .vlds a; let x := s.inHand i; let o := x.segOffset a.step; let last := x.rep == a.rep.toNat
      let got := x.got ++ [.seg (physV s.here.rbv (a.reg.toNat + x.rep)) x.seg (s.store.view (dieOf s.cur) (c.h.loc + o) 32) x.rep]
      s.accessGo .L i { o := o, z := 32, needR := true, needW := false
                        aligned := o % 8 == 0 && (x.caps.getD 1 0).toNat % 8 == 0 } (last && x.seg == 7) c →
      s.clean (c.h.loc + o) 32 →
      ∃ t, exec i s = .next t
        ∧ (x.seg = 7 → repetitionDone s t .L x last got x.puts)
        ∧ (x.seg ≠ 7 → s.here.sameRegisters t.here ∧ t.here.ops = s.here.ops
            ∧ ∃ z, t.here.qL = z :: s.here.qL ∧ z.uid = x.uid ∧ z.rep = x.rep ∧ z.seg = x.seg + 1 ∧ z.got = got)
        ∧ (s.filtersOff → ∀ d l, t.store.viewByte d l = s.store.viewByte d l))

/-- 10 R229-R231: a store's repetition takes its bytes with the place they go to, the handle's place plus base + j × step × z, VSTS one
segment at a time; they are stored when the operation completes, or by choices a unit at a time before it (log entry 61). The issue itself leaves all of
storage as it was. -/
def Sys2Proof.Machine.saidStoresIssue : Prop :=
  ∀ (s : State) (c : Capture),
    (∀ a : MemS, ∀ p ∈ scalarStores a,
      let x := s.inHand p.1; let o := (x.caps.getD 0 0).toNat + x.rep * a.step.toNat * p.2; let last := x.rep == a.rep.toNat
      s.accessGo .W p.1 { o := o, z := p.2, needR := false, needW := true, aligned := o % p.2 == 0 } last c →
      s.allocGo p.1 c (c.h.loc + o) →
      ∃ t, exec p.1 s = .next t ∧ t.store = s.store
        ∧ repetitionDone s t .W x last x.got (x.puts ++ [{ loc := c.h.loc + o, bytes := leBytes p.2 (x.vals.getD x.rep 0).toNat }]))
    ∧ ∀ a : MemV,
      (let i : Instr := .vst a; let x := s.inHand i; let o := x.repOffset a.step 256; let last := x.rep == a.rep.toNat
        s.accessGo .W i { o := o, z := 256, needR := false, needW := true, aligned := o % 8 == 0 } last c → s.allocGo i c (c.h.loc + o) →
        ∃ t, exec i s = .next t ∧ t.store = s.store
          ∧ repetitionDone s t .W x last x.got (x.puts ++ [{
              loc := c.h.loc + o, bytes := vecBytes (s.here.v.get (physV s.here.rbv (a.reg.toNat + x.rep))) }]))
      ∧ (let i : Instr := .vsts a; let x := s.inHand i; let o := x.segOffset a.step; let last := x.rep == a.rep.toNat
        let puts := x.puts ++ [{
          loc := c.h.loc + o
          bytes := ((vecBytes (s.here.v.get (physV s.here.rbv (a.reg.toNat + x.rep)))).drop (32 * x.seg)).take 32 }]
        s.accessGo .W i { o := o, z := 32, needR := false, needW := true
                          aligned := o % 8 == 0 && (x.caps.getD 1 0).toNat % 8 == 0 } (last && x.seg == 7) c →
        s.allocGo i c (c.h.loc + o) →
        ∃ t, exec i s = .next t ∧ t.store = s.store
          ∧ (x.seg = 7 → repetitionDone s t .W x last x.got puts)
          ∧ (x.seg ≠ 7 → s.here.sameRegisters t.here ∧ t.here.ops = s.here.ops
              ∧ ∃ z, t.here.qW = z :: s.here.qW ∧ z.uid = x.uid ∧ z.rep = x.rep ∧ z.seg = x.seg + 1 ∧ z.puts = puts))

/-- 02 R49: a store to an unbacked line whose request has had no answer asks the home L2 for the lines it touches and waits at the W
head; nothing is stored. -/
def Sys2Proof.Machine.saidStoreAsksAllocation : Prop :=
  ∀ (s : State) (a : MemS) (c : Capture), ∀ p ∈ scalarStores a,
    let x := s.inHand p.1; let o := (x.caps.getD 0 0).toNat + x.rep * a.step.toNat * p.2; let last := x.rep == a.rep.toNat
    s.accessGo .W p.1 { o := o, z := p.2, needR := false, needW := true, aligned := o % p.2 == 0 } last c →
    c.h.unbacked = true → 2 ^ 48 ≤ s.store.resolve (c.h.loc + o) → (x.alloc = .none ∨ x.alloc = .arrived) →
    ∃ t, exec p.1 s = .next t ∧ t.store = s.store ∧ t.here.ops = s.here.ops
      ∧ t.here.qW = { x with alloc := .asked o (linesOf (s.store.resolve (c.h.loc + o)) p.2), full := false, since := x.since.take x.accessNo ++ [s.time] } :: s.here.qW

/-- A store takes its bytes and their place at issue; a store to an unbacked line asks for it first (R229, R230, R231, R49, R97). -/
def Obligations.StoresIssue : Prop := saidStoresIssue ∧ saidStoreAsksAllocation

/-- The atomics on an 8-byte object and what they write, given the old value, the operand and the compare value
(10 Table 10.4). -/
def Sys2Proof.Machine.atomics (a : Atom) : List (Instr × (Word → Word → Word → Option Word)) :=
  [(.aadd a, fun old v _ => some (old + v)), (.amin a, fun old v _ => some (if old.toInt ≤ v.toInt then old else v)),
   (.amax a, fun old v _ => some (if old.toInt ≤ v.toInt then v else old)), (.aand a, fun old v _ => some (old &&& v)),
   (.aor a, fun old v _ => some (old ||| v)), (.axor a, fun old v _ => some (old ^^^ v)), (.aswap a, fun _ v _ => some v),
   (.acas a, fun old v c => if old = c then some v else none)]

/-- A synchronising operation has issued: it carries its result, its effective scope and its completion to come. -/
def Sys2Proof.Machine.syncIssued (s t : State) (e : Engine) (x : Entry) (scope l : Nat) (loads : List RegW) (waiting : Bool) : Prop :=
  s.here.sameRegisters t.here ∧ (∀ n, n ≠ s.cur → t.bank n = s.bank n)
    ∧ ∃ o, t.here.ops = s.here.ops ++ [o] ∧ o.uid = x.uid ∧ o.eng = e ∧ o.loads = loads ∧ o.puts = []
        ∧ o.scope = some (effScope scope l) ∧ o.waiting = waiting

/-- A word on an object is performed in the step in which it issues: no choice leaves it for later (04 R96, R97; log entry 61). -/
def Sys2Proof.Machine.State.atOnce (s : State) : Prop := (s.choices.headD 0).testBit 0 = false

/-- 10 R232, Table 10.4: an atomic reads its object at its point of coherence, stores the new value there in one step, drops its die's
copy of the line, and returns the old value; ACAS stores only where the old value is the compare value. AFADD adds the two FP32
halves (R233). Without an enabled traffic filter nothing else of storage changes. One that a choice leaves for later issues with storage
unchanged and is performed no later than by OPERATION_COMPLETE (04 R96; log entry 61). Where a line of the object that was granted has been
dropped meanwhile, it asks its home L2 anew (02 R49, R65). -/
def Obligations.Atomics : Prop :=
  ∀ (s : State) (a : Atom) (c : Capture),
    let done := fun (i : Instr) (f : Word → Word → Word → Option Word) =>
      let x := s.inHand i; let o := (x.caps.getD 0 0).toNat; let l := c.h.loc + o
      s.accessGo .W i { o := o, z := 8, needR := true, needW := true, aligned := o % 8 == 0 } true c → s.clean l 8 → s.allocGo i c l →
      let old : Word := BitVec.ofNat 64 (s.store.homeNat l 8)
      let st := s.store.dropCopies (dieOf s.cur) l 8
      (s.store.objectHeld l 8 = true → ∃ t, exec i s = .next t ∧ syncIssued s t .W x a.scope.toNat l [.s a.res old] false
        ∧ (s.filtersOff → s.atOnce → t.store.marksAside = Store.marksAside (match f old (x.caps.getD 1 0) (x.caps.getD 2 0) with
            | some n => st.put (dieOf s.cur) l (leBytes 8 n.toNat)
            | none => st))
        ∧ (s.filtersOff → ¬ s.atOnce → t.store = s.store ∧ ∃ o ∈ t.here.ops, o.uid = x.uid ∧ o.pend = true))
      ∧ (s.store.objectHeld l 8 = false → ∃ t y, exec i s = .next t ∧ t.store = s.store ∧ t.here.ops = s.here.ops
        ∧ t.here.qW = y :: s.here.qW ∧ y.uid = x.uid ∧ y.alloc = .asked o (linesOf (s.store.resolve l) 8))
    (∀ p ∈ atomics a, done p.1 p.2)
      ∧ (s.here.ofDet = false → done (.afadd a) fun old v _ => some (BitVec.ofNat 64
          (addFp32 (old.toNat % 2 ^ 32) (v.toNat % 2 ^ 32) + addFp32 (old.toNat / 2 ^ 32) (v.toNat / 2 ^ 32) * 2 ^ 32)))

/-- 10 R234: SEMSIG adds its operand to a semaphore's count. BARARV adds its arrivals: where they reach EXPECTED the arrived count
goes to 0 and the phase steps on; the phase before is the result. (The effect on storage is stated where the word is performed as it
issues; one left for later is performed no later than as it completes, log entry 61.) -/
def Sys2Proof.Machine.saidSignals : Prop :=
  ∀ (s : State) (c : Capture), let d := dieOf s.cur
    (∀ a : AtomN, let i : Instr := .semsig a; let x := s.inHand i; let o := (x.caps.getD 0 0).toNat; let l := c.h.loc + o
      s.accessGo .W i { o := o, z := 8, needR := true, needW := true, aligned := o % 8 == 0 } true c → s.clean l 8 → s.allocGo i c l →
      s.store.objectHeld l 8 = true →
      ∃ t, exec i s = .next t ∧ (∃ o, t.here.ops = s.here.ops ++ [o] ∧ o.uid = x.uid ∧ o.scope = some (effScope a.scope.toNat l))
        ∧ (s.filtersOff → s.atOnce → t.store.marksAside = Store.marksAside ((s.store.dropCopies d l 8).put d l
            (leBytes 8 ((BitVec.ofNat 64 (s.store.homeNat l 8) + x.caps.getD 1 0 : Word)).toNat))))
    ∧ ∀ a : Atom, let i : Instr := .bararv a; let x := s.inHand i; let o := (x.caps.getD 0 0).toNat; let l := c.h.loc + o
      let expected := s.store.homeNat l 4; let phase := s.store.homeNat (l + 8) 4
      let arrived := s.store.homeNat (l + 4) 4 + (x.caps.getD 1 0).toNat % 2 ^ 32
      s.accessGo .W i { o := o, z := 16, needR := true, needW := true, aligned := o % 16 == 0 } true c → s.clean l 16 → s.allocGo i c l →
      s.store.objectHeld l 16 = true →
      ∃ t, exec i s = .next t ∧ syncIssued s t .W x a.scope.toNat l [.s a.res (BitVec.ofNat 64 phase)] false
        ∧ (s.filtersOff → s.atOnce → t.store.marksAside = Store.marksAside ((s.store.dropCopies d l 16).put d (l + 4)
            (if expected ≤ arrived then leBytes 4 0 ++ leBytes 4 ((phase + 1) % 2 ^ 32) else leBytes 4 arrived)))

/-- 10 R234, R235: SEMWAIT returns the count once it is at least the operand, BARWAIT the phase once it differs from the operand; a wait
whose condition does not hold is registered at its object and its operation waits there. One whose condition holds may, by a choice, make
its first read later: it is registered as not read yet (04 R96; log entry 61). -/
def Sys2Proof.Machine.saidWaits : Prop :=
  ∀ (s : State) (a : Atom) (c : Capture),
    let wait := fun (i : Instr) (z : Nat) (isBar : Bool) (holds : Bool) (v : Word) =>
      let x := s.inHand i; let o := (x.caps.getD 0 0).toNat; let l := c.h.loc + o
      s.accessGo .L i { o := o, z := z, needR := true, needW := false, aligned := o % z == 0 } true c → s.clean l z → s.filtersOff →
      ∃ t, exec i s = .next t
        ∧ (holds = true → s.atOnce → syncIssued s t .L x a.scope.toNat l [.s a.res v] false ∧ t.store.marksAside = s.store.marksAside)
        ∧ (holds = false ∨ ¬ s.atOnce → syncIssued s t .L x a.scope.toNat l [] true
            ∧ t.store.marksAside = Store.marksAside { s.store with waits := s.store.waits ++ [{
                bank := s.cur, uid := x.uid, loc := l, isBar := isBar, val := x.caps.getD 1 0, met := none, unread := holds }] })
    let at' := fun (i : Instr) => c.h.loc + ((s.inHand i).caps.getD 0 0).toNat
    wait (.semwait a) 8 false (decide (((s.inHand (.semwait a)).caps.getD 1 0).toNat ≤ s.store.homeNat (at' (.semwait a)) 8))
        (BitVec.ofNat 64 (s.store.homeNat (at' (.semwait a)) 8))
      ∧ wait (.barwait a) 16 true
          (decide (s.store.homeNat (at' (.barwait a) + 8) 4 ≠ ((s.inHand (.barwait a)).caps.getD 1 0).toNat % 2 ^ 32))
          (BitVec.ofNat 64 (s.store.homeNat (at' (.barwait a) + 8) 4))

/-- SEMSIG, BARARV, SEMWAIT and BARWAIT act on semaphores and barriers (R234, R235, R115). -/
def Obligations.SignalsAndWaits : Prop := saidSignals ∧ saidWaits

/-! ### W and L words: worklists, copies, pages, slots (15; 11; 02; 16) -/

/-- A word on list `k` of a group in the die scratchpad passes the checks of 15 R324: the gate, the rights, the window, alignment, the
bound, correct units, and the group's own checks. `l` is the group's location. -/
def Sys2Proof.Machine.State.groupGo (s : State) (e : Engine) (i : Instr) (needW : Bool) (c : Capture) (l k : Nat) : Prop :=
  let o := ((s.inHand i).caps.getD 0 0).toNat
  (s.inHand i).cap = some c ∧ l = c.h.loc + o
    ∧ (s.acting i).lwGate e (usesOf i) (s.inHand i) (s.store.blocks l 64) true = .go
    ∧ ({ c with h := { c.h with isLocal := false } } : Capture).check true needW true 0 0 = .pass
    ∧ c.h.isLocal = true ∧ c.h.window = 3 ∧ o % 64 = 0 ∧ o + s.store.groupSize l ≤ c.h.extent.toNat
    ∧ s.clean l (s.store.groupSize l) ∧ s.store.groupFault l k = none

/-- 15 R325: WLAPPEND answers 3 for the item of all ones, else 2 of a group that is done, else 1 of a full list, else 0; only with 0 is
anything changed: the item stands at TAIL and TAIL counts up, and, where a WLTAKE waits on the list, the oldest takes the item. One that a
choice leaves for later issues with nothing changed (04 R96; log entry 61). -/
def Sys2Proof.Machine.saidWorklistAppend : Prop :=
  ∀ (s : State) (a : Atom) (c : Capture) (l : Nat), let i : Instr := .wlappend a; let x := s.inHand i; let st := s.store
    let k := (x.caps.getD 2 0).toNat; let item := x.caps.getD 1 0; let d := dieOf s.cur
    let put := (st.put d (st.itemLoc l k (st.listTail l k)) (leBytes 8 item.toNat)).put d (l + 64 + 16 * k + 4)
      (leBytes 4 (st.listTail l k + 1))
    s.groupGo .W i true c l k →
    (¬ s.atOnce → ∃ t, exec i s = .next t ∧ t.store = st ∧ syncIssued s t .W x a.scope.toNat l [.s a.res 0] false
      ∧ ∃ o ∈ t.here.ops, o.uid = x.uid ∧ o.pend = true)
    ∧ (s.atOnce → ∃ t r, exec i s = .next t ∧ syncIssued s t .W x a.scope.toNat l [.s a.res (BitVec.ofNat 64 r)] false
      ∧ (item = BitVec.allOnes 64 → r = 3)
      ∧ (item ≠ BitVec.allOnes 64 → st.groupDone l = true → r = 2)
      ∧ (item ≠ BitVec.allOnes 64 → st.groupDone l = false → st.listLen l k = 2 ^ st.depth l → r = 1)
      ∧ (item ≠ BitVec.allOnes 64 → st.groupDone l = false → st.listLen l k ≠ 2 ^ st.depth l → r = 0)
      ∧ (r ≠ 0 → t.store = st)
      ∧ (r = 0 → (st.wlWaits.any fun w => w.waitsOn l k) = false → t.store = put)
      ∧ (r = 0 → t.store = Store.serveWaiters d l k (st.wlWaits.length + 1) put))

/-- 15 R326: WLTAKE of a list with items answers the item at HEAD, and HEAD counts up; of an empty list of a group that is done it
answers all ones; else it registers as a waiter on its list and holds the L head. -/
def Sys2Proof.Machine.saidWorklistTake : Prop :=
  ∀ (s : State) (a : Atom) (c : Capture) (l : Nat), let i : Instr := .wltake a; let x := s.inHand i; let st := s.store
    let k := (x.caps.getD 1 0).toNat; let d := dieOf s.cur; let h := st.listHead l k; let item := st.itemLoc l k h
    s.groupGo .L i false c l k → st.wlOf s.cur x.uid = none →
    (st.listLen l k ≠ 0 → s.clean item 8 →
      ∃ t, exec i s = .next t ∧ syncIssued s t .L x a.scope.toNat l [.s a.res (BitVec.ofNat 64 (st.homeNat item 8))] false
        ∧ t.store = st.put d (l + 64 + 16 * k) (leBytes 4 (h + 1)))
    ∧ (st.listLen l k = 0 → st.groupDone l = true →
      ∃ t, exec i s = .next t ∧ syncIssued s t .L x a.scope.toNat l [.s a.res (BitVec.allOnes 64)] false ∧ t.store = st)
    ∧ (st.listLen l k = 0 → st.groupDone l = false →
      ∃ t, exec i s = .next t ∧ t.here.ops = s.here.ops ∧ t.here.qL = { x with full := false } :: s.here.qL
        ∧ t.store = st.registerWl d { bank := s.cur, uid := x.uid, group := l, list := k, answer := none })

/-- 15 R326, 04 R118: a registered WLTAKE leaves its head with the answer that its waiter has been given, once its stream has room. -/
def Sys2Proof.Machine.saidWaiterAnswered : Prop :=
  ∀ (s : State) (a : Atom) (w : WlWait) (v : Word), let i : Instr := .wltake a; let x := s.inHand i
    s.store.wlOf s.cur x.uid = some w → w.answer = some v → (s.acting i).here.cut = none →
    (s.acting i).here.outstanding a.od.stream ≠ 255 →
    ∃ t, exec i s = .next t ∧ syncIssued s t .L x a.scope.toNat w.group [.s a.res v] false ∧ t.store.mem = s.store.mem
      ∧ t.store.wlOf s.cur x.uid = none

/-- WLAPPEND and WLTAKE act on a work-list group (R323, R324, R325, R326). -/
def Obligations.Worklists : Prop := saidWorklistAppend ∧ saidWorklistTake ∧ saidWaiterAnswered

/-- The copy words (11 R248, R254). -/
def Sys2Proof.Machine.copyWords (a : CopyW) (g : GatherW) : List CopyWord :=
  [{ i := .cpin a, isIn := true, lvl := a.lvl.toNat, index := none },
   { i := .cpout a, isIn := false, lvl := a.lvl.toNat, index := none },
   { i := .cpgather g, isIn := true, lvl := 0, index := some (g.vi, g.cnt.toNat + 1) },
   { i := .cpscatter g, isIn := false, lvl := 0, index := some (g.vi, g.cnt.toNat + 1) }]

/-- A copy word may issue its first row: it has passed its gate and its layout check, its pieces have request entries, no destination is
past its reservation, the elements of the row pass their check or have passed it, the page is neither locked nor reached first by
another access, and an unbacked destination has its lines (11 R245-R249, R253; 02 R52). -/
def Sys2Proof.Machine.State.copyGo (s : State) (w : CopyWord) (cap : Capture) (c : CopyOp) : Prop :=
  let x := s.inHand w.i; let t := s.acting w.i; let e := (usesOf w.i).eng.getD .L
  x.cap = some cap ∧ x.lay = some c.lay ∧ c = t.newCopy e w x cap c.lay
    ∧ (t.here.copies.all fun k => k.uid != x.uid) = true ∧ t.lwGate e (usesOf w.i) x [] true = .go ∧ t.copiesInFlight < 16
    ∧ c.layoutFault (x.caps.getD 2 0).toNat (match t.here.task with | some k => k.gang | none => false) = none
    ∧ t.hasRequests x c.rowPieces = true ∧ c.la.toNat % 8 = 0
    ∧ (c.dsts.all fun k => (c.pieces 0).all fun g => decide (g.a + g.n ≤ (t.copyPlace t.cur c.lvl k).2)) = true
    ∧ x.check (cap.checkRuns c.isIn (!c.isIn) c.lay.z (c.runs 0)) = .pass
    ∧ ((c.runs 0).all fun q => !s.store.locked (cap.h.loc + q.o) && !s.store.behindArrival s.cur x.uid (cap.h.loc + q.o)) = true
    ∧ (c.lay.fold = true → t.smoothFault c = none)
    ∧ (c.isIn = true ∨ cap.h.unbacked = false ∨ x.alloc = .granted)

/-- 11 R248, R249: a copy's first row issues: the copy has a request of its own, one row in flight to each destination, and an
operation that waits for its rows. Row 0 carries its in-extent elements, then fill (11 R246), to the pieces of the local side; a
copy-out carries the local bytes to the in-extent elements. -/
def Obligations.CopiesIssue : Prop :=
  ∀ (s : State) (a : CopyW) (g : GatherW) (cap : Capture) (c : CopyOp), ∀ w ∈ copyWords a g,
    let x := s.inHand w.i; let t0 := s.acting w.i; let d := dieOf s.cur
    let base := fun k => (t0.copyPlace s.cur c.lvl k).1
    let row := ((c.runs 0).flatMap fun q => s.store.view d (cap.h.loc + q.o) q.n)
    let filled := row ++ c.lay.fillBytes (c.rowLen - row.length)
    let own := (coreOf s.cur).val % 8
    let packed := (c.pieces 0).flatMap fun g => s.store.view d (base own + g.a) g.n
    s.copyGo w cap c → s.store.noErrors →
    ∃ t, exec w.i s = .next t
      ∧ (∃ o, t.here.ops = s.here.ops ++ [o] ∧ o.uid = x.uid ∧ o.isCopy = true ∧ o.waiting = true)
      ∧ ∃ k, t.here.copies = s.here.copies ++ [k] ∧ k.uid = x.uid ∧ k.cursor = 1 ∧ k.dsts = c.dsts
        ∧ k.flights.map (·.dst) = (if c.isIn then c.dsts else [own]) ∧ (∀ f ∈ k.flights, f.row = 0 ∧ f.poison = [])
        ∧ (s.filtersOff → c.isIn = true → c.lay.fold = false → ∀ f ∈ k.flights,
            f.puts = (c.pieces 0).map fun g => { loc := base f.dst + g.a, bytes := (filled.drop g.pos).take g.n })
        ∧ (s.filtersOff → c.isIn = false → c.runs 0 ≠ [] → ∀ f ∈ k.flights,
            f.puts = (c.runs 0).map fun q => { loc := cap.h.loc + q.o, bytes := (packed.drop q.pos).take q.n })

/-- A page instruction passes the checks of 02 R56, or has passed them, and waits for no other at its page's home. -/
def Sys2Proof.Machine.State.pageGo (s : State) (i : Instr) (c : Capture) (o n : Nat) (own : Entry → Capture → Option Nat) : Prop :=
  (s.inHand i).cap = some c
    ∧ (s.acting i).lwGate .W (usesOf i) (s.inHand i) (s.store.blocks (c.h.loc + o) n) true = .go
    ∧ (s.inHand i).check (({ c with h := { c.h with isLocal := false } } : Capture).check false true true 0 0) = .pass
    ∧ own (s.inHand i) c = none ∧ s.store.locked c.h.loc = false ∧ s.store.behindArrival s.cur (s.inHand i).uid c.h.loc = false

/-- The operation of a page instruction has issued with its result. -/
def Sys2Proof.Machine.pageIssued (s t : State) (x : Entry) (loads : List RegW) (waiting : Bool) : Prop :=
  s.here.sameRegisters t.here
    ∧ ∃ o, t.here.ops = s.here.ops ++ [o] ∧ o.uid = x.uid ∧ o.eng = .W ∧ o.loads = loads ∧ o.puts = [] ∧ o.waiting = waiting

/-- 02 R57, R58: DISCARD makes the unbacked lines of its range absent, so that its bytes read as zero; WBACK writes the dirty lines of its
range to HBM and leaves none of them dirty. A DISCARD frees the frames of its pinned lines, so that P of their pool falls by their number, and
leaves HBM as it is; a WBACK leaves the caches' bytes and the rest of HBM; neither changes a byte of storage outside the range. (That is what
they do where they are performed as they issue, and no other word's access is still to be performed; one that a choice leaves for its completion
issues with its operation marked, log entry 61.) -/
def Obligations.PageRanges : Prop :=
  ∀ (s : State) (a : PageR) (c : Capture),
    (∀ i ∈ [Instr.discard a, .wback a], let x := s.inHand i
      s.pageGo i c (x.caps.getD 0 0).toNat (x.caps.getD 1 0).toNat (rangeChecks (i == .discard a)) → (s.choices.headD 0).testBit 0 = true →
      ∃ t, exec i s = .next t ∧ pageIssued s t x [] false ∧ t.store = s.store
        ∧ ∃ o ∈ t.here.ops, o.uid = x.uid ∧ o.pend = true)
    ∧ (s.filtersOff → s.nonePends → s.store.forwards = [] → (s.choices.headD 0).testBit 0 = false →
    (let i : Instr := .discard a; let x := s.inHand i; let o := (x.caps.getD 0 0).toNat; let n := (x.caps.getD 1 0).toNat
      let l := c.h.loc + o
      s.pageGo i c o n (rangeChecks true) → 2 ^ 48 ≤ l → l % 128 = 0 →
      ∃ t, exec i s = .next t ∧ pageIssued s t x [] false
        ∧ (∀ p ∈ t.store.lines, ¬ (l ≤ p.1 * 128 ∧ p.1 * 128 < l + n))
        ∧ (∀ d, ∀ b, l ≤ b → b < l + n → t.store.viewByte d b = 0)
        ∧ (∀ b, ¬ (l ≤ b ∧ b < l + n) → t.store.homeByte b = s.store.homeByte b) ∧ t.store.hbm = s.store.hbm
        ∧ (l % 2 ^ 41 + n ≤ 2 ^ 41 → (s.store.lines.map (·.1)).Nodup → ∀ q, s.store.pool (dieOfLoc l) (poolOfLoc l) = some q →
            t.store.pool (dieOfLoc l) (poolOfLoc l) = some { q with p := q.p - s.store.pinnedIn l n }))
    ∧ (let i : Instr := .wback a; let x := s.inHand i; let o := (x.caps.getD 0 0).toNat; let n := (x.caps.getD 1 0).toNat
      let l := c.h.loc + o
      s.pageGo i c o n (rangeChecks false) → s.store.noErrors →
      ∃ t, exec i s = .next t ∧ pageIssued s t x [] false
        ∧ (∀ k ∈ t.store.dirty, k ∈ s.store.dirty ∧ ¬ (l / 128 ≤ k ∧ k * 128 < l + n))
        ∧ (∀ k ∈ s.store.dirty, ¬ (l / 128 ≤ k ∧ k * 128 < l + n) → k ∈ t.store.dirty)
        ∧ (s.store.hbm.wf = true → ∀ k ∈ s.store.dirty, l / 128 ≤ k → k * 128 < l + n →
            t.store.hbm.reads (k * 128) 128 = s.store.mem.reads (k * 128) 128)
        ∧ (∀ b, ¬ (l / 128 ≤ b / 128 ∧ b / 128 * 128 < l + n) → t.store.hbm.read b = s.store.hbm.read b)
        ∧ t.store.mem = s.store.mem))

/-- 02 R59: PGRSV past its pool's LIMIT is cause 1.11.W and past the die's capacity answers 1, each with no change of R; else R grows
by the operand and it answers 0. PGREL gives back at most R − P lines, and answers how many. -/
def Sys2Proof.Machine.saidReservations : Prop :=
  ∀ (s : State) (a : PageP) (c : Capture) (p : Pool), let st := s.store.marksAside
    s.store.pool (dieOfLoc c.h.loc) (poolOfLoc c.h.loc) = some p →
    (let i : Instr := .pgrsv a; let x := s.inHand i; let n := (x.caps.getD 0 0).toNat
      s.pageGo i c 0 0 unbackedCheck →
      (p.limit < p.r + n → (s.acting i).here.cut = none → ∃ t, exec i s = .next t ∧ t.store.marksAside = st ∧ t.here.ops = s.here.ops
        ∧ t.here.tcause = tcauseOf { group := 1, kind := 11, engine := .W })
      ∧ (p.r + n ≤ p.limit → s.store.capacity (dieOfLoc c.h.loc) < s.store.reservedOn (dieOfLoc c.h.loc) + n →
        ∃ t, exec i s = .next t ∧ t.store.marksAside = st ∧ pageIssued s t x [.s a.res 1] false)
      ∧ (p.r + n ≤ p.limit → s.store.reservedOn (dieOfLoc c.h.loc) + n ≤ s.store.capacity (dieOfLoc c.h.loc) →
        ∃ t, exec i s = .next t ∧ pageIssued s t x [.s a.res 0] false
          ∧ t.store.pool (dieOfLoc c.h.loc) (poolOfLoc c.h.loc) = some { p with r := p.r + n }))
    ∧ (let i : Instr := .pgrel a; let x := s.inHand i; let n := min (x.caps.getD 0 0).toNat (p.r - p.p)
      s.pageGo i c 0 0 unbackedCheck →
      ∃ t, exec i s = .next t ∧ pageIssued s t x [.s a.res (BitVec.ofNat 64 n)] false
        ∧ t.store.pool (dieOfLoc c.h.loc) (poolOfLoc c.h.loc) = some { p with r := p.r - n })

/-- A state in which the move of a page of `n` bytes at `l` is said whole: no forwarding entry, no stored error, no traffic filter and no saved
frame; each unbacked line has one tag, and memory is canonical and holds no byte of a line of the page that is not pinned. -/
structure Sys2Proof.Machine.State.plainMove (s : State) (l n : Nat) : Prop where
  forwards : s.store.forwards = []
  clean : s.store.clean = true
  filters : s.filtersOff
  frames : s.frames = []
  lines : (s.store.lines.map (·.1)).Nodup
  mem : s.store.mem.wf = true
  pinned : ∀ p ∈ s.store.mem, l ≤ p.1 → p.1 < l + n → s.store.lineSt (p.1 / 128) = some .pinned
  size : n = 0x10000 ∨ n = 0x10000000
  aligned : l % n = 0

/-- Once the page's lines are moved, and the store is `st`, the leaf `e` at `addr` in the HBM still maps `va` to the page at `l`. -/
def Sys2Proof.Machine.State.leafStays (s : State) (st : Store) (asn : BitVec 12) (va l addr : Nat) (e : Word) : Prop :=
  ({ s with store := st } : State).leafAt asn va = some (addr, e) ∧ leafU e = true ∧ leafLoc e = l ∧ addr % 8 = 0 ∧ ∃ d, regionOf addr = .hbm d

/-- The move of the page at `va` ends in an invalidation of its range on all four dies, which ends the PGMIG named, and in a forwarding entry
that stands until then (02 R52 step 5, R60 steps 4 and 5). -/
def Sys2Proof.Machine.moveInvalidates (s t : State) (asn : BitVec 12) (va l n dst : Nat) (pgmig : Option (BankId × Nat)) : Prop :=
  (∃ v ∈ t.xl.invals, v.id = s.xl.next ∧ v.asn = asn ∧ v.base = va / n * n ∧ v.len = n ∧ v.dies = [0, 1, 2, 3] ∧ v.pgmig = pgmig)
    ∧ ∃ f ∈ t.store.forwards, f.src = l ∧ f.len = n ∧ f.dst = dst ∧ f.inval = s.xl.next

/-- The page at `l` has become a backed page on the frame at `f`: each of its bytes is found there and reads as before, which is zero for an
absent line; a lost line's units are poison; no line of it has a tag; its leaf has the frame's ADDR, U = 0, LF = 0, the rights as they were and
GEN + 1 (02 R52 steps 3 to 5). -/
def Sys2Proof.Machine.movedToFrame (s t : State) (l n f addr home : Nat) (e : Word) : Prop :=
  (∀ k, k < n → t.store.resolve (l + k) = f + k ∧ t.store.homeByte (f + k) = s.store.homeByte (l + k))
    ∧ (∀ q ∈ s.store.lines, l / 128 ≤ q.1 → q.1 * 128 < l + n → t.store.lineSt q.1 = none
        ∧ (q.2 = .lost → ∀ k, k < 16 → t.store.unitEcc ((f + (q.1 * 128 - l)) / 8 + k) = some .poison))
    ∧ let e' : Word := BitVec.ofNat 64 (t.store.homeNat addr 8)
      leafU e' = false ∧ leafLf e' = false ∧ entryPa e' = f ∧ leafHome e' = home ∧ e'.toNat % 32 = e.toNat % 32
        ∧ fieldOf e' 48 8 = (fieldOf e 48 8 + 1) % 256

/-- 02 R60, Table 2.5: PGMIG of a page that has become backed answers 3, to the pool where it is answers 1, each with nothing moved; a target
that is no pool of the task is cause 1.11.W. To a pool with room for the page's M pinned lines it answers 0: the page's lines stand under the
target die and pool with their contents (step 2), P of the target has grown by M and P of the source fallen by M, the leaf names the new home and pool
with GEN + 1 (step 4), and the operation waits for the invalidation of its page (step 5). Without room a page with LF = 0 is cause 1.10.W; one
with LF = 1 moves to a frame of the target's late reserve with answer 2, and where that is empty it is cause 1.14.W. -/
def Sys2Proof.Machine.saidPageMigration : Prop :=
  ∀ (s : State) (a : PageP) (c : Capture), let i : Instr := .pgmig a; let x := s.inHand i
    let w := (x.caps.getD 0 0).toNat; let td : Die := Fin.ofNat 4 (w % 4); let tp := w / 256 % 256; let l := s.store.resolve c.h.loc
    let st := s.store.marksAside
    s.pageGo i c 0 0 unbackedCheck →
    ((∀ p, s.store.pool td tp = some p → p.owner ≠ s.here.asn) → (s.acting i).here.cut = none → ∃ t, exec i s = .next t ∧ t.store.marksAside = st
        ∧ t.here.ops = s.here.ops ∧ t.here.tcause = tcauseOf { group := 1, kind := 11, engine := .W })
    ∧ ∀ p, w % 256 / 4 = 0 → w < 2 ^ 16 → s.store.pool td tp = some p → p.owner = s.here.asn →
      (l < 2 ^ 48 → ∃ t, exec i s = .next t ∧ t.store.marksAside = st ∧ pageIssued s t x [.s a.res 3] false)
      ∧ (2 ^ 48 ≤ l → dieOfLoc l = td ∧ poolOfLoc l = tp →
        ∃ t, exec i s = .next t ∧ t.store.marksAside = st ∧ pageIssued s t x [.s a.res 1] false)
      ∧ (2 ^ 48 ≤ l → ¬ (dieOfLoc l = td ∧ poolOfLoc l = tp) →
        let n := c.h.extent.toNat; let m := s.store.pinnedIn l n; let va := c.h.base.toNat; let dst := unbackedLoc td.val tp (upnOfLoc l)
        (p.p + m ≤ p.r → ∃ t, exec i s = .next t ∧ (∃ o ∈ t.here.ops, o.uid = x.uid ∧ o.loads = [.s a.res 0] ∧ o.waiting = true)
          ∧ ∀ addr e, s.plainMove l n → s.store.linesIn dst n = [] → s.leafStays (s.store.toUnbacked l n dst) s.here.asn va l addr e →
            (∀ q ∈ s.store.lines, l / 128 ≤ q.1 → q.1 * 128 < l + n →
              t.store.lineSt q.1 = none ∧ t.store.lineSt (q.1 - l / 128 + dst / 128) = some q.2)
            ∧ (∀ k, k < n → t.store.resolve (l + k) = dst + k ∧ t.store.homeByte (dst + k) = s.store.homeByte (l + k))
            ∧ t.store.pool td tp = some { p with p := p.p + m }
            ∧ (∀ q, s.store.pool (dieOfLoc l) (poolOfLoc l) = some q →
                t.store.pool (dieOfLoc l) (poolOfLoc l) = some { q with p := q.p - m })
            ∧ (let e' : Word := BitVec.ofNat 64 (t.store.homeNat addr 8)
              leafU e' = true ∧ leafHome e' = td.val ∧ leafPool e' = tp ∧ leafUpn e' = leafUpn e ∧ e'.toNat % 2 ^ 7 = e.toNat % 2 ^ 7
                ∧ fieldOf e' 48 8 = (fieldOf e 48 8 + 1) % 256)
            ∧ moveInvalidates s t s.here.asn va l n dst (some (s.cur, x.uid)))
        ∧ (p.r < p.p + m → c.h.lf = false → (s.acting i).here.cut = none → ∃ t, exec i s = .next t ∧ t.store.marksAside = st
            ∧ t.here.ops = s.here.ops ∧ t.here.tcause = tcauseOf { group := 1, kind := 10, engine := .W })
        ∧ (p.r < p.p + m → c.h.lf = true → p.takeFrame n = none → (s.acting i).here.cut = none → ∃ t, exec i s = .next t
            ∧ t.store.marksAside = st ∧ t.here.ops = s.here.ops ∧ t.here.tcause = tcauseOf { group := 1, kind := 14, engine := .W })
        ∧ ∀ f p', p.r < p.p + m → c.h.lf = true → p.takeFrame n = some (f, p') → ∃ t, exec i s = .next t
            ∧ (∃ o ∈ t.here.ops, o.uid = x.uid ∧ o.loads = [.s a.res 2] ∧ o.waiting = true)
            ∧ ∀ addr e, s.plainMove l n → f % n = 0 → f + n ≤ 2 ^ 48 → (addr + 8 ≤ f ∨ f + n ≤ addr) →
              s.leafStays ((s.store.modPool td tp fun _ => p').toFrame l n f) s.here.asn va l addr e →
              movedToFrame s t l n f addr td.val e ∧ t.store.pool td tp = some p'
                ∧ (∀ q, s.store.pool (dieOfLoc l) (poolOfLoc l) = some q →
                    t.store.pool (dieOfLoc l) (poolOfLoc l) = some { q with p := q.p - m })
                ∧ moveInvalidates s t s.here.asn va l n f (some (s.cur, x.uid)))

/-- PGRSV, PGREL and PGMIG act on the pools of unbacked pages (R59, R60, R56). -/
def Obligations.ReservedPages : Prop := saidReservations ∧ saidPageMigration

/-- A COMMIT or RETRACT passes the checks of 16 R345, its location is the record of conversation `m`, and no lookup of the pages of a
conversation of its address space is held by an invalidation (01 R35; 16 R334). -/
def Sys2Proof.Machine.State.slotGo (s : State) (i : Instr) (c : Capture) (m : ConvId) : Prop :=
  let o := ((s.inHand i).caps.getD 0 0).toNat
  (s.inHand i).cap = some c
    ∧ (s.acting i).lwGate .W (usesOf i) (s.inHand i) (s.store.blocks (c.h.loc + o) 256) true = .go
    ∧ ({ c with h := { c.h with isLocal := false } } : Capture).check true true true 0 0 = .pass
    ∧ c.h.isLocal = false ∧ c.h.unbacked = false ∧ o % 256 = 0 ∧ o + 256 ≤ c.h.extent.toNat ∧ s.convAt (c.h.loc + o) = some m
    ∧ ∀ v ∈ s.lehr.convs, v.asn = s.here.asn → s.convHeld v = false

/-- The operation of a COMMIT or RETRACT has issued with its result. -/
def Sys2Proof.Machine.slotIssued (t : State) (x : Entry) (r : RegW) : Prop := ∃ o ∈ t.here.ops, o.uid = x.uid ∧ o.eng = .W ∧ o.loads = [r]

/-- COMMIT of an open conversation: its status, and the conversation after it, whose record stands at `l` (16 R346). -/
def Sys2Proof.Machine.saidCommit : Prop :=
  ∀ (s : State) (a : SlotOp) (c : Capture) (m : ConvId) (v : Conv) (g : GridDesc) (l : Nat), let i : Instr := .commit a; let x := s.inHand i
    let k := (x.caps.getD 1 0).toNat; let f := v.frontier; let bit : BitVec 16 := 1 <<< (k - f - 1)
    let late := boundaryTime g k ≤ s.time + g.guardTime * 1000
    let st := if v.isOpen = false then 3 else if k ≤ f then 1 else if f + 15 < k then 2 else if late then 1 else 0
    let w := if st = 0 then { v with committed := v.committed ||| bit, withdrawn := v.withdrawn &&& ~~~bit } else v
    s.slotGo i c m → (s.choices.headD 0).testBit 0 = false → s.convOf m = some v → v.effective = true → (s.grid v.grid).desc = some g →
    s.convLoc v v.recVa.toNat = some l →
    ∃ t, exec i s = .next t ∧ slotIssued t x (.s a.res (slotResult f 0 st)) ∧ s.here.sameRegisters t.here
      ∧ t.convOf m = some { w with recLoc := l } ∧ (∀ q, q ≠ m → t.convOf q = s.convOf q)
      ∧ (s.filtersOff → t.store = s.store.put (homeOf m) (l + 120) w.live)

/-- RETRACT: nothing is committed from slot `k` on, or the one slot FRONTIER + 1 + `j` is, which is then withdrawn with cause 0: its ring
entry at `ring` is marked and an entry written to the cullet log at `log` (16 R347, R348). -/
def Sys2Proof.Machine.saidRetract : Prop :=
  ∀ (s : State) (a : SlotOp) (c : Capture) (m : ConvId) (v : Conv) (l : Nat), let i : Instr := .retract a; let x := s.inHand i
    let k := (x.caps.getD 1 0).toNat; let f := v.frontier; let from_ := fun j => k ≤ f + 1 + j
    s.slotGo i c m → (s.choices.headD 0).testBit 0 = false → s.convOf m = some v → v.effective = true →
    (v.isOpen = false → ∃ t, exec i s = .next t ∧ slotIssued t x (.s a.res (slotResult f 0 3)) ∧ s.here.sameRegisters t.here)
    ∧ (v.isOpen = true → (∀ j, j < 15 → from_ j → v.isCommitted j = false) → s.convLoc v v.recVa.toNat = some l →
        ∃ t, exec i s = .next t ∧ slotIssued t x (.s a.res (slotResult f 0 0)) ∧ s.here.sameRegisters t.here
          ∧ t.convOf m = some { v with recLoc := l } ∧ ∀ q, q ≠ m → t.convOf q = s.convOf q)
    ∧ ∀ (j ring log : Nat), v.isOpen = true → j < 15 → from_ j → v.isCommitted j = true →
        (∀ n, n < 15 → from_ n → n ≠ j → v.isCommitted n = false) → s.store.noErrors → s.filtersOff →
        s.convLoc v (ringVa v.speakVa (f + 1 + j)) = some ring → s.convLoc v v.culletVa = some log →
        let w : Conv := { v with
          committed := v.committed &&& ~~~((1 : BitVec 16) <<< j), withdrawn := v.withdrawn ||| ((1 : BitVec 16) <<< j)
          rcount := v.rcount + 1, culseq := v.culseq + 1 }
        let ts := s.store.tokens ring
        let st1 := (s.store.put (homeOf m) ring (tokenBytes (ts.map (· ||| 0x08000000)))).put (homeOf m) log
          (culletEntry (f + 1 + j) 0 ((ts.filter fun t => !t.getLsbD 24).length) v.culseq)
        ({ s with store := st1 } : State).convLoc v v.recVa.toNat = some l →
        ∃ t, exec i s = .next t ∧ slotIssued t x (.s a.res (slotResult f 1 0)) ∧ s.here.sameRegisters t.here
          ∧ t.convOf m = some { w with recLoc := l } ∧ t.store = st1.put (homeOf m) (l + 120) w.live

/-- 16 R345-R348: COMMIT of an open conversation answers FRONTIER with status 1 at or before FRONTIER or past the guard time of its
boundary, 2 past FRONTIER + 15, else 0, and with 0 the slot is committed and withdrawn no more; of a conversation that is not open, 3.
RETRACT answers FRONTIER, the count of the slots withdrawn and 0: with no committed slot from its operand on the count is 0, and with
one the slot is withdrawn. Each keeps the live state in the conversation's record. Of a conversation that has never taken effect the
FRONTIER in the result is a free value (log entry 4). One that a choice leaves for its completion issues with nothing changed at the
lehr, and is performed there by OPERATION_COMPLETE (04 R96; 16 R351; log entry 61). -/
def Obligations.SlotWords : Prop :=
  saidCommit ∧ saidRetract ∧ ∀ (s : State) (a : SlotOp) (c : Capture) (m : ConvId), ∀ i ∈ [Instr.commit a, Instr.retract a], s.slotGo i c m →
    ((s.choices.headD 0).testBit 0 = false → (s.convOf m = none ∨ ∃ v, s.convOf m = some v ∧ v.effective = false) →
      ∃ t q, exec i s = .next t ∧ slotIssued t (s.inHand i) (.s a.res (slotResult q 0 3)) ∧ t.lehr = s.lehr ∧ t.store = s.store)
    ∧ ((s.choices.headD 0).testBit 0 = true → ∃ t, exec i s = .next t ∧ t.lehr = s.lehr ∧ t.store = s.store
        ∧ s.here.sameRegisters t.here ∧ ∃ o ∈ t.here.ops, o.uid = (s.inHand i).uid ∧ o.pend = true)

/-! ### C words (07 R168-R178; 08; 12; 13) -/

/-- C takes the word at its head and issues its current repetition (07 R166-R168, R174, R178; 18 R388): no cut, its pops and its place
are there, no write of SRSTATE stands before a word that steps it, what is due lands with no poisoned load (`b` is the bank then), no
register that it reads is late, C is not frozen, a place of the 16 flights is free for a word that writes, and its charge stays within
its class. -/
def Sys2Proof.Machine.State.cGo (s : State) (i : Instr) (sr : Bool) (charge : Nat) (reads : Bank → Entry → List CReg) (b : Bank)
    (writes : Bool := true) : Prop :=
  let a := (s.acting i).here; let x := s.inHand i; let sy := (usesOf i).sy
  a.cut = none ∧ a.popsOk .C sy x = true ∧ (x.popped = true ∨ a.canPush .C sy.push = true) ∧ (sr = true → a.srAwaited x.uid = false)
    ∧ (∃ b1, ((s.acting i).relook s.cur).here.landDue = (b1, none) ∧ b = b1.takeSr x.uid)
    ∧ (reads b x).any b.isLate = false ∧ b.slackOut = false ∧ (writes = true → b.flights.length < 16)
    ∧ b.overClass (if charge = 0 then [] else [(bucketOf s.time, charge)]) = none

/-- A flight knows its word to have issued all. -/
def Sys2Proof.Machine.markLast (uid : Nat) (f : Flight) : Flight := if f.uid = uid then { f with last := true } else f

/-- A repetition of a C word has issued from the bank `b`: its write is in flight, to land `lat` engine cycles later and after earlier
writes (07 R172, R173); one engine cycle has passed (R170); the word leaves its queue with the last of its `reps` repetitions, and
keeps its head for the next one before (R178); registers, handles, layouts and accumulators are as they were. Of a word that is no
local load the data is there. -/
def Sys2Proof.Machine.cIssued (s t : State) (b : Bank) (x : Entry) (reps lat : Nat) (tgt : FlightTgt)
    (data : Flight → Prop := fun f => f.arrived = true ∧ f.relook = 0) : Prop :=
  let last := decide (reps ≤ x.rep + 1)
  (∃ f : Flight, f.uid = x.uid ∧ f.rep = x.rep ∧ f.tgt = tgt ∧ f.due = b.engcyc + lat ∧ f.poison = false ∧ data f
      ∧ t.here.flights = if last then (insertFlight f b.flights).map (markLast x.uid) else insertFlight f b.flights)
    ∧ t.here.engcyc = b.engcyc + 1
    ∧ (if last then t.here.qC = s.here.qC else ∃ y, t.here.qC = y :: s.here.qC ∧ y.uid = x.uid ∧ y.rep = x.rep + 1)
    ∧ t.here.s = b.s ∧ t.here.v = b.v ∧ t.here.p = b.p ∧ t.here.h = b.h ∧ t.here.y = b.y ∧ t.here.acc = b.acc
    ∧ ∀ n, n ≠ s.cur → t.bank n = s.bank n

/-- A C word waits at its head: its entry stands there as it was, and nothing of it has issued or landed. -/
def Sys2Proof.Machine.heldAtC (s t : State) (i : Instr) : Prop :=
  t.here.qC = s.inHand i :: s.here.qC ∧ t.here.flights = s.here.flights ∧ t.here.engcyc = s.here.engcyc ∧ t.here.v = s.here.v
    ∧ t.here.acc = s.here.acc ∧ t.store = s.store ∧ ∀ n, n ≠ s.cur → t.bank n = s.bank n

/-- A C word that writes a vector register: its destination field and repetitions, its latency and charge, whether it steps SRSTATE,
the registers it reads, and what a repetition writes from the bank and the entry: value, written bytes, SRSTATE. -/
structure Sys2Proof.Machine.VecWord where
  i : Instr
  vd : BitVec 6
  rep : BitVec 5
  lat : Nat
  charge : Nat
  sr : Bool
  reads : Bank → Entry → List CReg
  out : Bank → Entry → VOut

/-- The words of two sources, a predicate, and a result per active lane from the lanes of both, the lane of vd, and the state of the
stochastic rounding (12 Tables 12.1, 12.2). -/
def Sys2Proof.Machine.binWord (i : Instr) (a : CBin) (lat charge : Nat) (third sr : Bool) (f : Nat → Nat → Nat → Nat → Nat) : VecWord where
  i := i
  vd := a.vd
  rep := a.rep
  lat := lat
  charge := charge
  sr := sr
  reads := fun b x => [vRd b a.va x, vRd b a.vb x, pRd b a.pr] ++ if third then [vRd b a.vd x] else []
  out := fun b x => elemwise a.ty (b.preg a.pr.toNat) sr b.srstate fun l k =>
    f l (lane a.ty.width (vSrc b a.va x) k) (lane a.ty.width (vSrc b a.vb x) k) (lane a.ty.width (vSrc b a.vd x) k)

/-- A result on the lanes of a type: a floating one rounded once by the mod field, an integer one wrapped, or saturated by its bit 4
(12 R266, R267; 08 R194). -/
def Sys2Proof.Machine.laneResult (ty : VTy) (md : BitVec 5) (l : Nat) (fl : Num) (z : Int) : Nat :=
  match fmtOf ty with
  | some f => f.round (md.toNat % 8) l false fl
  | none => bitsOfInt (8 * ty.width) (if md.getLsbD 4 then satInt (8 * ty.width) z else z)

/-- The arithmetic words of two sources and a mod field (12 R266-R268, Table 12.2). -/
def Sys2Proof.Machine.arithWords (a : CBin) : List VecWord :=
  let sr := a.ty.isFloat && a.md.toNat % 8 == 5
  let fl := elemValue a.ty
  let z := intOf (8 * a.ty.width)
  let neg := a.md.getLsbD 4
  let down := a.md.toNat % 8 == 2
  let out := laneResult a.ty a.md
  [binWord (.vadd a) a 4 2 false sr fun l x y _ => out l (Num.add down ((fl x).negIf neg) ((fl y).negIf (a.md.getLsbD 3))) (z x + z y),
   binWord (.vsub a) a 4 2 false sr fun l x y _ => out l (Num.add down ((fl x).negIf neg) ((fl y).negIf !(a.md.getLsbD 3))) (z x - z y),
   binWord (.vmul a) a 4 2 false sr fun l x y _ => out l ((Num.mul (fl x) (fl y)).negIf neg) (z x * z y),
   binWord (.vfma a) a 4 2 true sr fun l x y c =>
     out l (Num.add down ((Num.mul (fl x) (fl y)).negIf neg) ((fl c).negIf (a.md.getLsbD 3))) (z x * z y + z c),
   binWord (.vdiv a) a 12 3 false sr fun l x y _ => out l ((Num.div (fl x) (fl y)).negIf neg) (z x),
   binWord (.vshl a) a 2 2 false false fun _ x y _ =>
     bitsOfInt (8 * a.ty.width)
       (let w : Int := z x * (2 ^ min y (8 * a.ty.width) : Nat); if neg then satInt (8 * a.ty.width) w else w)]

/-- A word of one source, a predicate and a mod field. -/
def Sys2Proof.Machine.unWord (i : Instr) (a : CUn) (lat charge : Nat) (f : Nat → Nat → Nat) : VecWord where
  i := i
  vd := a.vd
  rep := a.rep
  lat := lat
  charge := charge
  sr := a.ty.isFloat && a.md.toNat % 8 == 5
  reads := fun b x => [vRd b a.va x, pRd b a.pr]
  out := fun b x => elemwise a.ty (b.preg a.pr.toNat) (a.ty.isFloat && a.md.toNat % 8 == 5) b.srstate fun l k =>
    f l (lane a.ty.width (vSrc b a.va x) k)

/-- The words of one source and a mod field (12 R266-R268). -/
def Sys2Proof.Machine.unWords (a : CUn) : List VecWord :=
  let fl := elemValue a.ty
  let out := fun l n => laneResult a.ty a.md l n 0
  let abs := fun x : Nat => if a.ty.isFloat then x % 2 ^ (8 * a.ty.width - 1)
    else
      let z : Int := (intOf (8 * a.ty.width) x).natAbs
      bitsOfInt (8 * a.ty.width) (if a.md.getLsbD 4 then satInt (8 * a.ty.width) z else z)
  [unWord (.vabs a) a 2 2 fun _ x => abs x, unWord (.vrcp a) a 6 3 fun l x => out l (fl x).rcp,
   unWord (.vrsq a) a 6 3 fun l x => out l (fl x).rsq, unWord (.vexp2 a) a 6 3 fun l x => out l (fl x).exp2,
   unWord (.vlog2 a) a 6 3 fun l x => out l (fl x).log2, unWord (.vsqrt a) a 12 3 fun l x => out l (fl x).sqrt]

/-- A word without a mod field: its parts, and what it writes from its registers. -/
def Sys2Proof.Machine.plainWord (i : Instr) (vd : BitVec 6) (rep : BitVec 5) (lat : Nat) (reads : Bank → Entry → List CReg)
    (val : Bank → Entry → Vec) (mask : Bank → Pred) : VecWord where
  i := i
  vd := vd
  rep := rep
  lat := lat
  charge := 2
  sr := false
  reads := reads
  out := fun b x => { val := val b x, mask := mask b, L := b.srstate }

/-- The words of two sources without a mod field whose lanes are a function of the lanes (12 R266, R271-R274, R278; 08 R196). -/
def Sys2Proof.Machine.triWords (a : CTri) : List VecWord :=
  let ty := a.ty
  let w := ty.width
  let reads := fun (b : Bank) (x : Entry) => [vRd b a.va x, vRd b a.vb x, pRd b a.pr]
  let lanes := fun (i : Instr) (lat : Nat) (f : Bank → Entry → Nat → Nat) => ({
    i := i, vd := a.vd, rep := a.rep, lat := lat, charge := 2, sr := false, reads := reads
    out := fun b x => elemwise ty (b.preg a.pr.toNat) false b.srstate fun _ k => f b x k } : VecWord)
  let va := fun (b : Bank) (x : Entry) (k : Nat) => lane w (vSrc b a.va x) k
  let vb := fun (b : Bank) (x : Entry) (k : Nat) => lane w (vSrc b a.vb x) k
  let bits := fun (i : Instr) (f : Vec → Vec → Vec) =>
    plainWord i a.vd a.rep 2 reads (fun b x => f (vSrc b a.va x) (vSrc b a.vb x)) fun b => laneMask (b.preg a.pr.toNat) w
  [lanes (.vmin a) 2 fun b x k => if orderKey ty (vb b x k) < orderKey ty (va b x k) then vb b x k else va b x k,
   lanes (.vmax a) 2 fun b x k => if orderKey ty (va b x k) < orderKey ty (vb b x k) then vb b x k else va b x k,
   lanes (.vshr a) 2 fun b x k => va b x k / 2 ^ min (vb b x k) (8 * w),
   lanes (.vshra a) 2 fun b x k => bitsOfInt (8 * w) (intOf (8 * w) (va b x k) / (2 ^ min (vb b x k) (8 * w) : Nat)),
   lanes (.vperm a) 3 fun b x k => va b x (vb b x k % lanesOf ty),
   bits (.vand a) fun x y => x &&& y, bits (.vor a) fun x y => x ||| y, bits (.vxor a) fun x y => x ^^^ y,
   plainWord (.vsel a) a.vd a.rep 2 reads
     (fun b x => mergeBytes (vSrc b a.vb x) (vSrc b a.va x) (laneMask (b.preg a.pr.toNat) w)) fun _ => BitVec.allOnes 256]

/-- A reduction: every byte of the destination is written, the number from bit 0 on, zeros above (12 R277; 08 R197). -/
def Sys2Proof.Machine.reduction (i : Instr) (vd va : BitVec 6) (pr : BitVec 4) (ty : VTy) (rep : BitVec 5)
    (f : (Nat → Bool) → (Nat → Nat) → Nat) : VecWord :=
  { plainWord i vd rep 8 (fun b x => [vRd b va x, pRd b pr])
      (fun b x => BitVec.ofNat 2048 (f (laneActive (b.preg pr.toNat) ty.width) (lane ty.width (vSrc b va x))))
      fun _ => BitVec.allOnes 256 with charge := 2 }

/-- The moves, slides, broadcasts, scalar transfers, conversions and reductions (12 R269, R270, R275-R278; 08 R193-R199). -/
def Sys2Proof.Machine.moveWords (m : CMov) (mi : CMovi) (fr : CFroms) (sl : CSlide) (io : CIota) (cv : CCvt) (q : CQnt) (dq : CDqnt) (ra : CUn) :
    List VecWord :=
  let key := orderKey m.ty
  let lanes := List.range (lanesOf m.ty)
  let per := fun (i : Instr) (vd : BitVec 6) (rep : BitVec 5) (lat : Nat) (reads : Bank → Entry → List CReg) (ty : VTy) (pr : BitVec 4)
      (f : Bank → Entry → Nat → Nat) => ({
    i := i, vd := vd, rep := rep, lat := lat, charge := 2, sr := false, reads := reads
    out := fun b x => elemwise ty (b.preg pr.toNat) false b.srstate fun _ k => f b x k } : VecWord)
  let slr := fun (b : Bank) (x : Entry) => [vRd b sl.va x, pRd b sl.pr]
  [plainWord (.vmov m) m.vd m.rep 2 (fun b x => [vRd b m.va x, pRd b m.pr]) (fun b x => vSrc b m.va x)
     fun b => laneMask (b.preg m.pr.toNat) m.ty.width,
   plainWord (.vmovi mi) mi.vd mi.rep 2 (fun _ _ => [])
     (fun _ _ => vecOfLanes mi.ty.width ((List.range (lanesOf mi.ty)).map fun _ => moviLane mi.ty mi.imm)) fun _ => BitVec.allOnes 256,
   per (.vfroms fr) fr.vd fr.rep 2 (fun b _ => [pRd b fr.pr]) fr.ty fr.pr
     fun _ x _ => (x.caps.getD 0 0).toNat % 2 ^ (8 * fr.ty.width),
   per (.vslide sl) sl.vd sl.rep 3 slr sl.ty sl.pr fun b x k =>
     let j := (k : Int) + (x.caps.getD 0 0).toInt
     if 0 ≤ j ∧ j < lanesOf sl.ty then lane sl.ty.width (vSrc b sl.va x) j.toNat else 0,
   per (.vbcast sl) sl.vd sl.rep 2 slr sl.ty sl.pr fun b x _ =>
     lane sl.ty.width (vSrc b sl.va x) ((x.caps.getD 0 0).toNat % lanesOf sl.ty),
   per (.viota io) io.vd io.rep 2 (fun b _ => [pRd b io.pr]) io.ty io.pr fun _ _ k => k % 2 ^ (8 * io.ty.width),
   { i := .vcvt cv, vd := cv.vd, rep := cv.rep, lat := 4, charge := 2, sr := cv.rnd == 5
     reads := fun b x => [vRd b cv.va x, pRd b cv.pr]
     out := fun b x => elemwise cv.ty (b.preg cv.pr.toNat) (cv.rnd == 5) b.srstate fun l k =>
       if k < min (lanesOf cv.src) (lanesOf cv.ty) then
         (let e := lane cv.src.width (vSrc b cv.va x) k
          if cv.src = cv.ty then e else elemRound cv.ty cv.rnd.toNat l cv.nan (elemValue cv.src e))
       else 0 },
   { plainWord (.vqnt q) q.vd q.rep 8 (fun b x => [vRd b q.va x, vRd b q.vb x] ++ if q.nx then [vRd b q.vd x] else [])
       (fun b x => quantReg (narrowEl q.elem.toNat) q.nx q.nan (vSrc b q.va x) (vSrc b q.vb x) (vSrc b q.vd x))
       fun _ => BitVec.allOnes 256 with charge := 3 },
   { plainWord (.vdqnt dq) dq.vd dq.rep 4 (fun b x => [vRd b dq.va x, vRd b dq.vb x] ++ if dq.nx then [vRd b dq.vd x] else [])
       (fun b x => vecOfLanes 4 (dequantLanes (narrowEl dq.elem.toNat) dq.nx (vSrc b dq.va x) (vSrc b dq.vb x) (vSrc b dq.vd x)))
       fun _ => BitVec.allOnes 256 with charge := 3 },
   reduction (.vredadd ra) ra.vd ra.va ra.pr ra.ty ra.rep fun act ln =>
     treeSum (redAdd ra.ty.isFloat (ra.md.getLsbD 4)) 8 ((List.range (lanesOf ra.ty)).map fun k => redLane ra.ty (act k) (ln k)),
   reduction (.vredmax m) m.vd m.va m.pr m.ty m.rep fun act ln =>
     (lanes.map fun k => if act k then ln k else redNeutral m.ty false).foldl (fun x y => if key x < key y then y else x)
       (redNeutral m.ty false),
   reduction (.vredmin m) m.vd m.va m.pr m.ty m.rep fun act ln =>
     (lanes.map fun k => if act k then ln k else redNeutral m.ty true).foldl (fun x y => if key y < key x then y else x)
       (redNeutral m.ty true),
   reduction (.vargmax m) m.vd m.va m.pr m.ty m.rep fun act ln =>
     ((lanes.filter act).foldl (fun (best : Option Nat) k =>
       match best with | none => some k | some j => if key (ln j) < key (ln k) then some k else some j) none).getD 0xFFFFFFFF]

/-- A repetition of a vector word writes what its table row says, and steps SRSTATE once per rounded lane where it says so. -/
def Sys2Proof.Machine.VecWord.writes (q : VecWord) : Prop :=
  ∀ (s : State) (b : Bank), s.cGo q.i q.sr q.charge q.reads b → let x := s.inHand q.i; let o := q.out b x
    ∃ t, exec q.i s = .next t ∧ cIssued s t b x (q.rep.toNat + 1) q.lat (.v (physV b.rbv (q.vd.toNat + x.rep)) o.val o.mask)
      ∧ t.here.srstate = o.L ∧ t.store = s.store

/-- 12 R266-R268, R274: the arithmetic words, per active lane. -/
def Obligations.VectorArithmetic : Prop := (∀ a, ∀ q ∈ arithWords a, q.writes) ∧ ∀ a, ∀ q ∈ unWords a, q.writes

/-- 12 R266, R272-R274, R278: minimum, maximum, selection, logic, right shifts and permutation. -/
def Sys2Proof.Machine.saidVectorLogic : Prop := ∀ a, ∀ q ∈ triWords a, q.writes

/-- 12 R269, R270, R275, R277, R278: moves, conversions, quantisation, slides and reductions. -/
def Sys2Proof.Machine.saidVectorMoves : Prop := ∀ m mi fr sl io cv q dq ra, ∀ w ∈ moveWords m mi fr sl io cv q dq ra, w.writes

/-- Logic, shifts, permutations, moves, conversions, quantisation, slides and reductions (R266, R269, R270, R272, R273, R275, R277, R278). -/
def Obligations.VectorMovement : Prop := saidVectorLogic ∧ saidVectorMoves

/-- 12 R260, R261, 08 R192: a lane is active where its predicate bit of the lane's first byte is set; an excluded lane's bytes are not
written; an active lane holds its result; and with stochastic rounding SRSTATE steps once for each active lane, in ascending order,
the lane's rounding using the state after its own step. -/
def Obligations.LanesMasked : Prop :=
  ∀ (ty : VTy) (p : Pred) (sr : Bool) (l : BitVec 32) (f : Nat → Nat → Nat) (k : Nat), k < lanesOf ty →
    let o := elemwise ty p sr l f
    let steps := fun n => ((List.range n).filter (laneActive p ty.width)).length
    laneActive p ty.width k = p.getLsbD (k * ty.width)
      ∧ (∀ j, j < ty.width → o.mask.getLsbD (k * ty.width + j) = laneActive p ty.width k)
      ∧ (laneActive p ty.width k = true →
          lane ty.width o.val k = f (if sr then (stepL^[steps (k + 1)] l).toNat else l.toNat) k % 2 ^ (8 * ty.width))
      ∧ o.L = if sr then stepL^[steps (lanesOf ty)] l else l

/-- A word that writes a predicate register, and what a repetition writes: value and written bits. -/
structure Sys2Proof.Machine.PredWord where
  i : Instr
  pd : BitVec 4
  rep : BitVec 5
  reads : Bank → Entry → List CReg
  out : Bank → Entry → Pred × Pred

/-- The predicate words (12 R271, R279): comparisons by the order of 08 R196, logic, complement, and the first n lanes. -/
def Sys2Proof.Machine.predWords (c : CCmp) (a : PBin) (u : PUn) (k : PSetW) : List PredWord :=
  let bits := fun (i : Instr) (f : Pred → Pred → Pred) => ({
    i := i, pd := a.pd, rep := a.rep, reads := fun b x => [pRdj b a.pa x, pRdj b a.pb x, pRd b a.pr]
    out := fun b x => (f (b.preg (a.pa.toNat + x.rep)) (b.preg (a.pb.toNat + x.rep)), laneMask (b.preg a.pr.toNat) a.ty.width) } : PredWord)
  [{ i := .vcmp c, pd := c.pd, rep := c.rep, reads := fun b x => [vRd b c.va x, vRd b c.vb x, pRd b c.pr]
     out := fun b x =>
      (predOf c.ty.width fun n => relHolds c.rel.toNat (orderKey c.ty (lane c.ty.width (vSrc b c.va x) n))
          (orderKey c.ty (lane c.ty.width (vSrc b c.vb x) n)),
        laneMask (b.preg c.pr.toNat) c.ty.width) },
   bits (.pand a) fun x y => x &&& y, bits (.por a) fun x y => x ||| y, bits (.pxor a) fun x y => x ^^^ y,
   { i := .pnot u, pd := u.pd, rep := u.rep, reads := fun b x => [pRdj b u.pa x, pRd b u.pr]
     out := fun b x => (~~~(b.preg (u.pa.toNat + x.rep)), laneMask (b.preg u.pr.toNat) u.ty.width) },
   { i := .pset k, pd := k.pd, rep := k.rep, reads := fun b _ => [pRd b k.pr]
     out := fun b x => (predOf k.ty.width fun n => decide (n < (x.caps.getD 0 0).toNat), laneMask (b.preg k.pr.toNat) k.ty.width) }]

/-- 12 R260, R271, R276, R279: a predicate word writes pd + j of the rotated file two engine cycles later, a write to p0 being
discarded; VTOS writes one lane, zero-extended from a floating type and sign-extended from an integer one, to a scalar register four
engine cycles later, and s0 discards it. -/
def Obligations.PredicateWords : Prop :=
  (∀ c a u k, ∀ q ∈ predWords c a u k, ∀ (s : State) (b : Bank), s.cGo q.i false 2 q.reads b →
    let x := s.inHand q.i; let o := q.out b x; let n := q.pd.toNat + x.rep
    ∃ t, exec q.i s = .next t ∧ t.store = s.store
      ∧ cIssued s t b x (q.rep.toNat + 1) 2 (if n = 0 then .nothing else .p (physP b.rbp n) o.1 o.2))
  ∧ ∀ (a : CTos) (s : State) (b : Bank), let i : Instr := .vtos a; s.cGo i false 2 (fun b x => [vRd b a.va x]) b →
    let x := s.inHand i; let w := a.ty.width; let v := lane w (vSrc b a.va x) ((x.caps.getD 0 0).toNat % lanesOf a.ty)
    ∃ t, exec i s = .next t ∧ t.store = s.store
      ∧ cIssued s t b x 1 4 (if a.sd = 0 then .nothing
          else .s a.sd (if a.ty.isFloat then BitVec.ofNat 64 v else BitVec.ofInt 64 (intOf (8 * w) v)))

/-- 12 R264, R265: VLDL and VLDM bring 256 bytes of the scratchpad or marver reservation into register v + j, 6 and 12 engine cycles
later; VSTL and VSTM store register v + j there as they issue, and wait while a block that any of their repetitions reaches is read by an
incomplete MMA (13 R294). The address
is the scalar's plus 256 × (off + j × step). An address that is not a multiple of 32 is 1.6.C and one past the reservation 1.3.C.
Whether a load's data is late (07 R174) and which of its units it reads when it lands (04 R111) are free (log entries 3, 61). -/
def Obligations.LocalAccesses : Prop :=
  ∀ (s : State) (a : CLocal) (b : Bank),
    let traps := fun (i : Instr) (k o : Nat) => ∃ t, exec i s = .next t
      ∧ t.here.tcause = tcauseOf { group := 1, kind := k, engine := .C } ∧ t.here.tval = BitVec.ofNat 64 o ∧ t.store = s.store
    (∀ p ∈ [(Instr.vldl a, (0 : BitVec 2), 6), (.vldm a, 1, 12)], let x := s.inHand p.1
      let o := (x.caps.getD 0 0).toNat + 256 * (a.off.toNat + x.rep * a.step.toNat); let l := b.windowBase s.cur p.2.1 + o
      s.cGo p.1 false 1 (fun _ _ => []) b →
      (o % 32 = 0 → o + 256 ≤ b.windowSize p.2.1 → s.clean l 256 →
        ∃ t, exec p.1 s = .next t ∧ t.store = s.store
          ∧ cIssued s t b x (a.rep.toNat + 1) p.2.2
            (.v (physV b.rbv (a.v.toNat + x.rep)) (vecOf (s.store.view (dieOf s.cur) l 256)) (BitVec.allOnes 256))
            fun f => f.arrived = !(s.delays.headD false) ∧ f.relook = b.relookMask (s.choices.headD 0) ∧ f.loc = l
              ∧ f.slackEnd = f.due + b.slack)
      ∧ (o % 32 ≠ 0 → traps p.1 6 o) ∧ (o % 32 = 0 → b.windowSize p.2.1 < o + 256 → traps p.1 3 o))
    ∧ (∀ p ∈ [(Instr.vstl a, (0 : BitVec 2), 6), (.vstm a, 1, 12)], let x := s.inHand p.1
      let o := (x.caps.getD 0 0).toNat + 256 * (a.off.toNat + x.rep * a.step.toNat); let l := b.windowBase s.cur p.2.1 + o
      s.cGo p.1 false 1 (fun b x => [.v (physV b.rbv (a.v.toNat + x.rep))]) b →
      let reach := fun j => (s.acting p.1).here.mmaOverlap p.2.1 ((x.caps.getD 0 0).toNat + 256 * (a.off.toNat + j * a.step.toNat)) 256
      (∀ j, j ≤ a.rep.toNat → reach j = false) →
      (o % 32 = 0 → o + 256 ≤ b.windowSize p.2.1 →
        ∃ t, exec p.1 s = .next t ∧ cIssued s t (b.settleReads l 256) x (a.rep.toNat + 1) p.2.2 .store
          ∧ t.store = s.store.put (dieOf s.cur) l (vecBytes (b.v.get (physV b.rbv (a.v.toNat + x.rep)))))
      ∧ (o % 32 ≠ 0 → traps p.1 6 o) ∧ (o % 32 = 0 → b.windowSize p.2.1 < o + 256 → traps p.1 3 o))
    ∧ ∀ p ∈ [(Instr.vstl a, (0 : BitVec 2)), (.vstm a, 1)], (∃ j, j ≤ a.rep.toNat ∧ (s.acting p.1).here.mmaOverlap p.2
          (((s.inHand p.1).caps.getD 0 0).toNat + 256 * (a.off.toNat + j * a.step.toNat)) 256 = true) →
        ∃ t, exec p.1 s = .next t ∧ heldAtC s t p.1

/-- 12 R280, R281: RBSET sets both rotation bases, SLACK the slack of later local loads; each takes one engine cycle, writes no
register, makes its push as it issues (07 R168), before which the local loads in flight have read what they left to their landing (04 R106,
R111; log entry 61), and needs none of the 16 places of writes in flight (07 R174). -/
def Obligations.RotationAndSlack : Prop :=
  ∀ (s : State) (b : Bank),
    let done := fun (i : Instr) (t : State) => t.here.engcyc = b.engcyc + 1 ∧ t.here.s = b.s
      ∧ (((usesOf i).sy.push = 0 ∨ ∀ f ∈ b.flights, f.relook = 0) → t.here.flights = b.flights)
      ∧ t.here.flights.map (·.uid) = b.flights.map (·.uid) ∧ t.here.flights.map (·.due) = b.flights.map (·.due)
      ∧ t.here.v = b.v ∧ t.here.p = b.p ∧ t.here.h = b.h ∧ t.here.y = b.y ∧ t.here.acc = b.acc ∧ t.here.qC = s.here.qC
      ∧ t.store = s.store ∧ (∀ n, n ≠ s.cur → t.bank n = s.bank n)
      ∧ ((s.inHand i).popped = false → (usesOf i).sy.push = 0 → (usesOf i).sy.pop = 0 → t.here.tok = b.tok)
    (∀ a : Rbset, s.cGo (.rbset a) false 0 (fun _ _ => []) b false →
      ∃ t, exec (.rbset a) s = .next t ∧ done (.rbset a) t ∧ t.here.rbv = a.v.toNat ∧ t.here.rbp = a.p.toNat ∧ t.here.slack = b.slack)
    ∧ ∀ a : SlackW, s.cGo (.slack a) false 0 (fun _ _ => []) b false →
      ∃ t, exec (.slack a) s = .next t ∧ done (.slack a) t ∧ t.here.slack = a.n.toNat ∧ t.here.rbv = b.rbv ∧ t.here.rbp = b.rbp

/-- 13 R288, R290: an MMA or MMAT at its head with a format word that passes the checks of 13 R288, nothing of 13 Table 13.5 to wait for
and at most one MMA before it pops the format word and joins the matrix engine, with its operands, its K-steps and A's plane
transposed for MMAT; an illegal operand code is 3.0.C, another illegal format word 3.2.C, an operand address that is not a multiple
of 32 is 1.6.C, and an operand past its reservation 1.3.C; each
K-step's charge goes to the window in which it runs, from the next core clock on or after the MMAs before it (R290, 18 R387). A queue
without a word of an earlier push, which no push of an earlier word can still bring, is 3.1.C (09 R221). -/
def Obligations.MatrixIssue : Prop :=
  ∀ (s : State) (a : MmaW) (b : Bank), ∀ p ∈ [(Instr.mma a, false), (.mmat a, true)], let x := s.inHand p.1; let u := (s.acting p.1).here
    let pa := (x.caps.getD 0 0).toNat; let pb := (x.caps.getD 1 0).toNat
    let fails := fun (g k : Nat) (v : Word) => ∃ t, exec p.1 s = .next t ∧ t.here.mma = b.mma ∧ t.here.fq = b.fq
      ∧ t.here.tcause = tcauseOf { group := g, kind := k, engine := .C } ∧ t.here.tval = v
    u.cut = none → u.popsOk .C a.sy x = true → u.canPush .C a.sy.push = true →
    ((s.acting p.1).relook s.cur).here.landDue = (b, none) →
    ((∀ q ∈ b.fq.head?, x.uid < q.1) → b.formatAwaited x.uid = false → fails 3 1 0)
    ∧ ((∀ q ∈ b.fq.head?, x.uid < q.1) → b.formatAwaited x.uid = true → ∃ t, exec p.1 s = .next t ∧ t.here.mma = b.mma ∧ t.here.fq = b.fq
        ∧ t.here.qC = x :: s.here.qC)
    ∧ ∀ k fw rest, b.fq = (k, fw) :: rest → k ≤ x.uid →
      let m := mmaOf a p.2 x fw
      let known := (matFmt (fwField fw 0 6)).isSome = true ∧ (matFmt (fwField fw 6 6)).isSome = true
      let fits := pa + m.bytesA ≤ b.spSize ∧ pb + m.bytesB ≤ b.mvSize
      let mhz := clockMhz (s.clusterPower (clusterOf s.cur)).cls
      let start := b.mma.foldl (fun n y => max n y.endNs) (s.time + clocksNs mhz 1)
      let adds := (List.range m.n).map fun k => (bucketOf (start + k * kstepClocks fw * 1000 / mhz), 5 * kstepClocks fw)
      (¬ known → fails 3 0 (fw.setWidth 64))
      ∧ (known → badFormatWord fw = true → fails 3 2 (fw.setWidth 64))
      ∧ (known → badFormatWord fw = false → pa % 32 ≠ 0 → fails 1 6 (BitVec.ofNat 64 pa))
      ∧ (known → badFormatWord fw = false → pa % 32 = 0 → pb % 32 ≠ 0 → fails 1 6 (BitVec.ofNat 64 pb))
      ∧ (known → badFormatWord fw = false → pa % 32 = 0 → pb % 32 = 0 → b.spSize < pa + m.bytesA → fails 1 3 (BitVec.ofNat 64 pa))
      ∧ (known → badFormatWord fw = false → pa % 32 = 0 → pb % 32 = 0 → pa + m.bytesA ≤ b.spSize → b.mvSize < pb + m.bytesB →
          fails 1 3 (BitVec.ofNat 64 pb))
      ∧ (known → badFormatWord fw = false → pa % 32 = 0 → pb % 32 = 0 → fits → b.slackOut = false → b.mmaMustLand = false →
          b.mma.length < 2 → b.overClass adds = none →
          ∃ t, exec p.1 s = .next t ∧ t.here.fq = rest ∧ t.here.engcyc = b.engcyc + 1 ∧ t.here.acc = b.acc
            ∧ (s.store.clean = true → t.store = s.store)
            ∧ ∃ w, t.here.mma.map (·.uid) = b.mma.map (·.uid) ++ [x.uid] ∧ w ∈ t.here.mma ∧ w.uid = x.uid ∧ w.acc = a.acc.toFin
              ∧ w.transposed = p.2 ∧ w.pa = pa ∧ w.pb = pb ∧ w.n = a.n.toNat + 1 ∧ w.k = 0 ∧ w.fw = fw
              ∧ w.nextNs = start + clocksNs mhz (kstepClocks fw + 8) ∧ w.endNs = start + clocksNs mhz (w.n * kstepClocks fw))

/-- 13 R291-R293: ACLR makes an accumulator zero, ARD reads one beat of it into register v + j, converted, AWR writes one beat of it from
register v + j, converted, and ASTS stores one beat of 256 bytes in the scratchpad; each waits until no MMA to that accumulator is
incomplete, ASTS also until none reads a block of its region (R294). -/
def Obligations.AccumulatorWords : Prop :=
  ∀ (s : State) (b : Bank),
    (∀ a : AclrW, let i : Instr := .aclr a; s.cGo i false 1 (fun _ _ => []) b → (s.acting i).here.accBusy a.acc = false →
      ∃ t, exec i s = .next t ∧ cIssued s t b (s.inHand i) 1 2 (.accClear a.acc.toFin) ∧ t.store = s.store)
    ∧ (∀ a : ArdW, let i : Instr := .ard a; let x := s.inHand i; let n := a.rows.toNat + 1
      let w := beatWords a.ty a.row.toNat n x.rep
      let q := accLanes a.ty a.rnd.toNat w.1 w.2 (b.acc.get a.acc.toFin) b.srstate
      s.cGo i (a.rnd == 5) 2 (fun _ _ => []) b → (s.acting i).here.accBusy a.acc = false →
      ∃ t, exec i s = .next t ∧ t.here.srstate = q.2 ∧ t.store = s.store
        ∧ cIssued s t b x (beatsOf a.ty n) 4 (.v (physV b.rbv (a.v.toNat + x.rep)) (vecOfLanes a.ty.width q.1) (BitVec.allOnes 256)))
    ∧ (∀ a : AwrW, let i : Instr := .awr a; let x := s.inHand i; let n := a.rows.toNat + 1
      let w := beatWords a.ty a.row.toNat n x.rep; let v := b.v.get (physV b.rbv (a.v.toNat + x.rep))
      s.cGo i false 2 (fun b x => [.v (physV b.rbv (a.v.toNat + x.rep))]) b → (s.acting i).here.accBusy a.acc = false →
      ∃ t, exec i s = .next t ∧ t.store = s.store
        ∧ cIssued s t b x (beatsOf a.ty n) 4
          (.acc a.acc.toFin ((List.range w.2).map fun k => (w.1 + k, accIn a.ty (lane a.ty.width v k)))))
    ∧ (∀ a : AstsW, let i : Instr := .asts a; let x := s.inHand i; let w := a.ty.width; let o := (x.caps.getD 0 0).toNat
      let q := accLanes a.ty a.rnd.toNat (256 / w * x.rep) (256 / w) (b.acc.get a.acc.toFin) b.srstate
      let l := b.windowBase s.cur 0 + o + 256 * x.rep
      s.cGo i (a.rnd == 5) 1 (fun _ _ => []) b → (s.acting i).here.accBusy a.acc = false →
      (s.acting i).here.mmaOverlap 0 o (12288 * w) = false → (x.rep = 0 → o % 32 = 0 ∧ o + 12288 * w ≤ b.spSize) →
      ∃ t, exec i s = .next t ∧ t.here.srstate = q.2 ∧ cIssued s t (b.settleReads l 256) x (48 * w) 6 .store
        ∧ t.store = s.store.put (dieOf s.cur) l (vecBytes (vecOfLanes w q.1)))
    ∧ (∀ (r : AclrW) (d : ArdW) (w : AwrW) (t : AstsW), ∀ p ∈ [(Instr.aclr r, r.acc), (.ard d, d.acc), (.awr w, w.acc), (.asts t, t.acc)],
        (s.acting p.1).here.accBusy p.2 = true → ∃ t, exec p.1 s = .next t ∧ heldAtC s t p.1)
    ∧ ∀ a : AstsW, (s.acting (.asts a)).here.mmaOverlap 0 ((s.inHand (.asts a)).caps.getD 0 0).toNat (12288 * a.ty.width) = true →
        ∃ t, exec (.asts a) s = .next t ∧ heldAtC s t (.asts a)

/-! ### Dispatch, causes and their answers (07 R160-R163, R177; 17) -/

/-- The bank may dispatch the place `w` now. -/
def Sys2Proof.Machine.State.mayDispatch (s : State) (n : BankId) (w : Payload) : Prop :=
  (s.bank n).dispatches = true ∧ s.nextPayload n = some w ∧ (s.bank n).canDispatch w = true

/-- 07 R162, R163, 17 R356: WORD_DISPATCH puts the next word at the tail of its engine's queue with the index, the sequence number and
the scalar values of that moment, PC and sequence number count up by one, and a second word may follow it in the same step; remote lines
of which the die has no copy are asked for (03 R79); a bank that cannot dispatch stays as it is. ROTATE_ENTRY moves the bases of the mask at the C head, modulo 48 and 8, and takes no engine
cycle (07 R170, R177). -/
def Obligations.Dispatching : Prop :=
  (∀ (s : State) (n : BankId), (∀ w, ¬ s.mayDispatch n w) → exec (.wordDispatch n) s = .next s)
  ∧ (∀ (s : State) (n : BankId) (w : Payload), s.mayDispatch n w → s.store.clean = true → s.filtersOff → let b := s.bank n; let e := payloadEngine w
      ∃ u x, (u.bank n).queue e = b.queue e ++ [x] ∧ x.what = w ∧ x.idx = b.pc ∧ x.uid = b.uid
        ∧ (∀ i, w = .word i → (usesOf i).eng ≠ some .S → x.caps = (usesOf i).reads.map b.sreg ∧ x.vals = (usesOf i).data.map b.sreg)
        ∧ (∀ f, f ≠ e → (u.bank n).queue f = b.queue f) ∧ (u.bank n).pc = b.pc + 1 ∧ (u.bank n).uid = b.uid + 1
        ∧ (u.bank n).s = b.s ∧ (∀ m, m ≠ n → u.bank m = s.bank m)
        ∧ u = { s with banks := u.banks, store := { s.store with fills := u.store.fills } }
        ∧ ((∀ v, ¬ u.mayDispatch n v) → exec (.wordDispatch n) s = .next u)
        ∧ ∀ v, u.mayDispatch n v → exec (.wordDispatch n) s = .next ((u.fetched n).modBank n fun y => y.enqueue v))
  ∧ ∀ (s : State) (n : BankId) (x : Entry) (rest : List Entry) (m : BitVec 2),
      (s.bank n).qC = x :: rest → x.what = .rotate m → (s.bank n).status = .running → (s.bank n).cut = none →
      ∃ t, exec (.rotateEntry n) s = .next t ∧ (t.bank n).qC = rest ∧ (t.bank n).engcyc = (s.bank n).engcyc
        ∧ (t.bank n).rbv = (if m.getLsbD 0 then ((s.bank n).rbv + 47) % 48 else (s.bank n).rbv)
        ∧ (t.bank n).rbp = (if m.getLsbD 1 then ((s.bank n).rbp + 7) % 8 else (s.bank n).rbp)
        ∧ (t.bank n).v = (s.bank n).v ∧ (t.bank n).p = (s.bank n).p ∧ t.store = s.store

/-- A cause has been taken at the entry `x` of the bank: TCAUSE, TVAL, the saved index, sequence number, repetition and engine in
TSTATE, and the cut; registers and memory are as they were (17 R357, R366, Table 17.7). -/
def Sys2Proof.Machine.causeTaken (s t : State) (n : BankId) (c : Cause) (x : Entry) (v : Word) : Prop :=
  (t.bank n).tcause = tcauseOf c ∧ (t.bank n).tval = v ∧ (t.bank n).cut = some (.cause c)
    ∧ (t.bank n).tstate = tstateOf c (s.bank n).inh x ∧ ((t.bank n).queue c.engine).map (·.uid) = ((s.bank n).queue c.engine).map (·.uid)
    ∧ (t.bank n).s = (s.bank n).s ∧ (t.bank n).v = (s.bank n).v ∧ (t.bank n).p = (s.bank n).p ∧ (t.bank n).acc = (s.bank n).acc
    ∧ t.store = s.store ∧ ∀ m, m ≠ n → t.bank m = s.bank m

/-- 07 R160, 01 R29, 17 R357: a word marked illegal raises its group-0 kind at its queue's head with the word as TVAL, and a word that
could not be fetched its group-1 kind at the S head with its index as TVAL; the head stays after the cut. -/
def Obligations.MarkedWords : Prop :=
  ∀ (s : State) (n : BankId) (x : Entry) (rest : List Entry), (s.bank n).status = .running → (s.bank n).cut = none →
    (∀ e k raw, (s.bank n).queue e = x :: rest → x.what = .illegal k raw →
      ∃ t, exec (.illegalWord n e) s = .next t
        ∧ causeTaken s t n { group := 0, kind := k, engine := e } x (raw.setWidth 64))
    ∧ ∀ k, (s.bank n).qS = x :: rest → x.what = .fetchFault k →
      ∃ t, exec (.fetchFault n) s = .next t ∧ causeTaken s t n { group := 1, kind := k, engine := .S } x x.idx

/-- 17 R359-R363, R371: DRAIN_COMPLETE of a drained bank. A cause for its handler enters it: INH set, dispatch at TVEC.INDEX, the queues
and tokens empty and kept in the image. Another cause switches the bank out with KIND 1 and reaches core 6's mailbox. A cut for a
switch leaves the bank ready or running again, one for a pre-emption saves it. A pre-emption that the cause came into goes on: the bank is
saved as its cause awaits firmware (R358). The storage then holds the frame of KIND 2, 1 or 3 in the bank's save area, as `writeFrame` writes
it, unless the core at once runs another bank whose first MMA starts. -/
def Obligations.CauseDelivered : Prop :=
  ∀ (s : State) (n : BankId), s.drained n = true → let u := s.drain n; let b := u.bank n
    let calm := ∀ m ∈ (u.bank (otherBank n)).mma.head?, m.started = true
    (∀ c, b.cut = some (.cause c) → b.toHandler c = true →
      ∃ t, exec (.drainComplete n) s = .next t ∧ (t.bank n).tstate.getLsbD 0 = true ∧ (t.bank n).pc = b.tvec &&& 0xFFFFFFFF
        ∧ (t.bank n).kind = 2 ∧ (t.bank n).cut = none ∧ (t.bank n).tcause = b.tcause ∧ (t.bank n).tval = b.tval
        ∧ (∀ e, (t.bank n).queue e = []) ∧ (t.bank n).tok = Vector.replicate 12 0 ∧ (t.bank n).s = b.s ∧ (t.bank n).v = b.v
        ∧ (calm → t.store = (u.writeFrame n 2).store)
        ∧ ∃ g, (t.bank n).image = some g ∧ g.qS = b.qS ∧ g.qL = b.qL ∧ g.qC = b.qC ∧ g.qW = b.qW ∧ g.tok = b.tok ∧ g.pc = b.pc)
    ∧ (∀ c, b.cut = some (.cause c) → b.toHandler c = false →
      ∃ t, exec (.drainComplete n) s = .next t ∧ (t.bank n).cut = none
        ∧ (t.bank n).awaits = true ∧ (n, b.tcause.toNat % 2 ^ 9) ∈ t.gaffer.causes
        ∧ if s.incoming.any fun p => p.1 == n.val then (t.bank n).status = .preempted ∧ (t.bank n).kind = 3
          else (t.bank n).status = .switchedOut ∧ (t.bank n).kind = 1 ∧ (calm → t.store = (u.writeFrame n 1).store))
    ∧ (b.cut = some .switch → ∃ t, exec (.drainComplete n) s = .next t
        ∧ ((t.bank n).status = .ready ∨ (t.bank n).status = .running))
    ∧ (b.cut = some .preempt → ∃ t, exec (.drainComplete n) s = .next t ∧ (t.bank n).status = .preempted
        ∧ (t.bank n).kind = 3 ∧ (t.frames.find? fun p => p.1 == n.val).isSome = true
        ∧ (calm → t.store = ((u.modBank n fun b => { b with status := .preempted, cut := none }).writeFrame n 3).store))

/-- The bank executes and is not cut. -/
def Sys2Proof.Machine.State.runs (s : State) (n : BankId) : Prop := (s.bank n).status = .running ∧ (s.bank n).cut = none

/-- What a Refresh makes of a capture of an L or W entry of a bank (17 R361): one that is stale, faulted or pending becomes what XLATE makes of
its VA with its own rights (01 R25), faulted with kind 7, the cached leaf's handle, or pending on its page's walk; another stays. A capture
that is not of a VA, as HLOCAL makes it, has nothing to translate. -/
def Sys2Proof.Machine.State.refreshed (s t : State) (n : BankId) (c c' : Capture) : Prop :=
  let old := c.stale = true ∨ c.h.st = .faulted ∨ c.h.st = .pending; let va : Word := if c.h.st = .valid then c.h.base.setWidth 64 else c.h.va
  let d := dieOf n; let asn := (s.bank n).asn; let miss := s.xl.heldBy d asn va.toNat = true ∨ s.xl.hit d asn va.toNat = none
  (¬ old ∨ va = -1 → c' = c)
    ∧ (old → va ≠ -1 → c'.stale = false
      ∧ (2 ^ 52 ≤ va.toNat → c'.h.st = .faulted ∧ c'.h.fkind = 7)
      ∧ (va.toNat < 2 ^ 52 → s.xl.heldBy d asn va.toNat = false → ∀ e big, s.xl.hit d asn va.toNat = some (e, big) →
          c'.h = makeHandle (.leaf e big) c.h.reqR c.h.reqW va)
      ∧ (va.toNat < 2 ^ 52 → miss → c'.h.st = .pending ∧ c'.h.va = va ∧ c'.h.reqR = c.h.reqR ∧ c'.h.reqW = c.h.reqW
          ∧ ∃ w ∈ t.xl.walks, w.tag = c'.h.tag ∧ w.die = d ∧ w.asn = asn ∧ s.samePage d asn w.va.toNat va.toNat = true))

/-- 17 R361, R363, R364: firmware answers a switched-out bank's cause, of groups 0 and 2 and of a save region's error (R373) with END, 1.4
with Refresh; of the causes of a handler, groups 3 and 4 and 5.0, which come to it for want of a handler or from one, a slot miss (4.0) outside a
handler with Resume and the others with END; and others as it asks. Resume makes it ready, and the core goes back to it; Refresh first translates again what its saved L and W
entries hold stale, faulted or pending; END ends its task at the cut, with a report on its launch's queue. The cause leaves core 6's
mailbox, and KIND becomes 0. A bank that a HALT stopped where it enters its handler is switched out there and goes on there, or ends (20 R420,
R428; log entry 29). (Of the effect of Resume, where no unit stands in error that a starting MMA's operand scales could lie in.) -/
def Sys2Proof.Machine.saidCausesAnswered : Prop :=
  ∀ (s : State) (n : BankId), ∀ p ∈ [(Instr.resume n, Answer.resume), (.refresh n, .refresh), (.answerEnd n, .endTask)],
    let b := s.bank n; let group := b.tcause.toNat % 2 ^ 9 / 64; let code := b.tcause.toNat % 2 ^ 9 / 4
    let missed := code = 4 * 16 ∧ b.inh = false
    let ended := group = 0 ∨ group = 2 ∨ (code = 5 * 16 + 3 ∧ b.tval.toNat % 2 ^ 8 = 8)
      ∨ ((group = 3 ∨ group = 4 ∨ code = 5 * 16) ∧ ¬ missed)
    (b.awaits = true → b.status = .switchedOut →
      (¬ ended → (p.2 ≠ .endTask ∨ code = 1 * 16 + 4 ∨ missed) → s.store.clean = true →
        ∃ t, exec p.1 s = .next t ∧ ((t.bank n).status = .ready ∨ (t.bank n).status = .running)
          ∧ (t.bank n).awaits = false ∧ (t.bank n).kind = 0 ∧ (∀ q ∈ t.gaffer.causes, q.1 ≠ n) ∧ (t.bank n).pc = b.pc
          ∧ (t.bank n).s = b.s ∧ (t.bank n).v = b.v ∧ (t.bank n).h = b.h
          ∧ ((t.bank n).qL.map (·.uid)) = b.qL.map (·.uid) ∧ ((t.bank n).qW.map (·.uid)) = b.qW.map (·.uid)
          ∧ ((p.2 = .refresh ∧ ¬ missed ∨ code = 1 * 16 + 4) → ∀ (k : Nat) (x : Entry) (c : Capture), (b.qL ++ b.qW)[k]? = some x → x.cap = some c →
              ∃ y c', ((t.bank n).qL ++ (t.bank n).qW)[k]? = some y ∧ y.uid = x.uid ∧ y.cap = some c' ∧ s.refreshed t n c c'))
      ∧ ((ended ∨ (p.2 = .endTask ∧ code ≠ 1 * 16 + 4 ∧ ¬ missed)) →
        ∃ t, exec p.1 s = .next t ∧ (t.bank n).status = .free ∧ (∀ q ∈ t.gaffer.causes, q.1 ≠ n)
          ∧ .taskEnded (b.ofTask (·.launch)) (b.tcause.toNat % 2 ^ 9) ∈ t.gaffer.reports))
    ∧ (b.stopped = true → b.awaits = false → b.status = .switchedOut →
        (p.2 ≠ .endTask → s.store.clean = true → ∃ t, exec p.1 s = .next t ∧ ((t.bank n).status = .ready ∨ (t.bank n).status = .running)
          ∧ (t.bank n).stopped = false ∧ (t.bank n).kind = b.kind ∧ (t.bank n).pc = b.pc ∧ (t.bank n).s = b.s ∧ t.store = s.store)
        ∧ (p.2 = .endTask → ∃ t, exec p.1 s = .next t ∧ (t.bank n).status = .free
          ∧ .taskEnded (b.ofTask (·.launch)) (b.tcause.toNat % 2 ^ 9) ∈ t.gaffer.reports))

/-- 14 R314, 17 R371-R374: at the end of a save the bank's task is among the saved and, with no task waiting for it, the bank is free; a
restore of an intact save, whose CHECK is the CRC of its regions, into a free bank brings the task back, ready, or running if its core
is free; one that had no grant before (18 R385) asks for it again. -/
def Sys2Proof.Machine.saidSaveAndRestore : Prop :=
  ∀ (s : State) (n : BankId),
    ((s.bank n).status = .preempted → (∀ p ∈ s.incoming, p.1 ≠ n.val) →
      ∃ t, exec (.preemptionSaveEnd n) s = .next t ∧ (t.bank n).status = .free
        ∧ t.saves = s.saves ++ [(n.val, if s.shelved n then { s.bank n with status := .unfunded } else s.bank n)]
        ∧ (t.bank n).task = none)
    ∧ ∀ (b f : Bank), (s.saves.find? fun p => p.1 == n.val) = some (n.val, b) → (s.frames.find? fun p => p.1 == n.val) = some (n.val, f) →
      (s.bank n).status = .free → s.store.noErrors → b.awaits = false →
      s.store.homeNat (saveBase n + 0x3FDF8) 8 = (s.store.frameCrc n (f.frameRanges 3)).toNat →
      ∃ t, exec (.restore n) s = .next t ∧ (t.bank n).task = b.task
        ∧ (b.status ≠ .unfunded → (t.bank n).status = .ready ∨ (t.bank n).status = .running)
        ∧ (b.status = .unfunded → (t.bank n).status = .unfunded ∧ ∃ h ∈ (t.diePower (dieOf n)).heads, h.bank = n ∧ h.placement = true)
        ∧ (t.bank n).s = b.s ∧ (t.bank n).v = b.v ∧ (t.bank n).p = b.p ∧ (t.bank n).acc = b.acc ∧ (t.bank n).pc = b.pc
        ∧ (∀ p ∈ t.saves, p.1 ≠ n.val)

/-- Firmware answers a cause, and a pre-empted task is saved and restored (R361, R314, R371, R372, R373, R374). -/
def Obligations.AnswersAndSaves : Prop := saidCausesAnswered ∧ saidSaveAndRestore

/-! ### Events of the C engine (07 R170-R174; 13 R289, R290) -/

/-- 07 R170-R174: a write that is due lands, excluded bytes keeping what they hold, a local load with the units that it reads then (04
R111; log entry 61); a load of poison raises 1.9.C there, writes and pushes nothing, and stands at the head again, its earlier repetitions in flight no more the
last of their word (03 R86; 07 R168; as a word's token is pushed the local loads behind it have read (04 R106); that it stands at the head of C again and issues from that repetition, its later flights gone, is log entry 15's reading,
the model's own); the data of
the first late load arrives; a late load whose slack has run out freezes C; an idle engine cycle passes where C is blocked on its own
landings. -/
def Obligations.Landings : Prop :=
  ∀ (s : State) (n : BankId), let b := s.bank n
    (∀ f fs, b.flights = f :: fs → s.runs n → f.due ≤ b.engcyc → f.arrived = true → f.poison = false → f.relook = 0 →
      (∀ r x, f.tgt = .s r x → b.firstWriter f.uid r = true) → (∀ g ∈ fs, b.engcyc < g.due) → (f.push = 0 ∨ ∀ g ∈ fs, g.relook = 0) →
      ∃ t, exec (.cWriteLand n) s = .next t ∧ (∀ g ∈ (t.bank n).flights, g ∈ fs) ∧ (t.bank n).engcyc = b.engcyc
        ∧ (∀ r x m, f.tgt = .v r x m → ∀ k, (t.bank n).v.get k = if k = r then mergeBytes (b.v.get r) x m else b.v.get k)
        ∧ (∀ r x m, f.tgt = .p r x m → ∀ k, (t.bank n).p.get k = if k = r ∧ r ≠ 0 then (b.p.get r &&& ~~~m) ||| (x &&& m) else b.p.get k)
        ∧ (∀ r x, f.tgt = .s r x → ∀ k, (t.bank n).sreg k = if k = r ∧ r ≠ 0 then x else b.sreg k)
        ∧ (∀ a, f.tgt = .accClear a → ∀ k, (t.bank n).acc.get k = if k = a then Vector.replicate 12288 0 else b.acc.get k)
        ∧ (∀ a ws, f.tgt = .acc a ws → ∀ k, (t.bank n).acc.get k =
            if k = a then ws.foldl (fun w q => w.setIfInBounds q.1 q.2) (b.acc.get a) else b.acc.get k))
    ∧ (∀ f fs, b.flights = f :: fs → s.runs n → f.due ≤ b.engcyc → f.arrived = true → f.poison = false → f.relook = 0 → f.push ≠ 0 →
      (∀ g ∈ fs, b.engcyc < g.due ∧ (g.relook ≠ 0 → ∃ r x m, g.tgt = .v r x m)) →
      ∃ t, exec (.cWriteLand n) s = .next t ∧ ∀ g ∈ (t.bank n).flights, g.relook = 0)
    ∧ (∀ f r x m, b.flights = [f] → f.tgt = .v r x m → s.runs n → f.due ≤ b.engcyc → f.arrived = true → f.poison = false → f.relook ≠ 0 →
      ∃ t, exec (.cWriteLand n) s = .next t ∧ (t.bank n).flights = [] ∧ ∀ k, (t.bank n).v.get k = if k = r then
        mergeBytes (b.v.get r) (vecOf (s.store.reread (dieOf n) f.loc f.relook (vecBytes x))) m else b.v.get k)
    ∧ (∀ f fs, b.flights = f :: fs → s.runs n → f.due ≤ b.engcyc → f.poison = true → (∀ g ∈ b.flights, g.relook = 0) →
      ∃ t x, exec (.cWriteLand n) s = .next t ∧ (t.bank n).tcause = tcauseOf { group := 1, kind := 9, engine := .C } ∧ (t.bank n).tval = f.addr
        ∧ (t.bank n).v = b.v ∧ (t.bank n).tok = b.tok ∧ (∀ g ∈ (t.bank n).flights, ¬ (g.uid = f.uid ∧ f.rep ≤ g.rep) ∧ (g.uid = f.uid → g.last = false))
        ∧ (t.bank n).qC = x :: b.qC.filter (fun y => y.uid != f.uid) ∧ x.uid = f.uid ∧ x.rep = f.rep ∧ x.popped = true)
    ∧ ((∀ f ∈ b.flights, b.engcyc < f.due) →
      ∃ t, exec (.lateLoadArrival n) s = .next t
        ∧ (t.bank n).flights = modFirst (fun f => !f.arrived) (fun f => { f with arrived := true }) b.flights ∧ (t.bank n).v = b.v)
    ∧ (∃ t, exec (.slackExpiry n) s = .next t ∧ t.store = s.store ∧ (t.bank n).v = b.v
        ∧ ((∃ f ∈ b.flights, f.arrived = false ∧ f.slackEnd ≤ b.engcyc) → (t.bank n).slackOut = true))
    ∧ (s.idles n = true → (∀ f ∈ b.flights, b.engcyc < f.due) →
      ∃ t, exec (.idleEngineCycle n) s = .next t ∧ (t.bank n).engcyc = b.engcyc + 1 ∧ (t.bank n).flights = b.flights
        ∧ (t.bank n).v = b.v ∧ t.store = s.store)

/-- An element of a K-step with integer operands and one with other operands (08 R188, R189; 13 R289). -/
def Sys2Proof.Machine.kstepValue (fw : BitVec 32) (base : BitVec 32) (as bs : Array Num) : BitVec 32 :=
  let neg := fwField fw 26 2 == 2
  if intCode (fwField fw 0 6) && intCode (fwField fw 6 6) then
    let sum := (List.range 32).foldl (fun (z : Int) m => z + (as.getD m .nan).toInt * (bs.getD m .nan).toInt) 0
    BitVec.ofInt 32 (satInt 32 (base.toInt + if neg then -sum else sum))
  else
    BitVec.ofNat 32 (fmtFp32.round 0 0 false ((List.range 32).foldl
      (fun (z : Num) m => Num.add false z ((Num.mul (as.getD m .nan) (bs.getD m .nan)).negIf neg)) (fmtFp32.value base.toNat)))

/-- No stored error of the storage, of HBM and of the tags is one that a read changes: each is poison (03 R85). -/
def Sys2Proof.Machine.Store.onlyPoison (st : Store) : Prop := (∀ p ∈ st.ecc, p.2 = .poison) ∧ st.hbmEcc = [] ∧ st.tagEcc = []

/-- 13 R289, R290: KSTEP_WRITE writes the valid rows and columns of the running MMA's accumulator, from its old value, or from zero in
K-step 0 under MODE 1; every other word of it and the other accumulators stay. The MMA goes on to its next K-step, or leaves with its
last. (An MMA's operand values are `Operand.values` of its tiles, zero where 13 R295 substitutes.) No stored error is one that its
reads correct or mark (03 R85). -/
def Obligations.KStep : Prop :=
  ∀ (s : State) (n : BankId) (m : Mma) (rest : List Mma), let b := s.bank n
    b.mma = m :: rest → m.started = true → s.runs n → s.store.onlyPoison →
    let side := fun (o : Operand) (w : BitVec 2) => o.values (leNat (s.store.view (dieOf n) (b.windowBase n w + o.tile) (tileBytes o.rows o.code)))
      fun a => s.store.badUnit ((b.windowBase n w + a) / 8)
    let va := side (m.operandA m.k) 0; let vb := side (m.operandB m.k) 1
    ∃ t, exec (.kstepWrite n) s = .next t ∧ t.store = s.store ∧ (t.bank n).v = b.v ∧ (t.bank n).s = b.s
      ∧ (∀ a, a ≠ m.acc → (t.bank n).acc.get a = b.acc.get a)
      ∧ (∀ e : Fin 12288, let i := e.val / 128; let j := e.val % 128
          ((t.bank n).acc.get m.acc).get e =
            if i ≤ fwField m.fw 12 7 ∧ j ≤ fwField m.fw 19 7 then
              kstepValue m.fw (if m.k = 0 ∧ fwField m.fw 26 2 = 1 then 0 else (b.acc.get m.acc).get e) (va.getD i #[]) (vb.getD j #[])
            else (b.acc.get m.acc).get e)
      ∧ (m.k + 1 < m.n → ∃ w, (t.bank n).mma = w :: rest ∧ w.uid = m.uid ∧ w.k = m.k + 1
          ∧ w.nextNs = m.nextNs + clocksNs (clockMhz (s.clusterPower (clusterOf n)).cls) (kstepClocks m.fw))
      ∧ (m.n ≤ m.k + 1 → (t.bank n).mma.map (·.uid) = rest.map (·.uid))

/-! ### Translation and storage (01; 02; 03; 04; 11; 20) -/

/-- No line of the unbacked pages that some leaves name has a tag, so that a leaf first made valid drops none (02 R42). -/
def Sys2Proof.Machine.State.noneListed (s : State) (ls : List LeafRef) : Prop :=
  ∀ r ∈ ls, leafU r.e = true → s.store.linesIn (leafLoc r.e) (pageSize r.big) = []

/-- 01 R24, R27, R35: a walk that no invalidation holds ends in every handle that is pending on it, with the leaf's fields, or faulted with
the walk's kind or for the rights asked. A die reports an invalidation when no access of its range that has passed its check is
unfinished, and the last report ends it. A page-table entry is written with GEN counted up, with an invalidation, where 01 R33 needs
one; a change that would bring in a leaf of a pool that is not the address space's own, or of a retired frame, is refused (02 R429, 20
R416), and one of a page whose conversion or move is not over is not made, and a request for it waits (02 R430); level 0 assigns the root, and the leaves of the root that
stood go through an invalidation (log entry 12). What a launch waits for in a range that is invalidated it waits for anew (01 R35, R36). The
stores are named for states with no frame saved, where an invalidation has no saved handles to rewrite, and no enabled traffic filter. -/
def Obligations.TranslationEvents : Prop :=
  ∀ s : State,
    (∀ tag w rest, takeFirst (fun v => v.tag == tag) s.xl.walks = some (w, rest) → s.xl.heldBy w.die w.asn w.va.toNat = false →
      s.filtersOff → s.store.clean = true →
      ∃ t, exec (.walkComplete tag) s = .next t ∧ t.xl.walks = rest ∧ t.store = s.store
        ∧ ∀ (n : BankId) (r : Fin 16), let h := (s.bank n).h.get r
          (t.bank n).h.get r = if h.st = .pending ∧ h.tag = tag then
            makeHandle (s.walkVa w.die w.asn w.va.toNat).1 h.reqR h.reqW h.va else h)
    ∧ (∀ (d : Die) (i : Inval), (s.xl.invals.find? fun j => j.id == i.id) = some i → d ∈ i.dies →
        s.dieReaches d i.asn i.base i.len = false → i.id < s.xl.next →
        ∃ t, exec (.invalidationRelease d i.id) s = .next t
          ∧ ((∃ e ∈ i.dies, e ≠ d) → (t.xl.invals.find? fun j => j.id == i.id) = some { i with dies := i.dies.filter (· != d) })
          ∧ ((∀ e ∈ i.dies, e = d) → (∀ j ∈ t.xl.invals, j.id ≠ i.id) ∧ ∀ f ∈ t.store.forwards, f.inval ≠ i.id))
    ∧ (∀ (asn : BitVec 12) (va : Word) (level : BitVec 2) (e : Word), level ≠ 0 →
        ∀ root addr old, (s.xl.roots.find? fun r => r.1 == asn) = some root → s.store.entryAt va.toNat level.toNat 3 root.2 = some (addr, old) →
        let len := 2 ^ (4 + 12 * level.toNat); let base := va.toNat / len * len
        let ls := s.store.leavesUnder asn base level.toNat e; let i : Instr := .pageTableChange asn va level e
        (s.entryRefused asn e ls = false → s.store.locks = [] → s.store.forwards = [] → s.frames = [] →
          (∀ p ∈ s.store.pools, p.withdrawn = false) → s.noneListed ls → s.filtersOff → s.store.clean = true →
          let st := s.store.writeEntry addr (entryWritten level.toNat old e)
          ∃ t, exec i s = .next t
            ∧ (needsInvalidation level.toNat old e = true → t.store = st.dropWaits asn base len
                ∧ ∃ v ∈ t.xl.invals, v.id = s.xl.next ∧ v.asn = asn ∧ v.dies = [0, 1, 2, 3] ∧ v.base = base ∧ v.len = len)
            ∧ (needsInvalidation level.toNat old e = false → t.store = st ∧ t.xl = s.xl))
        ∧ (s.entryRefused asn e ls = true → ∃ t, exec i s = .next t ∧ t.store = s.store ∧ t.xl = s.xl
            ∧ .refused refusedCode ∈ t.gaffer.reports)
        ∧ (s.entryRefused asn e ls = false → (∃ r ∈ s.store.leavesUnder asn base level.toNat old, s.store.moving r.e = true) →
            exec i s = .next s ∧ s.answerable i = false))
    ∧ ∀ (asn : BitVec 12) (va e : Word), e ≠ 0 → let ls := s.store.leavesFrom asn 3 (entryPa e) 0
        s.entryRefused asn 0 ls = false → s.store.locks = [] → s.store.forwards = [] → s.frames = [] →
        (∀ p ∈ s.store.pools, p.withdrawn = false) → s.noneListed ls →
        let had := (s.xl.roots.find? fun r => r.1 == asn).isSome
        ∃ t, exec (.pageTableChange asn va 0 e) s = .next t ∧ t.store = (if had then s.store.dropWaits asn 0 (2 ^ 52) else s.store)
          ∧ (t.xl.roots.find? fun r => r.1 == asn) = some (asn, entryPa e)
          ∧ (had = true →
              ∃ v ∈ t.xl.invals, v.id = s.xl.next ∧ v.asn = asn ∧ v.base = 0 ∧ v.len = 2 ^ 52 ∧ v.dies = [0, 1, 2, 3])

/-- 02 R48-R53: the answer to the W head's request pins its lines together where the pool has room for those not pinned, P of the pool grows
by their number, and the access may issue; a refusal under LF = 0 is 1.10.W, under LF = 1 locks the page. LATE_FRAME_CONVERSION moves the locked
page to a frame of its pool's late reserve: the frame holds the pinned lines with their contents and zero for the absent ones (step 3), P falls
by the pinned lines and NLATE counts (step 4), the leaf becomes that of a backed page with GEN + 1 and goes through an invalidation (step 5), a
location of the page is found in the frame from then on, and the access may issue after those that came to the page meanwhile (step 6); an
empty reserve is 1.14.W with the page unlocked. -/
def Obligations.AllocationEvents : Prop :=
  ∀ (s : State) (n : BankId) (x : Entry) (rest : List Entry) (c : Capture), (s.bank n).qW = x :: rest → x.cap = some c →
    (s.bank n).cut = none → s.store.forwards = [] → 2 ^ 48 ≤ c.h.loc →
    (∀ o lines p, s.store.behindArrival n x.uid (c.h.loc + o) = false → x.alloc = .asked o lines →
      s.store.locked c.h.loc = false → lines.headD 0 = (c.h.loc + o) / 128 →
      s.store.pool (dieOfLoc (c.h.loc + o)) (poolOfLoc (c.h.loc + o)) = some p →
      let need := (lines.filter fun k => s.store.lineSt k != some .pinned).length
      (need = 0 ∨ p.p + need ≤ p.r → ∃ t y, exec (.allocationAnswer n) s = .next t ∧ (t.bank n).qW = y :: rest ∧ y.uid = x.uid
          ∧ y.alloc = .granted ∧ (∀ k ∈ lines, t.store.lineSt k = some .pinned)
          ∧ (lines.Nodup → (∀ k ∈ lines, dieOfLine k = dieOfLoc (c.h.loc + o) ∧ poolOfLine k = poolOfLoc (c.h.loc + o)) →
              t.store.pool (dieOfLoc (c.h.loc + o)) (poolOfLoc (c.h.loc + o)) = some { p with p := p.p + need }))
      ∧ (need ≠ 0 → p.r < p.p + need → c.h.lf = false → ∃ t, exec (.allocationAnswer n) s = .next t
          ∧ t.store = s.store.leaveArrival n x.uid ∧ (t.bank n).tcause = tcauseOf { group := 1, kind := 10, engine := .W } ∧ (t.bank n).tval = BitVec.ofNat 64 o)
      ∧ (need ≠ 0 → p.r < p.p + need → c.h.lf = true → 0 < c.h.extent.toNat → ∃ t y, exec (.allocationAnswer n) s = .next t
          ∧ (t.bank n).qW = y :: rest ∧ y.alloc = .late o ∧ t.store.locked c.h.loc = true))
    ∧ ∀ o, x.alloc = .late o → let l := c.h.loc; let sz := c.h.extent.toNat; let d := dieOfLoc l; let k := poolOfLoc l; let pn := s.store.pool d k
      ((pn.bind fun p => p.takeFrame c.h.extent.toNat) = none →
        ∃ t, exec (.lateFrameConversion n) s = .next t ∧ (t.bank n).tcause = tcauseOf { group := 1, kind := 14, engine := .W }
          ∧ (t.bank n).tval = BitVec.ofNat 64 o ∧ ∀ q ∈ t.store.locks, q.1 ≠ c.h.loc)
      ∧ ((pn.bind fun p => p.takeFrame c.h.extent.toNat).isSome = true →
        ∃ t y ys, exec (.lateFrameConversion n) s = .next t ∧ (t.bank n).qW = y :: ys ∧ y.uid = x.uid ∧ y.alloc = .granted
          ∧ ys.map (·.uid) = rest.map (·.uid)
          ∧ (∃ a ∈ t.store.arrivals, a.bank = n ∧ a.uid = x.uid ∧ a.page = c.h.loc)
          ∧ (∀ q ∈ t.store.locks, q.1 ≠ c.h.loc)
          ∧ (∀ q ∈ t.store.lines, ¬ (c.h.loc / 128 ≤ q.1 ∧ q.1 * 128 < c.h.loc + c.h.extent.toNat))
          ∧ ∀ f p' addr e, (pn.bind fun p => p.takeFrame sz) = some (f, p') → s.plainMove l sz → f % sz = 0 → f + sz ≤ 2 ^ 48 →
              (addr + 8 ≤ f ∨ f + sz ≤ addr) →
              s.leafStays ((s.store.modPool d k fun _ => p').toFrame l sz f) (s.bank n).asn c.h.base.toNat l addr e →
              movedToFrame s t l sz f addr (leafHome e) e
                ∧ t.store.pool d k = some { p' with p := p'.p - s.store.pinnedIn l sz, nlate := p'.nlate + 1 }
                ∧ moveInvalidates s t (s.bank n).asn c.h.base.toNat l sz f none)

/-- 04 R97, 07 R164, R167, 10 R235: an operation that waits for nothing completes: what is left of its stores is performed in their order, its
stream counts, and it is gone; as one that pushes a token completes, a predecessor in flight has been performed before it, so that what
follows along the token finds its stores (04 R106); an atomic that was left for its completion is performed then (04 R96; log entry 61); a waiting one brings the
value for which its condition held, one that has not made its first read the value that it finds. A poll of a fabric object keeps the first value for which its condition holds. A remote line is a
copy unless the epoch has advanced since it was asked for (03 R79, R81) or its set is left out of use (20 R416). -/
def Obligations.CompletionEvents : Prop :=
  ∀ s : State,
    (∀ (n : BankId) (o : Op), ((s.bank n).ops.find? fun p => p.uid == o.uid) = some o → s.filtersOff → s.store.clean = true →
      o.ent.late = [] → o.spent = false →
      let alone := o.push = 0 ∨ ∀ p ∈ (s.bank n).ops, p.uid ∉ o.ent.preds
      (o.waiting = false → o.pend = false → (s.bank n).mayWrite o = true → alone →
        ∃ t, exec (.operationComplete n o.uid) s = .next t ∧ (∀ p ∈ (t.bank n).ops, p.uid ≠ o.uid)
          ∧ t.store.mem = (o.puts.foldl (fun (st : Store) p => st.perform (dieOf n) p) s.store).mem
          ∧ (t.bank n).qdone.get o.stream.toFin = (s.bank n).qdone.get o.stream.toFin + 1
          ∧ (∀ r x, o.loads = [.s r x] → (t.bank n).sreg r = if r = 0 then 0 else x)
          ∧ (∀ r x k, o.loads = [.v r x k] → (t.bank n).v.get r = x)
          ∧ ∀ d, t.store.epoch.get d = s.store.epoch.get d
              + if d = dieOf n ∧ (o.scope.any fun k => decide (4 ≤ k)) = true then 1 else 0)
      ∧ (∀ p, o.waiting = false → o.pend = false → (s.bank n).mayWrite o = true → o.push ≠ 0 → ((s.bank n).ops.map (·.uid)).Nodup →
        ((s.bank n).ops.filter fun q => o.ent.preds.contains q.uid) = [p] → p.uid ≠ o.uid → (o.ent.preds.filter (· == p.uid)).length = 1 →
        p.waiting = false → p.isCopy = false → p.spent = false → p.pend = false → p.ent.late = [] →
        ∃ t, exec (.operationComplete n o.uid) s = .next t ∧ (∀ q ∈ (t.bank n).ops, q.uid ≠ o.uid)
          ∧ (∃ q ∈ (t.bank n).ops, q.uid = p.uid ∧ q.puts = [] ∧ q.loads = p.loads)
          ∧ t.store.mem = ((p.puts ++ o.puts).foldl (fun (st : Store) q => st.perform (dieOf n) q) s.store).mem)
      ∧ (∀ i j r x, o.waiting = false → o.pend = true → o.ent.what = .word i → atomJob i = some j → (s.bank n).mayWrite o = true →
          o.loads = [.s r x] → r = j.res → o.puts = [] → alone →
          ∃ t, exec (.operationComplete n o.uid) s = .next t ∧ (∀ p ∈ (t.bank n).ops, p.uid ≠ o.uid)
            ∧ t.store.mem = (s.store.rmw (dieOf n) j o.ent o.loc).1.mem
            ∧ (t.bank n).sreg r = if r = 0 then 0 else (s.store.rmw (dieOf n) j o.ent o.loc).2)
      ∧ (∀ w v, o.waiting = true → (s.store.waits.find? fun w => w.bank == n && w.uid == o.uid) = some w →
          (w.met = some v ∨ w.met = none ∧ w.unread = true ∧ w.holds s.store = some v) → o.pend = false →
          let r := (payloadUses o.ent.what).writes.getD 0 0
          (r = 0 ∨ (s.bank n).firstWriter o.uid r = true) → alone →
          ∃ t, exec (.operationComplete n o.uid) s = .next t ∧ (∀ p ∈ (t.bank n).ops, p.uid ≠ o.uid)
            ∧ (t.bank n).sreg r = if r = 0 then 0 else v)
      ∧ (o.waiting = true → (∀ w ∈ s.store.waits, w.bank = n → w.uid = o.uid → w.met = none ∧ w.unread = false) →
          exec (.operationComplete n o.uid) s = .next s))
    ∧ (∀ (n : BankId) (uid : Nat), ∃ t, exec (.fabricWaitPoll n uid) s = .next t
        ∧ ∀ w ∈ s.store.waits, w.bank = n → w.uid = uid → w.met = none → regionOf (s.store.resolve w.loc) = .fabric →
          { w with met := w.holds s.store } ∈ t.store.waits)
    ∧ ∀ (d : Die) (line : Nat) (r : RLine) (rest : List RLine), s.filtersOff →
        takeFirst (fun q => q.die == d && q.line == line) s.store.fills = some (r, rest) →
        ∃ t, exec (.remoteFill d line) s = .next t ∧ t.store.fills = rest ∧ t.store.mem = s.store.mem
          ∧ t.store.copyOf d line = if r.epoch = s.store.epoch.get d ∧ s.store.out.contains (.remoteSet d (line / 16)) = false
              then some r else s.store.copyOf d line

/-- 11 R246, R248, R249, 04 R113, R114, 03 R87: the next row of a copy at its head issues like its first, in a bank that executes: it carries its in-extent
elements, then fill, to the pieces of the local side at every destination, or the local bytes to its in-extent elements; a row that lands, at the destination
that the choice names, stores what is left of its bytes where it goes, with its poisoned units poison there (log entry 61; no other word's access
on an object is still to be performed). -/
def Obligations.CopyRows : Prop :=
  ∀ (s : State) (n : BankId),
    (∀ (e : Engine) (w : CopyWord) (x : Entry) (rest : List Entry) (cap : Capture) (c : CopyOp),
      let t0 : State := { s.modBank n fun b => b.setQueue e rest with cur := n, active := none }
      (s.bank n).copyAtHead e = some (w, x, rest) → (usesOf w.i).eng = some e → x.cap = some cap → x.lay.isSome = true → x.answer = none → (s.bank n).cut = none →
      (s.bank n).status = .running → (s.bank n).stopped = false →
      ((s.bank n).copies.find? fun k => k.uid == x.uid) = some c → c.eng = e → c.uid = x.uid → c.cursor < c.rows →
      t0.hasRequests x c.rowPieces = true → c.la.toNat % 8 = 0 →
      (c.dsts.all fun k => (c.pieces c.cursor).all fun g => decide (g.a + g.n ≤ (t0.copyPlace n c.lvl k).2)) = true →
      x.check (cap.checkRuns c.isIn (!c.isIn) c.lay.z (c.runs c.cursor)) = .pass →
      ((c.runs c.cursor).all fun q => !s.store.locked (cap.h.loc + q.o) && !s.store.behindArrival n x.uid (cap.h.loc + q.o)) = true →
      (c.lay.fold = true → t0.smoothFault c = none) →
      (c.isIn = true ∨ cap.h.unbacked = false ∨ x.alloc = .granted) → c.dsts ≠ [] → s.store.noErrors →
      let d := dieOf n; let base := fun k => (t0.copyPlace n c.lvl k).1; let ps := c.pieces c.cursor; let own := (coreOf n).val % 8
      let row := ((c.runs c.cursor).flatMap fun q => s.store.view d (cap.h.loc + q.o) q.n)
      let filled := row ++ c.lay.fillBytes (c.rowLen - row.length)
      let packed := ps.flatMap fun g => s.store.view d (base own + g.a) g.n
      ∃ t, exec (.copyRowIssue n e) s = .next t ∧ ∃ k ∈ (t.bank n).copies, k.uid = x.uid ∧ k.cursor = c.cursor + 1
        ∧ ∃ fs, k.flights = c.flights ++ fs ∧ (∀ f ∈ fs, f.row = c.cursor ∧ f.poison = [])
          ∧ (fs.map (·.dst) = if c.isIn then c.dsts else [own])
          ∧ (s.filtersOff → c.isIn = true → c.lay.fold = false → ∀ f ∈ fs,
              f.puts = ps.map fun g => { loc := base f.dst + g.a, bytes := (filled.drop g.pos).take g.n })
          ∧ (s.filtersOff → c.isIn = false → c.runs c.cursor ≠ [] → ∀ f ∈ fs,
              f.puts = (c.runs c.cursor).map fun q => { loc := cap.h.loc + q.o, bytes := (packed.drop q.pos).take q.n }))
    ∧ ∀ (uid row : Nat) (c : CopyOp) (g f : RowFlight) (fs : List RowFlight), s.filtersOff → s.store.clean = true → s.nonePends →
      ((s.bank n).copies.find? fun k => k.uid == uid) = some c →
      let may := c.flights.filter fun q => q.row == row && !q.puts.any fun p => s.store.locked p.loc
      may[s.choices.headD 0 % max 1 may.length]? = some g →
      takeFirst (fun q => q.row == g.row && q.dst == g.dst) (c.rereadRow s.store (dieOf n) g ((s.choices.drop 1).headD 0)) = some (f, fs) →
      fs ≠ [] → c.lay.barEn = false →
      ∃ t, exec (.copyRowLand n uid row) s = .next t ∧ (t.bank n).v = (s.bank n).v
        ∧ t.store.mem = (f.puts.foldl (fun (st : Store) p => st.perform (dieOf n) p) s.store).mem
        ∧ ∀ u ∈ f.poison, s.store.resolve (u * 8) = u * 8 → u * 8 < 2 ^ 48 → t.store.unitEcc u = some .poison

/-- 03 R84, R85, 20 R414, R415: the scrubber corrects a single-bit error and counts it, marks an uncorrectable unit as poison and counts
it, in a level or L2 by 8 bytes, in HBM by 32, and changes no correct value: the location's record counts 1 more for a single-bit error and 2
more for an uncorrectable one, which no undervolted rail explains (18 R394), or a new record begins at the present TIME; a record whose 24
hours end without a lasting fault is dropped. (The counts here stay below a lasting fault's 4, no tag or remote copy holds an error, and HBM
holds none against the other 32-byte units of the line.) -/
def Obligations.ErrorEvents : Prop :=
  ∀ s : State,
    (∀ u : Nat, s.store.forwards = [] → (∀ r ∈ s.store.remote, r.ecc = []) → s.store.tagEcc = [] →
      (∀ p ∈ s.store.hbmEcc, p.1 / 16 = u / 16 → p.2 ≠ .poison → p.1 / 4 = u / 4) →
      (∀ loc r, (errLocOf u = some loc ∨ loc = .frame (u * 8 / 0x10000)) → r ∈ s.gaffer.records → r.loc = loc →
        r.count + 2 < 4 ∧ r.lasting = false) →
      ∃ t, exec (.patrolScrub u) s = .next t ∧ t.store.mem = s.store.mem ∧ (∀ n, t.bank n = s.bank n)
        ∧ (s.store.hbmEcc = [] → ∀ k, k ≠ u → t.store.unitEcc k = s.store.unitEcc k)
        ∧ ((s.store.hbmUnit u = none ∨ s.store.ecc.all (fun p => p.1 != u) = true) → t.store.unitEcc u = match s.store.unitEcc u with
            | some .uncorrectable | some .poison => some .poison
            | some .single | none => none)
        ∧ (∀ loc w,
            let own := (s.store.ecc.find? fun p => p.1 == u).map (·.2)
            let weighs := fun e : Option Ecc => (e = some .single ∧ w = 1) ∨ (e = some .uncorrectable ∧ w = 2)
            (errLocOf u = some loc ∧ weighs own ∧ (w = 2 → ∀ d, sliceDie u = some d → 150 ≤ (s.power.dies.get d).vmrv)
              ∨ loc = .frame (u * 8 / 0x10000) ∧ own = none ∧ s.store.dirty.contains (u / 16) = false ∧ weighs (s.store.hbmGroup (u / 4))) →
            (∀ r, (s.gaffer.records.find? fun r => r.loc == loc) = some r → s.time - r.first < errWindow →
              { r with count := r.count + w } ∈ t.gaffer.records)
            ∧ ((s.gaffer.records.find? fun r => r.loc == loc) = none →
              (s.gaffer.records.filter fun r => dieOfErr r.loc == dieOfErr loc).length < 4096 →
              { loc := loc, count := w, first := s.time, lasting := false } ∈ t.gaffer.records)))
    ∧ ∀ loc : ErrLoc, ∃ t, exec (.errorWindowExpiry loc) s = .next t ∧ t.store = s.store
        ∧ ∀ r, r ∈ t.gaffer.records ↔ r ∈ s.gaffer.records ∧ ¬ (r.loc = loc ∧ r.lasting = false ∧ 86400000000000 ≤ s.time - r.first)

/-! ### Launches (14) -/

/-- Where a launch stands on a die. -/
def Sys2Proof.Machine.State.ldie (s : State) (id : Nat) (d : Die) : Option LDie := (s.launchOf id).map fun (l : Launch) => l.dies.get d

/-- 14 R305, R306, R309, 19 R410: a waiting launch of which no earlier one of its queue waits becomes eligible, in the FIFO of its PRIO,
once every wait has completed, at the first count that satisfied it (10 R235); with a frequency hint it is held first, until the
clusters of its masks have the class, at most 100 µs. With a wait that is not satisfied it stays, and the wait is kept; with one whose
semaphore cannot be read it retires on the die, reported. All this while no lookup that it needs is held (01 R35). An eligible launch moves one FIFO up for each full millisecond, to FIFO 6. A
task skips the thermal step after 1 ms at it. -/
def Obligations.LaunchWaits : Prop :=
  ∀ (s : State) (d : Die) (l : Launch), s.launchOf l.id = some l → s.store.noErrors → let x := l.dies.get d
    let met := fun (k : Nat) (w : Nat × Nat) => (∃ v, s.store.lwait l.id d k = some v ∧ v.met = true)
      ∨ ∃ n, s.semCount d l.asn w.1 = some n ∧ w.2 ≤ n
    (x.st = .waiting → s.filtersOff → s.behind l d = false → (∀ w ∈ s.waitsOf l, s.xl.holds d l.asn w.1 8 = false) →
      ((∀ k w, (s.waitsOf l)[k]? = some w → met k w) →
        ∃ t, exec (.launchEligible d l.id) s = .next t ∧ t.store.mem = s.store.mem
          ∧ t.ldie l.id d = some (if recFhint l.raw = 8 then
              { x with since := s.time, aged := 0, st := .eligible, fifo := recPrio l.raw, order := s.launches.orders }
            else { x with since := s.time, aged := 0, st := .held }))
      ∧ ((∀ k w, (s.waitsOf l)[k]? = some w → met k w ∨ (s.semCount d l.asn w.1).isSome = true) →
          ∀ k w n, (s.waitsOf l)[k]? = some w → ¬ met k w → s.semCount d l.asn w.1 = some n →
            ∃ t v, exec (.launchEligible d l.id) s = .next t ∧ t.ldie l.id d = some x ∧ t.store.mem = s.store.mem
              ∧ t.store.lwait l.id d k = some v ∧ v.met = false ∧ v.val = w.2)
      ∧ (∀ k w, (s.waitsOf l)[k]? = some w → ¬ met k w → s.semCount d l.asn w.1 = none → l.byLehr = false →
          s.retireHeld l d = false →
          ∃ t, exec (.launchEligible d l.id) s = .next t ∧ t.ldie l.id d = some { x with st := .retired }
            ∧ .waitFailed l.id d ∈ t.gaffer.reports))
    ∧ (x.st = .held → (s.hintMet l = true ∨ x.since + 100000 ≤ s.time) → ∃ t, exec (.fhintHoldExpiry d l.id) s = .next t ∧ t.store = s.store
        ∧ t.ldie l.id d = some { x with st := .eligible, fifo := recPrio l.raw, order := s.launches.orders })
    ∧ (x.st = .eligible → x.fifo < 6 → x.since + (x.aged + 1) * 1000000 ≤ s.time →
        ∃ t, exec (.launchAgeing d l.id) s = .next t ∧ t.store = s.store
          ∧ t.ldie l.id d = some { x with fifo := x.fifo + 1, order := s.launches.orders, aged := x.aged + 1 })
    ∧ ∀ since, x.hotSince = some since → since + 1000000 ≤ s.time + x.hotNs →
        ∃ t, exec (.placementThermalTimeout d l.id) s = .next t ∧ t.store = s.store ∧ t.ldie l.id d = some { x with skipHot := true }

/-- 14 R304, R307-R312: a task is placed on the core that 14 R309 finds. It starts from its record: PC at ENTRY, s2 at ARGS, s3 at its
index, s4 at SLOTFIRST of a slot launch and else zero, the other scalar registers, vectors, predicates and accumulators zero, h0 to h3 the local windows, its class
PCLASS, and it waits for its charge. A task that was expanded in a shadow starts with its launch. A launch all of whose tasks have
ended retires, and signals its DONE, unless lookups of it are held (01 R35). -/
def Obligations.LaunchRuns : Prop :=
  ∀ (s : State) (d : Die) (l : Launch), s.launchOf l.id = some l → let x := l.dies.get d; let r := l.raw
    (∀ sp : Spot, s.fifoOrder d = [l] → s.shadowOf l d = none → s.findPlace l d = .at [sp] →
      ∃ t, exec (.taskPlacement d) s = .next t ∧ (t.ldie l.id d).map (·.placed) = some (x.placed + 1)
        ∧ let b := t.bank sp.bank; let i := recIndex r (recTask r d.val x.placed)
          b.status = .unfunded ∧ (b.task.map (·.launch)) = some l.id ∧ b.asn = l.asn ∧ b.pc = BitVec.ofNat 64 (recEntry r)
            ∧ b.code = BitVec.ofNat 64 (recCode r) ∧ b.sreg 2 = BitVec.ofNat 64 (recArgs r) ∧ b.sreg 3 = BitVec.ofNat 64 i
            ∧ b.sreg 4 = BitVec.ofNat 64 (if l.byLehr then recSlotfirst r else 0) ∧ (∀ k, k ≠ 2 → k ≠ 3 → k ≠ 4 → b.sreg k = 0)
            ∧ b.v = Vector.replicate 64 0 ∧ b.p = Vector.replicate 16 0 ∧ b.acc = Vector.replicate 4 (Vector.replicate 12288 0)
            ∧ b.h.get 0 = localHandle b sp.bank 0 0 (recSpres r) ∧ b.h.get 1 = localHandle b sp.bank 1 0 (recMres r)
            ∧ b.h.get 2 = localHandle b sp.bank 2 0 0x4000000 ∧ b.h.get 3 = localHandle b sp.bank 3 0 0x2000000
            ∧ b.pwrCls = recPclass r ∧ b.spBase = sp.sp ∧ b.spSize = recSpres r ∧ b.mvBase = sp.mv ∧ b.mvSize = recMres r
            ∧ b.srstate ≠ 0 ∧ (∀ e, b.queue e = []) ∧ b.tok = Vector.replicate 12 0 ∧ b.kind = 0)
    ∧ (∀ n : BankId, dieOf n = d → (s.bank n).status = .shadow → (s.bank n).ofTask (·.launch) = l.id → x.st = .eligible →
        x.placed < x.tasks → (s.cores.get (coreOf n)).retired = false → ∃ t, exec (.shadowStart n) s = .next t ∧ (t.bank n).status = .unfunded ∧ (t.bank n).pc = (s.bank n).pc
          ∧ (t.bank n).s = (s.bank n).s ∧ (t.bank n).ofTask (·.started) = (if (s.bank n).task.isSome then s.time else 0)
          ∧ (t.ldie l.id d).map (·.placed) = some (x.placed + 1))
    ∧ (x.st = .placedAll → x.tasks ≤ x.ended → l.byLehr = false → s.retireHeld l d = false → ∃ t, exec (.launchRetire d l.id) s = .next t
        ∧ (t.ldie l.id d).map (·.st) = some .retired
        ∧ (recDone r = 0 → t.store = s.store)
        ∧ (∀ u, recDone r ≠ 0 → s.semSignal d l.asn (recDone r) = some u → t.store = u.store)
        ∧ (recDone r ≠ 0 → s.semSignal d l.asn (recDone r) = none → .doneFailed l.id d ∈ t.gaffer.reports))

/-! ### Queues, rings and pools (19 R405-R413; 02 R46-R50, R429) -/

/-- 14 R301, R312, 19 R405-R407, Table 19.3: what core 2 does with the entry at a mapped queue's HEAD, by its type: nothing, a launch whose
record is checked and which stands with all of its tasks placed on a die with no task of it, where LAUNCH_RETIRE then retires it (R302, R311), a
signal, which is kept until every earlier launch of the queue has retired while the entries behind it are fetched and is performed then, an error of
an unknown type or of a fault. HEAD counts up where the entry is consumed, and where that empties the queue mapping decisions follow (R408).
DOORBELL takes a tail that the ring can hold, and makes an unmapped queue pending; else the queue is in error; mapping decisions follow at
once (R408), which map the queue where it alone is pending and a slot is free. One that arrives behind a request for core 2 is kept until that is
answered (R413). CHAIN_FETCH submits the record at NEXT once. All this while no lookup that it needs is held (01 R35). -/
def Obligations.RingEntries : Prop :=
  ∀ (s : State) (q : QueueId) (c : Qcb), s.gaffer.queues.get q = some c → let u := (s.ringEntry c).1; let e := (s.ringEntry c).2
    let at' := fun (t : State) => t.gaffer.queues.get q
    let none' := s.queuesIn (fun k => k.st == .pending) = []; let calm := c.slot.isSome = true ∧ (none' ∨ c.head + 1 ≠ c.tail)
    (∀ tail, (tail - c.head).toNat ≤ 2 ^ c.parms.sizelog → s.gaffer.queueRequest = false → ∃ w k, exec (.doorbell q tail) s = .next w.mapQueues
        ∧ at' w = some k ∧ k.tail = tail ∧ k.head = c.head ∧ k.st = (if c.st = .unmapped then .pending else c.st)
        ∧ (c.slot.isSome = true → w.store = s.store)
        ∧ (c.st = .unmapped → none' → s.freeSlot.isSome = true → ∃ m, at' w.mapQueues = some m ∧ m.st = .mapped ∧ m.slot = s.freeSlot ∧ m.tail = tail))
    ∧ (∀ tail, 2 ^ c.parms.sizelog < (tail - c.head).toNat → s.gaffer.queueRequest = false → ∃ t k, exec (.doorbell q tail) s = .next t
        ∧ at' t = some k ∧ k.st = .error ∧ k.err = 1 ∧ k.tail = c.tail ∧ .queueError q ∈ t.gaffer.reports)
    ∧ (∀ tail, s.gaffer.queueRequest = true → ∃ t, exec (.doorbell q tail) s = .next t ∧ t.gaffer.bells = s.gaffer.bells ++ [(q, tail)]
        ∧ t.gaffer.queues = s.gaffer.queues ∧ t.store = s.store)
    ∧ (∀ va, e = .entry 0 va → ∃ t k, exec (.ringNop q) s = .next t ∧ at' t = some k ∧ k.head = c.head + 1 ∧ k.tail = c.tail
        ∧ (calm → t.store = u.store))
    ∧ (∀ va w bs, e = .entry 1 va → u.lookupHeld 0 c.parms.asn va 256 = false → u.agentRead 0 c.parms.asn va 256 = (w, .ok bs) →
        (∀ r, recReject (recordOf bs) false = some r → ∃ t k, exec (.launch q) s = .next t ∧ at' t = some k ∧ k.head = c.head + 1
          ∧ k.rej = r ∧ k.rejIdx = c.head ∧ t.launches = s.launches ∧ .reject (some q) r ∈ t.gaffer.reports)
        ∧ (recReject (recordOf bs) false = none → ∃ t k l, exec (.launch q) s = .next t ∧ at' t = some k ∧ k.head = c.head + 1
          ∧ t.launches.list = s.launches.list ++ [l] ∧ l.id = s.launches.next ∧ l.raw = recordOf bs ∧ l.queue = some q
          ∧ l.asn = c.parms.asn ∧ l.chain = none
          ∧ ∀ d : Die, (l.dies.get d).st = (if recHasDie l.raw d.val then if recShare l.raw d.val = 0 then .placedAll else .waiting else .off)
              ∧ (recHasDie l.raw d.val = true → (l.dies.get d).tasks = recShare l.raw d.val)))
    ∧ (∀ va, e = .entry 2 va → (∀ x ∈ c.signals.head?, s.allRetired x.2.2 = false) → ∃ t k, exec (.ringSignal q) s = .next t ∧ at' t = some k
        ∧ k.head = c.head + 1 ∧ k.tail = c.tail ∧ k.signals = c.signals ++ [(c.parms.asn, va, c.subs)] ∧ (calm → t.store = u.store))
    ∧ (∀ asn va ids rest w, c.signals = (asn, va, ids) :: rest → s.allRetired ids = true → s.lookupHeld 0 asn va 8 = false →
        s.semSignal 0 asn va = some w → ∃ t k, exec (.ringSignal q) s = .next t ∧ at' t = some k ∧ k.head = c.head ∧ k.signals = rest
          ∧ (c.slot.isSome = true → t.store = w.store))
    ∧ (∀ n va, e = .entry n va → 3 ≤ n → ∃ t k, exec (.ringUnknownType q) s = .next t ∧ at' t = some k ∧ k.st = .error ∧ k.err = 3
        ∧ k.head = c.head)
    ∧ (e = .fault → ∃ t k, exec (.ringFetchFault q) s = .next t ∧ at' t = some k ∧ k.st = .error ∧ k.err = 2 ∧ k.head = c.head)
    ∧ ∀ (l : Launch) (w : State) (bs : List Byte), s.launchOf l.id = some l → recNext l.raw ≠ 0 → l.followed = false →
        s.lookupHeld 0 l.asn (recNext l.raw) 256 = false →
        (s.modLaunch l.id fun m => { m with followed := true }).agentRead 0 l.asn (recNext l.raw) 256 = (w, .ok bs) →
        recReject (recordOf bs) false = none →
        ∃ t m, exec (.chainFetch l.id) s = .next t ∧ m ∈ t.launches.list ∧ m.id = s.launches.next ∧ m.raw = recordOf bs
          ∧ m.chain = some l.id ∧ m.asn = l.asn ∧ (t.launchOf l.id).map (·.followed) = some true

/-- 19 R405-R408, R412: QUEUE_CREATE makes an empty unmapped queue of legal parameters under a free number, changes the host fields of one
that stands unmapped or in error (Table 19.4; log entry 63), and refuses others; QUEUE_RESET
clears ERR, HEAD and TAIL; QUEUE_DESTROY ends the queue. (No doorbell waits behind the request; one that does is taken after it, R413, here for
one of the queue that QUEUE_RESET leaves with HEAD 0.) QUEUE_SCHEDULE decides where a point of every 10 µs has come (log entry 65): with
one pending queue and a free slot it maps it there, with none pending it maps nothing. Elsewhere it changes nothing. -/
def Obligations.QueueControl : Prop :=
  ∀ (s : State) (q : QueueId),
    (∀ c tail, s.gaffer.queues.get q = some c → s.gaffer.bells = [(q, tail)] → tail.toNat ≤ 2 ^ c.parms.sizelog →
      ∃ t k, exec (.queueReset q) s = .next t ∧ t.gaffer.bells = [] ∧ t.gaffer.queues.get q = some k ∧ k.head = 0 ∧ k.tail = tail ∧ k.err = 0
        ∧ (k.st = .pending ∨ k.st = .mapped))
    ∧ (s.gaffer.bells = [] →
    (∀ parms : QueueParms, let legal := 4 ≤ parms.sizelog ∧ parms.sizelog ≤ 16 ∧ parms.prio ≤ 6
        ∧ parms.ringVa.toNat % (16 * 2 ^ parms.sizelog) = 0; let had := s.gaffer.queues.get q
      (legal → had = none → ∃ t k, exec (.queueCreate q parms) s = .next t ∧ t.gaffer.queues.get q = some k ∧ k.parms = parms ∧ k.head = 0 ∧ k.tail = 0
        ∧ k.st = .unmapped ∧ k.err = 0 ∧ ∀ p, p ≠ q → t.gaffer.queues.get p = s.gaffer.queues.get p)
      ∧ (∀ c, legal → had = some c → (c.st = .unmapped ∨ c.st = .error) → ∃ t, exec (.queueCreate q parms) s = .next t
          ∧ t.gaffer.queues.get q = some { c with parms := parms } ∧ ∀ p, p ≠ q → t.gaffer.queues.get p = s.gaffer.queues.get p)
      ∧ ((¬ legal ∨ ∃ c, had = some c ∧ (c.st = .pending ∨ c.st = .mapped)) → ∃ t, exec (.queueCreate q parms) s = .next t ∧ t.gaffer.queues = s.gaffer.queues))
    ∧ (∀ c, s.gaffer.queues.get q = some c → ∃ t k, exec (.queueReset q) s = .next t ∧ t.gaffer.queues.get q = some k ∧ k.head = 0
        ∧ k.tail = 0 ∧ k.err = 0 ∧ k.st = .unmapped ∧ k.slot = none ∧ k.parms = c.parms)
    ∧ (∃ t, exec (.queueDestroy q) s = .next t ∧ t.gaffer.queues.get q = none
        ∧ ∀ p, p ≠ q → t.gaffer.queues.get p = s.gaffer.queues.get p)
    ∧ (∀ c k, s.decides = true → s.queuesIn (fun c => c.st == .pending) = [(q, c)] → s.freeSlot = some k → ∃ t, exec .queueSchedule s = .next t
        ∧ t.gaffer.queues.get q = some { c with st := .mapped, slot := some k, eff := min 6 (c.parms.prio + (s.time - c.pendSince) / 1000000)
                                                mapSince := s.time })
    ∧ (s.decides = true → s.queuesIn (fun c => c.st == .pending) = [] → ∃ t, exec .queueSchedule s = .next t ∧ t.gaffer.queues = s.gaffer.queues
        ∧ t.decides = false ∧ t.store = s.store)
    ∧ (s.decides = false → exec .queueSchedule s = .next s))

/-- 02 R46, R47, R50, R429: POOL_CREATE makes a pool with no line reserved or pinned under a number that is free on its die, with a LIMIT
that the die's storage holds and a late reserve of whole frames of the die's HBM, and its state is reported; POOL_SET_LIMIT sets LIMIT and holds R to it, and no line leaves where no more than LIMIT are pinned;
POOL_WITHDRAW of a pool with no pinned line sets LIMIT 0, and the pool ends when no leaf names it and no invalidation of its owner's
address space runs (the latter is the model's choice, log entry 65). -/
def Obligations.Pools : Prop :=
  ∀ (s : State) (d : Die) (n : BitVec 8),
    (∀ parms : PoolParms, s.store.pool d n.toNat = none → parms.limit ≤ 589824 → s.reserveOk d false parms.late64 = true →
        s.reserveOk d true parms.late256 = true → ∃ t p, exec (.poolCreate d n parms) s = .next t
        ∧ t.store.pool d n.toNat = some p ∧ p.owner = parms.owner ∧ p.limit = parms.limit ∧ p.r = 0 ∧ p.p = 0 ∧ p.late64 = parms.late64
        ∧ p.late256 = parms.late256 ∧ t.store.mem = s.store.mem
        ∧ .poolState d n parms.owner [parms.limit, 0, 0, parms.late64.length, parms.late256.length, 0, 0] ∈ t.gaffer.reports)
    ∧ (∀ parms : PoolParms, (s.store.pool d n.toNat ≠ none ∨ 589824 < parms.limit ∨ s.reserveOk d false parms.late64 = false
        ∨ s.reserveOk d true parms.late256 = false) →
        ∃ t, exec (.poolCreate d n parms) s = .next t ∧ t.store = s.store)
    ∧ ∀ p, (s.store.pools.filter fun q => q.die == d && q.num.toNat == n.toNat) = [p] →
      (∀ limit, limit ≤ 589824 → p.p ≤ limit → ∃ t, exec (.poolSetLimit d n limit) s = .next t
        ∧ t.store.pool d n.toNat = some { p with limit := limit, r := min p.r limit } ∧ t.store.mem = s.store.mem
        ∧ t.store.lines = s.store.lines)
      ∧ (p.p = 0 → ∃ t, exec (.poolWithdraw d n) s = .next t ∧ t.store.mem = s.store.mem
        ∧ t.store.pool d n.toNat = if (s.leaves.any fun r => leafU r.e && leafHome r.e == d.val && leafPool r.e == n.toNat)
            || s.xl.invals.any fun i => i.asn == p.owner then
            some { p with limit := 0, r := 0, withdrawn := true } else none)

/-! ### The fabric and time (19 R397-R404; 20 R423) -/

/-- 19 R397, R401, R402: a failed flit, which a choice picks (log entry 61), is resent from the replay buffer; a lane is shed from 4 to 2 or from 2 to 1 and restored the other
way where its errors or its use ask for it, with the flits on the wire resent, and the port runs at its new width when retrained; a time
message sets the rate by its difference, at most 100 ppm (R402 bounds the rate only; how it follows is the model's choice, log entry 31),
and 10 ms without one leave the device on its own rate, reported. -/
def Sys2Proof.Machine.saidFabricAndTime : Prop :=
  ∀ (s : State) (p : PortId), let x := s.fabric.ports.get p
    (∃ t, exec (.flitRetransmit p) s = .next t ∧ (t.fabric.ports.get p).replay = x.replay
      ∧ ∀ f, x.replay[s.choices.headD 0 % max 1 x.replay.length]? = some f →
          (t.fabric.ports.get p).resent = x.resent.filter (· != f) ++ [f])
    ∧ (s.shedDue p = true → ∃ t, exec (.laneShed p) s = .next t ∧ (t.fabric.ports.get p).goal = x.lanes / 2
        ∧ (t.fabric.ports.get p).training = true ∧ (t.fabric.ports.get p).resent = x.replay ∧ (t.fabric.ports.get p).lanes = x.lanes)
    ∧ (x.training = false → 1 < x.lanes → (x.use < 25 ∧ x.useSince + 1000000 ≤ s.time ∨ ∃ n k, s.fabric.laneLimit = some n ∧
        n < x.laneRate k s.time) → s.shedDue p = true)
    ∧ (s.shedDue p = false → exec (.laneShed p) s = .next s) ∧ (s.restoreDue p = false → exec (.laneRestore p) s = .next s)
    ∧ (x.training = false → x.lanes < 4 → 50 < x.use → ∃ t, exec (.laneRestore p) s = .next t
        ∧ (t.fabric.ports.get p).goal = x.lanes * 2 ∧ (t.fabric.ports.get p).training = true ∧ (t.fabric.ports.get p).resent = x.replay)
    ∧ (x.training = true → ∃ t, exec (.linkRetrained p) s = .next t ∧ (t.fabric.ports.get p).lanes = x.goal
        ∧ (t.fabric.ports.get p).training = false ∧ ∀ q, q ≠ p → t.fabric.ports.get q = s.fabric.ports.get q)
    ∧ (∀ m : Word, ∃ t, exec (.timeMessage m) s = .next t ∧ -100 ≤ t.fabric.rate ∧ t.fabric.rate ≤ 100 ∧ t.fabric.freeRun = false
        ∧ t.fabric.lastMessage = s.time ∧ t.time = s.time
        ∧ ((m.toNat : Int) - s.time ≤ 100 → -100 ≤ (m.toNat : Int) - s.time → t.fabric.rate = (m.toNat : Int) - s.time))
    ∧ (s.fabric.freeRun = false → s.fabric.lastMessage + 10000000 ≤ s.time → ∃ t, exec .timeSyncLoss s = .next t
        ∧ t.fabric.rate = 0 ∧ t.fabric.freeRun = true ∧ .syncLoss ∈ t.gaffer.reports)

/-- 5.4 of an access that ends in an error: its entry with the engine and TVAL is kept for when the bank goes on where a cause has cut the
bank, and is that of the bank's cut else (19 R400; 17 R358; that it is kept is log entry 57). -/
def Sys2Proof.Machine.fabricCause (s t : State) (n : BankId) (x : Entry) (e : Engine) (tval : Word) : Prop :=
  (∀ c, (s.bank n).cut = some (.cause c) → (t.bank n).failed = (s.bank n).failed ++ [(x, e, tval)] ∧ (t.bank n).cut = (s.bank n).cut
    ∧ (t.bank n).tcause = (s.bank n).tcause ∧ (t.bank n).tval = (s.bank n).tval)
  ∧ ((∀ c, (s.bank n).cut ≠ some (.cause c)) → (t.bank n).tcause = tcauseOf { group := 5, kind := 4, engine := e } ∧ (t.bank n).tval = tval
    ∧ (t.bank n).cut = some (.cause { group := 5, kind := 4, engine := e }))

/-- 19 R400: a fabric access that ends in an error takes 5.4 with its reason and the physical address of the repetition, segment or row
that failed, which a choice tells (log entry 61). For want of an acknowledgement, reason 1, an access ends only 1 ms after its own issue. An access of a
load or store fails alone: a load's writes no destination (of a VLDS that is the register of its repetition), a store's may not have been performed (a free value, log entry 4), and the rest of the
word's accesses are made as they were. A synchronising word ends without its result. Where a cause has cut the bank already, 5.4 is kept
for when it goes on (17 R358; the model's choice, log entry 57). -/
def Sys2Proof.Machine.saidFabricErrors : Prop :=
  ∀ (s : State) (n : BankId) (o : Op) (reason : Nat),
    ((s.bank n).ops.find? fun p => p.uid == o.uid && p.fabric) = some o → o.isCopy = false →
    let tval := fun (pa : Nat) => BitVec.ofNat 64 (pa % 2 ^ 48 + reason % 256 * 2 ^ 56)
    let one := fun (kept : Bool) => s.failOne o.ent true (s.choices.headD 0) reason kept o.loads o.puts
    let may := fun (k : Nat) => reason ≠ 1 ∨ ∃ t0, o.ent.since[k]? = some t0 ∧ t0 + 1000000 ≤ s.time
    let fs := (o.ent.inFlight true o.loads o.puts).map (·.2)
    let i : Instr := .fabricCompletionError n o.uid reason
    (o.ent.shape.isSome = true →
      ((∀ k ∈ fs, ¬ may k) → ∃ t, exec i s = .next t ∧ t.banks = s.banks ∧ t.store = s.store)
      ∧ ((∃ k ∈ fs, may k) → ∃ t kept ws ps late k o', exec i s = .next t
          ∧ one kept = some (ws, ps, late, k) ∧ k ∈ fs ∧ may k ∧ o' ∈ (t.bank n).ops ∧ o'.uid = o.uid ∧ o'.loads = ws ∧ o'.puts = ps
          ∧ ((∃ j, j < o.loads.length ∧ (let r := arrivalRun o.loads j; ws = o.loads.take r.1 ++ o.loads.drop (r.1 + r.2)) ∧ ps = o.puts)
            ∨ ws = o.loads ∧ ∃ j, j < o.puts.length ∧ ps = if kept then o.puts else o.puts.eraseIdx j)
          ∧ fabricCause s t n (o.accessAt k).1 o.eng (tval (o.accessAt k).2)
          ∧ (t.bank n).s = (s.bank n).s ∧ (t.bank n).v = (s.bank n).v ∧ t.store = s.store))
    ∧ (o.ent.shape = none → o.pend = false →
      (¬ may 0 → ∃ t, exec i s = .next t ∧ t.banks = s.banks ∧ t.store = s.store)
      ∧ (may 0 → ∃ t, exec i s = .next t
          ∧ fabricCause s t n (o.accessAt 0).1 o.eng (tval (o.accessAt 0).2) ∧ (∀ p ∈ (t.bank n).ops, p.uid ≠ o.uid)
          ∧ (t.bank n).s = (s.bank n).s ∧ (t.bank n).v = (s.bank n).v ∧ t.store.mem = s.store.mem))

/-- 19 R400: an access of a load or store that stands at its head, with earlier repetitions or segments in flight, fails in the same way; the
word stays at its head with the others. -/
def Sys2Proof.Machine.saidFabricHeadErrors : Prop :=
  ∀ (s : State) (n : BankId) (e : Engine) (x : Entry) (reason : Nat),
    ((s.bank n).ops.find? fun p => p.uid == x.uid && p.fabric) = none → (s.bank n).fabricHead x.uid = some (e, x) →
    let may := fun (k : Nat) => reason ≠ 1 ∨ ∃ t0, x.since[k]? = some t0 ∧ t0 + 1000000 ≤ s.time
    let fs := (x.inFlight false x.got x.puts).map (·.2); let i : Instr := .fabricCompletionError n x.uid reason
    ((∀ k ∈ fs, ¬ may k) → ∃ t, exec i s = .next t ∧ t.banks = s.banks ∧ t.store = s.store)
    ∧ ((∃ k ∈ fs, may k) → ∃ t k y, exec i s = .next t ∧ k ∈ fs ∧ may k
        ∧ (t.bank n).queue e = y :: ((s.bank n).queue e).drop 1 ∧ y.uid = x.uid ∧ y.rep = x.rep ∧ y.seg = x.seg
        ∧ (∀ w ∈ y.got, w ∈ x.got) ∧ (∀ p ∈ y.puts, p ∈ x.puts) ∧ t.store = s.store
        ∧ fabricCause s t n (x.accessAt k).1 e (BitVec.ofNat 64 ((x.accessAt k).2 % 2 ^ 48 + reason % 256 * 2 ^ 56)))

/-- Links resend, shed and restore lanes, device time follows its messages, and a fabric error is a cause (R397, R400, R401, R402). -/
def Obligations.FabricLinks : Prop := saidFabricAndTime ∧ saidFabricErrors ∧ saidFabricHeadErrors

/-- A filter with a log ring of 2^12 to 2^20 entries that lies in the die's HBM (20 R423). -/
def Sys2Proof.Machine.filterOk (d : Die) (f : FilterParms) : Prop :=
  12 ≤ f.ringLog ∧ f.ringLog ≤ 20 ∧ regionOf f.ringPa = .hbm d ∧ regionOf (f.ringPa + 16 * 2 ^ f.ringLog - 1) = .hbm d ∧ f.ringPa % 16 = 0

/-- 03 R83, 04 R109, 19 R403, R404: a commander reads HBM by physical address as it stands behind the L2s, and a write reaches HBM, and the
L2 but where it holds the line dirty (log entry 62). At an address in a hole the access stops: that is the model's choice, since the spec
gives no outcome of it (log entry 66). Another endpoint, with no page exported to it, is refused: its reads, and its writes outside the
ingress pages. 20 R423: a filter with a ring of 2^12 to 2^20
entries in the die's HBM is set; another is refused. -/
def Obligations.FabricEndpoints : Prop :=
  ∀ (s : State) (ep : EndpointId), s.filtersOff → s.store.noErrors →
    (∀ (pa : Nat) (d : Die), ep ∈ s.boot.commanders → regionOf pa = .hbm d →
      (∀ n, regionOf (pa + (n - 1)) ≠ .hole → ∃ t, exec (.fabricEndpointAccess ep (.read pa n)) s = .next t ∧ t.store = s.store
        ∧ .data ep ((List.range n).map fun k => s.store.hbm.read (pa + k)) ∈ t.gaffer.reports)
      ∧ ∀ bs, regionOf (pa + (bs.length - 1)) = .hbm d → ∃ t, exec (.fabricEndpointAccess ep (.write pa bs)) s = .next t
        ∧ (s.store.forwards = [] → s.store.mem.wf = true → s.store.hbm.wf = true →
          (∀ i, i < bs.length → t.store.hbm.read (pa + i) = bs.getD i 0)
          ∧ ∀ a, s.store.dirty.contains (a / 128) = true → t.store.mem.read a = s.store.mem.read a))
    ∧ (∀ pa, ep ∈ s.boot.commanders → regionOf pa = .hole →
        (∀ n, exec (.fabricEndpointAccess ep (.read pa n)) s = .fault .physicalHole)
        ∧ ∀ bs, exec (.fabricEndpointAccess ep (.write pa bs)) s = .fault .physicalHole)
    ∧ (ep ∉ s.boot.commanders → (∀ x ∈ s.boot.exports, x.1 ≠ ep) →
        let refused := fun (a : EpAccess) => ∃ t, exec (.fabricEndpointAccess ep a) s = .next t ∧ t.store = s.store
          ∧ .refusedAccess ep ∈ t.gaffer.reports
        (∀ pa n, refused (.read pa n))
        ∧ ∀ pa bs, (∀ d, regionOf pa = .control d → ¬ (0x400000 ≤ pa - (localBase d + 0xC0000000) ∧ pa - (localBase d + 0xC0000000) < 0x410000)) →
          refused (.write pa bs))
    ∧ ∀ (d : Die) (f : FilterParms),
        (filterOk d f → ∃ t, exec (.setTrafficFilter d f) s = .next t ∧ (t.gaffer.filters.get d).get f.idx = some f
          ∧ (t.gaffer.rings.get d).pa = f.ringPa ∧ (t.gaffer.rings.get d).log = f.ringLog)
        ∧ (¬ filterOk d f → ∃ t, exec (.setTrafficFilter d f) s = .next t ∧ t.gaffer.filters = s.gaffer.filters ∧ t.gaffer.rings = s.gaffer.rings)

/-! ### Slots and conversations (16) -/

/-- 16 R330, R332, R336: the descriptor of a stopped grid is set, and one that is not stopped is refused. A legal grid, whose template is a
launch record's address (14 R300), starts: its first
boundary is the first at least 1 ms later. A stop takes effect at a boundary after now. An open that passes its checks is pending, and
one that fails is refused; a close of an open conversation takes effect at the next boundary of its grid, or at once if the grid does
not run there. -/
def Obligations.GridsAndConversations : Prop :=
  ∀ (s : State) (g : GridId),
    (∀ t : GridDesc, ((s.grid g).started = false → (s.grid g).idle = true → ∃ u, exec (.gridConfigure g t) s = .next u
          ∧ (u.grid g).desc = some t ∧ (∀ k, k ≠ g → u.grid k = s.grid k))
        ∧ ((s.grid g).started = true → ∃ u, exec (.gridConfigure g t) s = .next u ∧ u.lehr = s.lehr))
    ∧ (∀ (t : GridDesc) (w : State) (bs : List Byte), (s.grid g).desc = some t → (s.grid g).started = false → (s.grid g).idle = true →
        gridInRange t = true → t.template.toNat % 256 = 0 → s.agentRead 0 t.asn t.template.toNat 256 = (w, .ok bs) → recReject (recordOf bs) true = none →
        ((List.finRange 4).all (w.gridDieOk g t (recordOf bs))) = true →
        ∃ u n, exec (.gridStart g) s = .next u ∧ (u.grid g).started = true ∧ (u.grid g).next = Vector.replicate 4 n
          ∧ (u.grid g).firstSlot = Vector.replicate 4 n ∧ s.time + 1000000 ≤ boundaryTime t n
          ∧ (∀ k, k < n → boundaryTime t k < s.time + 1000000))
    ∧ (∀ t : GridDesc, (s.grid g).desc = some t → (s.grid g).started = true → (s.grid g).stopping = none → 0 < t.period →
        ∃ u n, exec (.gridStop g) s = .next u ∧ (u.grid g).stopping = some n ∧ s.time < boundaryTime t n ∧ u.store = s.store)
    ∧ (∀ (m : ConvId) (va : Word) (t : GridDesc) (l v : Nat), s.openGrid m va.toNat = some (g, t, l, v) →
        ((s.sense l 256).openOk m va.toNat g t v = true → ∃ u c, exec (.convOpen m va) s = .next u ∧ c ∈ u.lehr.convs ∧ c.m = m
          ∧ c.pending = true ∧ c.isOpen = false ∧ c.grid = g ∧ c.recVa = va ∧ c.asn = t.asn)
        ∧ ((s.sense l 256).openOk m va.toNat g t v = false → ∃ u, exec (.convOpen m va) s = .next u ∧ u.lehr = s.lehr))
    ∧ ∀ (m : ConvId) (c : Conv), (s.lehr.convs.find? fun (x : Conv) => x.m == m && x.pending) = none → s.convOf m = some c → c.isOpen = true →
        ((s.grid c.grid).runsOn (homeOf m) = true → ∃ u, exec (.convClose m) s = .next u ∧ u.convOf m = some { c with closing := some 1 })
        ∧ ((s.grid c.grid).runsOn (homeOf m) = false → ∃ u, exec (.convClose m) s = .next u
          ∧ (u.convOf m).map (fun (x : Conv) => (x.isOpen, x.close)) = some (false, 1))

/-- 16 R338-R344: a grid's next boundary is run once its time has come: it is then the last one run, and the next is the one after. The one
open conversation of a grid without retract-on-miss plays its slot: a group of 80 bytes with the header of Table 16.6 goes to its EGRESS endpoint, with
the record's tokens where it is committed, the fill with the fill
mark, counted as a miss, where it is neither committed nor withdrawn; FRONTIER is then that slot. A group for the open slot that passes
the tests of 16 Table 16.7 is staged; one for another slot is late; one for no conversation is dropped. A boundary or a group whose lookups
are held waits (01 R35). -/
def Obligations.SlotBoundaries : Prop :=
  ∀ (s : State) (d : Die) (g : GridId) (t : GridDesc), let n := (s.grid g).next.get d
    ((s.grid g).desc = some t → (s.grid g).runsOn d = true → boundaryTime t n ≤ s.time → s.gridHeld g d = false → (s.grid g).stopping ≠ some n →
      ∃ u, exec (.slotBoundary d g) s = .next u ∧ (u.grid g).next.get d = n + 1 ∧ (u.grid g).last.get d = some n
        ∧ ∀ (m : ConvId) (c c1 : Conv) (s1 : State) (l : Nat), s.openConvs g d = [m] → s.convOf m = some c → c.m = m → s.closeListen c n = some (s1, c1) →
          c1.closing = none → s.filtersOff → s1.convLoc c1 (ringVa c1.speakVa n) = some l → s1.store.noErrors → t.rom = false →
          (∀ x ∈ s.lehr.convs, x.pending = false) →
          (u.convOf m).map (·.frontier) = some n
          ∧ ∃ e ∈ u.lehr.egress, e.conv = m ∧ e.endpoint = c.egress
            ∧ (c1.isCommitted 0 = true → e.bytes = groupBytes m n ((s1.store.tokens l).map (· &&& 0x01FFFFFF)))
            ∧ (c1.isCommitted 0 = false → c1.withdrawn.getLsbD 0 = false → e.bytes = groupBytes m n (t.fill.toList.map (· ||| 0x04000000))
                ∧ (u.convOf m).map (·.misses) = some (c.misses + 1)))
    ∧ ∀ grp : Ingress, let v := leNat (grp.bytes.take 16); let m : ConvId := Fin.ofNat 8192 (v % 2 ^ 13); let count := v / 2 ^ 16 % 2 ^ 5
      (s.convOf m = none → ∃ u, exec (.ingressGroup d grp) s = .next u ∧ u.lehr.dropped.get d = s.lehr.dropped.get d + 1 ∧ u.store = s.store)
      ∧ ∀ c, s.convOf m = some c → c.m = m → c.isOpen = true → homeOf m = d → c.ingress.toNat = grp.sender → s.convHeld c = false → (s.convLoc c c.recVa.toNat).isSome = true →
        (v / 2 ^ 64 % 2 ^ 64 ≠ c.frontier → ∃ u, exec (.ingressGroup d grp) s = .next u
          ∧ (u.convOf m).map (fun (x : Conv) => (x.inglate, x.staged)) = some (c.inglate + 1, c.staged))
        ∧ (v / 2 ^ 64 % 2 ^ 64 = c.frontier → c.named = false → (s.grid c.grid).desc = some t → v / 2 ^ 21 % 2 ^ 3 = 0 → v / 2 ^ 13 % 2 ^ 3 = 0 →
          v / 2 ^ 24 % 2 ^ 8 = 4 → count ≤ t.maxtok → v / 2 ^ 32 % 2 ^ 32 = 16 + 4 * count → grp.bytes.length = 16 + 4 * count →
          grp.poison = false → ((groupTokens grp.bytes count).all fun x => decide (x.toNat < 2 ^ 24)) = true →
          ∃ u, exec (.ingressGroup d grp) s = .next u
            ∧ (u.convOf m).map (fun (x : Conv) => (x.named, x.staged)) = some (true, some (groupTokens grp.bytes count)))

/-! ### Power (18) -/

/-- 18 R379, R383, R384: a request that the power core takes up is denied below F0 and above CAP, with its reason, EVPEND.FREQ set and the
standing request kept; else its class is asked for, or reached at once. The rail rises step by step before a cluster's clock rises, and
falls after it has fallen; the cluster of a raise has its new class then, but where its next change, a lowering, has begun at once. -/
def Obligations.FrequencyChanges : Prop :=
  ∀ (s : State) (d : Die),
    (∀ n : BankId, dieOf n = d → (s.diePower d).change = none → ((s.power.freqOrder.filter fun b => dieOf b == d).head? == some n) = true →
      let c := (s.clusterPower (clusterOf n)).cls; let cap := (s.diePower d).cap
      let denied := fun (why : Nat) => ∃ t, exec (.freqRequestTakeup n) s = .next t ∧ (t.bank n).freqResult = 2
        ∧ (t.bank n).freqReason = why ∧ (t.bank n).freqStand = (s.bank n).freqStand ∧ (t.bank n).freqPend = none
        ∧ (t.bank n).evpend = (s.bank n).evpend ||| 4 ∧ n ∉ t.power.freqOrder
      let taken := fun (k : Nat) => ∃ t, exec (.freqRequestTakeup n) s = .next t ∧ n ∉ t.power.freqOrder
        ∧ ((t.bank n).freqPend = some (4, k) ∨ ((t.bank n).freqResult = 1 ∧ (t.bank n).freqStand = some k ∧ (t.bank n).freqPend = none))
      (∀ k, (s.bank n).freqPend = some (1, k) → (cap < k → denied 2) ∧ (k ≤ cap → taken k))
      ∧ (∀ k, (s.bank n).freqPend = some (2, k) → (cap < c + 1 → denied 2) ∧ (c + 1 ≤ cap → taken (c + 1)))
      ∧ (∀ k, (s.bank n).freqPend = some (3, k) → (c = 0 → denied 1) ∧ (c ≠ 0 → taken (c - 1))))
    ∧ ∀ ch : Change, (s.diePower d).change = some ch → dieOfCluster ch.cluster = d →
      (ch.up = true → (s.diePower d).vdie < s.vneed d →
        (∃ t, exec (.railStep d) s = .next t ∧ (t.diePower d).vdie = (s.diePower d).vdie + 1) ∧ exec (.clockSwitchEnd d) s = .next s)
      ∧ (ch.up = true → (s.diePower d).vdie = s.vneed d → ch.switched = false →
        ∃ t, exec (.clockSwitchEnd d) s = .next t ∧ (t.diePower d).vdie = (s.diePower d).vdie
          ∧ ((t.clusterPower ch.cluster).cls = ch.target
            ∨ ∃ k, (t.diePower d).change = some k ∧ k.cluster = ch.cluster ∧ k.up = false))
      ∧ (ch.up = false → ch.switched = false → s.vneed d < (s.diePower d).vdie →
        ∃ t, exec (.clockSwitchEnd d) s = .next t ∧ (t.diePower d).change = some { ch with switched := true }
          ∧ (t.diePower d).vdie = (s.diePower d).vdie ∧ t.clusterPower ch.cluster = s.clusterPower ch.cluster)
      ∧ (ch.up = false → ch.switched = true → s.vneed d < (s.diePower d).vdie →
        ∃ t, exec (.railStep d) s = .next t ∧ (t.diePower d).vdie = (s.diePower d).vdie - 1)

/-- 18 R378, R382, R385, R386, R389-R394: samples, caps, the budget, the sensors, and the marver rail. The target of a cluster that holds a
task, for which no class is requested and no hint stands, follows its sample. Above the critical limit CAP is F0, hosts are told, and core 6
has a message. Temperatures are in quarters of a degree, the rail in 5 mV. -/
def Obligations.PowerLimits : Prop :=
  ∀ (s : State) (d : Die), let p := s.diePower d
    (∀ (c : ClusterId) (stalled busy : Nat), ∃ t, exec (.stallratioSample c stalled busy) s = .next t
        ∧ (t.clusterPower c).sample = (s.clusterPower c).sample + 1
        ∧ (t.clusterPower c).ratio = BitVec.ofNat 16 (if busy = 0 then 0 else min 0xFFFF (65536 * stalled / busy))
        ∧ (s.clusterUsed c = true → s.requestOf c = none → s.hintOf c = none → s.askedNow c = false →
            let r := if busy = 0 then 0 else min 0xFFFF (65536 * stalled / busy); let cap := (s.diePower (dieOfCluster c)).cap
            let was := (s.clusterPower c).policy
            (t.clusterPower c).target = if 0x8000 ≤ r then min was cap - 1 else if r < 0x4000 then min (was + 1) cap else min was cap))
    ∧ (∀ cap, ∃ t, exec (.boardCapChange d cap) s = .next t ∧ (t.diePower d).boardCap = min cap 7
        ∧ (min cap 7 < p.cap → (t.diePower d).cap = min cap 7))
    ∧ (∀ b, ∃ t, exec (.setBudget d b) s = .next t ∧ (t.diePower d).budget = b ∧ t.banks = s.banks)
    ∧ (∀ a b c, ∃ t, exec (.setThermalLimits d a b c) s = .next t ∧ (t.diePower d).place = a ∧ (t.diePower d).throttle = b
        ∧ (t.diePower d).critical = c ∧ (t.diePower d).cap = p.cap)
    ∧ (∀ h : HeadReq, s.grantable d = some h → dieOf h.bank = d → ∃ t, exec (.budgetGrant d) s = .next t
        ∧ (h.placement = true → (t.bank h.bank).status = .ready ∨ (t.bank h.bank).status = .running)
        ∧ (h.placement = false → (s.bank h.bank).qS ≠ [] → (t.bank h.bank).pwrCls = h.cls ∧ h ∉ (t.diePower d).heads))
    ∧ (∀ rs, let s1 := s.readSensors d rs; let hot := (List.range 72).foldl (fun m k => max m (s1.cores.get (coreAt d k)).temp) 0
        ∃ t, exec (.sensorRefresh d rs) s = .next t ∧ (∀ c : CoreId, (t.cores.get c).temp = (s1.cores.get c).temp)
          ∧ (p.critical < hot → (t.diePower d).cap = 0 ∧ .critical d ∈ t.gaffer.reports
              ∧ (criticalMsg d ∈ t.gaffer.inbox.get 6 ∨ (6, criticalMsg d) ∈ t.gaffer.senders))
          ∧ (hot ≤ p.critical → p.throttle < hot → (t.diePower d).cap = p.cap - 1)
          ∧ (hot ≤ p.critical → hot + 20 ≤ p.throttle → p.cap < p.boardCap → (t.diePower d).cap = p.cap + 1))
    ∧ (∃ t, exec (.marverRailWindow d) s = .next t ∧ (t.diePower d).corrected = 0 ∧ (t.diePower d).vmrv = p.vmrv
        ∧ (p.sp < p.corrected → p.vmrv + p.railUp < 160 → (t.diePower d).railUp = p.railUp + 1)
        ∧ (2 * p.corrected < p.sp → p.hold = true → (t.diePower d).railDown = p.railDown)
        ∧ (2 * p.corrected < p.sp → p.hold = false → 110 + p.railDown < p.vmrv → (t.diePower d).railDown = p.railDown + 1))
    ∧ (∃ t, exec (.marverRailStep d) s = .next t ∧ (p.railDown = 0 → 0 < p.railUp → (t.diePower d).vmrv = min 160 (p.vmrv + 1) ∧ (t.diePower d).railUp = p.railUp - 1)
        ∧ (0 < p.railDown → (t.diePower d).vmrv = max 110 (p.vmrv - 1) ∧ (t.diePower d).railDown = p.railDown - 1))
    ∧ (p.hold = true → p.holdFrom + 1000000000 ≤ s.time → ∃ t, exec (.undervoltHoldEnd d) s = .next t ∧ (t.diePower d).hold = false)
    ∧ (p.hold = false → p.calmFrom + 60000000000 ≤ s.time → ∃ t, exec (.setPointRestore d) s = .next t
        ∧ (t.diePower d).sp = min p.spConf (2 * p.sp))

/-! ### Debug and start-up (20) -/

/-- 20 R419-R421: HALT cuts an executing bank with 5.5.S and TVAL 0, and the bank is stopped; at a cause that awaits its answer the bank is
stopped, and a task that has not started is stopped as it starts (both the model's choice, log entry 29). Stops by STOPSEQ and BREAK are
armed, each beside the others (log entry 33), and withdrawn together (log entry 29); a match cuts the bank at the matching entry, with TVAL
1, or 2 and the index from bit 8 on, the engines in their order. A STOPSEQ that has matched is no longer armed, a BREAK stays armed: the
spec does not say it of either (log entry 33). The status word tells whether the bank is stopped, quiesced and armed. A write to a quiesced bank
writes one register; to another it is refused. A commander reads a register of a quiesced bank; another is refused. -/
def Obligations.Debugging : Prop :=
  ∀ (s : State) (n : BankId), let b := s.bank n
    let stopped := fun (t : State) (v : Word) => (t.bank n).stopped = true ∧ (t.bank n).tcause = 0x8154 ∧ (t.bank n).tval = v
      ∧ (t.bank n).cut = some (.cause { group := 5, kind := 5, engine := .S }) ∧ (t.bank n).s = b.s ∧ (t.bank n).v = b.v ∧ t.store = s.store
    (s.runs n → ∃ t, exec (.halt n) s = .next t ∧ stopped t 0)
    ∧ (b.status = .switchedOut → b.awaits = true → exec (.halt n) s = .next (s.modBank n fun x => { x with stopped := true }))
    ∧ (b.status = .unfunded → exec (.halt n) s = .next (s.modBank n fun x => { x with halt := true }))
    ∧ (∀ e q, ∃ t, exec (.stopseq n e q) s = .next t ∧ (t.bank n).stopSeq = b.stopSeq.filter (· != (e, q)) ++ [(e, q)]
        ∧ (t.bank n).brk = b.brk)
    ∧ (∀ i, ∃ t, exec (.brk n i) s = .next t ∧ (t.bank n).brk = b.brk.filter (· != i) ++ [i] ∧ (t.bank n).stopSeq = b.stopSeq)
    ∧ (∃ t, exec (.debugDisarm n) s = .next t ∧ (t.bank n).brk = [] ∧ (t.bank n).stopSeq = [] ∧ (t.bank n).s = b.s)
    ∧ (s.runs n → b.halt = true → ∃ t, exec (.debugStopMatch n) s = .next t ∧ stopped t 0 ∧ (t.bank n).halt = false)
    ∧ (s.runs n → b.halt = false → ∀ e q x, b.seqMatch = some ((e, q), x) → (e = .S ∨ b.brkMatch = none) →
        ∃ t, exec (.debugStopMatch n) s = .next t ∧ stopped t 1 ∧ (t.bank n).stopSeq = b.stopSeq.filter (· != (e, q))
          ∧ (t.bank n).tstate.toNat / 4 % 4 = e.num)
    ∧ (s.runs n → b.halt = false → ∀ x rest, b.seqAt .S = none → b.qS = x :: rest → x.idx ∈ b.brk → x.idx.toNat < 2 ^ 32 →
        ∃ t, exec (.debugStopMatch n) s = .next t ∧ stopped t (BitVec.ofNat 64 (2 + x.idx.toNat * 2 ^ 8)) ∧ (t.bank n).brk = b.brk)
    ∧ ((s.saves.all fun p => p.1 != n.val) = true → ∃ t, exec (.status n) s = .next t ∧ t.banks = s.banks
        ∧ t.gaffer.status.getLsbD 0 = b.stopped ∧ t.gaffer.status.getLsbD 1 = b.quiesced
        ∧ t.gaffer.status.getLsbD 2 = (!b.stopSeq.isEmpty || !b.brk.isEmpty))
    ∧ (b.quiesced = true → b.status ≠ .preempted → (∀ r x, ∃ t, exec (.debugWrite n (.sreg r x)) s = .next t ∧ (∀ k, (t.bank n).sreg k = if k = r ∧ r ≠ 0 then x else b.sreg k)
          ∧ (t.bank n).v = b.v ∧ t.store = s.store)
        ∧ ∀ (r : BitVec 6) x, ∃ t, exec (.debugWrite n (.vreg r x)) s = .next t ∧ (∀ k, (t.bank n).v.get k = if k = r.toFin then x else b.v.get k)
          ∧ (t.bank n).s = b.s ∧ t.store = s.store)
    ∧ (b.quiesced = true → ∀ ep r, let t := s.debugRead ep n (.sreg r)
        (ep ∈ s.boot.commanders → .debugValue n (.sreg r) (.word (b.sreg r).toNat) ∈ t.gaffer.reports)
          ∧ (ep ∉ s.boot.commanders → .refusedAccess ep ∈ t.gaffer.reports))
    ∧ (b.quiesced = false → (s.saves.all fun p => p.1 != n.val) = true → ∀ w, ∃ t, exec (.debugWrite n w) s = .next t ∧ t.banks = s.banks ∧ t.store = s.store)

/-- 20 R424-R427, Table 20.8: a start that passes every step is ready with its failure count 0; one that fails keeps its reason and counts;
after three failures a start ends in minimal mode, where an image may be written and one full start asked for, and whose reason is
reported. A start without an end in 2 s fails with reason 7, and that it counts then is the model's choice (log entry 52); it was the one start
that a fault of the gaffer memories marked (Table 20.1). A start that a
fault of the gaffer memories makes count as failed keeps the count (Table 20.1; log entry 34). When power is lost the device is off, the
image and the count are kept, no commander is left, and banks, memory and launches are as at reset: the spec says what is kept, and that
all else is as at reset is the model's choice (log entry 34). -/
def Obligations.StartUp : Prop :=
  ∀ (s : State) (env : StartEnv), let o := s.boot
    (o.mode = .off → o.fails < 3 → ∃ t, exec (.deviceStart env) s = .next t
        ∧ (startFailure o.image env = none ∧ t.boot.mode = .ready ∧ t.boot.fails = (if o.failNext then o.fails + 1 else 0)
            ∧ t.boot.commanders = [] ∧ .ready ∈ t.gaffer.reports
          ∨ ∃ r, startFailure o.image env = some r ∧ t.boot.mode = .off ∧ t.boot.fails = o.fails + 1 ∧ t.boot.reason = r))
    ∧ (o.mode = .off → 3 ≤ o.fails → ∃ t, exec (.deviceStart env) s = .next t ∧ t.boot.mode = .minimal
        ∧ .startFailed t.boot.reason ∈ t.gaffer.reports)
    ∧ (o.mode = .off → ∃ t, exec .startWatchdog s = .next t ∧ t.boot.fails = o.fails + 1 ∧ t.boot.reason = 7 ∧ t.boot.mode = .off
        ∧ t.boot.failNext = false)
    ∧ (o.mode = .minimal → (∀ img, ∃ t, exec (.writeImage img) s = .next t ∧ t.boot.image = some img ∧ t.boot.fails = o.fails)
        ∧ ∃ t, exec .fullStart s = .next t ∧ t.boot.mode = .starting)
    ∧ (o.mode ≠ .minimal → (∀ img, ∃ t, exec (.writeImage img) s = .next t ∧ t.boot = s.boot)
        ∧ ∃ t, exec .fullStart s = .next t ∧ t.boot = s.boot)
    ∧ ∃ t, exec .powerLoss s = .next t ∧ t.boot.mode = .off ∧ t.boot.image = o.image ∧ t.boot.fails = o.fails ∧ t.boot.commanders = []
        ∧ t.banks = State.reset.banks ∧ t.store = State.reset.store ∧ t.launches = State.reset.launches

/-- 20 R427, R428: in normal running the device signs a host's nonce, with the hashes of what runs and TIME, and answers with all of them and
a nonce of its own; a signature of that nonce by a key of the image's list grants commander rights, and another is refused and counted; a
release ends them. Elsewhere an attestation is refused. -/
def Obligations.Commanders : Prop :=
  ∀ (s : State) (h : EndpointId),
    (∀ nonce m, s.boot.mode = .ready → s.boot.image = some m → ∃ t, exec (.attest h nonce) s = .next t
        ∧ ({ host := h, hashes := attestHashes m, nonce := nonce, time := s.time
             sig := Config.edSign s.boot.seed (Config.sha512 (attestMessage m nonce s.time)) } : Attested) ∈ t.boot.attested
        ∧ (t.boot.nonces.find? fun p => p.1 == h) = some (h, Config.deviceNonce s.boot.nonceNext) ∧ t.boot.commanders = s.boot.commanders)
    ∧ (∀ nonce, s.boot.mode ≠ .ready → ∃ t, exec (.attest h nonce) s = .next t ∧ t.boot = s.boot ∧ .refused 4 ∈ t.gaffer.reports)
    ∧ (∀ (sig : BitVec 512) n m, (s.boot.nonces.find? fun p => p.1 == h) = some (h, n) → s.boot.image = some m → s.boot.mode = .ready →
        let good := m.commanders.any fun k => Config.edVerify k (leBytes 32 n.toNat) sig
        ∃ t, exec (.commanderSignature h sig) s = .next t
          ∧ (good = true ∧ h ∈ t.boot.commanders ∧ t.boot.badSigs = s.boot.badSigs ∧ (∀ p ∈ t.boot.nonces, p.1 ≠ h)
            ∨ good = false ∧ t.boot.commanders = s.boot.commanders ∧ t.boot.badSigs = s.boot.badSigs + 1
              ∧ .refused 4 ∈ t.gaffer.reports))
    ∧ ∃ t, exec (.commanderRelease h) s = .next t ∧ h ∉ t.boot.commanders ∧ ∀ k, k ≠ h → (k ∈ t.boot.commanders ↔ k ∈ s.boot.commanders)

/-! ### Memory, reset, decoding and the step -/

/-- The bytes at `l` to `l + n` are at consecutive resolved places that a write performs on: all below the unbacked lines, or in
pinned ones (02 R43, R65). -/
def Sys2Proof.Machine.Store.writable (st : Store) (l n : Nat) : Prop :=
  (∀ i, i < n → st.resolve (l + i) = st.resolve l + i)
    ∧ (st.resolve l + n ≤ 2 ^ 48 ∨ (2 ^ 48 ≤ st.resolve l ∧ ∀ x ∈ linesOf (st.resolve l) n, st.lineSt x = some .pinned))

/-- 03 R66, R67, R79, R80: a write of an agent of die `d` is performed at its point of coherence: there and for every agent of `d` its
bytes read back, and every byte outside it reads as before, for every die. A remote copy that another die holds valid keeps its
bytes. -/
def Obligations.MemoryReadsBack : Prop :=
  ∀ (st : Store) (d : Die) (l : Nat) (bs : List Byte), st.mem.wf = true → st.writable l bs.length → let t := st.put d l bs
    (∀ i, i < bs.length → t.viewByte d (l + i) = bs.getD i 0 ∧ t.homeByte (l + i) = bs.getD i 0)
    ∧ (∀ a, (st.resolve a < st.resolve l ∨ st.resolve l + bs.length ≤ st.resolve a) →
        t.homeByte a = st.homeByte a ∧ ∀ e, t.viewByte e a = st.viewByte e a)
    ∧ ∀ e a, e ≠ d → remoteHomed e (st.resolve a) = true → (st.copyOf e (st.resolve a / 128)).isSome = true →
        t.viewByte e a = st.viewByte e a

/-- The control registers that a bank reads as 0 at reset by 09 Tables 9.5 and 9.6, 13 and 17: ENGCYC, EVPEND, RBV, RBP, the stream
counts, MSTAT, MERRLOG, FQDEPTH, FREQREQ, TCAUSE, TVAL, TSTATE, TVEC, TSAVE, QXSTALL, the bank-conflict rows and the snapshot. -/
def Sys2Proof.Machine.zeroAtReset : List (BitVec 13) :=
  [0x021, 0x022, 0x030, 0x031, 0x040, 0x041, 0x042, 0x043, 0x044, 0x045, 0x046, 0x047, 0x048, 0x049, 0x04A, 0x04B, 0x04C, 0x04D, 0x04E,
   0x04F, 0x060, 0x061, 0x062, 0x082, 0x0C0, 0x0C1, 0x0C2, 0x0C3, 0x0C4, 0x0E0, 0x0E1, 0x0E2, 0x0E3, 0x0E4, 0x0E5, 0x0E6, 0x0E7, 0x0E8,
   0x0E9]

/-- 09 Tables 9.5, 9.6, 20 R422 and what chapters 4, 7, 13, 17 and 18 give as reset values: each listed control register of every bank
reads 0, the matrix of every core is zero, and every read-only identity register gives the place of its bank. No bank holds a task and no
launch, grid, conversation or queue is there. That scalar, vector, predicate and layout registers and the accumulators hold zero and that
TIME is 0 are the model's choices (log entry 1), as are the memory that lists nothing (log entry 2) and the empty agenda (log entry 3). -/
def Obligations.ResetState : Prop :=
  (∀ (n : BankId), ∀ cr ∈ zeroAtReset, State.reset.creg n cr = some 0)
  ∧ (∀ (c : CoreId) (k : Fin 8) (j : Fin 32), ((State.reset.cores.get c).bcm.get k).get j = 0)
  ∧ (∀ n : BankId, State.reset.creg n 0x001 = some (BitVec.ofNat 64 (n.val / 144)) ∧ State.reset.creg n 0x002 = some (BitVec.ofNat 64 (n.val / 16 % 9))
      ∧ State.reset.creg n 0x003 = some (BitVec.ofNat 64 (n.val / 2 % 8)) ∧ State.reset.creg n 0x004 = some (BitVec.ofNat 64 (n.val % 2)))
  ∧ (∀ n : BankId, (State.reset.bank n).status = .free ∧ (State.reset.bank n).task = none ∧ (∀ r, (State.reset.bank n).sreg r = 0)
      ∧ (State.reset.bank n).v = Vector.replicate 64 0 ∧ (State.reset.bank n).p = Vector.replicate 16 0
      ∧ (State.reset.bank n).y = Vector.replicate 8 (Vector.replicate 24 0)
      ∧ (State.reset.bank n).acc = Vector.replicate 4 (Vector.replicate 12288 0) ∧ (∀ e, (State.reset.bank n).queue e = []))
  ∧ State.reset.store.mem = [] ∧ State.reset.store.mem.wf = true ∧ State.reset.store.hbm.wf = true
  ∧ State.reset.launches.list = [] ∧ State.reset.lehr.convs = [] ∧ (∀ g, (State.reset.grid g).desc = none)
  ∧ (∀ q, State.reset.gaffer.queues.get q = none) ∧ State.reset.agenda = [] ∧ State.reset.time = 0

/-- What the caches and the HBM hold is in the canonical form: addresses strictly rising, no listed byte 0. -/
def Sys2Proof.Machine.State.canonical (s : State) : Prop := s.store.mem.wf = true ∧ s.store.hbm.wf = true

/-- The canonical form of memory is an invariant of every step, whatever the agenda brings: a word, a copy row, a lost line, a moved
page, a host's access or a power loss. The form is the model's own (log entry 2). -/
def Obligations.MemoryStaysCanonical : Prop := ∀ s t : State, s.canonical → step s = .next t → t.canonical

/-- 07 R153, R158, R161: the decoder and the encoder agree. The word of every well-formed instruction decodes to it, and whatever a word
decodes to is well formed and has that word: no bit of an encoding is dropped. -/
def Obligations.EncodeDecode : Prop :=
  (∀ (i : Instr) (w : IWord), i.wf = true → encode i = some w → decode w = .ok i)
  ∧ ∀ (w : IWord) (i : Instr), decode w = .ok i → i.wf = true ∧ encode i = some w

/-- Words whose bits the chapters of the spec print, with what they stand for (09 Table 9.2, R205-R219; 10 Tables 10.2, 10.5; 11
R248; 12 R264, Table 12.3). -/
def Sys2Proof.Machine.printedWords : List (IWord × Instr) :=
  [(0x00094C700000, .add { sy := { pop := 0, push := 0 }, rd := 5, ra := 6, rb := 7 }),
   (0x00A14C00000C, .addi { sy := { pop := 0, push := 0 }, rd := 5, ra := 6, imm := 12 }),
   (0x00E940000001, .lih { sy := { pop := 0, push := 0 }, rd := 5, imm := 1 }),
   (0x00F18FFFFFFC, .beq { sy := { pop := 0, push := 0 }, ra := 6, rb := 7, off := -4 }),
   (0x01204000000A, .jal { sy := { pop := 0, push := 0 }, rd := 1, off := 10 }),
   (0x013307FFFFFB, .loopb { sy := { pop := 0, push := 0 }, counter := 12, m := 1, off := -5 }),
   (0x01480C0C3000, .cwr { sy := { pop := 0, push := 0 }, ra := 6, cr := 0x0C3 }),
   (0x0182A1280000, .hlocal { sy := { pop := 0, push := 0 }, hd := 5, base := 8, ext := 9, win := 2 }),
   (0x019A69C00000, .yset { sy := { pop := 0, push := 0 }, y := 2, field := 13, s := 7 }),
   (0x403100210C32, .ldd { sy := { pop := 0, push := 0 }, od := { stream := 1, mask := 0 }, reg := 8, h := 4, idx := 6, rep := 3, step := 2 }),
   (0xC07A02010C74, .semsig { sy := { pop := 0, push := 0 }, od := { stream := 2, mask := 2 }, h := 4, idx := 6, opnd := 7, scope := 2 }),
   (0x44490068A5B1, .cpin { sy := { pop := 0, push := 2 }, od := { stream := 1, mask := 0 }, y := 3, h := 4, loc := 10, org := 11, mc := 12, lvl := 1 }),
   (0x800026010000, .vldl { sy := { pop := 0, push := 0 }, v := 1, sa := 6, off := 4, rep := 0, step := 0 })]

/-- Every printed word decodes to the instruction that the spec prints beside it. -/
def Obligations.DecodesWords : Prop := ∀ p ∈ printedWords, decode p.1 = .ok p.2

/-- The turn of core `c` has come: nothing stands in the agenda, and after the step's time has passed no agent before it in the
rotation has anything to do, no bank of it that does not execute has an event, its bank `n` executes, and no error of a fabric access
waits there to be raised. `u` is the state of that turn (log entry 3). -/
structure Sys2Proof.Machine.State.turnOf (s : State) (c : CoreId) (n : BankId) (u : State) : Prop where
  agenda : s.agenda = []
  first : (s.tick s.pace).turn.val = c.val
  state : u = { s.tick s.pace with turn := Fin.ofNat 289 (c.val + 1) }
  quiet : u.idleDue c = none
  runs : ∃ k, (u.cores.get c).run = some k ∧ n = bankAt c k
  noneFailed : (u.bank n).failed = []

/-- 07 R153, R160, R162: in the turn of a bank's dispatcher, the six bytes that the fetch reads at the bank's PC decode to an
instruction; where its queue is empty and it may be dispatched, the step is that instruction's `exec`, in the state in which its bytes
have been read (03 R79, R85). In the turn of an engine, the step is `exec` of the instruction at its queue's head, taken from the queue,
the single-bit errors that the engine meets in the bank's state corrected and counted (03 R84); where it meets an uncorrectable one (03
R90; 17 R354, R355) the entry stays and the bank is cut with 5.3.e. That an error is met at the head of the engine's turn is the model's
choice (log entry 60), as is the order of the turns (log entry 3). -/
def Obligations.StepRuns : Prop :=
  (∀ (s u : State) (c : CoreId) (n : BankId) (w : IWord) (i : Instr), s.turnOf c n u → (u.bank n).slot = .dispatch →
    let v := u.modBank n fun x => { x with slot := .S }
    v.fetch n (v.bank n).pc = .word w → decode w = .ok i → ((v.bank n).ofDet && isAfadd i) = false → (v.bank n).dispatches = true →
    (v.bank n).canDispatch (.word i) = true → (v.bank n).issuesAtOnce (.word i) = true →
    step s = exec i { v.fetched n with cur := n, active := none })
  ∧ ∀ (s u : State) (c : CoreId) (n : BankId) (e : Engine) (k : Slot) (x : Entry) (rest : List Entry), s.turnOf c n u →
    (k, e) ∈ [(Slot.S, Engine.S), (.L, .L), (.C, .C), (.W, .W)] → (u.bank n).slot = k →
    let v := u.modBank n fun x => { x with slot := k.next }; let w := v.correctUpsets n e
    (v.bank n).takes = true → (v.bank n).stopDue = false → (v.bank n).queue e = x :: rest →
    (∀ i, ((v.bank n).upset.all fun q => q.1 != e) = true → x.what = .word i →
      step s = exec i { v.setBank n ((v.bank n).setQueue e rest) with cur := n, active := some x })
    ∧ (∀ i, (w.bank n).takes = true → (w.bank n).stopDue = false → (w.bank n).queue e = x :: rest →
      ((w.bank n).upset.all fun q => q.1 != e) = true → x.what = .word i →
      step s = exec i { w.setBank n ((w.bank n).setQueue e rest) with cur := n, active := some x })
    ∧ ∀ q, ((v.bank n).upset.find? fun q => q.1 == e) = some q → (∀ p ∈ (v.bank n).upset, p.1 = e → p.2.2 = false) →
      ∃ t, step s = .next t ∧ (t.bank n).queue e = x :: rest ∧ (t.bank n).tcause = tcauseOf { group := 5, kind := 3, engine := e }
        ∧ (t.bank n).tval = q.2.1 ∧ (t.bank n).cut = some (.cause { group := 5, kind := 3, engine := e })

/-- The first and the last byte of an endpoint's access. -/
def Sys2Proof.Machine.endsOf : EpAccess → Nat × Nat
  | .read p n => (p, p + (n - 1))
  | .write p bs => (p, p + (bs.length - 1))

/-- No instruction is refused, and only an access by physical address that begins or ends in a hole of the physical map (01 R14) stops the
machine; an access of a commander there always does. That stop is the model's choice: 19 R403 gives no outcome of such an access (log entry
66). -/
def Obligations.OnlyHolesStop : Prop :=
  (∀ (i : Instr) (s : State) (r : Refusal), exec i s ≠ .refused r)
  ∧ (∀ (i : Instr) (s : State) (f : Fault), exec i s = .fault f →
      f = .physicalHole ∧ ∃ ep a, i = .fabricEndpointAccess ep a ∧ (regionOf (endsOf a).1 = .hole ∨ regionOf (endsOf a).2 = .hole))
  ∧ ∀ (s : State) (ep : EndpointId) (a : EpAccess), s.boot.commanders.contains ep = true →
      (regionOf (endsOf a).1 = .hole ∨ regionOf (endsOf a).2 = .hole) → exec (.fabricEndpointAccess ep a) s = .fault .physicalHole
end

