-- ==== Sys2Proof/Laws/Decode.lean ====
section
/-! SUPPORT. The fields of an instruction word: what a format lays out, it reads back, with its zero fields zero and its raw fields
in range. -/

set_option linter.unusedSimpArgs false
set_option linter.unusedTactic false
set_option linter.unreachableTactic false
set_option linter.unnecessarySeqFocus false

namespace Sys2Proof

/-- An element type is read back from its code. -/
theorem VTy.ofBits_bits (t : VTy) : VTy.ofBits t.bits = t := by cases t <;> rfl

/-- A code is the code of the type it is read as. -/
theorem VTy.bits_ofBits (b : BitVec 3) : (VTy.ofBits b).bits = b := by
  revert b; decide

/-- A field in the low part of a concatenation. -/
theorem extract_append_lo {n m : Nat} (s l : Nat) (x : BitVec n) (y : BitVec m) (h : s + l ≤ m) :
    (x ++ y).extractLsb' s l = y.extractLsb' s l := by
  ext i hi
  simp [BitVec.getElem_append]
  rw [BitVec.getLsbD_append]
  simp [show s + i < m by omega]

/-- A field in the high part of a concatenation. -/
theorem extract_append_hi {n m : Nat} (s l : Nat) (x : BitVec n) (y : BitVec m) (h : m ≤ s) :
    (x ++ y).extractLsb' s l = x.extractLsb' (s - m) l := by
  ext i hi
  simp
  rw [BitVec.getLsbD_append]
  simp [show ¬ s + i < m by omega, show s + i - m = s - m + i by omega]

/-- A word is its own whole field. -/
theorem extract_whole {n : Nat} (x : BitVec n) : x.extractLsb' 0 n = x := by
  ext i hi; simp [hi]

/-- Ordering fields are equal when their parts are. -/
theorem Ord.mk_eq {a : BitVec 3} {b : BitVec 8} (o : Ord) (ha : a = o.stream) (hb : b = o.mask) : Ord.mk a b = o := by
  subst ha hb; rfl

/-- One bit laid out is read back. -/
theorem bit_read {x : BitVec 1} {b : Bool} (h : x = bit b) : (x == 1) = b := by
  subst h; cases b <;> rfl

/-- Two neighbouring fields are one field. -/
theorem extract_join {n : Nat} (s k l : Nat) (f : BitVec n) :
    f.extractLsb' (s + l) k ++ f.extractLsb' s l = f.extractLsb' s (k + l) := by
  ext i hi
  simp only [BitVec.getElem_append, BitVec.getElem_extractLsb']
  split
  · rfl
  · congr 1; omega

/-- A field of zeros is zero. -/
theorem extract_zero (n s l : Nat) : (BitVec.extractLsb' s l (0#n)) = 0#l := by
  ext i hi; simp

/-! ### The formats (07 Tables 7.2-7.4) -/

theorem S0.read_bits (a : S0) : S0.read a.sy a.bits = { val := a, zero := true, range := true } := by
  obtain ⟨⟩ := a
  simp only [S0.read, S0.bits, ordOf, Parsed.mk.injEq, S0.mk.injEq, Ord.mk.injEq, beq_iff_eq, Bool.and_eq_true, true_and, and_true]
  and_intros <;> repeat (first
    | rfl | exact extract_whole _ | exact extract_zero _ _ _
    | refine Ord.mk_eq _ ?_ ?_ | refine bit_read ?_
    | refine (congrArg VTy.ofBits ?_).trans (VTy.ofBits_bits _)
    | refine (extract_append_lo _ _ _ _ (by omega)).trans ?_ | refine (extract_append_hi _ _ _ _ (by omega)).trans ?_)

theorem SRrr.read_bits (a : SRrr) : SRrr.read a.sy a.bits = { val := a, zero := true, range := true } := by
  obtain ⟨⟩ := a
  simp only [SRrr.read, SRrr.bits, ordOf, Parsed.mk.injEq, SRrr.mk.injEq, Ord.mk.injEq, beq_iff_eq, Bool.and_eq_true, true_and, and_true]
  and_intros <;> repeat (first
    | rfl | exact extract_whole _ | exact extract_zero _ _ _
    | refine Ord.mk_eq _ ?_ ?_ | refine bit_read ?_
    | refine (congrArg VTy.ofBits ?_).trans (VTy.ofBits_bits _)
    | refine (extract_append_lo _ _ _ _ (by omega)).trans ?_ | refine (extract_append_hi _ _ _ _ (by omega)).trans ?_)

theorem SRr.read_bits (a : SRr) : SRr.read a.sy a.bits = { val := a, zero := true, range := true } := by
  obtain ⟨⟩ := a
  simp only [SRr.read, SRr.bits, ordOf, Parsed.mk.injEq, SRr.mk.injEq, Ord.mk.injEq, beq_iff_eq, Bool.and_eq_true, true_and, and_true]
  and_intros <;> repeat (first
    | rfl | exact extract_whole _ | exact extract_zero _ _ _
    | refine Ord.mk_eq _ ?_ ?_ | refine bit_read ?_
    | refine (congrArg VTy.ofBits ?_).trans (VTy.ofBits_bits _)
    | refine (extract_append_lo _ _ _ _ (by omega)).trans ?_ | refine (extract_append_hi _ _ _ _ (by omega)).trans ?_)

theorem SRa.read_bits (a : SRa) : SRa.read a.sy a.bits = { val := a, zero := true, range := true } := by
  obtain ⟨⟩ := a
  simp only [SRa.read, SRa.bits, ordOf, Parsed.mk.injEq, SRa.mk.injEq, Ord.mk.injEq, beq_iff_eq, Bool.and_eq_true, true_and, and_true]
  and_intros <;> repeat (first
    | rfl | exact extract_whole _ | exact extract_zero _ _ _
    | refine Ord.mk_eq _ ?_ ?_ | refine bit_read ?_
    | refine (congrArg VTy.ofBits ?_).trans (VTy.ofBits_bits _)
    | refine (extract_append_lo _ _ _ _ (by omega)).trans ?_ | refine (extract_append_hi _ _ _ _ (by omega)).trans ?_)

theorem SImm.read_bits (a : SImm) : SImm.read a.sy a.bits = { val := a, zero := true, range := true } := by
  obtain ⟨⟩ := a
  simp only [SImm.read, SImm.bits, ordOf, Parsed.mk.injEq, SImm.mk.injEq, Ord.mk.injEq, beq_iff_eq, Bool.and_eq_true, true_and, and_true]
  and_intros <;> repeat (first
    | rfl | exact extract_whole _ | exact extract_zero _ _ _
    | refine Ord.mk_eq _ ?_ ?_ | refine bit_read ?_
    | refine (congrArg VTy.ofBits ?_).trans (VTy.ofBits_bits _)
    | refine (extract_append_lo _ _ _ _ (by omega)).trans ?_ | refine (extract_append_hi _ _ _ _ (by omega)).trans ?_)

theorem SShift.read_bits (a : SShift) : SShift.read a.sy a.bits = { val := a, zero := true, range := true } := by
  obtain ⟨⟩ := a
  simp only [SShift.read, SShift.bits, ordOf, Parsed.mk.injEq, SShift.mk.injEq, Ord.mk.injEq, beq_iff_eq, Bool.and_eq_true, true_and, and_true]
  and_intros <;> repeat (first
    | rfl | exact extract_whole _ | exact extract_zero _ _ _
    | refine Ord.mk_eq _ ?_ ?_ | refine bit_read ?_
    | refine (congrArg VTy.ofBits ?_).trans (VTy.ofBits_bits _)
    | refine (extract_append_lo _ _ _ _ (by omega)).trans ?_ | refine (extract_append_hi _ _ _ _ (by omega)).trans ?_)

theorem SLi.read_bits (a : SLi) : SLi.read a.sy a.bits = { val := a, zero := true, range := true } := by
  obtain ⟨⟩ := a
  simp only [SLi.read, SLi.bits, ordOf, Parsed.mk.injEq, SLi.mk.injEq, Ord.mk.injEq, beq_iff_eq, Bool.and_eq_true, true_and, and_true]
  and_intros <;> repeat (first
    | rfl | exact extract_whole _ | exact extract_zero _ _ _
    | refine Ord.mk_eq _ ?_ ?_ | refine bit_read ?_
    | refine (congrArg VTy.ofBits ?_).trans (VTy.ofBits_bits _)
    | refine (extract_append_lo _ _ _ _ (by omega)).trans ?_ | refine (extract_append_hi _ _ _ _ (by omega)).trans ?_)

theorem SBr.read_bits (a : SBr) : SBr.read a.sy a.bits = { val := a, zero := true, range := true } := by
  obtain ⟨⟩ := a
  simp only [SBr.read, SBr.bits, ordOf, Parsed.mk.injEq, SBr.mk.injEq, Ord.mk.injEq, beq_iff_eq, Bool.and_eq_true, true_and, and_true]
  and_intros <;> repeat (first
    | rfl | exact extract_whole _ | exact extract_zero _ _ _
    | refine Ord.mk_eq _ ?_ ?_ | refine bit_read ?_
    | refine (congrArg VTy.ofBits ?_).trans (VTy.ofBits_bits _)
    | refine (extract_append_lo _ _ _ _ (by omega)).trans ?_ | refine (extract_append_hi _ _ _ _ (by omega)).trans ?_)

theorem SJal.read_bits (a : SJal) : SJal.read a.sy a.bits = { val := a, zero := true, range := true } := by
  obtain ⟨⟩ := a
  simp only [SJal.read, SJal.bits, ordOf, Parsed.mk.injEq, SJal.mk.injEq, Ord.mk.injEq, beq_iff_eq, Bool.and_eq_true, true_and, and_true]
  and_intros <;> repeat (first
    | rfl | exact extract_whole _ | exact extract_zero _ _ _
    | refine Ord.mk_eq _ ?_ ?_ | refine bit_read ?_
    | refine (congrArg VTy.ofBits ?_).trans (VTy.ofBits_bits _)
    | refine (extract_append_lo _ _ _ _ (by omega)).trans ?_ | refine (extract_append_hi _ _ _ _ (by omega)).trans ?_)

theorem SLoop.read_bits (a : SLoop) : SLoop.read a.sy a.bits = { val := a, zero := true, range := true } := by
  obtain ⟨⟩ := a
  simp only [SLoop.read, SLoop.bits, ordOf, Parsed.mk.injEq, SLoop.mk.injEq, Ord.mk.injEq, beq_iff_eq, Bool.and_eq_true, true_and, and_true]
  and_intros <;> repeat (first
    | rfl | exact extract_whole _ | exact extract_zero _ _ _
    | refine Ord.mk_eq _ ?_ ?_ | refine bit_read ?_
    | refine (congrArg VTy.ofBits ?_).trans (VTy.ofBits_bits _)
    | refine (extract_append_lo _ _ _ _ (by omega)).trans ?_ | refine (extract_append_hi _ _ _ _ (by omega)).trans ?_)

theorem SCrd.read_bits (a : SCrd) : SCrd.read a.sy a.bits = { val := a, zero := true, range := true } := by
  obtain ⟨⟩ := a
  simp only [SCrd.read, SCrd.bits, ordOf, Parsed.mk.injEq, SCrd.mk.injEq, Ord.mk.injEq, beq_iff_eq, Bool.and_eq_true, true_and, and_true]
  and_intros <;> repeat (first
    | rfl | exact extract_whole _ | exact extract_zero _ _ _
    | refine Ord.mk_eq _ ?_ ?_ | refine bit_read ?_
    | refine (congrArg VTy.ofBits ?_).trans (VTy.ofBits_bits _)
    | refine (extract_append_lo _ _ _ _ (by omega)).trans ?_ | refine (extract_append_hi _ _ _ _ (by omega)).trans ?_)

theorem SCwr.read_bits (a : SCwr) : SCwr.read a.sy a.bits = { val := a, zero := true, range := true } := by
  obtain ⟨⟩ := a
  simp only [SCwr.read, SCwr.bits, ordOf, Parsed.mk.injEq, SCwr.mk.injEq, Ord.mk.injEq, beq_iff_eq, Bool.and_eq_true, true_and, and_true]
  and_intros <;> repeat (first
    | rfl | exact extract_whole _ | exact extract_zero _ _ _
    | refine Ord.mk_eq _ ?_ ?_ | refine bit_read ?_
    | refine (congrArg VTy.ofBits ?_).trans (VTy.ofBits_bits _)
    | refine (extract_append_lo _ _ _ _ (by omega)).trans ?_ | refine (extract_append_hi _ _ _ _ (by omega)).trans ?_)

theorem STrap.read_bits (a : STrap) : STrap.read a.sy a.bits = { val := a, zero := true, range := true } := by
  obtain ⟨⟩ := a
  simp only [STrap.read, STrap.bits, ordOf, Parsed.mk.injEq, STrap.mk.injEq, Ord.mk.injEq, beq_iff_eq, Bool.and_eq_true, true_and, and_true]
  and_intros <;> repeat (first
    | rfl | exact extract_whole _ | exact extract_zero _ _ _
    | refine Ord.mk_eq _ ?_ ?_ | refine bit_read ?_
    | refine (congrArg VTy.ofBits ?_).trans (VTy.ofBits_bits _)
    | refine (extract_append_lo _ _ _ _ (by omega)).trans ?_ | refine (extract_append_hi _ _ _ _ (by omega)).trans ?_)

theorem SWait.read_bits (a : SWait) : SWait.read a.sy a.bits = { val := a, zero := true, range := true } := by
  obtain ⟨⟩ := a
  simp only [SWait.read, SWait.bits, ordOf, Parsed.mk.injEq, SWait.mk.injEq, Ord.mk.injEq, beq_iff_eq, Bool.and_eq_true, true_and, and_true]
  and_intros <;> repeat (first
    | rfl | exact extract_whole _ | exact extract_zero _ _ _
    | refine Ord.mk_eq _ ?_ ?_ | refine bit_read ?_
    | refine (congrArg VTy.ofBits ?_).trans (VTy.ofBits_bits _)
    | refine (extract_append_lo _ _ _ _ (by omega)).trans ?_ | refine (extract_append_hi _ _ _ _ (by omega)).trans ?_)

theorem SXlate.read_bits (a : SXlate) : SXlate.read a.sy a.bits = { val := a, zero := true, range := true } := by
  obtain ⟨⟩ := a
  simp only [SXlate.read, SXlate.bits, ordOf, Parsed.mk.injEq, SXlate.mk.injEq, Ord.mk.injEq, beq_iff_eq, Bool.and_eq_true, true_and, and_true]
  and_intros <;> repeat (first
    | rfl | exact extract_whole _ | exact extract_zero _ _ _
    | refine Ord.mk_eq _ ?_ ?_ | refine bit_read ?_
    | refine (congrArg VTy.ofBits ?_).trans (VTy.ofBits_bits _)
    | refine (extract_append_lo _ _ _ _ (by omega)).trans ?_ | refine (extract_append_hi _ _ _ _ (by omega)).trans ?_)

theorem SHlocal.read_bits (a : SHlocal) : SHlocal.read a.sy a.bits = { val := a, zero := true, range := true } := by
  obtain ⟨⟩ := a
  simp only [SHlocal.read, SHlocal.bits, ordOf, Parsed.mk.injEq, SHlocal.mk.injEq, Ord.mk.injEq, beq_iff_eq, Bool.and_eq_true, true_and, and_true]
  and_intros <;> repeat (first
    | rfl | exact extract_whole _ | exact extract_zero _ _ _
    | refine Ord.mk_eq _ ?_ ?_ | refine bit_read ?_
    | refine (congrArg VTy.ofBits ?_).trans (VTy.ofBits_bits _)
    | refine (extract_append_lo _ _ _ _ (by omega)).trans ?_ | refine (extract_append_hi _ _ _ _ (by omega)).trans ?_)

theorem SHinv.read_bits (a : SHinv) : SHinv.read a.sy a.bits = { val := a, zero := true, range := true } := by
  obtain ⟨⟩ := a
  simp only [SHinv.read, SHinv.bits, ordOf, Parsed.mk.injEq, SHinv.mk.injEq, Ord.mk.injEq, beq_iff_eq, Bool.and_eq_true, true_and, and_true]
  and_intros <;> repeat (first
    | rfl | exact extract_whole _ | exact extract_zero _ _ _
    | refine Ord.mk_eq _ ?_ ?_ | refine bit_read ?_
    | refine (congrArg VTy.ofBits ?_).trans (VTy.ofBits_bits _)
    | refine (extract_append_lo _ _ _ _ (by omega)).trans ?_ | refine (extract_append_hi _ _ _ _ (by omega)).trans ?_)

theorem SHget.read_bits (a : SHget) : SHget.read a.sy a.bits = { val := a, zero := true, range := true } := by
  obtain ⟨⟩ := a
  simp only [SHget.read, SHget.bits, ordOf, Parsed.mk.injEq, SHget.mk.injEq, Ord.mk.injEq, beq_iff_eq, Bool.and_eq_true, true_and, and_true]
  and_intros <;> repeat (first
    | rfl | exact extract_whole _ | exact extract_zero _ _ _
    | refine Ord.mk_eq _ ?_ ?_ | refine bit_read ?_
    | refine (congrArg VTy.ofBits ?_).trans (VTy.ofBits_bits _)
    | refine (extract_append_lo _ _ _ _ (by omega)).trans ?_ | refine (extract_append_hi _ _ _ _ (by omega)).trans ?_)

theorem SYfield.read_bits (a : SYfield) : SYfield.read a.sy a.bits = { val := a, zero := true, range := true } := by
  obtain ⟨⟩ := a
  simp only [SYfield.read, SYfield.bits, ordOf, Parsed.mk.injEq, SYfield.mk.injEq, Ord.mk.injEq, beq_iff_eq, Bool.and_eq_true, true_and, and_true]
  and_intros <;> repeat (first
    | rfl | exact extract_whole _ | exact extract_zero _ _ _
    | refine Ord.mk_eq _ ?_ ?_ | refine bit_read ?_
    | refine (congrArg VTy.ofBits ?_).trans (VTy.ofBits_bits _)
    | refine (extract_append_lo _ _ _ _ (by omega)).trans ?_ | refine (extract_append_hi _ _ _ _ (by omega)).trans ?_)

theorem SYclr.read_bits (a : SYclr) : SYclr.read a.sy a.bits = { val := a, zero := true, range := true } := by
  obtain ⟨⟩ := a
  simp only [SYclr.read, SYclr.bits, ordOf, Parsed.mk.injEq, SYclr.mk.injEq, Ord.mk.injEq, beq_iff_eq, Bool.and_eq_true, true_and, and_true]
  and_intros <;> repeat (first
    | rfl | exact extract_whole _ | exact extract_zero _ _ _
    | refine Ord.mk_eq _ ?_ ?_ | refine bit_read ?_
    | refine (congrArg VTy.ofBits ?_).trans (VTy.ofBits_bits _)
    | refine (extract_append_lo _ _ _ _ (by omega)).trans ?_ | refine (extract_append_hi _ _ _ _ (by omega)).trans ?_)

theorem SFpushi.read_bits (a : SFpushi) : SFpushi.read a.sy a.bits = { val := a, zero := true, range := true } := by
  obtain ⟨⟩ := a
  simp only [SFpushi.read, SFpushi.bits, ordOf, Parsed.mk.injEq, SFpushi.mk.injEq, Ord.mk.injEq, beq_iff_eq, Bool.and_eq_true, true_and, and_true]
  and_intros <;> repeat (first
    | rfl | exact extract_whole _ | exact extract_zero _ _ _
    | refine Ord.mk_eq _ ?_ ?_ | refine bit_read ?_
    | refine (congrArg VTy.ofBits ?_).trans (VTy.ofBits_bits _)
    | refine (extract_append_lo _ _ _ _ (by omega)).trans ?_ | refine (extract_append_hi _ _ _ _ (by omega)).trans ?_)

theorem MemS.read_bits (a : MemS) : MemS.read a.sy a.bits = { val := a, zero := true, range := true } := by
  obtain ⟨⟩ := a
  simp only [MemS.read, MemS.bits, ordOf, Parsed.mk.injEq, MemS.mk.injEq, Ord.mk.injEq, beq_iff_eq, Bool.and_eq_true, true_and, and_true]
  and_intros <;> repeat (first
    | rfl | exact extract_whole _ | exact extract_zero _ _ _
    | refine Ord.mk_eq _ ?_ ?_ | refine bit_read ?_
    | refine (congrArg VTy.ofBits ?_).trans (VTy.ofBits_bits _)
    | refine (extract_append_lo _ _ _ _ (by omega)).trans ?_ | refine (extract_append_hi _ _ _ _ (by omega)).trans ?_)

theorem MemV.read_bits (a : MemV) : MemV.read a.sy a.bits = { val := a, zero := true, range := true } := by
  obtain ⟨⟩ := a
  simp only [MemV.read, MemV.bits, ordOf, Parsed.mk.injEq, MemV.mk.injEq, Ord.mk.injEq, beq_iff_eq, Bool.and_eq_true, true_and, and_true]
  and_intros <;> repeat (first
    | rfl | exact extract_whole _ | exact extract_zero _ _ _
    | refine Ord.mk_eq _ ?_ ?_ | refine bit_read ?_
    | refine (congrArg VTy.ofBits ?_).trans (VTy.ofBits_bits _)
    | refine (extract_append_lo _ _ _ _ (by omega)).trans ?_ | refine (extract_append_hi _ _ _ _ (by omega)).trans ?_)

theorem Atom.read_bits (a : Atom) : Atom.read a.sy a.bits = { val := a, zero := true, range := true } := by
  obtain ⟨⟩ := a
  simp only [Atom.read, Atom.bits, ordOf, Parsed.mk.injEq, Atom.mk.injEq, Ord.mk.injEq, beq_iff_eq, Bool.and_eq_true, true_and, and_true]
  and_intros <;> repeat (first
    | rfl | exact extract_whole _ | exact extract_zero _ _ _
    | refine Ord.mk_eq _ ?_ ?_ | refine bit_read ?_
    | refine (congrArg VTy.ofBits ?_).trans (VTy.ofBits_bits _)
    | refine (extract_append_lo _ _ _ _ (by omega)).trans ?_ | refine (extract_append_hi _ _ _ _ (by omega)).trans ?_)

theorem AtomN.read_bits (a : AtomN) : AtomN.read a.sy a.bits = { val := a, zero := true, range := true } := by
  obtain ⟨⟩ := a
  simp only [AtomN.read, AtomN.bits, ordOf, Parsed.mk.injEq, AtomN.mk.injEq, Ord.mk.injEq, beq_iff_eq, Bool.and_eq_true, true_and, and_true]
  and_intros <;> repeat (first
    | rfl | exact extract_whole _ | exact extract_zero _ _ _
    | refine Ord.mk_eq _ ?_ ?_ | refine bit_read ?_
    | refine (congrArg VTy.ofBits ?_).trans (VTy.ofBits_bits _)
    | refine (extract_append_lo _ _ _ _ (by omega)).trans ?_ | refine (extract_append_hi _ _ _ _ (by omega)).trans ?_)

theorem PageR.read_bits (a : PageR) : PageR.read a.sy a.bits = { val := a, zero := true, range := true } := by
  obtain ⟨⟩ := a
  simp only [PageR.read, PageR.bits, ordOf, Parsed.mk.injEq, PageR.mk.injEq, Ord.mk.injEq, beq_iff_eq, Bool.and_eq_true, true_and, and_true]
  and_intros <;> repeat (first
    | rfl | exact extract_whole _ | exact extract_zero _ _ _
    | refine Ord.mk_eq _ ?_ ?_ | refine bit_read ?_
    | refine (congrArg VTy.ofBits ?_).trans (VTy.ofBits_bits _)
    | refine (extract_append_lo _ _ _ _ (by omega)).trans ?_ | refine (extract_append_hi _ _ _ _ (by omega)).trans ?_)

theorem PageP.read_bits (a : PageP) : PageP.read a.sy a.bits = { val := a, zero := true, range := true } := by
  obtain ⟨⟩ := a
  simp only [PageP.read, PageP.bits, ordOf, Parsed.mk.injEq, PageP.mk.injEq, Ord.mk.injEq, beq_iff_eq, Bool.and_eq_true, true_and, and_true]
  and_intros <;> repeat (first
    | rfl | exact extract_whole _ | exact extract_zero _ _ _
    | refine Ord.mk_eq _ ?_ ?_ | refine bit_read ?_
    | refine (congrArg VTy.ofBits ?_).trans (VTy.ofBits_bits _)
    | refine (extract_append_lo _ _ _ _ (by omega)).trans ?_ | refine (extract_append_hi _ _ _ _ (by omega)).trans ?_)

theorem SlotOp.read_bits (a : SlotOp) : SlotOp.read a.sy a.bits = { val := a, zero := true, range := true } := by
  obtain ⟨⟩ := a
  simp only [SlotOp.read, SlotOp.bits, ordOf, Parsed.mk.injEq, SlotOp.mk.injEq, Ord.mk.injEq, beq_iff_eq, Bool.and_eq_true, true_and, and_true]
  and_intros <;> repeat (first
    | rfl | exact extract_whole _ | exact extract_zero _ _ _
    | refine Ord.mk_eq _ ?_ ?_ | refine bit_read ?_
    | refine (congrArg VTy.ofBits ?_).trans (VTy.ofBits_bits _)
    | refine (extract_append_lo _ _ _ _ (by omega)).trans ?_ | refine (extract_append_hi _ _ _ _ (by omega)).trans ?_)

theorem CopyW.read_bits (a : CopyW) : CopyW.read a.sy a.bits = { val := a, zero := true, range := true } := by
  obtain ⟨⟩ := a
  simp only [CopyW.read, CopyW.bits, ordOf, Parsed.mk.injEq, CopyW.mk.injEq, Ord.mk.injEq, beq_iff_eq, Bool.and_eq_true, true_and, and_true]
  and_intros <;> repeat (first
    | rfl | exact extract_whole _ | exact extract_zero _ _ _
    | refine Ord.mk_eq _ ?_ ?_ | refine bit_read ?_
    | refine (congrArg VTy.ofBits ?_).trans (VTy.ofBits_bits _)
    | refine (extract_append_lo _ _ _ _ (by omega)).trans ?_ | refine (extract_append_hi _ _ _ _ (by omega)).trans ?_)

theorem GatherW.read_bits (a : GatherW) : GatherW.read a.sy a.bits = { val := a, zero := true, range := true } := by
  obtain ⟨⟩ := a
  simp only [GatherW.read, GatherW.bits, ordOf, Parsed.mk.injEq, GatherW.mk.injEq, Ord.mk.injEq, beq_iff_eq, Bool.and_eq_true, true_and, and_true]
  and_intros <;> repeat (first
    | rfl | exact extract_whole _ | exact extract_zero _ _ _
    | refine Ord.mk_eq _ ?_ ?_ | refine bit_read ?_
    | refine (congrArg VTy.ofBits ?_).trans (VTy.ofBits_bits _)
    | refine (extract_append_lo _ _ _ _ (by omega)).trans ?_ | refine (extract_append_hi _ _ _ _ (by omega)).trans ?_)

theorem CLocal.read_bits (a : CLocal) : CLocal.read a.sy a.bits = { val := a, zero := true, range := true } := by
  obtain ⟨⟩ := a
  simp only [CLocal.read, CLocal.bits, ordOf, Parsed.mk.injEq, CLocal.mk.injEq, Ord.mk.injEq, beq_iff_eq, Bool.and_eq_true, true_and, and_true]
  and_intros <;> repeat (first
    | rfl | exact extract_whole _ | exact extract_zero _ _ _
    | refine Ord.mk_eq _ ?_ ?_ | refine bit_read ?_
    | refine (congrArg VTy.ofBits ?_).trans (VTy.ofBits_bits _)
    | refine (extract_append_lo _ _ _ _ (by omega)).trans ?_ | refine (extract_append_hi _ _ _ _ (by omega)).trans ?_)

theorem CBin.read_bits (a : CBin) : CBin.read a.sy a.bits = { val := a, zero := true, range := true } := by
  obtain ⟨⟩ := a
  simp only [CBin.read, CBin.bits, ordOf, Parsed.mk.injEq, CBin.mk.injEq, Ord.mk.injEq, beq_iff_eq, Bool.and_eq_true, true_and, and_true]
  and_intros <;> repeat (first
    | rfl | exact extract_whole _ | exact extract_zero _ _ _
    | refine Ord.mk_eq _ ?_ ?_ | refine bit_read ?_
    | refine (congrArg VTy.ofBits ?_).trans (VTy.ofBits_bits _)
    | refine (extract_append_lo _ _ _ _ (by omega)).trans ?_ | refine (extract_append_hi _ _ _ _ (by omega)).trans ?_)

theorem CUn.read_bits (a : CUn) : CUn.read a.sy a.bits = { val := a, zero := true, range := true } := by
  obtain ⟨⟩ := a
  simp only [CUn.read, CUn.bits, ordOf, Parsed.mk.injEq, CUn.mk.injEq, Ord.mk.injEq, beq_iff_eq, Bool.and_eq_true, true_and, and_true]
  and_intros <;> repeat (first
    | rfl | exact extract_whole _ | exact extract_zero _ _ _
    | refine Ord.mk_eq _ ?_ ?_ | refine bit_read ?_
    | refine (congrArg VTy.ofBits ?_).trans (VTy.ofBits_bits _)
    | refine (extract_append_lo _ _ _ _ (by omega)).trans ?_ | refine (extract_append_hi _ _ _ _ (by omega)).trans ?_)

theorem CCvt.read_bits (a : CCvt) : CCvt.read a.sy a.bits = { val := a, zero := true, range := true } := by
  obtain ⟨⟩ := a
  simp only [CCvt.read, CCvt.bits, ordOf, Parsed.mk.injEq, CCvt.mk.injEq, Ord.mk.injEq, beq_iff_eq, Bool.and_eq_true, true_and, and_true]
  and_intros <;> repeat (first
    | rfl | exact extract_whole _ | exact extract_zero _ _ _
    | refine Ord.mk_eq _ ?_ ?_ | refine bit_read ?_
    | refine (congrArg VTy.ofBits ?_).trans (VTy.ofBits_bits _)
    | refine (extract_append_lo _ _ _ _ (by omega)).trans ?_ | refine (extract_append_hi _ _ _ _ (by omega)).trans ?_)

theorem CQnt.read_bits (a : CQnt) : CQnt.read a.sy a.bits = { val := a, zero := true, range := true } := by
  obtain ⟨⟩ := a
  simp only [CQnt.read, CQnt.bits, ordOf, Parsed.mk.injEq, CQnt.mk.injEq, Ord.mk.injEq, beq_iff_eq, Bool.and_eq_true, true_and, and_true]
  and_intros <;> repeat (first
    | rfl | exact extract_whole _ | exact extract_zero _ _ _
    | refine Ord.mk_eq _ ?_ ?_ | refine bit_read ?_
    | refine (congrArg VTy.ofBits ?_).trans (VTy.ofBits_bits _)
    | refine (extract_append_lo _ _ _ _ (by omega)).trans ?_ | refine (extract_append_hi _ _ _ _ (by omega)).trans ?_)

theorem CDqnt.read_bits (a : CDqnt) : CDqnt.read a.sy a.bits = { val := a, zero := true, range := true } := by
  obtain ⟨⟩ := a
  simp only [CDqnt.read, CDqnt.bits, ordOf, Parsed.mk.injEq, CDqnt.mk.injEq, Ord.mk.injEq, beq_iff_eq, Bool.and_eq_true, true_and, and_true]
  and_intros <;> repeat (first
    | rfl | exact extract_whole _ | exact extract_zero _ _ _
    | refine Ord.mk_eq _ ?_ ?_ | refine bit_read ?_
    | refine (congrArg VTy.ofBits ?_).trans (VTy.ofBits_bits _)
    | refine (extract_append_lo _ _ _ _ (by omega)).trans ?_ | refine (extract_append_hi _ _ _ _ (by omega)).trans ?_)

theorem CCmp.read_bits (a : CCmp) : CCmp.read a.sy a.bits = { val := a, zero := true, range := true } := by
  obtain ⟨⟩ := a
  simp only [CCmp.read, CCmp.bits, ordOf, Parsed.mk.injEq, CCmp.mk.injEq, Ord.mk.injEq, beq_iff_eq, Bool.and_eq_true, true_and, and_true]
  and_intros <;> repeat (first
    | rfl | exact extract_whole _ | exact extract_zero _ _ _
    | refine Ord.mk_eq _ ?_ ?_ | refine bit_read ?_
    | refine (congrArg VTy.ofBits ?_).trans (VTy.ofBits_bits _)
    | refine (extract_append_lo _ _ _ _ (by omega)).trans ?_ | refine (extract_append_hi _ _ _ _ (by omega)).trans ?_)

theorem CTri.read_bits (a : CTri) : CTri.read a.sy a.bits = { val := a, zero := true, range := true } := by
  obtain ⟨⟩ := a
  simp only [CTri.read, CTri.bits, ordOf, Parsed.mk.injEq, CTri.mk.injEq, Ord.mk.injEq, beq_iff_eq, Bool.and_eq_true, true_and, and_true]
  and_intros <;> repeat (first
    | rfl | exact extract_whole _ | exact extract_zero _ _ _
    | refine Ord.mk_eq _ ?_ ?_ | refine bit_read ?_
    | refine (congrArg VTy.ofBits ?_).trans (VTy.ofBits_bits _)
    | refine (extract_append_lo _ _ _ _ (by omega)).trans ?_ | refine (extract_append_hi _ _ _ _ (by omega)).trans ?_)

theorem CMov.read_bits (a : CMov) : CMov.read a.sy a.bits = { val := a, zero := true, range := true } := by
  obtain ⟨⟩ := a
  simp only [CMov.read, CMov.bits, ordOf, Parsed.mk.injEq, CMov.mk.injEq, Ord.mk.injEq, beq_iff_eq, Bool.and_eq_true, true_and, and_true]
  and_intros <;> repeat (first
    | rfl | exact extract_whole _ | exact extract_zero _ _ _
    | refine Ord.mk_eq _ ?_ ?_ | refine bit_read ?_
    | refine (congrArg VTy.ofBits ?_).trans (VTy.ofBits_bits _)
    | refine (extract_append_lo _ _ _ _ (by omega)).trans ?_ | refine (extract_append_hi _ _ _ _ (by omega)).trans ?_)

theorem CMovi.read_bits (a : CMovi) : CMovi.read a.sy a.bits = { val := a, zero := true, range := true } := by
  obtain ⟨⟩ := a
  simp only [CMovi.read, CMovi.bits, ordOf, Parsed.mk.injEq, CMovi.mk.injEq, Ord.mk.injEq, beq_iff_eq, Bool.and_eq_true, true_and, and_true]
  and_intros <;> repeat (first
    | rfl | exact extract_whole _ | exact extract_zero _ _ _
    | refine Ord.mk_eq _ ?_ ?_ | refine bit_read ?_
    | refine (congrArg VTy.ofBits ?_).trans (VTy.ofBits_bits _)
    | refine (extract_append_lo _ _ _ _ (by omega)).trans ?_ | refine (extract_append_hi _ _ _ _ (by omega)).trans ?_)

theorem CFroms.read_bits (a : CFroms) : CFroms.read a.sy a.bits = { val := a, zero := true, range := true } := by
  obtain ⟨⟩ := a
  simp only [CFroms.read, CFroms.bits, ordOf, Parsed.mk.injEq, CFroms.mk.injEq, Ord.mk.injEq, beq_iff_eq, Bool.and_eq_true, true_and, and_true]
  and_intros <;> repeat (first
    | rfl | exact extract_whole _ | exact extract_zero _ _ _
    | refine Ord.mk_eq _ ?_ ?_ | refine bit_read ?_
    | refine (congrArg VTy.ofBits ?_).trans (VTy.ofBits_bits _)
    | refine (extract_append_lo _ _ _ _ (by omega)).trans ?_ | refine (extract_append_hi _ _ _ _ (by omega)).trans ?_)

theorem CTos.read_bits (a : CTos) : CTos.read a.sy a.bits = { val := a, zero := true, range := true } := by
  obtain ⟨⟩ := a
  simp only [CTos.read, CTos.bits, ordOf, Parsed.mk.injEq, CTos.mk.injEq, Ord.mk.injEq, beq_iff_eq, Bool.and_eq_true, true_and, and_true]
  and_intros <;> repeat (first
    | rfl | exact extract_whole _ | exact extract_zero _ _ _
    | refine Ord.mk_eq _ ?_ ?_ | refine bit_read ?_
    | refine (congrArg VTy.ofBits ?_).trans (VTy.ofBits_bits _)
    | refine (extract_append_lo _ _ _ _ (by omega)).trans ?_ | refine (extract_append_hi _ _ _ _ (by omega)).trans ?_)

theorem CSlide.read_bits (a : CSlide) : CSlide.read a.sy a.bits = { val := a, zero := true, range := true } := by
  obtain ⟨⟩ := a
  simp only [CSlide.read, CSlide.bits, ordOf, Parsed.mk.injEq, CSlide.mk.injEq, Ord.mk.injEq, beq_iff_eq, Bool.and_eq_true, true_and, and_true]
  and_intros <;> repeat (first
    | rfl | exact extract_whole _ | exact extract_zero _ _ _
    | refine Ord.mk_eq _ ?_ ?_ | refine bit_read ?_
    | refine (congrArg VTy.ofBits ?_).trans (VTy.ofBits_bits _)
    | refine (extract_append_lo _ _ _ _ (by omega)).trans ?_ | refine (extract_append_hi _ _ _ _ (by omega)).trans ?_)

theorem CIota.read_bits (a : CIota) : CIota.read a.sy a.bits = { val := a, zero := true, range := true } := by
  obtain ⟨⟩ := a
  simp only [CIota.read, CIota.bits, ordOf, Parsed.mk.injEq, CIota.mk.injEq, Ord.mk.injEq, beq_iff_eq, Bool.and_eq_true, true_and, and_true]
  and_intros <;> repeat (first
    | rfl | exact extract_whole _ | exact extract_zero _ _ _
    | refine Ord.mk_eq _ ?_ ?_ | refine bit_read ?_
    | refine (congrArg VTy.ofBits ?_).trans (VTy.ofBits_bits _)
    | refine (extract_append_lo _ _ _ _ (by omega)).trans ?_ | refine (extract_append_hi _ _ _ _ (by omega)).trans ?_)

theorem PBin.read_bits (a : PBin) : PBin.read a.sy a.bits = { val := a, zero := true, range := true } := by
  obtain ⟨⟩ := a
  simp only [PBin.read, PBin.bits, ordOf, Parsed.mk.injEq, PBin.mk.injEq, Ord.mk.injEq, beq_iff_eq, Bool.and_eq_true, true_and, and_true]
  and_intros <;> repeat (first
    | rfl | exact extract_whole _ | exact extract_zero _ _ _
    | refine Ord.mk_eq _ ?_ ?_ | refine bit_read ?_
    | refine (congrArg VTy.ofBits ?_).trans (VTy.ofBits_bits _)
    | refine (extract_append_lo _ _ _ _ (by omega)).trans ?_ | refine (extract_append_hi _ _ _ _ (by omega)).trans ?_)

theorem PUn.read_bits (a : PUn) : PUn.read a.sy a.bits = { val := a, zero := true, range := true } := by
  obtain ⟨⟩ := a
  simp only [PUn.read, PUn.bits, ordOf, Parsed.mk.injEq, PUn.mk.injEq, Ord.mk.injEq, beq_iff_eq, Bool.and_eq_true, true_and, and_true]
  and_intros <;> repeat (first
    | rfl | exact extract_whole _ | exact extract_zero _ _ _
    | refine Ord.mk_eq _ ?_ ?_ | refine bit_read ?_
    | refine (congrArg VTy.ofBits ?_).trans (VTy.ofBits_bits _)
    | refine (extract_append_lo _ _ _ _ (by omega)).trans ?_ | refine (extract_append_hi _ _ _ _ (by omega)).trans ?_)

theorem PSetW.read_bits (a : PSetW) : PSetW.read a.sy a.bits = { val := a, zero := true, range := true } := by
  obtain ⟨⟩ := a
  simp only [PSetW.read, PSetW.bits, ordOf, Parsed.mk.injEq, PSetW.mk.injEq, Ord.mk.injEq, beq_iff_eq, Bool.and_eq_true, true_and, and_true]
  and_intros <;> repeat (first
    | rfl | exact extract_whole _ | exact extract_zero _ _ _
    | refine Ord.mk_eq _ ?_ ?_ | refine bit_read ?_
    | refine (congrArg VTy.ofBits ?_).trans (VTy.ofBits_bits _)
    | refine (extract_append_lo _ _ _ _ (by omega)).trans ?_ | refine (extract_append_hi _ _ _ _ (by omega)).trans ?_)

theorem Rbset.read_bits (a : Rbset) : Rbset.read a.sy a.bits = { val := a, zero := true, range := true } := by
  obtain ⟨⟩ := a
  simp only [Rbset.read, Rbset.bits, ordOf, Parsed.mk.injEq, Rbset.mk.injEq, Ord.mk.injEq, beq_iff_eq, Bool.and_eq_true, true_and, and_true]
  and_intros <;> repeat (first
    | rfl | exact extract_whole _ | exact extract_zero _ _ _
    | refine Ord.mk_eq _ ?_ ?_ | refine bit_read ?_
    | refine (congrArg VTy.ofBits ?_).trans (VTy.ofBits_bits _)
    | refine (extract_append_lo _ _ _ _ (by omega)).trans ?_ | refine (extract_append_hi _ _ _ _ (by omega)).trans ?_)

theorem SlackW.read_bits (a : SlackW) : SlackW.read a.sy a.bits = { val := a, zero := true, range := true } := by
  obtain ⟨⟩ := a
  simp only [SlackW.read, SlackW.bits, ordOf, Parsed.mk.injEq, SlackW.mk.injEq, Ord.mk.injEq, beq_iff_eq, Bool.and_eq_true, true_and, and_true]
  and_intros <;> repeat (first
    | rfl | exact extract_whole _ | exact extract_zero _ _ _
    | refine Ord.mk_eq _ ?_ ?_ | refine bit_read ?_
    | refine (congrArg VTy.ofBits ?_).trans (VTy.ofBits_bits _)
    | refine (extract_append_lo _ _ _ _ (by omega)).trans ?_ | refine (extract_append_hi _ _ _ _ (by omega)).trans ?_)

theorem MmaW.read_bits (a : MmaW) : MmaW.read a.sy a.bits = { val := a, zero := true, range := true } := by
  obtain ⟨⟩ := a
  simp only [MmaW.read, MmaW.bits, ordOf, Parsed.mk.injEq, MmaW.mk.injEq, Ord.mk.injEq, beq_iff_eq, Bool.and_eq_true, true_and, and_true]
  and_intros <;> repeat (first
    | rfl | exact extract_whole _ | exact extract_zero _ _ _
    | refine Ord.mk_eq _ ?_ ?_ | refine bit_read ?_
    | refine (congrArg VTy.ofBits ?_).trans (VTy.ofBits_bits _)
    | refine (extract_append_lo _ _ _ _ (by omega)).trans ?_ | refine (extract_append_hi _ _ _ _ (by omega)).trans ?_)

theorem AclrW.read_bits (a : AclrW) : AclrW.read a.sy a.bits = { val := a, zero := true, range := true } := by
  obtain ⟨⟩ := a
  simp only [AclrW.read, AclrW.bits, ordOf, Parsed.mk.injEq, AclrW.mk.injEq, Ord.mk.injEq, beq_iff_eq, Bool.and_eq_true, true_and, and_true]
  and_intros <;> repeat (first
    | rfl | exact extract_whole _ | exact extract_zero _ _ _
    | refine Ord.mk_eq _ ?_ ?_ | refine bit_read ?_
    | refine (congrArg VTy.ofBits ?_).trans (VTy.ofBits_bits _)
    | refine (extract_append_lo _ _ _ _ (by omega)).trans ?_ | refine (extract_append_hi _ _ _ _ (by omega)).trans ?_)

theorem ArdW.read_bits (a : ArdW) : ArdW.read a.sy a.bits = { val := a, zero := true, range := true } := by
  obtain ⟨⟩ := a
  simp only [ArdW.read, ArdW.bits, ordOf, Parsed.mk.injEq, ArdW.mk.injEq, Ord.mk.injEq, beq_iff_eq, Bool.and_eq_true, true_and, and_true]
  and_intros <;> repeat (first
    | rfl | exact extract_whole _ | exact extract_zero _ _ _
    | refine Ord.mk_eq _ ?_ ?_ | refine bit_read ?_
    | refine (congrArg VTy.ofBits ?_).trans (VTy.ofBits_bits _)
    | refine (extract_append_lo _ _ _ _ (by omega)).trans ?_ | refine (extract_append_hi _ _ _ _ (by omega)).trans ?_)

theorem AwrW.read_bits (a : AwrW) : AwrW.read a.sy a.bits = { val := a, zero := true, range := true } := by
  obtain ⟨⟩ := a
  simp only [AwrW.read, AwrW.bits, ordOf, Parsed.mk.injEq, AwrW.mk.injEq, Ord.mk.injEq, beq_iff_eq, Bool.and_eq_true, true_and, and_true]
  and_intros <;> repeat (first
    | rfl | exact extract_whole _ | exact extract_zero _ _ _
    | refine Ord.mk_eq _ ?_ ?_ | refine bit_read ?_
    | refine (congrArg VTy.ofBits ?_).trans (VTy.ofBits_bits _)
    | refine (extract_append_lo _ _ _ _ (by omega)).trans ?_ | refine (extract_append_hi _ _ _ _ (by omega)).trans ?_)

theorem AstsW.read_bits (a : AstsW) : AstsW.read a.sy a.bits = { val := a, zero := true, range := true } := by
  obtain ⟨⟩ := a
  simp only [AstsW.read, AstsW.bits, ordOf, Parsed.mk.injEq, AstsW.mk.injEq, Ord.mk.injEq, beq_iff_eq, Bool.and_eq_true, true_and, and_true]
  and_intros <;> repeat (first
    | rfl | exact extract_whole _ | exact extract_zero _ _ _
    | refine Ord.mk_eq _ ?_ ?_ | refine bit_read ?_
    | refine (congrArg VTy.ofBits ?_).trans (VTy.ofBits_bits _)
    | refine (extract_append_lo _ _ _ _ (by omega)).trans ?_ | refine (extract_append_hi _ _ _ _ (by omega)).trans ?_)

end Sys2Proof
end

