-- ==== Sys2Proof/Laws/Exec.lean ====
section
/-! SUPPORT. What `exec` does with each constructor: its meaning, by one call. -/

namespace Sys2Proof.Machine

open Sys2Proof

theorem exec_nop : ∀ a (s : State), exec (.nop a) s = execNop a s := fun _ _ => rfl
theorem exec_add : ∀ a (s : State), exec (.add a) s = execAdd a s := fun _ _ => rfl
theorem exec_sub : ∀ a (s : State), exec (.sub a) s = execSub a s := fun _ _ => rfl
theorem exec_mul : ∀ a (s : State), exec (.mul a) s = execMul a s := fun _ _ => rfl
theorem exec_mulh : ∀ a (s : State), exec (.mulh a) s = execMulh a s := fun _ _ => rfl
theorem exec_mulhu : ∀ a (s : State), exec (.mulhu a) s = execMulhu a s := fun _ _ => rfl
theorem exec_div : ∀ a (s : State), exec (.div a) s = execDiv a s := fun _ _ => rfl
theorem exec_divu : ∀ a (s : State), exec (.divu a) s = execDivu a s := fun _ _ => rfl
theorem exec_rem : ∀ a (s : State), exec (.rem a) s = execRem a s := fun _ _ => rfl
theorem exec_remu : ∀ a (s : State), exec (.remu a) s = execRemu a s := fun _ _ => rfl
theorem exec_and : ∀ a (s : State), exec (.and a) s = execAnd a s := fun _ _ => rfl
theorem exec_or : ∀ a (s : State), exec (.or a) s = execOr a s := fun _ _ => rfl
theorem exec_xor : ∀ a (s : State), exec (.xor a) s = execXor a s := fun _ _ => rfl
theorem exec_sll : ∀ a (s : State), exec (.sll a) s = execSll a s := fun _ _ => rfl
theorem exec_srl : ∀ a (s : State), exec (.srl a) s = execSrl a s := fun _ _ => rfl
theorem exec_sra : ∀ a (s : State), exec (.sra a) s = execSra a s := fun _ _ => rfl
theorem exec_slt : ∀ a (s : State), exec (.slt a) s = execSlt a s := fun _ _ => rfl
theorem exec_sltu : ∀ a (s : State), exec (.sltu a) s = execSltu a s := fun _ _ => rfl
theorem exec_min : ∀ a (s : State), exec (.min a) s = execMin a s := fun _ _ => rfl
theorem exec_max : ∀ a (s : State), exec (.max a) s = execMax a s := fun _ _ => rfl
theorem exec_addi : ∀ a (s : State), exec (.addi a) s = execAddi a s := fun _ _ => rfl
theorem exec_andi : ∀ a (s : State), exec (.andi a) s = execAndi a s := fun _ _ => rfl
theorem exec_ori : ∀ a (s : State), exec (.ori a) s = execOri a s := fun _ _ => rfl
theorem exec_xori : ∀ a (s : State), exec (.xori a) s = execXori a s := fun _ _ => rfl
theorem exec_slli : ∀ a (s : State), exec (.slli a) s = execSlli a s := fun _ _ => rfl
theorem exec_srli : ∀ a (s : State), exec (.srli a) s = execSrli a s := fun _ _ => rfl
theorem exec_srai : ∀ a (s : State), exec (.srai a) s = execSrai a s := fun _ _ => rfl
theorem exec_slti : ∀ a (s : State), exec (.slti a) s = execSlti a s := fun _ _ => rfl
theorem exec_li : ∀ a (s : State), exec (.li a) s = execLi a s := fun _ _ => rfl
theorem exec_lih : ∀ a (s : State), exec (.lih a) s = execLih a s := fun _ _ => rfl
theorem exec_beq : ∀ a (s : State), exec (.beq a) s = execBeq a s := fun _ _ => rfl
theorem exec_bne : ∀ a (s : State), exec (.bne a) s = execBne a s := fun _ _ => rfl
theorem exec_blt : ∀ a (s : State), exec (.blt a) s = execBlt a s := fun _ _ => rfl
theorem exec_bge : ∀ a (s : State), exec (.bge a) s = execBge a s := fun _ _ => rfl
theorem exec_bltu : ∀ a (s : State), exec (.bltu a) s = execBltu a s := fun _ _ => rfl
theorem exec_bgeu : ∀ a (s : State), exec (.bgeu a) s = execBgeu a s := fun _ _ => rfl
theorem exec_jal : ∀ a (s : State), exec (.jal a) s = execJal a s := fun _ _ => rfl
theorem exec_jalr : ∀ a (s : State), exec (.jalr a) s = execJalr a s := fun _ _ => rfl
theorem exec_loopb : ∀ a (s : State), exec (.loopb a) s = execLoopb a s := fun _ _ => rfl
theorem exec_endt : ∀ a (s : State), exec (.endt a) s = execEndt a s := fun _ _ => rfl
theorem exec_crd : ∀ a (s : State), exec (.crd a) s = execCrd a s := fun _ _ => rfl
theorem exec_cwr : ∀ a (s : State), exec (.cwr a) s = execCwr a s := fun _ _ => rfl
theorem exec_cset : ∀ a (s : State), exec (.cset a) s = execCset a s := fun _ _ => rfl
theorem exec_cclr : ∀ a (s : State), exec (.cclr a) s = execCclr a s := fun _ _ => rfl
theorem exec_trap : ∀ a (s : State), exec (.trap a) s = execTrap a s := fun _ _ => rfl
theorem exec_eret : ∀ a (s : State), exec (.eret a) s = execEret a s := fun _ _ => rfl
theorem exec_waitev : ∀ a (s : State), exec (.waitev a) s = execWaitev a s := fun _ _ => rfl
theorem exec_xlate : ∀ a (s : State), exec (.xlate a) s = execXlate a s := fun _ _ => rfl
theorem exec_hlocal : ∀ a (s : State), exec (.hlocal a) s = execHlocal a s := fun _ _ => rfl
theorem exec_hinv : ∀ a (s : State), exec (.hinv a) s = execHinv a s := fun _ _ => rfl
theorem exec_hget : ∀ a (s : State), exec (.hget a) s = execHget a s := fun _ _ => rfl
theorem exec_yset : ∀ a (s : State), exec (.yset a) s = execYset a s := fun _ _ => rfl
theorem exec_yget : ∀ a (s : State), exec (.yget a) s = execYget a s := fun _ _ => rfl
theorem exec_yclr : ∀ a (s : State), exec (.yclr a) s = execYclr a s := fun _ _ => rfl
theorem exec_fpush : ∀ a (s : State), exec (.fpush a) s = execFpush a s := fun _ _ => rfl
theorem exec_fpushi : ∀ a (s : State), exec (.fpushi a) s = execFpushi a s := fun _ _ => rfl
theorem exec_pwracq : ∀ a (s : State), exec (.pwracq a) s = execPwracq a s := fun _ _ => rfl
theorem exec_pwrrel : ∀ a (s : State), exec (.pwrrel a) s = execPwrrel a s := fun _ _ => rfl
theorem exec_slotwait : ∀ a (s : State), exec (.slotwait a) s = execSlotwait a s := fun _ _ => rfl
theorem exec_ctxq : ∀ a (s : State), exec (.ctxq a) s = execCtxq a s := fun _ _ => rfl
theorem exec_yield : ∀ a (s : State), exec (.yield a) s = execYield a s := fun _ _ => rfl
theorem exec_ldb : ∀ a (s : State), exec (.ldb a) s = execLdb a s := fun _ _ => rfl
theorem exec_ldbu : ∀ a (s : State), exec (.ldbu a) s = execLdbu a s := fun _ _ => rfl
theorem exec_ldh : ∀ a (s : State), exec (.ldh a) s = execLdh a s := fun _ _ => rfl
theorem exec_ldhu : ∀ a (s : State), exec (.ldhu a) s = execLdhu a s := fun _ _ => rfl
theorem exec_ldw : ∀ a (s : State), exec (.ldw a) s = execLdw a s := fun _ _ => rfl
theorem exec_ldwu : ∀ a (s : State), exec (.ldwu a) s = execLdwu a s := fun _ _ => rfl
theorem exec_ldd : ∀ a (s : State), exec (.ldd a) s = execLdd a s := fun _ _ => rfl
theorem exec_vld : ∀ a (s : State), exec (.vld a) s = execVld a s := fun _ _ => rfl
theorem exec_vlds : ∀ a (s : State), exec (.vlds a) s = execVlds a s := fun _ _ => rfl
theorem exec_vldb : ∀ a (s : State), exec (.vldb a) s = execVldb a s := fun _ _ => rfl
theorem exec_cpin : ∀ a (s : State), exec (.cpin a) s = execCpin a s := fun _ _ => rfl
theorem exec_cpgather : ∀ a (s : State), exec (.cpgather a) s = execCpgather a s := fun _ _ => rfl
theorem exec_semwait : ∀ a (s : State), exec (.semwait a) s = execSemwait a s := fun _ _ => rfl
theorem exec_barwait : ∀ a (s : State), exec (.barwait a) s = execBarwait a s := fun _ _ => rfl
theorem exec_wltake : ∀ a (s : State), exec (.wltake a) s = execWltake a s := fun _ _ => rfl
theorem exec_vldl : ∀ a (s : State), exec (.vldl a) s = execVldl a s := fun _ _ => rfl
theorem exec_vstl : ∀ a (s : State), exec (.vstl a) s = execVstl a s := fun _ _ => rfl
theorem exec_vldm : ∀ a (s : State), exec (.vldm a) s = execVldm a s := fun _ _ => rfl
theorem exec_vstm : ∀ a (s : State), exec (.vstm a) s = execVstm a s := fun _ _ => rfl
theorem exec_vadd : ∀ a (s : State), exec (.vadd a) s = execVadd a s := fun _ _ => rfl
theorem exec_vsub : ∀ a (s : State), exec (.vsub a) s = execVsub a s := fun _ _ => rfl
theorem exec_vmul : ∀ a (s : State), exec (.vmul a) s = execVmul a s := fun _ _ => rfl
theorem exec_vfma : ∀ a (s : State), exec (.vfma a) s = execVfma a s := fun _ _ => rfl
theorem exec_vmin : ∀ a (s : State), exec (.vmin a) s = execVmin a s := fun _ _ => rfl
theorem exec_vmax : ∀ a (s : State), exec (.vmax a) s = execVmax a s := fun _ _ => rfl
theorem exec_vabs : ∀ a (s : State), exec (.vabs a) s = execVabs a s := fun _ _ => rfl
theorem exec_vdiv : ∀ a (s : State), exec (.vdiv a) s = execVdiv a s := fun _ _ => rfl
theorem exec_vrcp : ∀ a (s : State), exec (.vrcp a) s = execVrcp a s := fun _ _ => rfl
theorem exec_vrsq : ∀ a (s : State), exec (.vrsq a) s = execVrsq a s := fun _ _ => rfl
theorem exec_vexp2 : ∀ a (s : State), exec (.vexp2 a) s = execVexp2 a s := fun _ _ => rfl
theorem exec_vlog2 : ∀ a (s : State), exec (.vlog2 a) s = execVlog2 a s := fun _ _ => rfl
theorem exec_vsqrt : ∀ a (s : State), exec (.vsqrt a) s = execVsqrt a s := fun _ _ => rfl
theorem exec_vcvt : ∀ a (s : State), exec (.vcvt a) s = execVcvt a s := fun _ _ => rfl
theorem exec_vqnt : ∀ a (s : State), exec (.vqnt a) s = execVqnt a s := fun _ _ => rfl
theorem exec_vdqnt : ∀ a (s : State), exec (.vdqnt a) s = execVdqnt a s := fun _ _ => rfl
theorem exec_vcmp : ∀ a (s : State), exec (.vcmp a) s = execVcmp a s := fun _ _ => rfl
theorem exec_vsel : ∀ a (s : State), exec (.vsel a) s = execVsel a s := fun _ _ => rfl
theorem exec_vand : ∀ a (s : State), exec (.vand a) s = execVand a s := fun _ _ => rfl
theorem exec_vor : ∀ a (s : State), exec (.vor a) s = execVor a s := fun _ _ => rfl
theorem exec_vxor : ∀ a (s : State), exec (.vxor a) s = execVxor a s := fun _ _ => rfl
theorem exec_vshl : ∀ a (s : State), exec (.vshl a) s = execVshl a s := fun _ _ => rfl
theorem exec_vshr : ∀ a (s : State), exec (.vshr a) s = execVshr a s := fun _ _ => rfl
theorem exec_vshra : ∀ a (s : State), exec (.vshra a) s = execVshra a s := fun _ _ => rfl
theorem exec_vmov : ∀ a (s : State), exec (.vmov a) s = execVmov a s := fun _ _ => rfl
theorem exec_vmovi : ∀ a (s : State), exec (.vmovi a) s = execVmovi a s := fun _ _ => rfl
theorem exec_vfroms : ∀ a (s : State), exec (.vfroms a) s = execVfroms a s := fun _ _ => rfl
theorem exec_vtos : ∀ a (s : State), exec (.vtos a) s = execVtos a s := fun _ _ => rfl
theorem exec_vredadd : ∀ a (s : State), exec (.vredadd a) s = execVredadd a s := fun _ _ => rfl
theorem exec_vredmax : ∀ a (s : State), exec (.vredmax a) s = execVredmax a s := fun _ _ => rfl
theorem exec_vredmin : ∀ a (s : State), exec (.vredmin a) s = execVredmin a s := fun _ _ => rfl
theorem exec_vargmax : ∀ a (s : State), exec (.vargmax a) s = execVargmax a s := fun _ _ => rfl
theorem exec_vperm : ∀ a (s : State), exec (.vperm a) s = execVperm a s := fun _ _ => rfl
theorem exec_vslide : ∀ a (s : State), exec (.vslide a) s = execVslide a s := fun _ _ => rfl
theorem exec_vbcast : ∀ a (s : State), exec (.vbcast a) s = execVbcast a s := fun _ _ => rfl
theorem exec_viota : ∀ a (s : State), exec (.viota a) s = execViota a s := fun _ _ => rfl
theorem exec_pand : ∀ a (s : State), exec (.pand a) s = execPand a s := fun _ _ => rfl
theorem exec_por : ∀ a (s : State), exec (.por a) s = execPor a s := fun _ _ => rfl
theorem exec_pxor : ∀ a (s : State), exec (.pxor a) s = execPxor a s := fun _ _ => rfl
theorem exec_pnot : ∀ a (s : State), exec (.pnot a) s = execPnot a s := fun _ _ => rfl
theorem exec_pset : ∀ a (s : State), exec (.pset a) s = execPset a s := fun _ _ => rfl
theorem exec_rbset : ∀ a (s : State), exec (.rbset a) s = execRbset a s := fun _ _ => rfl
theorem exec_slack : ∀ a (s : State), exec (.slack a) s = execSlack a s := fun _ _ => rfl
theorem exec_mma : ∀ a (s : State), exec (.mma a) s = execMma a s := fun _ _ => rfl
theorem exec_mmat : ∀ a (s : State), exec (.mmat a) s = execMmat a s := fun _ _ => rfl
theorem exec_aclr : ∀ a (s : State), exec (.aclr a) s = execAclr a s := fun _ _ => rfl
theorem exec_ard : ∀ a (s : State), exec (.ard a) s = execArd a s := fun _ _ => rfl
theorem exec_awr : ∀ a (s : State), exec (.awr a) s = execAwr a s := fun _ _ => rfl
theorem exec_asts : ∀ a (s : State), exec (.asts a) s = execAsts a s := fun _ _ => rfl
theorem exec_stb : ∀ a (s : State), exec (.stb a) s = execStb a s := fun _ _ => rfl
theorem exec_sth : ∀ a (s : State), exec (.sth a) s = execSth a s := fun _ _ => rfl
theorem exec_stw : ∀ a (s : State), exec (.stw a) s = execStw a s := fun _ _ => rfl
theorem exec_std : ∀ a (s : State), exec (.std a) s = execStd a s := fun _ _ => rfl
theorem exec_vst : ∀ a (s : State), exec (.vst a) s = execVst a s := fun _ _ => rfl
theorem exec_vsts : ∀ a (s : State), exec (.vsts a) s = execVsts a s := fun _ _ => rfl
theorem exec_aadd : ∀ a (s : State), exec (.aadd a) s = execAadd a s := fun _ _ => rfl
theorem exec_amin : ∀ a (s : State), exec (.amin a) s = execAmin a s := fun _ _ => rfl
theorem exec_amax : ∀ a (s : State), exec (.amax a) s = execAmax a s := fun _ _ => rfl
theorem exec_aand : ∀ a (s : State), exec (.aand a) s = execAand a s := fun _ _ => rfl
theorem exec_aor : ∀ a (s : State), exec (.aor a) s = execAor a s := fun _ _ => rfl
theorem exec_axor : ∀ a (s : State), exec (.axor a) s = execAxor a s := fun _ _ => rfl
theorem exec_aswap : ∀ a (s : State), exec (.aswap a) s = execAswap a s := fun _ _ => rfl
theorem exec_acas : ∀ a (s : State), exec (.acas a) s = execAcas a s := fun _ _ => rfl
theorem exec_afadd : ∀ a (s : State), exec (.afadd a) s = execAfadd a s := fun _ _ => rfl
theorem exec_semsig : ∀ a (s : State), exec (.semsig a) s = execSemsig a s := fun _ _ => rfl
theorem exec_bararv : ∀ a (s : State), exec (.bararv a) s = execBararv a s := fun _ _ => rfl
theorem exec_cpout : ∀ a (s : State), exec (.cpout a) s = execCpout a s := fun _ _ => rfl
theorem exec_cpscatter : ∀ a (s : State), exec (.cpscatter a) s = execCpscatter a s := fun _ _ => rfl
theorem exec_discard : ∀ a (s : State), exec (.discard a) s = execDiscard a s := fun _ _ => rfl
theorem exec_wback : ∀ a (s : State), exec (.wback a) s = execWback a s := fun _ _ => rfl
theorem exec_pgrsv : ∀ a (s : State), exec (.pgrsv a) s = execPgrsv a s := fun _ _ => rfl
theorem exec_pgrel : ∀ a (s : State), exec (.pgrel a) s = execPgrel a s := fun _ _ => rfl
theorem exec_pgmig : ∀ a (s : State), exec (.pgmig a) s = execPgmig a s := fun _ _ => rfl
theorem exec_wlappend : ∀ a (s : State), exec (.wlappend a) s = execWlappend a s := fun _ _ => rfl
theorem exec_commit : ∀ a (s : State), exec (.commit a) s = execCommit a s := fun _ _ => rfl
theorem exec_retract : ∀ a (s : State), exec (.retract a) s = execRetract a s := fun _ _ => rfl
theorem exec_wordDispatch : ∀ b (s : State), exec (.wordDispatch b) s = execWordDispatch b s := fun _ _ => rfl
theorem exec_illegalWord : ∀ b e (s : State), exec (.illegalWord b e) s = execIllegalWord b e s := fun _ _ _ => rfl
theorem exec_fetchFault : ∀ b (s : State), exec (.fetchFault b) s = execFetchFault b s := fun _ _ => rfl
theorem exec_handleLand : ∀ b (s : State), exec (.handleLand b) s = execHandleLand b s := fun _ _ => rfl
theorem exec_walkComplete : ∀ tag (s : State), exec (.walkComplete tag) s = execWalkComplete tag s := fun _ _ => rfl
theorem exec_invalidationRelease : ∀ d id (s : State), exec (.invalidationRelease d id) s = execInvalidationRelease d id s := fun _ _ _ => rfl
theorem exec_allocationAnswer : ∀ b (s : State), exec (.allocationAnswer b) s = execAllocationAnswer b s := fun _ _ => rfl
theorem exec_lateFrameConversion : ∀ b (s : State), exec (.lateFrameConversion b) s = execLateFrameConversion b s := fun _ _ => rfl
theorem exec_remoteFill : ∀ d line (s : State), exec (.remoteFill d line) s = execRemoteFill d line s := fun _ _ _ => rfl
theorem exec_operationComplete : ∀ b uid (s : State), exec (.operationComplete b uid) s = execOperationComplete b uid s := fun _ _ _ => rfl
theorem exec_fabricWaitPoll : ∀ b uid (s : State), exec (.fabricWaitPoll b uid) s = execFabricWaitPoll b uid s := fun _ _ _ => rfl
theorem exec_patrolScrub : ∀ unit (s : State), exec (.patrolScrub unit) s = execPatrolScrub unit s := fun _ _ => rfl
theorem exec_copyRowIssue : ∀ b e (s : State), exec (.copyRowIssue b e) s = execCopyRowIssue b e s := fun _ _ _ => rfl
theorem exec_copyRowLand : ∀ b uid row (s : State), exec (.copyRowLand b uid row) s = execCopyRowLand b uid row s := fun _ _ _ _ => rfl
theorem exec_cWriteLand : ∀ b (s : State), exec (.cWriteLand b) s = execCWriteLand b s := fun _ _ => rfl
theorem exec_lateLoadArrival : ∀ b (s : State), exec (.lateLoadArrival b) s = execLateLoadArrival b s := fun _ _ => rfl
theorem exec_slackExpiry : ∀ b (s : State), exec (.slackExpiry b) s = execSlackExpiry b s := fun _ _ => rfl
theorem exec_idleEngineCycle : ∀ b (s : State), exec (.idleEngineCycle b) s = execIdleEngineCycle b s := fun _ _ => rfl
theorem exec_rotateEntry : ∀ b (s : State), exec (.rotateEntry b) s = execRotateEntry b s := fun _ _ => rfl
theorem exec_kstepWrite : ∀ b (s : State), exec (.kstepWrite b) s = execKstepWrite b s := fun _ _ => rfl
theorem exec_drainComplete : ∀ b (s : State), exec (.drainComplete b) s = execDrainComplete b s := fun _ _ => rfl
theorem exec_resume : ∀ b (s : State), exec (.resume b) s = execResume b s := fun _ _ => rfl
theorem exec_refresh : ∀ b (s : State), exec (.refresh b) s = execRefresh b s := fun _ _ => rfl
theorem exec_answerEnd : ∀ b (s : State), exec (.answerEnd b) s = execAnswerEnd b s := fun _ _ => rfl
theorem exec_preemptionSaveEnd : ∀ b (s : State), exec (.preemptionSaveEnd b) s = execPreemptionSaveEnd b s := fun _ _ => rfl
theorem exec_restore : ∀ b (s : State), exec (.restore b) s = execRestore b s := fun _ _ => rfl
theorem exec_launch : ∀ q (s : State), exec (.launch q) s = execLaunch q s := fun _ _ => rfl
theorem exec_launchEligible : ∀ d l (s : State), exec (.launchEligible d l) s = execLaunchEligible d l s := fun _ _ _ => rfl
theorem exec_launchAgeing : ∀ d l (s : State), exec (.launchAgeing d l) s = execLaunchAgeing d l s := fun _ _ _ => rfl
theorem exec_taskPlacement : ∀ d (s : State), exec (.taskPlacement d) s = execTaskPlacement d s := fun _ _ => rfl
theorem exec_placementThermalTimeout : ∀ d l (s : State), exec (.placementThermalTimeout d l) s = execPlacementThermalTimeout d l s := fun _ _ _ => rfl
theorem exec_launchRetire : ∀ d l (s : State), exec (.launchRetire d l) s = execLaunchRetire d l s := fun _ _ _ => rfl
theorem exec_chainFetch : ∀ l (s : State), exec (.chainFetch l) s = execChainFetch l s := fun _ _ => rfl
theorem exec_shadowStart : ∀ b (s : State), exec (.shadowStart b) s = execShadowStart b s := fun _ _ => rfl
theorem exec_fhintHoldExpiry : ∀ d l (s : State), exec (.fhintHoldExpiry d l) s = execFhintHoldExpiry d l s := fun _ _ _ => rfl
theorem exec_gridConfigure : ∀ g desc (s : State), exec (.gridConfigure g desc) s = execGridConfigure g desc s := fun _ _ _ => rfl
theorem exec_gridStart : ∀ g (s : State), exec (.gridStart g) s = execGridStart g s := fun _ _ => rfl
theorem exec_gridStop : ∀ g (s : State), exec (.gridStop g) s = execGridStop g s := fun _ _ => rfl
theorem exec_convOpen : ∀ m recVa (s : State), exec (.convOpen m recVa) s = execConvOpen m recVa s := fun _ _ _ => rfl
theorem exec_convClose : ∀ m (s : State), exec (.convClose m) s = execConvClose m s := fun _ _ => rfl
theorem exec_slotBoundary : ∀ d g (s : State), exec (.slotBoundary d g) s = execSlotBoundary d g s := fun _ _ _ => rfl
theorem exec_ingressGroup : ∀ d grp (s : State), exec (.ingressGroup d grp) s = execIngressGroup d grp s := fun _ _ _ => rfl
theorem exec_freqRequestTakeup : ∀ b (s : State), exec (.freqRequestTakeup b) s = execFreqRequestTakeup b s := fun _ _ => rfl
theorem exec_railStep : ∀ d (s : State), exec (.railStep d) s = execRailStep d s := fun _ _ => rfl
theorem exec_clockSwitchEnd : ∀ d (s : State), exec (.clockSwitchEnd d) s = execClockSwitchEnd d s := fun _ _ => rfl
theorem exec_stallratioSample : ∀ c stalled busy (s : State), exec (.stallratioSample c stalled busy) s = execStallratioSample c stalled busy s := fun _ _ _ _ => rfl
theorem exec_budgetGrant : ∀ d (s : State), exec (.budgetGrant d) s = execBudgetGrant d s := fun _ _ => rfl
theorem exec_sensorRefresh : ∀ d readings (s : State), exec (.sensorRefresh d readings) s = execSensorRefresh d readings s := fun _ _ _ => rfl
theorem exec_marverRailWindow : ∀ d (s : State), exec (.marverRailWindow d) s = execMarverRailWindow d s := fun _ _ => rfl
theorem exec_undervoltHoldEnd : ∀ d (s : State), exec (.undervoltHoldEnd d) s = execUndervoltHoldEnd d s := fun _ _ => rfl
theorem exec_setPointRestore : ∀ d (s : State), exec (.setPointRestore d) s = execSetPointRestore d s := fun _ _ => rfl
theorem exec_flitRetransmit : ∀ p (s : State), exec (.flitRetransmit p) s = execFlitRetransmit p s := fun _ _ => rfl
theorem exec_laneShed : ∀ p (s : State), exec (.laneShed p) s = execLaneShed p s := fun _ _ => rfl
theorem exec_laneRestore : ∀ p (s : State), exec (.laneRestore p) s = execLaneRestore p s := fun _ _ => rfl
theorem exec_linkRetrained : ∀ p (s : State), exec (.linkRetrained p) s = execLinkRetrained p s := fun _ _ => rfl
theorem exec_fabricCompletionError : ∀ b uid reason (s : State), exec (.fabricCompletionError b uid reason) s = execFabricCompletionError b uid reason s := fun _ _ _ _ => rfl
theorem exec_timeMessage : ∀ master (s : State), exec (.timeMessage master) s = execTimeMessage master s := fun _ _ => rfl
theorem exec_timeSyncLoss : ∀ s : State, exec .timeSyncLoss s = execTimeSyncLoss s := fun _ => rfl
theorem exec_doorbell : ∀ q tail (s : State), exec (.doorbell q tail) s = execDoorbell q tail s := fun _ _ _ => rfl
theorem exec_queueSchedule : ∀ s : State, exec .queueSchedule s = execQueueSchedule s := fun _ => rfl
theorem exec_ringNop : ∀ q (s : State), exec (.ringNop q) s = execRingNop q s := fun _ _ => rfl
theorem exec_ringSignal : ∀ q (s : State), exec (.ringSignal q) s = execRingSignal q s := fun _ _ => rfl
theorem exec_ringUnknownType : ∀ q (s : State), exec (.ringUnknownType q) s = execRingUnknownType q s := fun _ _ => rfl
theorem exec_queueCreate : ∀ q parms (s : State), exec (.queueCreate q parms) s = execQueueCreate q parms s := fun _ _ _ => rfl
theorem exec_queueReset : ∀ q (s : State), exec (.queueReset q) s = execQueueReset q s := fun _ _ => rfl
theorem exec_queueDestroy : ∀ q (s : State), exec (.queueDestroy q) s = execQueueDestroy q s := fun _ _ => rfl
theorem exec_poolCreate : ∀ d pool parms (s : State), exec (.poolCreate d pool parms) s = execPoolCreate d pool parms s := fun _ _ _ _ => rfl
theorem exec_poolSetLimit : ∀ d pool limit (s : State), exec (.poolSetLimit d pool limit) s = execPoolSetLimit d pool limit s := fun _ _ _ _ => rfl
theorem exec_poolWithdraw : ∀ d pool (s : State), exec (.poolWithdraw d pool) s = execPoolWithdraw d pool s := fun _ _ _ => rfl
theorem exec_pageTableChange : ∀ asn va level entry (s : State), exec (.pageTableChange asn va level entry) s = execPageTableChange asn va level entry s := fun _ _ _ _ _ => rfl
theorem exec_setThermalLimits : ∀ d place throttle critical (s : State), exec (.setThermalLimits d place throttle critical) s = execSetThermalLimits d place throttle critical s := fun _ _ _ _ _ => rfl
theorem exec_setBudget : ∀ d budget (s : State), exec (.setBudget d budget) s = execSetBudget d budget s := fun _ _ _ => rfl
theorem exec_setTrafficFilter : ∀ d parms (s : State), exec (.setTrafficFilter d parms) s = execSetTrafficFilter d parms s := fun _ _ _ => rfl
theorem exec_halt : ∀ b (s : State), exec (.halt b) s = execHalt b s := fun _ _ => rfl
theorem exec_stopseq : ∀ b e q (s : State), exec (.stopseq b e q) s = execStopseq b e q s := fun _ _ _ _ => rfl
theorem exec_brk : ∀ b idx (s : State), exec (.brk b idx) s = execBrk b idx s := fun _ _ _ => rfl
theorem exec_debugDisarm : ∀ b (s : State), exec (.debugDisarm b) s = execDebugDisarm b s := fun _ _ => rfl
theorem exec_debugStopMatch : ∀ b (s : State), exec (.debugStopMatch b) s = execDebugStopMatch b s := fun _ _ => rfl
theorem exec_status : ∀ b (s : State), exec (.status b) s = execStatus b s := fun _ _ => rfl
theorem exec_debugWrite : ∀ b tgt (s : State), exec (.debugWrite b tgt) s = execDebugWrite b tgt s := fun _ _ _ => rfl
theorem exec_errorWindowExpiry : ∀ loc (s : State), exec (.errorWindowExpiry loc) s = execErrorWindowExpiry loc s := fun _ _ => rfl
theorem exec_deviceStart : ∀ env (s : State), exec (.deviceStart env) s = execDeviceStart env s := fun _ _ => rfl
theorem exec_startWatchdog : ∀ s : State, exec .startWatchdog s = execStartWatchdog s := fun _ => rfl
theorem exec_writeImage : ∀ img (s : State), exec (.writeImage img) s = execWriteImage img s := fun _ _ => rfl
theorem exec_fullStart : ∀ s : State, exec .fullStart s = execFullStart s := fun _ => rfl
theorem exec_attest : ∀ host nonce (s : State), exec (.attest host nonce) s = execAttest host nonce s := fun _ _ _ => rfl
theorem exec_commanderSignature : ∀ host sig (s : State), exec (.commanderSignature host sig) s = execCommanderSignature host sig s := fun _ _ _ => rfl
theorem exec_commanderRelease : ∀ host (s : State), exec (.commanderRelease host) s = execCommanderRelease host s := fun _ _ => rfl
theorem exec_waitevDeadline : ∀ b (s : State), exec (.waitevDeadline b) s = execWaitevDeadline b s := fun _ _ => rfl
theorem exec_ctxqAnswer : ∀ b (s : State), exec (.ctxqAnswer b) s = execCtxqAnswer b s := fun _ _ => rfl
theorem exec_fabricEndpointAccess : ∀ ep acc (s : State), exec (.fabricEndpointAccess ep acc) s = execFabricEndpointAccess ep acc s := fun _ _ _ => rfl
theorem exec_ringFetchFault : ∀ q (s : State), exec (.ringFetchFault q) s = execRingFetchFault q s := fun _ _ => rfl
theorem exec_boardCapChange : ∀ d cap (s : State), exec (.boardCapChange d cap) s = execBoardCapChange d cap s := fun _ _ _ => rfl
theorem exec_marverRailStep : ∀ d (s : State), exec (.marverRailStep d) s = execMarverRailStep d s := fun _ _ => rfl
theorem exec_powerLoss : ∀ s : State, exec .powerLoss s = execPowerLoss s := fun _ => rfl

theorem listFrom_get {α : Type} (f : Nat → α) (n k i : Nat) (h : i < (listFrom f n k).length) : (listFrom f n k)[i] = f (k + i) := by
  induction n generalizing k i with
  | zero => simp [listFrom] at h
  | succ n ih =>
    cases i with
    | zero => rfl
    | succ i =>
      have h2 : i < (listFrom f n (k + 1)).length := by simpa [listFrom] using h
      have := ih (k + 1) i h2
      simp only [listFrom, List.getElem_cons_succ, this]
      congr 1
      omega

/-- An element of a vector given by its elements. -/
@[simp] theorem tabulate_get {α : Type} (n : Nat) (f : Nat → α) (e : Fin n) : (tabulate n f).get e = f e.val := by
  simp [tabulate, Vector.get_eq_getElem, listFrom_get]

end Sys2Proof.Machine
end

