-- ==== Sys2Proof/Laws/Memory.lean ====
section
/-! SUPPORT. Memory: reads after writes, and that every operation on memory keeps its canonical form. -/

namespace Sys2Proof.Machine

open Sys2Proof

/-! ### The canonical form -/

theorem Memory.wfFrom_mono {m : Memory} {a b : Nat} (h : Memory.wfFrom a m = true) (hb : b ≤ a) : Memory.wfFrom b m = true := by
  cases m with
  | nil => rfl
  | cons p m =>
    obtain ⟨k, v⟩ := p
    simp only [Memory.wfFrom, Bool.and_eq_true, decide_eq_true_eq] at h ⊢
    exact ⟨⟨by omega, h.1.2⟩, h.2⟩

theorem Memory.write_wfFrom {m : Memory} {lo a : Nat} (x : Byte) (h : Memory.wfFrom lo m = true) (ha : lo ≤ a) :
    Memory.wfFrom lo (m.write a x) = true := by
  induction m generalizing lo with
  | nil =>
    rw [Memory.write]
    split <;> simp_all [Memory.wfFrom]
  | cons p m ih =>
    obtain ⟨k, v⟩ := p
    have h' := h
    simp only [Memory.wfFrom, Bool.and_eq_true, decide_eq_true_eq, bne_iff_ne, ne_eq] at h
    rw [Memory.write]
    split
    · split
      · exact h'
      · rename_i hx
        simp only [Memory.wfFrom, Bool.and_eq_true, decide_eq_true_eq, bne_iff_ne, ne_eq]
        exact ⟨⟨ha, hx⟩, ⟨by omega, h.1.2⟩, h.2⟩
    · split
      · split
        · exact Memory.wfFrom_mono h.2 (by omega)
        · rename_i hk hx
          simp only [Memory.wfFrom, Bool.and_eq_true, decide_eq_true_eq, bne_iff_ne, ne_eq]
          subst hk
          exact ⟨⟨ha, hx⟩, h.2⟩
      · simp only [Memory.wfFrom, Bool.and_eq_true, decide_eq_true_eq, bne_iff_ne, ne_eq]
        exact ⟨h.1, ih h.2 (by omega)⟩

/-- A write keeps the canonical form. -/
theorem Memory.write_wf {m : Memory} (a : Nat) (x : Byte) (h : m.wf = true) : (m.write a x).wf = true :=
  Memory.write_wfFrom x h (Nat.zero_le _)

/-- A write of consecutive bytes keeps the canonical form. -/
theorem Memory.writes_wf {m : Memory} (a : Nat) (bs : List Byte) (h : m.wf = true) : (m.writes a bs).wf = true := by
  induction bs generalizing m a with
  | nil => exact h
  | cons x xs ih => exact ih _ (Memory.write_wf a x h)

theorem Memory.filter_wfFrom {m : Memory} {lo : Nat} (p : Nat × Byte → Bool) (h : Memory.wfFrom lo m = true) :
    Memory.wfFrom lo (m.filter p) = true := by
  induction m generalizing lo with
  | nil => rfl
  | cons q m ih =>
    obtain ⟨k, v⟩ := q
    have h' := h
    simp only [Memory.wfFrom, Bool.and_eq_true, decide_eq_true_eq] at h
    rw [List.filter_cons]
    split
    · simp only [Memory.wfFrom, Bool.and_eq_true, decide_eq_true_eq]
      exact ⟨h.1, ih h.2⟩
    · exact ih (Memory.wfFrom_mono h.2 (by omega))

/-- Clearing a range keeps the canonical form. -/
theorem Memory.clear_wf {m : Memory} (a n : Nat) (h : m.wf = true) : (m.clear a n).wf = true := Memory.filter_wfFrom _ h

/-- Writing the members of a list, each at a place of its own, keeps the canonical form. -/
theorem Memory.foldl_write_wf {α : Type} (xs : List α) (f : α → Nat) (g : α → Byte) {m : Memory} (h : m.wf = true) :
    (xs.foldl (fun acc p => acc.write (f p) (g p)) m).wf = true := by
  induction xs generalizing m with
  | nil => exact h
  | cons x xs ih => exact ih (Memory.write_wf _ _ h)

/-- Copying a range keeps the canonical form. -/
theorem Memory.copy_wf {m : Memory} (src n dst : Nat) (h : m.wf = true) : (m.copy src n dst).wf = true :=
  Memory.foldl_write_wf _ _ _ (Memory.clear_wf dst n h)

/-! ### Reads after writes -/

theorem Memory.read_below {m : Memory} {lo a : Nat} (h : Memory.wfFrom lo m = true) (ha : a < lo) : m.read a = 0 := by
  induction m generalizing lo with
  | nil => rfl
  | cons p m ih =>
    obtain ⟨k, v⟩ := p
    simp only [Memory.wfFrom, Bool.and_eq_true, decide_eq_true_eq] at h
    rw [Memory.read, if_neg (by omega)]
    exact ih h.2 (by omega)

/-- A write changes no other address. -/
theorem Memory.read_write_ne (m : Memory) {a b : Nat} (x : Byte) (h : b ≠ a) : (m.write a x).read b = m.read b := by
  induction m with
  | nil =>
    rw [Memory.write]
    split
    · rfl
    · simp [Memory.read, Ne.symm h]
  | cons p m ih =>
    obtain ⟨k, v⟩ := p
    rw [Memory.write]
    split
    · split
      · rfl
      · rw [Memory.read, if_neg (Ne.symm h)]
    · split
      · rename_i hk
        split
        · rw [Memory.read, if_neg (by omega)]
        · rw [Memory.read, Memory.read, if_neg (by omega), if_neg (by omega)]
      · rw [Memory.read, Memory.read, ih]

theorem Memory.read_write_from {m : Memory} {lo a : Nat} (x : Byte) (h : Memory.wfFrom lo m = true) :
    (m.write a x).read a = x := by
  induction m generalizing lo with
  | nil =>
    rw [Memory.write]
    split
    · rename_i hx; rw [hx]; rfl
    · simp [Memory.read]
  | cons p m ih =>
    obtain ⟨k, v⟩ := p
    simp only [Memory.wfFrom, Bool.and_eq_true, decide_eq_true_eq] at h
    rw [Memory.write]
    split
    · split
      · rename_i hk hx
        rw [Memory.read, if_neg (by omega), hx]
        exact Memory.read_below h.2 (by omega)
      · rw [Memory.read, if_pos rfl]
    · split
      · rename_i hk
        split
        · rename_i hx
          rw [hx]; exact Memory.read_below h.2 (by omega)
        · rw [Memory.read, if_pos rfl]
      · rw [Memory.read, if_neg (by omega)]
        exact ih h.2

/-- A written byte reads back. -/
theorem Memory.read_write {m : Memory} (a : Nat) (x : Byte) (h : m.wf = true) : (m.write a x).read a = x :=
  Memory.read_write_from x h

/-- A write of consecutive bytes changes no address outside them. -/
theorem Memory.read_writes_outside (m : Memory) (a b : Nat) (bs : List Byte) (h : b < a ∨ a + bs.length ≤ b) :
    (m.writes a bs).read b = m.read b := by
  induction bs generalizing m a with
  | nil => rfl
  | cons x xs ih =>
    rw [List.length_cons] at h
    rw [Memory.writes, ih _ _ (by omega), Memory.read_write_ne _ _ (by omega)]

/-- Consecutive bytes read back. -/
theorem Memory.read_writes {m : Memory} (a i : Nat) (bs : List Byte) (h : m.wf = true) (hi : i < bs.length) :
    (m.writes a bs).read (a + i) = bs.getD i 0 := by
  induction bs generalizing m a i with
  | nil => simp at hi
  | cons x xs ih =>
    cases i with
    | zero =>
      rw [Memory.writes, Memory.read_writes_outside _ _ _ _ (by omega), Nat.add_zero, Memory.read_write a x h]; rfl
    | succ i =>
      rw [Memory.writes, show a + (i + 1) = (a + 1) + i by omega]
      exact ih (a + 1) i (Memory.write_wf a x h) (by simpa using hi)

/-! ### Ranges of memory, and CHECK of a frame -/

/-- Consecutive reads where nothing was written are as before. -/
theorem Memory.reads_writes_outside (m : Memory) (a b n : Nat) (bs : List Byte) (h : b + n ≤ a ∨ a + bs.length ≤ b) :
    (m.writes a bs).reads b n = m.reads b n := by
  apply List.map_congr_left
  intro i hi
  rw [List.mem_range] at hi
  exact Memory.read_writes_outside m a (b + i) bs (by omega)

/-- A part of consecutive reads. -/
theorem Memory.reads_part (m : Memory) (a n i k : Nat) (h : i + k ≤ n) : ((m.reads a n).drop i).take k = m.reads (a + i) k := by
  apply List.ext_getElem
  · simp [Memory.reads]; omega
  · intro j h1 h2
    simp [Memory.reads, Nat.add_assoc]

/-- Of memory listed from an address on, the bytes from there on are its consecutive reads. -/
theorem Memory.spanFrom_eq (n a : Nat) (m : Memory) (h : Memory.wfFrom a m = true) : Memory.spanFrom n a m = m.reads a n := by
  induction n generalizing a m with
  | zero => cases m <;> rfl
  | succ n ih =>
    rw [Memory.reads, List.range_succ_eq_map, List.map_cons, List.map_map]
    have tail : ∀ t : Memory, (fun i => t.read (a + i)) ∘ Nat.succ = fun i => t.read (a + 1 + i) := by
      intro t; funext i; simp [Nat.succ_eq_add_one, Nat.add_assoc, Nat.add_comm 1 i]
    rw [tail]
    cases m with
    | nil => rw [Memory.spanFrom, ih _ _ rfl]; rfl
    | cons p m =>
      obtain ⟨k, v⟩ := p
      have hw := h
      simp only [Memory.wfFrom, Bool.and_eq_true, decide_eq_true_eq] at h
      rw [Memory.spanFrom]
      split
      · rename_i e
        subst e
        simp only [Nat.add_zero]
        rw [ih _ _ h.2, Memory.read, if_pos rfl, Memory.reads]
        congr 1
        exact List.map_congr_left fun i _ => by rw [Memory.read, if_neg (by omega)]
      · rename_i e
        have hk : Memory.wfFrom (a + 1) ((k, v) :: m) = true := by
          simp only [Memory.wfFrom, Bool.and_eq_true, decide_eq_true_eq]
          exact ⟨⟨by omega, h.1.2⟩, h.2⟩
        rw [ih _ _ hk, Nat.add_zero, Memory.read_below hk (by omega), Memory.reads]

/-- What stands before an address does not matter to the reads from it on. -/
theorem Memory.dropBelow {m : Memory} {lo : Nat} (a : Nat) (h : Memory.wfFrom lo m = true) :
    Memory.wfFrom a (m.dropWhile fun p => decide (p.1 < a)) = true
      ∧ ∀ b, a ≤ b → Memory.read (m.dropWhile fun p => decide (p.1 < a)) b = m.read b := by
  induction m generalizing lo with
  | nil => exact ⟨rfl, fun _ _ => rfl⟩
  | cons p m ih =>
    obtain ⟨k, v⟩ := p
    have hw := h
    simp only [Memory.wfFrom, Bool.and_eq_true, decide_eq_true_eq] at h
    rw [List.dropWhile_cons]
    split
    · rename_i e
      rw [decide_eq_true_eq] at e
      refine ⟨(ih h.2).1, fun b hb => ?_⟩
      rw [(ih h.2).2 b hb, Memory.read, if_neg]
      intro e'
      have : k < a := e
      omega
    · rename_i e
      have e' : ¬ k < a := by simpa using e
      refine ⟨?_, fun _ _ => rfl⟩
      simp only [Memory.wfFrom, Bool.and_eq_true, decide_eq_true_eq]
      exact ⟨⟨by omega, h.1.2⟩, h.2⟩

/-- The bytes of a range of memory are its consecutive reads. -/
theorem Memory.span_eq {m : Memory} (a n : Nat) (h : m.wf = true) : m.span a n = m.reads a n := by
  have hd := Memory.dropBelow a h
  rw [Memory.span, Memory.spanFrom_eq _ _ _ hd.1]
  exact List.map_congr_left fun i _ => hd.2 _ (by omega)

/-- Of a frame's regions the header is the last, and holds CHECK in its last 8 bytes (17 R367, R368). -/
theorem Bank.frameRanges_bounds (b : Bank) (kind : Nat) : ∀ r ∈ b.frameRanges kind, r = (0x3FC00, 0x200) ∨ r.1 + r.2 ≤ 0x3FC00 := by
  have hi : b.imageBytes.length ≤ 0xB300 := by simp [Bank.imageBytes]
  have one : ∀ (c : Prop) [Decidable c] (q r : Nat × Nat), q.1 + q.2 ≤ 0x3FC00 → r ∈ (if c then [q] else []) → r.1 + r.2 ≤ 0x3FC00 := by
    intro c _ q r h hr
    split at hr
    · rw [List.mem_singleton] at hr
      rw [hr]
      exact h
    · cases hr
  intro r hr
  simp only [Bank.frameRanges, List.mem_append, or_assoc] at hr
  rcases hr with h | h | h | h | h | h | h | h | h | h | h
  · right
    split at h
    · obtain ⟨a, -, rfl⟩ := List.mem_map.1 h
      have := a.isLt
      show 0xC000 * a.val + 0xC000 ≤ 0x3FC00
      omega
    · cases h
  · right
    split at h
    · exact one _ _ r (by decide) h
    · cases h
  · exact .inr (one _ _ r (show 0x34000 + b.imageBytes.length ≤ 0x3FC00 by omega) h)
  all_goals first | exact .inr (one _ _ r (by decide) h) | exact .inl (List.mem_singleton.1 h)

/-- A write of CHECK does not change the CRC of the frame, which takes CHECK as zero (17 R368). -/
theorem Store.frameCrc_check {st : Store} (n : BankId) (b : Bank) (kind x : Nat) (h : st.mem.wf = true) :
    ({ st with mem := st.mem.writes (saveBase n + 0x3FDF8) (le8 x) } : Store).frameCrc n (b.frameRanges kind)
      = st.frameCrc n (b.frameRanges kind) := by
  have hl : (le8 x).length = 8 := by simp [le8, leBytes]
  unfold Store.frameCrc
  congr 1
  apply List.flatMap_congr
  intro r hr
  simp only [Memory.span_eq _ _ (Memory.writes_wf _ _ h), Memory.span_eq _ _ h]
  rcases b.frameRanges_bounds kind r hr with rfl | hb
  · rw [if_pos rfl, if_pos rfl, Memory.reads_part _ _ _ _ _ (by decide), Memory.reads_part _ _ _ _ _ (by decide),
      Memory.reads_writes_outside _ _ _ _ _ (by omega)]
  · rw [Memory.reads_writes_outside _ _ _ _ _ (by omega)]

/-! ### The storage levels -/

/-- Setting check bits changes no memory. -/
theorem Store.writeEcc_frame (st : Store) (l n u : Nat) :
    st.writeEcc l n u = { st with ecc := (st.writeEcc l n u).ecc, latent := (st.writeEcc l n u).latent } := by
  unfold Store.writeEcc Store.setEcc
  split
  · rfl
  · split <;> rfl

theorem Store.foldl_writeEcc_frame (us : List Nat) (l n : Nat) (st : Store) :
    us.foldl (fun st u => st.writeEcc l n u) st
      = { st with ecc := (us.foldl (fun st u => st.writeEcc l n u) st).ecc, latent := (us.foldl (fun st u => st.writeEcc l n u) st).latent } := by
  induction us generalizing st with
  | nil => rfl
  | cons u us ih =>
    rw [List.foldl_cons, ih]
    have h := st.writeEcc_frame l n u
    generalize st.writeEcc l n u = s1 at h ⊢
    rw [h]

/-- A line that comes from HBM brings its check bits and nothing else. -/
theorem Store.fillLine_frame (st : Store) (line : Nat) :
    st.fillLine line = { st with ecc := (st.fillLine line).ecc, hbmEcc := (st.fillLine line).hbmEcc } := by
  unfold Store.fillLine
  split <;> rfl

theorem Store.foldl_fillLine_frame (xs : List Nat) (st : Store) :
    xs.foldl Store.fillLine st = { st with ecc := (xs.foldl Store.fillLine st).ecc, hbmEcc := (xs.foldl Store.fillLine st).hbmEcc } := by
  induction xs generalizing st with
  | nil => rfl
  | cons x xs ih =>
    rw [List.foldl_cons, ih]
    have h := st.fillLine_frame x
    generalize st.fillLine x = s1 at h ⊢
    rw [h]

/-- A write back changes HBM, its check bits and the dirty lines. -/
theorem Store.writeBack_frame (st : Store) (lines : List Nat) :
    st.writeBack lines
      = { st with hbm := (st.writeBack lines).hbm, hbmEcc := (st.writeBack lines).hbmEcc, dirty := (st.writeBack lines).dirty } := by
  unfold Store.writeBack
  simp only []
  split <;> rfl

/-- A line that leaves its L2 changes HBM, the dirty lines and the check bits. -/
theorem Store.evict_frame (st : Store) (line : Nat) :
    st.evict line = { st with
      hbm := (st.evict line).hbm, hbmEcc := (st.evict line).hbmEcc, dirty := (st.evict line).dirty
      ecc := (st.evict line).ecc, tagEcc := (st.evict line).tagEcc } := by
  unfold Store.evict
  rw [Store.writeBack_frame]

theorem Store.foldl_evict_frame (xs : List Nat) (st : Store) :
    xs.foldl Store.evict st = { st with
      hbm := (xs.foldl Store.evict st).hbm, hbmEcc := (xs.foldl Store.evict st).hbmEcc, dirty := (xs.foldl Store.evict st).dirty
      ecc := (xs.foldl Store.evict st).ecc, tagEcc := (xs.foldl Store.evict st).tagEcc } := by
  induction xs generalizing st with
  | nil => rfl
  | cons x xs ih =>
    rw [List.foldl_cons, ih]
    have h := st.evict_frame x
    generalize st.evict x = s1 at h ⊢
    rw [h]

/-- The lines that a write brings from HBM come with their check bits and nothing else. -/
theorem Store.filled_frame (st : Store) (l n : Nat) :
    ∃ e f, (if st.hbmEcc.isEmpty then st else (linesOf l n).foldl Store.fillLine st) = { st with ecc := e, hbmEcc := f } := by
  split
  · exact ⟨st.ecc, st.hbmEcc, rfl⟩
  · exact ⟨_, _, Store.foldl_fillLine_frame _ _⟩

/-- A write where no forward moves it writes its bytes; the pools, lines, forwards, locks and epochs are as before. -/
theorem Store.putAt_frame (st : Store) (d : Die) (l : Nat) (bs : List Byte) :
    st.putAt d l bs = { st with
      mem := st.mem.writes l bs, dirty := (st.putAt d l bs).dirty, remote := (st.putAt d l bs).remote
      fills := (st.putAt d l bs).fills, ecc := (st.putAt d l bs).ecc, hbmEcc := (st.putAt d l bs).hbmEcc
      hbm := (st.putAt d l bs).hbm, tagEcc := (st.putAt d l bs).tagEcc
      latent := (st.putAt d l bs).latent, waits := (st.putAt d l bs).waits, lwaits := (st.putAt d l bs).lwaits } := by
  obtain ⟨e, f, h⟩ := st.filled_frame l bs.length
  unfold Store.putAt
  simp only []
  rw [h, Store.foldl_writeEcc_frame]
  split
  · rfl
  · rw [Store.foldl_evict_frame]; rfl

/-- Where no set is left out of use, a write leaves the HBM behind the caches and the tags as they are (20 R414). -/
theorem Store.putAt_hbm {st : Store} (d : Die) (l : Nat) (bs : List Byte) (h : st.out.isEmpty = true) :
    (st.putAt d l bs).hbm = st.hbm ∧ (st.putAt d l bs).tagEcc = st.tagEcc := by
  obtain ⟨e, f, hf⟩ := st.filled_frame l bs.length
  unfold Store.putAt
  simp only []
  rw [if_pos h, hf, Store.foldl_writeEcc_frame]
  exact ⟨rfl, rfl⟩

/-- A write to storage, or to lines that are all pinned, is one write where its location leads (02 R65). -/
theorem Store.put_whole {st : Store} (d : Die) (l : Nat) (bs : List Byte)
    (h : st.resolve l < 2 ^ 48 ∨ (linesOf (st.resolve l) bs.length).all (fun x => st.lineSt x == some .pinned) = true) :
    st.put d l bs = st.putAt d (st.resolve l) bs := by
  unfold Store.put; exact if_pos h

/-- The memory of the caches and the HBM are in the canonical form. -/
def Store.Canonical (st : Store) : Prop := st.mem.wf = true ∧ st.hbm.wf = true

/-- A fold of operations that keep the canonical form keeps it. -/
theorem Store.foldl_canonical {α : Type} (xs : List α) (f : Store → α → Store) {st : Store} (h : st.Canonical)
    (hf : ∀ t x, t.Canonical → (f t x).Canonical) : (xs.foldl f st).Canonical := by
  induction xs generalizing st with
  | nil => exact h
  | cons x xs ih => exact ih (hf _ _ h)

theorem Memory.foldl_writes_wf {α : Type} (xs : List α) (f : α → Nat) (g : α → List Byte) {m : Memory} (h : m.wf = true) :
    (xs.foldl (fun acc p => acc.writes (f p) (g p)) m).wf = true := by
  induction xs generalizing m with
  | nil => exact h
  | cons x xs ih => exact ih (Memory.writes_wf _ _ h)

theorem Store.writeBack_canonical {st : Store} (lines : List Nat) (h : st.Canonical) : (st.writeBack lines).Canonical := by
  unfold Store.writeBack
  simp only []
  split
  · exact h
  · exact ⟨h.1, Memory.foldl_writes_wf _ (fun x => x * 128) (fun x => st.mem.reads (x * 128) 128) h.2⟩

theorem Store.evict_canonical {st : Store} (line : Nat) (h : st.Canonical) : (st.evict line).Canonical :=
  Store.writeBack_canonical (st := st) [line] h

theorem Store.putAt_canonical {st : Store} (d : Die) (l : Nat) (bs : List Byte) (h : st.Canonical) : (st.putAt d l bs).Canonical := by
  obtain ⟨e, f, hf⟩ := st.filled_frame l bs.length
  unfold Store.putAt
  simp only []
  rw [hf, Store.foldl_writeEcc_frame]
  have h2 : (st.mem.writes l bs).wf = true ∧ st.hbm.wf = true := ⟨Memory.writes_wf _ _ h.1, h.2⟩
  split
  · exact h2
  · exact Store.foldl_canonical _ Store.evict h2 fun t x ht => Store.evict_canonical x ht

theorem Store.put_canonical {st : Store} (d : Die) (l : Nat) (bs : List Byte) (h : st.Canonical) : (st.put d l bs).Canonical := by
  unfold Store.put
  simp only []
  split
  · exact Store.putAt_canonical d _ bs h
  · refine Store.foldl_canonical _ _ h fun t x ht => ?_
    split
    · exact Store.putAt_canonical d _ _ ht
    · exact ht

theorem Store.copyFrame_canonical {st : Store} (src n dst : Nat) (h : st.Canonical) : (st.copyFrame src n dst).Canonical :=
  ⟨Memory.copy_wf src n dst h.1, Memory.foldl_write_wf _ _ _ (Memory.clear_wf dst n h.2)⟩

theorem Store.modPool_frame (st : Store) (d : Die) (n : Nat) (f : Pool → Pool) : st.modPool d n f = { st with pools := (st.modPool d n f).pools } := rfl

theorem Store.lose_canonical {st : Store} (line : Nat) (h : st.Canonical) : (st.lose line).Canonical := by
  unfold Store.lose
  split
  · exact ⟨Memory.clear_wf _ _ h.1, h.2⟩
  · exact h

theorem Store.dropLine_canonical {st : Store} (line : Nat) (h : st.Canonical) : (st.dropLine line).Canonical := by
  unfold Store.dropLine
  split
  · exact h
  · dsimp only
    split <;> exact ⟨Memory.clear_wf _ _ h.1, h.2⟩

theorem Store.foldl_dropLine_canonical (xs : List (Nat × LineSt)) {st : Store} (h : st.Canonical) :
    (xs.foldl (fun (st : Store) (p : Nat × LineSt) => st.dropLine p.1) st).Canonical :=
  Store.foldl_canonical xs _ h fun _ x ht => Store.dropLine_canonical x.1 ht

theorem Store.pin_canonical {st : Store} (lines : List Nat) (h : st.Canonical) : (st.pin lines).Canonical := by
  refine Store.foldl_canonical lines _ h fun t x ht => ?_
  dsimp only
  split
  · exact ht
  · exact ⟨Memory.clear_wf _ _ ht.1, ht.2⟩

theorem Store.wback_canonical {st : Store} (d : Die) (l n : Nat) (h : st.Canonical) : (st.wback d l n).Canonical := by
  unfold Store.wback
  exact Store.writeBack_canonical (st := st.dropCopies d _ n) _ h

theorem Store.discard_canonical {st : Store} (d : Die) (l n : Nat) (h : st.Canonical) : (st.discard d l n).Canonical := by
  have h1 : (st.dropCopies d l n).Canonical := h
  have h2 (r : Nat) : ((List.range (n / 128)).foldl (fun st k => st.put d (r + 128 * k) (List.replicate 128 0)) (st.dropCopies d l n)).Canonical :=
    Store.foldl_canonical _ (fun (st : Store) k => st.put d (r + 128 * k) (List.replicate 128 0)) h1 fun t k ht => Store.put_canonical _ _ _ ht
  have h3 (r : Nat) : ((((st.dropCopies d l n).linesIn r n).foldl (fun st p => st.dropLine p.1) (st.dropCopies d l n)).retest r n).Canonical :=
    Store.foldl_dropLine_canonical _ h1
  unfold Store.discard
  exact (apply_ite Store.Canonical _ _ _).mpr (ite_prop_iff_and.mpr ⟨fun _ => h3 _, fun _ => h2 _⟩)

theorem Store.toFrame_canonical {st : Store} (l n frame : Nat) (h : st.Canonical) : (st.toFrame l n frame).Canonical := by
  unfold Store.toFrame
  exact Store.foldl_dropLine_canonical _ (Store.copyFrame_canonical l n frame h)

theorem Store.toUnbacked_canonical {st : Store} (l n dst : Nat) (h : st.Canonical) : (st.toUnbacked l n dst).Canonical := by
  have h1 : ((st.linesIn dst n).foldl (fun (st : Store) p => st.dropLine p.1) st).Canonical := Store.foldl_dropLine_canonical _ h
  unfold Store.toUnbacked
  have h2 : ({ (st.linesIn dst n).foldl (fun (st : Store) p => st.dropLine p.1) st with
      mem := ((st.linesIn dst n).foldl (fun (st : Store) p => st.dropLine p.1) st).mem.copy l n dst
      ecc := copyEcc ((st.linesIn dst n).foldl (fun (st : Store) p => st.dropLine p.1) st).ecc l n dst } : Store).Canonical :=
    ⟨Memory.copy_wf l n dst h1.1, h1.2⟩
  exact Store.foldl_dropLine_canonical _ h2

end Sys2Proof.Machine
end

