-- ==== Sys2Proof/Laws/Reads.lean ====
section
/-! SUPPORT. What a read finds of stored errors, and the operations that bring poison, move pages, or perform stores beside others. -/

namespace Sys2Proof.Machine

open Sys2Proof

/-- Where each stored error is poison, a read finds nothing to correct, to mark or to count (03 R85). -/
theorem State.senseUnit_poison (s : State) (u : Nat) (he : ∀ p ∈ s.store.ecc, p.2 = .poison) (hh : s.store.hbmEcc = []) (ht : s.store.tagEcc = []) :
    s.senseUnit u = s := by
  have hh' : ∀ v, s.senseHbmBy State.countError v = s := fun v => by simp [State.senseHbmBy, hh]
  have htg : ∀ v, s.senseHomeTagBy State.countError v = s := fun v => by simp [State.senseHomeTagBy, ht]
  simp only [State.senseUnit, State.senseUnitBy, htg]
  split
  · exact hh' _
  · rfl
  all_goals
    rename_i h
    obtain ⟨p, hp, hx⟩ := Option.map_eq_some_iff.mp h
    exact absurd ((he p (List.mem_of_find?_eq_some hp)).symm.trans hx) (by decide)

/-- Nor does a read of a range. -/
theorem State.sense_poison (s : State) (l n : Nat) (he : ∀ p ∈ s.store.ecc, p.2 = .poison) (hh : s.store.hbmEcc = []) (ht : s.store.tagEcc = []) :
    s.sense l n = s := by
  have hf : ∀ us : List Nat, us.foldl State.senseUnit s = s := by
    intro us
    induction us with
    | nil => rfl
    | cons u us ih => simpa [State.senseUnit_poison s u he hh ht] using ih
  simp [State.sense, hf]

/-- Then a read of regions of a save area leaves the state and names the first poisoned unit. -/
theorem State.readArea_poison (s : State) (n : BankId) (rs : List (Nat × Nat)) (hc : s.store.clean = false) (he : ∀ p ∈ s.store.ecc, p.2 = .poison)
    (hh : s.store.hbmEcc = []) (ht : s.store.tagEcc = []) :
    s.readArea n rs = (s, ((rs.map fun r => (saveBase n + r.1, r.2)).flatMap fun r => unitsOf r.1 r.2).find? s.store.badUnit) := by
  have hf : ∀ us : List (Nat × Nat), us.foldl (fun (t : State) r => t.sense r.1 r.2) s = s := by
    intro us
    induction us with
    | nil => rfl
    | cons u us ih => simpa [State.sense_poison s _ _ he hh ht] using ih
  simp only [State.readArea, hc, hf]
  rfl
/-- With no stored error a read of a range, by any agent, leaves the state. -/
theorem State.sense_clean (s : State) (l n : Nat) (h : s.store.clean = true) : s.sense l n = s := by simp [State.sense, h]

theorem State.senseFor_clean (s : State) (d : Die) (l n : Nat) (h : s.store.clean = true) : s.senseFor d l n = s := by simp [State.senseFor, h]

theorem State.senseMerge_clean (s : State) (d : Die) (l n : Nat) (h : s.store.clean = true) : s.senseMerge d l n = s := by
  simp [State.senseMerge, State.senseMergeBy, h]

theorem State.senseRange_clean (s : State) (l n : Nat) (h : s.store.clean = true) : s.senseRange l n = s := by simp [State.senseRange, h]

theorem State.readArea_clean (s : State) (n : BankId) (rs : List (Nat × Nat)) (h : s.store.clean = true) : s.readArea n rs = (s, none) := by
  simp [State.readArea, h]

/-- No traffic filter logs anything where none is on. -/
theorem State.frameTraffic_off (s : State) (f n : Nat) (h : ∀ d, s.gaffer.filtersOn d = false) : s.frameTraffic f n = s := by
  simp [State.frameTraffic, h]

/-- An operation that pushes no token settles none of its predecessors as it completes. -/
theorem State.settlePreds_none (s : State) (b : BankId) (o : Op) (h : o.push = 0) : s.settlePreds b o = s := by simp [State.settlePreds, h]

/-- Marking a unit as poison leaves the bytes. -/
theorem Store.poisonUnit_frame (st : Store) (d : Die) (u : Nat) : (st.poisonUnit d u).mem = st.mem ∧ (st.poisonUnit d u).hbm = st.hbm := by
  simp only [Store.poisonUnit]
  split
  · exact ⟨rfl, rfl⟩
  · split <;> exact ⟨rfl, rfl⟩

/-- Stores that bring poison store the same bytes as without it. -/
theorem Store.putBad_frame (st : Store) (d : Die) (us : List Nat) (ps : List (Nat × List Byte)) :
    (st.putBad d us ps).mem = (ps.foldl (fun st q => st.put d q.1 q.2) st).mem
      ∧ (st.putBad d us ps).hbm = (ps.foldl (fun st q => st.put d q.1 q.2) st).hbm := by
  have h1 (t : Store) : (us.foldl (fun st u => st.poisonUnit d u) t).mem = t.mem ∧ (us.foldl (fun st u => st.poisonUnit d u) t).hbm = t.hbm := by
    induction us generalizing t with
    | nil => exact ⟨rfl, rfl⟩
    | cons u us ih => exact ⟨(ih _).1.trans (t.poisonUnit_frame d u).1, (ih _).2.trans (t.poisonUnit_frame d u).2⟩
  have h2 (qs : List (Nat × List Byte)) (t : Store) :
      (qs.foldl (fun st q => st.retest (st.resolve q.1) q.2.length) t).mem = t.mem
        ∧ (qs.foldl (fun st q => st.retest (st.resolve q.1) q.2.length) t).hbm = t.hbm := by
    induction qs generalizing t with
    | nil => exact ⟨rfl, rfl⟩
    | cons q qs ih => exact ⟨(ih _).1, (ih _).2⟩
  unfold Store.putBad
  exact ⟨(h2 _ _).1.trans (h1 _).1, (h2 _ _).2.trans (h1 _).2⟩

theorem Store.putBad_canonical {st : Store} (d : Die) (us : List Nat) (ps : List (Nat × List Byte)) (h : st.Canonical) :
    (st.putBad d us ps).Canonical := by
  have hp := Store.foldl_canonical ps (fun (st : Store) q => st.put d q.1 q.2) h fun t q ht => Store.put_canonical _ _ _ ht
  exact ⟨(st.putBad_frame d us ps).1 ▸ hp.1, (st.putBad_frame d us ps).2 ▸ hp.2⟩

end Sys2Proof.Machine
end

