-- ==== Sys2Proof/Laws/State.lean ====
section
/-! SUPPORT. The small laws of the state: what each update of the state and of a bank leaves, one lemma per field. -/

namespace Sys2Proof.Machine

open Sys2Proof

@[simp] theorem State.setBank_agenda (s : State) (b : BankId) (x : Bank) : (s.setBank b x).agenda = s.agenda := rfl
@[simp] theorem State.setBank_cur (s : State) (b : BankId) (x : Bank) : (s.setBank b x).cur = s.cur := rfl
@[simp] theorem State.setBank_active (s : State) (b : BankId) (x : Bank) : (s.setBank b x).active = s.active := rfl
@[simp] theorem State.setBank_turn (s : State) (b : BankId) (x : Bank) : (s.setBank b x).turn = s.turn := rfl
@[simp] theorem State.setBank_pace (s : State) (b : BankId) (x : Bank) : (s.setBank b x).pace = s.pace := rfl
@[simp] theorem State.setBank_delays (s : State) (b : BankId) (x : Bank) : (s.setBank b x).delays = s.delays := rfl
@[simp] theorem State.setBank_choices (s : State) (b : BankId) (x : Bank) : (s.setBank b x).choices = s.choices := rfl
@[simp] theorem State.setBank_free (s : State) (b : BankId) (x : Bank) : (s.setBank b x).free = s.free := rfl
@[simp] theorem State.setBank_time (s : State) (b : BankId) (x : Bank) : (s.setBank b x).time = s.time := rfl
@[simp] theorem State.setBank_cores (s : State) (b : BankId) (x : Bank) : (s.setBank b x).cores = s.cores := rfl
@[simp] theorem State.setBank_saves (s : State) (b : BankId) (x : Bank) : (s.setBank b x).saves = s.saves := rfl
@[simp] theorem State.setBank_frames (s : State) (b : BankId) (x : Bank) : (s.setBank b x).frames = s.frames := rfl
@[simp] theorem State.setBank_incoming (s : State) (b : BankId) (x : Bank) : (s.setBank b x).incoming = s.incoming := rfl
@[simp] theorem State.setBank_store (s : State) (b : BankId) (x : Bank) : (s.setBank b x).store = s.store := rfl
@[simp] theorem State.setBank_xl (s : State) (b : BankId) (x : Bank) : (s.setBank b x).xl = s.xl := rfl
@[simp] theorem State.setBank_launches (s : State) (b : BankId) (x : Bank) : (s.setBank b x).launches = s.launches := rfl
@[simp] theorem State.setBank_lehr (s : State) (b : BankId) (x : Bank) : (s.setBank b x).lehr = s.lehr := rfl
@[simp] theorem State.setBank_power (s : State) (b : BankId) (x : Bank) : (s.setBank b x).power = s.power := rfl
@[simp] theorem State.setBank_fabric (s : State) (b : BankId) (x : Bank) : (s.setBank b x).fabric = s.fabric := rfl
@[simp] theorem State.setBank_gaffer (s : State) (b : BankId) (x : Bank) : (s.setBank b x).gaffer = s.gaffer := rfl
@[simp] theorem State.setBank_boot (s : State) (b : BankId) (x : Bank) : (s.setBank b x).boot = s.boot := rfl

@[simp] theorem State.modBank_agenda (s : State) (b : BankId) (f : Bank → Bank) : (s.modBank b f).agenda = s.agenda := rfl
@[simp] theorem State.modBank_cur (s : State) (b : BankId) (f : Bank → Bank) : (s.modBank b f).cur = s.cur := rfl
@[simp] theorem State.modBank_active (s : State) (b : BankId) (f : Bank → Bank) : (s.modBank b f).active = s.active := rfl
@[simp] theorem State.modBank_turn (s : State) (b : BankId) (f : Bank → Bank) : (s.modBank b f).turn = s.turn := rfl
@[simp] theorem State.modBank_pace (s : State) (b : BankId) (f : Bank → Bank) : (s.modBank b f).pace = s.pace := rfl
@[simp] theorem State.modBank_delays (s : State) (b : BankId) (f : Bank → Bank) : (s.modBank b f).delays = s.delays := rfl
@[simp] theorem State.modBank_choices (s : State) (b : BankId) (f : Bank → Bank) : (s.modBank b f).choices = s.choices := rfl
@[simp] theorem State.modBank_free (s : State) (b : BankId) (f : Bank → Bank) : (s.modBank b f).free = s.free := rfl
@[simp] theorem State.modBank_time (s : State) (b : BankId) (f : Bank → Bank) : (s.modBank b f).time = s.time := rfl
@[simp] theorem State.modBank_cores (s : State) (b : BankId) (f : Bank → Bank) : (s.modBank b f).cores = s.cores := rfl
@[simp] theorem State.modBank_saves (s : State) (b : BankId) (f : Bank → Bank) : (s.modBank b f).saves = s.saves := rfl
@[simp] theorem State.modBank_frames (s : State) (b : BankId) (f : Bank → Bank) : (s.modBank b f).frames = s.frames := rfl
@[simp] theorem State.modBank_incoming (s : State) (b : BankId) (f : Bank → Bank) : (s.modBank b f).incoming = s.incoming := rfl
@[simp] theorem State.modBank_store (s : State) (b : BankId) (f : Bank → Bank) : (s.modBank b f).store = s.store := rfl
@[simp] theorem State.modBank_xl (s : State) (b : BankId) (f : Bank → Bank) : (s.modBank b f).xl = s.xl := rfl
@[simp] theorem State.modBank_launches (s : State) (b : BankId) (f : Bank → Bank) : (s.modBank b f).launches = s.launches := rfl
@[simp] theorem State.modBank_lehr (s : State) (b : BankId) (f : Bank → Bank) : (s.modBank b f).lehr = s.lehr := rfl
@[simp] theorem State.modBank_power (s : State) (b : BankId) (f : Bank → Bank) : (s.modBank b f).power = s.power := rfl
@[simp] theorem State.modBank_fabric (s : State) (b : BankId) (f : Bank → Bank) : (s.modBank b f).fabric = s.fabric := rfl
@[simp] theorem State.modBank_gaffer (s : State) (b : BankId) (f : Bank → Bank) : (s.modBank b f).gaffer = s.gaffer := rfl
@[simp] theorem State.modBank_boot (s : State) (b : BankId) (f : Bank → Bank) : (s.modBank b f).boot = s.boot := rfl

@[simp] theorem State.modCore_agenda (s : State) (c : CoreId) (f : CoreSt → CoreSt) : (s.modCore c f).agenda = s.agenda := rfl
@[simp] theorem State.modCore_cur (s : State) (c : CoreId) (f : CoreSt → CoreSt) : (s.modCore c f).cur = s.cur := rfl
@[simp] theorem State.modCore_active (s : State) (c : CoreId) (f : CoreSt → CoreSt) : (s.modCore c f).active = s.active := rfl
@[simp] theorem State.modCore_turn (s : State) (c : CoreId) (f : CoreSt → CoreSt) : (s.modCore c f).turn = s.turn := rfl
@[simp] theorem State.modCore_pace (s : State) (c : CoreId) (f : CoreSt → CoreSt) : (s.modCore c f).pace = s.pace := rfl
@[simp] theorem State.modCore_delays (s : State) (c : CoreId) (f : CoreSt → CoreSt) : (s.modCore c f).delays = s.delays := rfl
@[simp] theorem State.modCore_choices (s : State) (c : CoreId) (f : CoreSt → CoreSt) : (s.modCore c f).choices = s.choices := rfl
@[simp] theorem State.modCore_free (s : State) (c : CoreId) (f : CoreSt → CoreSt) : (s.modCore c f).free = s.free := rfl
@[simp] theorem State.modCore_time (s : State) (c : CoreId) (f : CoreSt → CoreSt) : (s.modCore c f).time = s.time := rfl
@[simp] theorem State.modCore_banks (s : State) (c : CoreId) (f : CoreSt → CoreSt) : (s.modCore c f).banks = s.banks := rfl
@[simp] theorem State.modCore_saves (s : State) (c : CoreId) (f : CoreSt → CoreSt) : (s.modCore c f).saves = s.saves := rfl
@[simp] theorem State.modCore_frames (s : State) (c : CoreId) (f : CoreSt → CoreSt) : (s.modCore c f).frames = s.frames := rfl
@[simp] theorem State.modCore_incoming (s : State) (c : CoreId) (f : CoreSt → CoreSt) : (s.modCore c f).incoming = s.incoming := rfl
@[simp] theorem State.modCore_store (s : State) (c : CoreId) (f : CoreSt → CoreSt) : (s.modCore c f).store = s.store := rfl
@[simp] theorem State.modCore_xl (s : State) (c : CoreId) (f : CoreSt → CoreSt) : (s.modCore c f).xl = s.xl := rfl
@[simp] theorem State.modCore_launches (s : State) (c : CoreId) (f : CoreSt → CoreSt) : (s.modCore c f).launches = s.launches := rfl
@[simp] theorem State.modCore_lehr (s : State) (c : CoreId) (f : CoreSt → CoreSt) : (s.modCore c f).lehr = s.lehr := rfl
@[simp] theorem State.modCore_power (s : State) (c : CoreId) (f : CoreSt → CoreSt) : (s.modCore c f).power = s.power := rfl
@[simp] theorem State.modCore_fabric (s : State) (c : CoreId) (f : CoreSt → CoreSt) : (s.modCore c f).fabric = s.fabric := rfl
@[simp] theorem State.modCore_gaffer (s : State) (c : CoreId) (f : CoreSt → CoreSt) : (s.modCore c f).gaffer = s.gaffer := rfl
@[simp] theorem State.modCore_boot (s : State) (c : CoreId) (f : CoreSt → CoreSt) : (s.modCore c f).boot = s.boot := rfl

@[simp] theorem State.modStore_agenda (s : State) (f : Store → Store) : (s.modStore f).agenda = s.agenda := rfl
@[simp] theorem State.modStore_cur (s : State) (f : Store → Store) : (s.modStore f).cur = s.cur := rfl
@[simp] theorem State.modStore_active (s : State) (f : Store → Store) : (s.modStore f).active = s.active := rfl
@[simp] theorem State.modStore_turn (s : State) (f : Store → Store) : (s.modStore f).turn = s.turn := rfl
@[simp] theorem State.modStore_pace (s : State) (f : Store → Store) : (s.modStore f).pace = s.pace := rfl
@[simp] theorem State.modStore_delays (s : State) (f : Store → Store) : (s.modStore f).delays = s.delays := rfl
@[simp] theorem State.modStore_choices (s : State) (f : Store → Store) : (s.modStore f).choices = s.choices := rfl
@[simp] theorem State.modStore_free (s : State) (f : Store → Store) : (s.modStore f).free = s.free := rfl
@[simp] theorem State.modStore_time (s : State) (f : Store → Store) : (s.modStore f).time = s.time := rfl
@[simp] theorem State.modStore_banks (s : State) (f : Store → Store) : (s.modStore f).banks = s.banks := rfl
@[simp] theorem State.modStore_cores (s : State) (f : Store → Store) : (s.modStore f).cores = s.cores := rfl
@[simp] theorem State.modStore_saves (s : State) (f : Store → Store) : (s.modStore f).saves = s.saves := rfl
@[simp] theorem State.modStore_frames (s : State) (f : Store → Store) : (s.modStore f).frames = s.frames := rfl
@[simp] theorem State.modStore_incoming (s : State) (f : Store → Store) : (s.modStore f).incoming = s.incoming := rfl
@[simp] theorem State.modStore_xl (s : State) (f : Store → Store) : (s.modStore f).xl = s.xl := rfl
@[simp] theorem State.modStore_launches (s : State) (f : Store → Store) : (s.modStore f).launches = s.launches := rfl
@[simp] theorem State.modStore_lehr (s : State) (f : Store → Store) : (s.modStore f).lehr = s.lehr := rfl
@[simp] theorem State.modStore_power (s : State) (f : Store → Store) : (s.modStore f).power = s.power := rfl
@[simp] theorem State.modStore_fabric (s : State) (f : Store → Store) : (s.modStore f).fabric = s.fabric := rfl
@[simp] theorem State.modStore_gaffer (s : State) (f : Store → Store) : (s.modStore f).gaffer = s.gaffer := rfl
@[simp] theorem State.modStore_boot (s : State) (f : Store → Store) : (s.modStore f).boot = s.boot := rfl

@[simp] theorem State.hold_agenda (s : State) (e : Engine) (x : Entry) : (s.hold e x).agenda = s.agenda := rfl
@[simp] theorem State.hold_cur (s : State) (e : Engine) (x : Entry) : (s.hold e x).cur = s.cur := rfl
@[simp] theorem State.hold_active (s : State) (e : Engine) (x : Entry) : (s.hold e x).active = s.active := rfl
@[simp] theorem State.hold_turn (s : State) (e : Engine) (x : Entry) : (s.hold e x).turn = s.turn := rfl
@[simp] theorem State.hold_pace (s : State) (e : Engine) (x : Entry) : (s.hold e x).pace = s.pace := rfl
@[simp] theorem State.hold_delays (s : State) (e : Engine) (x : Entry) : (s.hold e x).delays = s.delays := rfl
@[simp] theorem State.hold_choices (s : State) (e : Engine) (x : Entry) : (s.hold e x).choices = s.choices := rfl
@[simp] theorem State.hold_free (s : State) (e : Engine) (x : Entry) : (s.hold e x).free = s.free := rfl
@[simp] theorem State.hold_time (s : State) (e : Engine) (x : Entry) : (s.hold e x).time = s.time := rfl
@[simp] theorem State.hold_cores (s : State) (e : Engine) (x : Entry) : (s.hold e x).cores = s.cores := rfl
@[simp] theorem State.hold_saves (s : State) (e : Engine) (x : Entry) : (s.hold e x).saves = s.saves := rfl
@[simp] theorem State.hold_frames (s : State) (e : Engine) (x : Entry) : (s.hold e x).frames = s.frames := rfl
@[simp] theorem State.hold_incoming (s : State) (e : Engine) (x : Entry) : (s.hold e x).incoming = s.incoming := rfl
@[simp] theorem State.hold_store (s : State) (e : Engine) (x : Entry) : (s.hold e x).store = s.store := rfl
@[simp] theorem State.hold_xl (s : State) (e : Engine) (x : Entry) : (s.hold e x).xl = s.xl := rfl
@[simp] theorem State.hold_launches (s : State) (e : Engine) (x : Entry) : (s.hold e x).launches = s.launches := rfl
@[simp] theorem State.hold_lehr (s : State) (e : Engine) (x : Entry) : (s.hold e x).lehr = s.lehr := rfl
@[simp] theorem State.hold_power (s : State) (e : Engine) (x : Entry) : (s.hold e x).power = s.power := rfl
@[simp] theorem State.hold_fabric (s : State) (e : Engine) (x : Entry) : (s.hold e x).fabric = s.fabric := rfl
@[simp] theorem State.hold_gaffer (s : State) (e : Engine) (x : Entry) : (s.hold e x).gaffer = s.gaffer := rfl
@[simp] theorem State.hold_boot (s : State) (e : Engine) (x : Entry) : (s.hold e x).boot = s.boot := rfl

/-- What a vector with one member set holds. -/
theorem vector_get_set {α : Type} {n : Nat} (v : Vector α n) (i : Nat) (x : α) (h : i < n) (j : Fin n) :
    (v.set i x h).get j = if i = j.val then x else v.get j := by
  rw [Vector.get_eq_getElem, Vector.get_eq_getElem, Vector.getElem_set]

/-- A vector with a member set to what it holds. -/
theorem vector_set_get {α : Type} {n : Nat} (v : Vector α n) (j : Fin n) : v.set j.val (v.get j) j.isLt = v := by
  ext i hi
  rw [Vector.getElem_set, Vector.get_eq_getElem]
  split
  · rename_i e; subst e; rfl
  · rfl

@[simp] theorem vector_get_map {α β : Type} {n : Nat} (v : Vector α n) (f : α → β) (j : Fin n) : (v.map f).get j = f (v.get j) := by
  simp [Vector.get_eq_getElem]

@[simp] theorem vector_get_replicate {α : Type} {n : Nat} (x : α) (j : Fin n) : (Vector.replicate n x).get j = x := by
  simp [Vector.get_eq_getElem]

/-- A bank that was replaced reads as its replacement. -/
@[simp] theorem State.bank_setBank (s : State) (b : BankId) (x : Bank) : (s.setBank b x).bank b = x := by
  simp [State.bank, State.setBank, vector_get_set]

/-- The other banks stay. -/
@[simp] theorem State.bank_setBank_ne (s : State) {b n : BankId} (x : Bank) (h : n ≠ b) : (s.setBank b x).bank n = s.bank n := by
  have : b.val ≠ n.val := fun e => h (Fin.ext e.symm)
  simp [State.bank, State.setBank, vector_get_set, this]

@[simp] theorem State.bank_modBank (s : State) (b : BankId) (f : Bank → Bank) : (s.modBank b f).bank b = f (s.bank b) := by
  simp [State.modBank]

@[simp] theorem State.bank_modBank_ne (s : State) {b n : BankId} (f : Bank → Bank) (h : n ≠ b) :
    (s.modBank b f).bank n = s.bank n := by simp [State.modBank, h]

@[simp] theorem State.bank_modStore (s : State) (f : Store → Store) (n : BankId) : (s.modStore f).bank n = s.bank n := rfl

@[simp] theorem State.bank_modCore (s : State) (c : CoreId) (f : CoreSt → CoreSt) (n : BankId) : (s.modCore c f).bank n = s.bank n := rfl

@[simp] theorem State.store_of_modStore (s : State) (f : Store → Store) : (s.modStore f).store = f s.store := rfl

/-- Two writes of one bank are the second. -/
@[simp] theorem State.setBank_setBank (s : State) (b : BankId) (x y : Bank) : (s.setBank b x).setBank b y = s.setBank b y := by
  simp [State.setBank]

@[simp] theorem State.here_setBank (s : State) (x : Bank) : (s.setBank s.cur x).here = x := by simp [State.here]

/-! ### Registers and tokens -/

@[simp] theorem Bank.sreg_zero (b : Bank) : b.sreg 0 = 0 := rfl

/-- A written register reads as written; s0 reads zero (07 R156). -/
theorem Bank.sreg_setS (b : Bank) (r q : BitVec 5) (x : Word) :
    (b.setS r x).sreg q = if q = r ∧ r ≠ 0 then x else b.sreg q := by
  by_cases hr : r = 0
  · rw [Bank.setS, if_pos hr, if_neg fun h => h.2 hr]
  · have hs : (b.setS r x).s = b.s.set r.toNat x r.isLt := by rw [Bank.setS, if_neg hr]
    simp only [Bank.sreg, hs, vector_get_set]
    by_cases hq : q = r
    · subst hq
      rw [if_neg hr, if_pos (And.intro rfl hr)]
      exact if_pos rfl
    · have hn : r.toNat ≠ q.toFin.val := fun e => hq (BitVec.eq_of_toNat_eq e.symm)
      rw [if_neg hn, if_neg fun (h : q = r ∧ r ≠ 0) => hq h.1]

/-- A write of s0 changes nothing (07 R156). -/
@[simp] theorem Bank.setS_zero (b : Bank) (x : Word) : b.setS 0 x = b := rfl

/-- A write of a scalar register changes scalar registers only. -/
theorem Bank.setS_frame (b : Bank) (r : BitVec 5) (x : Word) : b.setS r x = { b with s := (b.setS r x).s } := by
  unfold Bank.setS; split <;> rfl

theorem Bank.takePops_frame (b : Bank) (e : Engine) (pop : BitVec 3) :
    b.takePops e pop = { b with tok := (b.takePops e pop).tok } := by
  unfold Bank.takePops
  generalize popFifos e pop = fs
  induction fs generalizing b with
  | nil => rfl
  | cons f fs ih =>
    rw [List.foldl_cons, ih]

/-- Pops take tokens and nothing else (07 R166). -/
theorem Bank.doPops_frame (b : Bank) (e : Engine) (sy : Sync) (x : Entry) :
    b.doPops e sy x = { b with tok := (b.doPops e sy x).tok } := by
  unfold Bank.doPops; split
  · rfl
  · exact b.takePops_frame e sy.pop

/-- A reservation is counted and nothing else (07 R167). -/
theorem Bank.reserve_frame (b : Bank) (e : Engine) (push : BitVec 2) : b.reserve e push = { b with rsv := (b.reserve e push).rsv } := by
  unfold Bank.reserve; split <;> rfl

/-- A push changes token counts and nothing else (07 R167). -/
theorem Bank.pushTok_frame (b : Bank) (e : Engine) (push : BitVec 2) :
    b.pushTok e push = { b with tok := (b.pushTok e push).tok, rsv := (b.pushTok e push).rsv } := by
  unfold Bank.pushTok; split <;> rfl

/-- The sync fields of an S word move tokens and nothing else (07 R166-R168). -/
theorem Bank.sSync_frame (b : Bank) (sy : Sync) (x : Entry) :
    b.sSync sy x = { b with tok := (b.sSync sy x).tok, rsv := (b.sSync sy x).rsv } := by
  unfold Bank.sSync
  rw [Bank.pushTok_frame, Bank.reserve_frame, Bank.doPops_frame]

@[simp] theorem Bank.sreg_sSync (b : Bank) (sy : Sync) (x : Entry) (r : BitVec 5) : (b.sSync sy x).sreg r = b.sreg r := by
  rw [Bank.sSync_frame]; rfl

/-! ### A word in hand -/

/-- The state in which a word acts differs from the state before in the bank that executes, and holds no entry in hand. -/
theorem State.begin_state (s : State) (i : Instr) :
    (s.begin i).2 = { s.setBank s.cur ((s.begin i).2.here) with active := none } := by
  unfold State.begin
  cases h : s.active with
  | none =>
    simp only [State.here, State.modBank_cur, State.bank_modBank]
    simp [State.modBank, State.setBank, h]
  | some x =>
    simp [State.here, State.setBank, State.bank, vector_set_get]

/-- A word in hand has dispatched: the bank counts it, and holds what it held (07 R163). -/
theorem State.begin_bank (s : State) (i : Instr) :
    (s.begin i).2.here = { s.here with
      pc := (s.begin i).2.here.pc, uid := (s.begin i).2.here.uid, ctl := (s.begin i).2.here.ctl
      stopFetch := (s.begin i).2.here.stopFetch, reach := (s.begin i).2.here.reach } := by
  unfold State.begin
  cases h : s.active with
  | none => simp [State.here, State.modBank, Bank.account]
  | some x => rfl

end Sys2Proof.Machine
end

