-- ==== Sys2Proof/Laws/Words.lean ====
section
/-! SUPPORT. What the shared operations of S words can do: they wait at their head, or their effect on the bank is made. -/

namespace Sys2Proof.Machine

open Sys2Proof

@[simp] theorem State.acting_cur (s : State) (i : Instr) : (s.acting i).cur = s.cur := by
  rw [State.acting, State.begin_state]; rfl

/-- A change of the bank that executes leaves the rest of the device (07 R162). -/
theorem State.bankOnly_setBank (s : State) (i : Instr) (b : Bank) : s.bankOnly ((s.acting i).setBank s.cur b) := by
  constructor
  · rw [State.acting, State.begin_state]; rfl
  · intro n h
    rw [State.bank_setBank_ne _ _ h, State.acting, State.begin_state]
    exact State.bank_setBank_ne _ _ h

/-- The registers of the bank that executes are as before when its word is in hand. -/
@[simp] theorem State.acting_sreg (s : State) (i : Instr) (r : BitVec 5) : (s.acting i).here.sreg r = s.here.sreg r := by
  rw [State.acting, State.begin_bank]; rfl

theorem State.here_setBank_acting (s : State) (i : Instr) (b : Bank) : ((s.acting i).setBank s.cur b).here = b := by
  simp [State.here]

/-- An S word that S takes makes its effect (09 R202). -/
theorem State.sWord_go (s : State) (i : Instr) (eff : Entry → Bank → Bank) (h : s.sGo i) :
    s.sWord i eff = (s.acting i).setBank s.cur (eff (s.inHand i) ((s.acting i).here.sSync (usesOf i).sy (s.inHand i))) :=
  if_pos h

/-- An S word that S does not take waits at its head (09 R202). -/
theorem State.sWord_wait (s : State) (i : Instr) (eff : Entry → Bank → Bank) (h : ¬s.sGo i) :
    s.sWord i eff = (s.acting i).hold .S (s.inHand i) := if_neg h

/-- The bank that executes differs from the bank before, once its word's sync fields have acted, in tokens and in what dispatch
moves. -/
theorem State.synced_bank (s : State) (i : Instr) (sy : Sync) (x : Entry) :
    let c := (s.acting i).here.sSync sy x
    c = { s.here with tok := c.tok, rsv := c.rsv, pc := c.pc, uid := c.uid, ctl := c.ctl, stopFetch := c.stopFetch, reach := c.reach } := by
  intro c
  have h1 : c = { (s.acting i).here with tok := c.tok, rsv := c.rsv } := Bank.sSync_frame ..
  have h2 := s.begin_bank i
  rw [h1, State.acting, h2]

/-- The effect of an S word that writes one scalar register (09 R203). -/
theorem State.sResult_done (s : State) (i : Instr) (rd : BitVec 5) (val : Bank → Word) (h : s.sGo i) :
    s.scalarDone (s.sResult i rd val) rd (val ((s.acting i).here.sSync (usesOf i).sy (s.inHand i))) := by
  rw [State.sResult, State.sWord_go _ _ _ h]
  refine ⟨s.bankOnly_setBank i _, ?_, ?_, ?_⟩
  · rw [State.here_setBank_acting, Bank.scalarsOnly, Bank.setS_frame]
    rw [s.synced_bank i]
  · rw [State.here_setBank_acting, Bank.sreg_setS]
    by_cases hr : rd = 0
    · rw [if_neg fun h => h.2 hr, if_pos hr, hr]; rfl
    · rw [if_pos ⟨rfl, hr⟩, if_neg hr]
  · intro r hr
    rw [State.here_setBank_acting, Bank.sreg_setS, if_neg fun h => hr h.1, Bank.sreg_sSync, State.acting_sreg]

end Sys2Proof.Machine
end

