-- ==== Sys2Proof/Tests/Slice0.lean ====
section
/-! SUPPORT. Small tests of the model: ill-formed terms, decoding, and for every statement a state and operands that meet its premises. Expected
results come from the spec's tables and from hand calculation. -/

namespace Sys2Proof.Tests

open Sys2Proof Sys2Proof.Machine

set_option Elab.async false

/-! ### Ill-formed terms (WellFormed): one for each check, with the word that the decoder refuses for it -/

def sy0 : Sync := { pop := 0, push := 0 }

/-- Ordering on stream q with nothing before it. -/
def on (q : BitVec 3) : Ord := { stream := q, mask := 0 }

/-- 12 Table 12.2: VMIN takes no mod bits. -/
theorem test_zero_refused : (Instr.vmin { sy := sy0, vd := 1, va := 2, vb := 3, pr := 0, ty := .fp32, rep := 0 }).zeroOk = true
    ∧ (Instr.vmul { sy := sy0, vd := 1, va := 2, vb := 3, pr := 0, ty := .fp32, rep := 0, md := 8 }).zeroOk = false
    ∧ (Instr.vmul { sy := sy0, vd := 1, va := 2, vb := 3, pr := 0, ty := .fp32, rep := 0, md := 8 }).wf = false := by decide

/-- 09 R219: a layout field over 23 is out of range (kind 2). -/
theorem test_range_refused : (Instr.yset { sy := sy0, y := 2, field := 24, s := 7 }).rangeOk = false
    ∧ (Instr.yset { sy := sy0, y := 2, field := 23, s := 7 }).rangeOk = true := by decide

/-- 10 R229: a repeated load that would pass s31 is past the file (kind 3). -/
theorem test_repetition_refused :
    (Instr.ldd { sy := sy0, od := on 1, reg := 31, h := 4, idx := 6, rep := 1, step := 1 }).repOk = false
      ∧ (Instr.ldd { sy := sy0, od := on 1, reg := 30, h := 4, idx := 6, rep := 1, step := 1 }).repOk = true := by decide

/-- 07 R161, Table 7.10: the lowest kind that a word fails: unassigned, a zero bit set, a field out of range, past the file. -/
theorem test_words_refused :
    decode 0x01F800000000 = .error .unassigned ∧ decode 0x000000000001 = .error .reserved ∧ decode 0x00C14C00004C = .error .reserved
      ∧ decode 0x019AC1C00000 = .error .range ∧ decode 0x4031007D0C10 = .error .pastFile := by decide +kernel

/-! ### Decoding: the words that the spec prints (LI, WBACK, PGRSV, PGREL and PGMIG: laid out from their strips), with what they stand for -/

/-- 09 Table 9.2: s5, s6, s7. -/
theorem test_decode_register_words :
    let a : SRrr := { sy := sy0, rd := 5, ra := 6, rb := 7 }
    ∀ p ∈ [((0x00094C700000 : IWord), Instr.add a), (0x00114C700000, .sub a), (0x00194C700000, .mul a), (0x00214C700000, .mulh a),
      (0x00294C700000, .mulhu a), (0x00314C700000, .div a), (0x00394C700000, .divu a), (0x00414C700000, .rem a), (0x00494C700000, .remu a),
      (0x00514C700000, .and a), (0x00594C700000, .or a), (0x00614C700000, .xor a), (0x00694C700000, .sll a), (0x00714C700000, .srl a),
      (0x00794C700000, .sra a), (0x00814C700000, .slt a), (0x00894C700000, .sltu a), (0x00914C700000, .min a), (0x00994C700000, .max a)],
      decode p.1 = .ok p.2 := by decide +kernel

/-- 09 Table 9.2, R205-R208: s5, s6, 12; LI s5, 42; the branches of s6 and s7 by −4; the jumps; LOOPB; the bare words. -/
theorem test_decode_immediates_and_control :
    let a : SImm := { sy := sy0, rd := 5, ra := 6, imm := 12 }
    let h : SShift := { sy := sy0, rd := 5, ra := 6, sh := 12 }
    let b : SBr := { sy := sy0, ra := 6, rb := 7, off := -4 }
    ∀ p ∈ [((0x00A14C00000C : IWord), Instr.addi a), (0x00A94C00000C, .andi a), (0x00B14C00000C, .ori a), (0x00B94C00000C, .xori a),
      (0x00C14C00000C, .slli h), (0x00C94C00000C, .srli h), (0x00D14C00000C, .srai h), (0x00D94C00000C, .slti a),
      (0x00E14000002A, .li { sy := sy0, rd := 5, imm := 42 }), (0x00E940000001, .lih { sy := sy0, rd := 5, imm := 1 }),
      (0x00F18FFFFFFC, .beq b), (0x00F98FFFFFFC, .bne b), (0x01018FFFFFFC, .blt b), (0x01098FFFFFFC, .bge b), (0x01118FFFFFFC, .bltu b),
      (0x01198FFFFFFC, .bgeu b), (0x01204000000A, .jal { sy := sy0, rd := 1, off := 10 }),
      (0x012802000000, .jalr { sy := sy0, rd := 0, ra := 1, imm := 0 }), (0x013307FFFFFB, .loopb { sy := sy0, counter := 12, m := 1, off := -5 }),
      (0, .nop { sy := sy0 }), (0x013800000000, .endt { sy := sy0 }), (0x01E000000000, .yield { sy := sy0 })],
      decode p.1 = .ok p.2 := by decide +kernel

/-- 09 R210-R224, 01 R24: the special words of S. -/
theorem test_decode_special_words :
    ∀ p ∈ [((0x014140020000 : IWord), Instr.crd { sy := sy0, rd := 5, cr := 0x020 }), (0x01480C0C3000, .cwr { sy := sy0, ra := 6, cr := 0x0C3 }),
      (0x01500C022000, .cset { sy := sy0, ra := 6, cr := 0x022 }), (0x01580C060000, .cclr { sy := sy0, ra := 6, cr := 0x060 }),
      (0x016000000007, .trap { sy := sy0, imm := 7 }), (0x016800000000, .eret { sy := sy0 }),
      (0x01714C000003, .waitev { sy := sy0, rd := 5, ra := 6, mask := 3 }), (0x017A29800000, .xlate { sy := sy0, hd := 4, ra := 10, rights := 3 }),
      (0x0182A1280000, .hlocal { sy := sy0, hd := 5, base := 8, ext := 9, win := 2 }), (0x018A80000000, .hinv { sy := sy0, hd := 5 }),
      (0x019152000000, .hget { sy := sy0, rd := 5, hd := 4, word := 1 }), (0x019A69C00000, .yset { sy := sy0, y := 2, field := 13, s := 7 }),
      (0x01A269C00000, .yget { sy := sy0, y := 2, field := 13, s := 7 }), (0x01AA00000000, .yclr { sy := sy0, y := 2 }),
      (0x01B00C000000, .fpush { sy := sy0, ra := 6 }), (0x01B803FDF410, .fpushi { sy := sy0, imm := 0x03FDF410 }),
      (0x01C14C000000, .pwracq { sy := sy0, rd := 5, ra := 6 }), (0x01C800000000, .pwrrel { sy := sy0 }),
      (0x01D10C000000, .slotwait { sy := sy0, rd := 4, ra := 6 }), (0x01D94C700000, .ctxq { sy := sy0, rd := 5, ra := 6, rb := 7 })],
      decode p.1 = .ok p.2 := by decide +kernel

/-- 10 Tables 10.1, 10.3: s5 or v5, h4, s6 on q1; 06: VLD v4, [h2+s9] x2 step 1 on q1 after q0 >C. -/
theorem test_decode_loads_and_stores :
    let a : MemS := { sy := sy0, od := on 1, reg := 5, h := 4, idx := 6, rep := 0, step := 0 }
    let v : MemV := { sy := sy0, od := on 1, reg := 5, h := 4, idx := 6, rep := 0, step := 0 }
    ∀ p ∈ [((0x400100150C00 : IWord), Instr.ldb a), (0x400900150C00, .ldbu a), (0x401100150C00, .ldh a), (0x401900150C00, .ldhu a),
      (0x402100150C00, .ldw a), (0x402900150C00, .ldwu a), (0x403100150C00, .ldd a), (0xC00100150C00, .stb a), (0xC00900150C00, .sth a),
      (0xC01100150C00, .stw a), (0xC01900150C00, .std a), (0x403900150C00, .vld v), (0x404100150C00, .vlds v), (0x407100150C00, .vldb v),
      (0xC02100150C00, .vst v), (0xC02900150C00, .vsts v),
      (0x443901109211, .vld { sy := { pop := 0, push := 2 }, od := { stream := 1, mask := 1 }, reg := 4, h := 2, idx := 9, rep := 1, step := 1 })],
      decode p.1 = .ok p.2 := by decide +kernel

/-- 10 Tables 10.4, 10.5, 15 R325, R326: the atomics of s5, [h4+s6], s7 scope die on q1, and the synchronising words. -/
theorem test_decode_atomics_and_sync :
    let a : Atom := { sy := sy0, od := on 1, res := 5, h := 4, idx := 6, opnd := 7, scope := 3 }
    ∀ p ∈ [((0xC03100150C76 : IWord), Instr.aadd a), (0xC03900150C76, .amin a), (0xC04100150C76, .amax a), (0xC04900150C76, .aand a),
      (0xC05100150C76, .aor a), (0xC05900150C76, .axor a), (0xC06100150C76, .aswap a), (0xC06900150C76, .acas a), (0xC07100150C76, .afadd a),
      (0xC07A02010C74, .semsig { sy := sy0, od := { stream := 2, mask := 2 }, h := 4, idx := 6, opnd := 7, scope := 2 }),
      (0x405B00150C74, .semwait { a with od := on 3, scope := 2 }), (0xC08100148C74, .bararv { a with h := 2, scope := 2 }),
      (0x406100208C54, .barwait { a with res := 8, h := 2, opnd := 5, scope := 2 }), (0xC0C10014CC76, .wlappend { a with h := 3 }),
      (0x40690014CC76, .wltake { a with h := 3 })],
      decode p.1 = .ok p.2 := by decide +kernel

/-- 11 R248, R254, 02 R55, 16 R345: copies, page words and slot words. -/
theorem test_decode_copies_pages_slots :
    let q21 : Ord := { stream := 2, mask := 2 }
    ∀ p ∈ [((0x44490068A5B1 : IWord), Instr.cpin { sy := { pop := 0, push := 2 }, od := on 1, y := 3, h := 4, loc := 10, org := 11, mc := 12, lvl := 1 }),
      (0xC08A024C8480, .cpout { sy := sy0, od := q21, y := 2, h := 6, loc := 8, org := 9, mc := 0, lvl := 0 }),
      (0x40510021097E, .cpgather { sy := sy0, od := on 1, vi := 8, h := 4, y := 1, loc := 5, cnt := 31 }),
      (0xC0920221097E, .cpscatter { sy := sy0, od := q21, vi := 8, h := 4, y := 1, loc := 5, cnt := 31 }),
      (0xC09A020152A0, .discard { sy := sy0, od := q21, h := 5, idx := 9, opnd := 10 }),
      (0xC0A2020152A0, .wback { sy := sy0, od := q21, h := 5, idx := 9, opnd := 10 }),
      (0xC0AA021540A0, .pgrsv { sy := sy0, od := q21, res := 5, h := 5, opnd := 10 }),
      (0xC0B2021540A0, .pgrel { sy := sy0, od := q21, res := 5, h := 5, opnd := 10 }),
      (0xC0BA021540A0, .pgmig { sy := sy0, od := q21, res := 5, h := 5, opnd := 10 }),
      (0xC0CA02652530, .commit { sy := sy0, od := q21, res := 25, h := 4, idx := 18, opnd := 19 }),
      (0xC0D300612530, .retract { sy := sy0, od := on 3, res := 24, h := 4, idx := 18, opnd := 19 })],
      decode p.1 = .ok p.2 := by decide +kernel

/-- 12 R264, Table 12.3: VLDL v1, s6, 4, and the arithmetic words of FP32 v1, v2, v3; `VCVT.BF16 v1, v2, 0, 0 rnd rdn`. -/
theorem test_decode_vector_arithmetic :
    let l : CLocal := { sy := sy0, v := 1, sa := 6, off := 4, rep := 0, step := 0 }
    let b : CBin := { sy := sy0, vd := 1, va := 2, vb := 3, pr := 0, ty := .fp32, rep := 0, md := 0 }
    let t : CTri := { sy := sy0, vd := 1, va := 2, vb := 3, pr := 0, ty := .fp32, rep := 0 }
    let u : CUn := { sy := sy0, vd := 1, va := 2, pr := 0, ty := .fp32, rep := 0, md := 0 }
    ∀ p ∈ [((0x800026010000 : IWord), Instr.vldl l), (0x800826010000, .vstl l), (0x801026010000, .vldm l), (0x801826010000, .vstm l),
      (0x802021060000, .vadd b), (0x802821060000, .vsub b), (0x803021060000, .vmul b), (0x803821060000, .vfma b), (0x804021060000, .vmin t),
      (0x804821060000, .vmax t), (0x805021000000, .vabs u), (0x805821060000, .vdiv b), (0x806021000000, .vrcp u), (0x806821000000, .vrsq u),
      (0x807021000000, .vexp2 u), (0x807821000000, .vlog2 u), (0x808021000000, .vsqrt u),
      (0x808821000402, .vcvt { sy := sy0, vd := 1, va := 2, src := .fp32, pr := 0, ty := .bf16, rep := 0, rnd := 2, nan := false }),
      (0x809021068000, .vqnt { sy := sy0, vd := 1, va := 2, vb := 3, elem := 4, nx := false, rep := 0, nan := false }),
      (0x809880868000, .vdqnt { sy := sy0, vd := 4, va := 1, vb := 3, elem := 4, nx := false, rep := 0 })],
      decode p.1 = .ok p.2 := by decide +kernel

/-- 12 R271-R281: comparison, selection, logic, moves, reductions, permutations, predicates, rotation and slack. -/
theorem test_decode_vector_moves :
    let t : CTri := { sy := sy0, vd := 1, va := 2, vb := 3, pr := 0, ty := .fp32, rep := 0 }
    let m : CMov := { sy := sy0, vd := 1, va := 2, pr := 0, ty := .fp32, rep := 0 }
    let s : CSlide := { sy := sy0, vd := 1, va := 2, sk := 7, pr := 0, ty := .fp32, rep := 0 }
    let p : PBin := { sy := sy0, pd := 1, pa := 2, pb := 3, pr := 0, ty := .i8, rep := 0 }
    ∀ q ∈ [((0x80A021060002 : IWord), Instr.vcmp { sy := sy0, pd := 1, va := 2, vb := 3, pr := 0, ty := .fp32, rep := 0, rel := 2 }),
      (0x80A821068000, .vsel { t with pr := 4 }), (0x80B021060000, .vand t), (0x80B821060000, .vor t), (0x80C021060000, .vxor t),
      (0x80E021000000, .vmov m), (0x80E827F00400, .vmovi { sy := sy0, vd := 1, imm := 0x3F80, ty := .bf16, rep := 0 }),
      (0x80F023001400, .vfroms { sy := sy0, vd := 1, sa := 6, pr := 0, ty := .i32, rep := 0 }),
      (0x80F8A10E1400, .vtos { sy := sy0, sd := 5, va := 2, sl := 7, ty := .i32 }),
      (0x810021000000, .vredadd { sy := sy0, vd := 1, va := 2, pr := 0, ty := .fp32, rep := 0, md := 0 }), (0x810821000000, .vredmax m),
      (0x811021000000, .vredmin m), (0x811821000000, .vargmax m), (0x812021061C00, .vperm { t with ty := .i8 }), (0x8128210E0000, .vslide s),
      (0x8130210E0000, .vbcast s), (0x813820001400, .viota { sy := sy0, vd := 1, pr := 0, ty := .i32, rep := 0 }), (0x814021061C00, .pand p),
      (0x814821061C00, .por p), (0x815021061C00, .pxor p), (0x815821001C00, .pnot { sy := sy0, pd := 1, pa := 2, pr := 0, ty := .i8, rep := 0 }),
      (0x8160200E0000, .pset { sy := sy0, pd := 1, sk := 7, pr := 0, ty := .fp32, rep := 0 }),
      (0x816800406000, .rbset { sy := sy0, v := 3, p := 2 }), (0x817000008000, .slack { sy := sy0, n := 4 })],
      decode q.1 = .ok q.2 := by decide +kernel

/-- 13 R288, R291-R293: the matrix words. -/
theorem test_decode_matrix_words :
    ∀ p ∈ [((0x8182638C0000 : IWord), Instr.mma { sy := sy0, acc := 1, sa := 6, sb := 7, n := 3 }),
      (0x818A638C0000, .mmat { sy := sy0, acc := 1, sa := 6, sb := 7, n := 3 }), (0x819400000000, .aclr { sy := sy0, acc := 2 }),
      (0x819A40023000, .ard { sy := sy0, acc := 1, v := 8, row := 0, ty := .bf16, rows := 3, rnd := 0 }),
      (0x81A080801000, .awr { sy := sy0, acc := 0, v := 16, row := 8, ty := .fp32, rows := 1 }),
      (0x81AA92000000, .asts { sy := sy0, acc := 1, sa := 9, ty := .bf16, rnd := 0 })],
      decode p.1 = .ok p.2 := by decide +kernel

/-! ### Small states -/

/-- A bank that executes a task of address space 1. -/
def busy : Bank := { Bank.reset with status := .running, task := some { placedTask with launch := 7 }, asn := 1, pc := 100, pwrCls := 4, pwrDecl := 4 }

/-- The device with a bank 0 of core 0 that executes. -/
def dev (b : Bank) : State :=
  { State.reset.setBank 0 b with cores := State.reset.cores.set 0 { CoreSt.reset with run := some 0 }, time := 5000000 }

/-- The device with a word of bank 0 taken from its queue head. -/
def devAt (b : Bank) (x : Entry) : State := { dev b with active := some x }

/-- Scalar registers with a few values. -/
def scalars (f : List (Nat × Word)) : Vector Word 32 := f.foldl (fun v p => v.setIfInBounds p.1 p.2) (Vector.replicate 32 0)

/-- An instruction answers a next state of which something holds. -/
def does (i : Instr) (s : State) (p : State → Bool) : Bool :=
  match exec i s with
  | .next t => p t
  | .fault _ | .refused _ => false

/-! ### S words -/

/-- s5 is 0, s6 is −8, s7 is 3. -/
def regs : State := dev { busy with s := scalars [(6, -8), (7, 3)] }

/-- 09 Table 9.2: the premises of RegisterResults and DivisionResults, and the values for −8 and 3. -/
theorem test_register_results :
    let a : SRrr := { sy := sy0, rd := 5, ra := 6, rb := 7 }
    ∀ p ∈ [(Instr.add a, (-5 : Word)), (.sub a, -11), (.mul a, -24), (.mulh a, -1), (.mulhu a, 2), (.and a, 0), (.or a, -5), (.xor a, -5),
        (.sll a, -64), (.srl a, 0x1FFFFFFFFFFFFFFF), (.sra a, -1), (.slt a, 1), (.sltu a, 0), (.min a, -8), (.max a, 3), (.div a, -2),
        (.rem a, -2), (.divu a, 0x5555555555555552), (.remu a, 2)],
      (regs.acting p.1).here.sReady p.1 (regs.inHand p.1) = true ∧ does p.1 regs (fun t => t.here.sreg 5 == p.2) = true := by
  decide +kernel

/-- 09 Table 9.3: division by 0, and −2^63 by −1. -/
theorem test_division_corners :
    let a : SRrr := { sy := sy0, rd := 5, ra := 6, rb := 7 }
    let z := dev { busy with s := scalars [(6, 9)] }
    let m := dev { busy with s := scalars [(6, BitVec.intMin 64), (7, -1)] }
    ∀ p ∈ [(Instr.div a, z, (-1 : Word)), (.divu a, z, -1), (.rem a, z, 9), (.remu a, z, 9), (.div a, m, BitVec.intMin 64), (.rem a, m, 0)],
      (p.2.1.acting p.1).here.sReady p.1 (p.2.1.inHand p.1) = true ∧ does p.1 p.2.1 (fun t => t.here.sreg 5 == p.2.2) = true := by
  decide +kernel

/-- 09 Table 9.2, R205: the immediate words with s6 = −8 and 3; `LIH s5, 1` after `LI s5, 42`. -/
theorem test_immediate_results :
    let a : SImm := { sy := sy0, rd := 5, ra := 6, imm := -3 }
    let b : SShift := { sy := sy0, rd := 5, ra := 6, sh := 1 }
    let l := dev { busy with s := scalars [(5, 42)] }
    ∀ p ∈ [(Instr.addi a, regs, (-11 : Word)), (.andi a, regs, -8), (.ori a, regs, -3), (.xori a, regs, 5), (.slti a, regs, 1), (.slli b, regs, -16),
        (.srli b, regs, 0x7FFFFFFFFFFFFFFC), (.srai b, regs, -4), (.li { sy := sy0, rd := 5, imm := 42 }, regs, 42),
        (.lih { sy := sy0, rd := 5, imm := 1 }, l, 0x4000002A)],
      (p.2.1.acting p.1).here.sReady p.1 (p.2.1.inHand p.1) = true ∧ does p.1 p.2.1 (fun t => t.here.sreg 5 == p.2.2) = true := by
  decide +kernel

/-- 09 R203: the word of `SLLI s5, s6, 12` with imm25[6] set. -/
theorem test_shift_bits : let w : IWord := 0x00C14C00004C
    w.extractLsb' 46 2 = 0 ∧ w.extractLsb' 35 6 ∈ [(0x18 : BitVec 6), 0x19, 0x1A] ∧ w.extractLsb' 6 19 ≠ 0 := by decide

/-- 09 R206, R207: branches at index 100 by −4 with s6 = −8 and s7 = 3; JAL by 10; JALR to s7 + 1; LOOPB of s7 = 3 and of 1. -/
theorem test_control_flow :
    let b : SBr := { sy := sy0, ra := 6, rb := 7, off := -4 }
    let last := dev { busy with s := scalars [(7, 1)] }
    let l : SLoop := { sy := sy0, counter := 7, m := 1, off := -4 }
    ∀ p ∈ [(Instr.beq b, regs, (101 : Word)), (.bne b, regs, 96), (.blt b, regs, 96), (.bge b, regs, 101), (.bltu b, regs, 101), (.bgeu b, regs, 96),
        (.jal { sy := sy0, rd := 1, off := 10 }, regs, 110), (.jalr { sy := sy0, rd := 1, ra := 7, imm := 1 }, regs, 4), (.loopb l, regs, 96),
        (.loopb l, last, 101)],
      (p.2.1.acting p.1).here.sReady p.1 (p.2.1.inHand p.1) = true ∧ p.2.1.here.qC.length < 128
        ∧ does p.1 p.2.1 (fun t => t.here.pc == p.2.2 && !t.here.ctl) = true := by
  decide +kernel

/-- 09 R206, R207: the links of JAL and JALR, and LOOPB's counter and rotate entry. -/
theorem test_links_and_counters :
    does (.jal { sy := sy0, rd := 1, off := 10 }) regs (fun t => t.here.sreg 1 == 101) = true
      ∧ does (.jalr { sy := sy0, rd := 7, ra := 7, imm := 1 }) regs (fun t => t.here.sreg 7 == 101 && t.here.pc == 4) = true
      ∧ does (.loopb { sy := sy0, counter := 7, m := 1, off := -4 }) regs
          (fun t => t.here.sreg 7 == 2 && t.here.qC.map (·.what) == [.rotate 1]) = true := by
  decide +kernel

/-- 20 R422: LOOPB that falls through at 5,000,000 ns, or 1,900,000 core clocks of F0, snapshots 3 + 4 conflicts of bank 1; where bank 1 took the
snapshot in that core clock, bank 0's is the one recorded. -/
theorem test_loop_snapshot :
    let i : Instr := .loopb { sy := sy0, counter := 7, m := 0, off := -4 }
    let c : CoreSt := { (dev busy).cores.get 0 with bcm := (dev busy).cores.get 0 |>.bcm.set 1 (((Vector.replicate 32 (0 : BitVec 32)).set 2 3).set 3 4) }
    let s (t : Option (Nat × Fin 2)) : State := { dev { busy with s := scalars [(7, 1)] } with cores := (dev busy).cores.set 0 { c with snapAt := t } }
    ((s none).acting i).here.sReady i ((s none).inHand i) = true ∧ (s none).here.sreg 7 - 1 = 0 ∧ (s none).time * clockMhz ((s none).clusterPower 0).cls / 1000 = 1900000
      ∧ does i (s none) (fun t => ((t.cores.get 0).bcRow.get 1) == 7 && (t.cores.get 0).bcSnap == 100 * 2 ^ 32 + 2 ^ 16) = true
      ∧ ((s (some (1900000, 1))).cores.get 0).snapAt = some (1900000, 1)
      ∧ does i (s (some (1900000, 1))) (fun t => ((t.cores.get 0).bcRow.get 1) == 0 && (t.cores.get 0).bcSnap == 100 * 2 ^ 32) = true := by
  decide +kernel

/-- The record of a launch of 2 tasks of PRIO 3 on core 0 of die 0: CODE 0x40, ENTRY 5, ARGS 0x100, PCLASS 2, one loop of 2, SPRES 0x400. -/
def rec0 : BitVec 2048 :=
  BitVec.ofNat 2048 (0x40 + 5 * 2 ^ 64 + 0x100 * 2 ^ 128 + 3 * 2 ^ 192 + 8 * 2 ^ 196 + 2 * 2 ^ 200 + 1 * 2 ^ 208 + 1 * 2 ^ 216
    + 0x400 * 2 ^ 288 + 2 * 2 ^ 384 + 1 * 2 ^ 400 + 1 * 2 ^ 1152)

/-- The launch 7 of that record, with its first die as given. -/
def launch7 (x : LDie) : Launch where
  id := 7
  raw := rec0
  queue := none
  head := 0
  asn := 1
  byLehr := false
  dies := #v[x, LDie.off, LDie.off, LDie.off]
  chain := none
  followed := false
  res := []
  missed := false
  missTrap := none

/-- The device with that launch. -/
def withLaunch (x : LDie) (s : State) : State := { s with launches := { list := [launch7 x], next := 8, orders := 1 } }

/-- The record is sound, has 2 tasks on die 0, and selects core 0 alone (14 R301-R303). -/
theorem test_record : recReject rec0 false = none ∧ recShare rec0 0 = 2 ∧ recSelects rec0 0 0 = true ∧ recSelects rec0 0 1 = false := by
  decide +kernel

/-- A launch whose 2 tasks wait for a place. -/
def eligible7 : LDie := { LDie.off with st := .eligible, fifo := 3, tasks := 2 }

/-! ### The bank's own state -/

/-- 09 R210, R213, 00 R11: reads and writes of control registers: TIME; TVEC keeps EN and INDEX; SOFT is set and FREQ cleared; a
write of 0 to SRSTATE stores 1. -/
theorem test_control_registers :
    let s := dev { busy with s := scalars [(6, -1), (7, 0)], evpend := 4 }
    let w (i : Instr) (cr : BitVec 13) (old new : Word) : Bool :=
      (s.acting i).here.sReady i (s.inHand i) && (s.acting i).creg 0 cr == some old && does i s fun t => t.creg 0 cr == some new
    (s.acting (.crd { sy := sy0, rd := 5, cr := 0x020 })).here.sReady (.crd { sy := sy0, rd := 5, cr := 0x020 })
        (s.inHand (.crd { sy := sy0, rd := 5, cr := 0x020 })) = true
      ∧ (s.acting (.crd { sy := sy0, rd := 5, cr := 0x020 })).creg 0 0x020 = some 5000000
      ∧ does (.crd { sy := sy0, rd := 5, cr := 0x020 }) s (fun t => t.here.sreg 5 == 5000000) = true
      ∧ w (.cwr { sy := sy0, ra := 6, cr := 0x0C3 }) 0x0C3 0 0x80000000FFFFFFFF = true
      ∧ w (.cset { sy := sy0, ra := 6, cr := 0x022 }) 0x022 4 0x14 = true ∧ w (.cclr { sy := sy0, ra := 6, cr := 0x022 }) 0x022 4 0 = true
      ∧ w (.cwr { sy := sy0, ra := 7, cr := 0x063 }) 0x063 1 1 = true ∧ cregStored 0x063 1 0 = some 1 ∧ cregStored 0x0C3 0 (-1) = some 0x80000000FFFFFFFF
      ∧ cregStored 0x022 4 (4 ||| -1) = some 0x14 := by decide +kernel

/-- 09 R210: an unassigned number, and a write of a read-only register. -/
theorem test_control_register_traps :
    ∀ p ∈ [(Instr.crd { sy := sy0, rd := 5, cr := 0x006 }, (0x0141_4000_6000 : Word)), (.cwr { sy := sy0, ra := 6, cr := 0x020 }, 0x0148_0C02_0000)],
      (regs.acting p.1).here.sReady p.1 (regs.inHand p.1) = true ∧ (regs.acting p.1).creg 0 0x006 = none ∧ cregStored 0x020 0 0 = none
        ∧ does p.1 regs (fun t => t.here.tcause == 0x8010 && t.here.tval == p.2 && t.here.cut.isSome) = true := by decide +kernel

/-- What a handler that returns to index 40 left behind. -/
def image40 : HImage where
  qS := []
  qL := []
  qC := []
  qW := []
  flights := []
  mma := []
  copies := []
  ops := []
  tok := Vector.replicate 12 1
  rsv := Vector.replicate 12 0
  pc := 40
  uid := 7
  ctl := false
  stopFetch := false
  swait := .none
  sr := 1
  srPend := []

/-- 09 R214, R215: `TRAP 7` at index 100; ERET of a handler, and outside one. -/
theorem test_trap_and_return :
    let h := dev { busy with image := some image40, tstate := 1, kind := 2 }
    (regs.acting (.trap { sy := sy0, imm := 7 })).here.sReady (.trap { sy := sy0, imm := 7 }) (regs.inHand (.trap { sy := sy0, imm := 7 })) = true
      ∧ does (.trap { sy := sy0, imm := 7 }) regs (fun t => t.here.tcause == 0x817C && t.here.tval == 7 && t.here.pc == 101) = true
      ∧ (h.acting (.eret { sy := sy0 })).here.image = some image40 ∧ (h.acting (.eret { sy := sy0 })).here.cut = none
      ∧ (h.acting (.eret { sy := sy0 })).here.popsOk .S sy0 (h.inHand (.eret { sy := sy0 })) = true
      ∧ (h.acting (.eret { sy := sy0 })).here.canPush .S sy0.push = true
      ∧ (h.acting (.eret { sy := sy0 })).here.quiet = true ∧ (h.acting (.eret { sy := sy0 })).here.heldMiss = none
      ∧ does (.eret { sy := sy0 }) h (fun t => t.here.pc == 40 && t.here.tstate == 0 && t.here.tok.get 3 == 1) = true
      ∧ (regs.acting (.eret { sy := sy0 })).here.sReady (.eret { sy := sy0 }) (regs.inHand (.eret { sy := sy0 })) = true ∧ regs.here.image = none
      ∧ does (.eret { sy := sy0 }) regs (fun t => t.here.tcause == 0x8014 && t.here.tval == 0x0168_0000_0000) = true := by decide +kernel

/-- 17 R363: the drain after that TRAP, which hands its cause to core 6; 16 R344, 17 R365: ERET of a handler during which a slot miss of
tick 9 came. -/
theorem test_trap_drains :
    let i : Instr := .trap { sy := sy0, imm := 7 }
    let h := dev { busy with image := some image40, tstate := 1, kind := 2, heldMiss := some 9 }
    (regs.acting i).here.quiet = true
      ∧ does i regs (fun t => does (.drainComplete 0) t fun u => u.here.status == .switchedOut && u.here.kind == 1 && u.here.tcause == 0x817C
          && u.gaffer.causes == [(0, 0x17C)]) = true
      ∧ (h.acting (.eret { sy := sy0 })).here.quiet = true ∧ (h.acting (.eret { sy := sy0 })).here.heldMiss = some 9
      ∧ (h.acting (.eret { sy := sy0 })).here.status = .running
      ∧ does (.eret { sy := sy0 }) h (fun t => t.here.tcause == 0x8100 && t.here.tval == 9 && t.here.image.isNone && t.here.heldMiss.isNone) = true := by
  decide +kernel

/-- A handler runs, and a unit of its frame at offset 0x3FC00 of the save area is bad. -/
def badImage : State := { dev { busy with image := some image40, tstate := 1, kind := 2 } with
  store := { State.reset.store with ecc := [((saveBase 0 + 0x3FC00) / 8, .poison)] } }

/-- 17 R354, R355: ERET meets the unit in the image. -/
theorem test_return_of_bad_image :
    let i : Instr := .eret { sy := sy0 }
    let rs := (({ (badImage.acting i).here with frameNo := image40.frameNo } : Bank).frameRanges 2)
    (badImage.acting i).here.image = some image40 ∧ (badImage.acting i).here.status = .running ∧ (badImage.acting i).here.cut = none
      ∧ (badImage.acting i).here.popsOk .S sy0 (badImage.inHand i) = true ∧ (badImage.acting i).here.canPush .S sy0.push = true
      ∧ (badImage.acting i).here.quiet = true ∧ ∃ u, ((badImage.acting i).readArea 0 rs).2 = some u := by
  refine ⟨by decide +kernel, by decide +kernel, by decide +kernel, by decide +kernel, by decide +kernel, by decide +kernel, ?_⟩
  rw [State.readArea_poison _ _ _ (by decide +kernel) (by decide +kernel) (by decide +kernel) (by decide +kernel)]
  refine Option.isSome_iff_exists.mp (List.find?_isSome.mpr ⟨(saveBase 0 + 0x3FC00) / 8, ?_, by decide +kernel⟩)
  refine List.mem_flatMap.mpr ⟨(saveBase 0 + 0x3FC00, 0x200), List.mem_map.mpr ⟨(0x3FC00, 0x200), ?_, rfl⟩, by decide +kernel⟩
  simp [Bank.frameRanges]

/-- `WAITEV s5, s6, m`. -/
def wait56 (m : BitVec 5) : Instr := .waitev { sy := sy0, rd := 5, ra := 6, mask := m }

/-- s6 is a deadline that is exactly TIME; work wakes, the slot-in and the raced-out event are pending. -/
def waiting : State := { dev { busy with s := scalars [(6, 2)], evpend := 0x16 } with time := 2 }

/-- 09 R216: an event of the mask is pending; the deadline is exactly TIME; the mask is zero. -/
theorem test_waitev :
    ∀ m ∈ [(2 : BitVec 5), 1, 0, 0x14], (waiting.acting (wait56 m)).here.sReady (wait56 m) (waiting.inHand (wait56 m)) = true
        ∧ (waitTakes waiting.here { sy := sy0, rd := 5, ra := 6, mask := m } waiting.time ≠ 0 ∨ m = 0)
        ∧ does (wait56 m) waiting (fun t => t.here.sreg 5 == m.setWidth 64 && t.here.evpend == 0x16 &&& ~~~(m.setWidth 64 : Word)) = true := by
  decide +kernel

/-- 09 R216: the deadline passes while the word waits at the queue head. -/
theorem test_waitev_deadline :
    let q : Entry := busy.capture (.word (wait56 1))
    let h := { dev { busy with s := scalars [(6, 2)], qS := [q] } with time := 2 }
    ((h.bank 0).sreg 6).toNat ≤ h.time ∧ ({ h.bank 0 with qS := [] } : Bank).sReady (wait56 1) q = true
      ∧ does (.waitevDeadline 0) h (fun t => (t.bank 0).sreg 5 == 1 && (t.bank 0).qS.isEmpty) = true := by decide +kernel

/-- 09 R209: YIELD with no launch waiting, and with one for whose task no other bank is there. -/
theorem test_yield :
    let i : Instr := .yield { sy := sy0 }
    let w := withLaunch eligible7 ((dev busy).setBank 1 { busy with status := .ready })
    let after (s : State) : State :=
      (s.acting i).launches.list.foldl (fun (t : State) (l : Launch) => t.testLaunch (dieOf s.cur) l.id) (s.acting i)
    (regs.acting i).here.sReady i (regs.inHand i) = true ∧ (regs.inHand i).popped = false ∧ (after regs).yieldTo 0 = none
      ∧ (regs.launches.list.all fun l => (l.dies.get (dieOf regs.cur)).st != .waiting) = true
      ∧ does i regs (fun t => t.here.pc == 101 && !t.here.ctl && t.here.cut.isNone) = true
      ∧ (w.acting i).here.sReady i (w.inHand i) = true ∧ (w.inHand i).popped = false
      ∧ ((after w).yieldTo 0).map (fun p => (p.1, p.2.map (·.bank))) = some (7, [0])
      ∧ does i w (fun t => t.here.cut == some .preempt && t.here.qS.map (·.popped) == [true]) = true := by decide +kernel

/-- 09 R223, R224: SLOTWAIT of grid 16 and of an undefined grid, an answered SLOTWAIT and CTXQ, and the lehr's answers. -/
theorem test_slot_queries :
    let s := dev { busy with s := scalars [(6, 16), (7, 15)] }
    let i (r : BitVec 5) : Instr := .slotwait { sy := sy0, rd := 5, ra := r }
    let c : Instr := .ctxq { sy := sy0, rd := 5, ra := 6, rb := 7 }
    let q := devAt busy { busy.capture (.word (i 6)) with answer := some 9 }
    let k := devAt busy { busy.capture (.word c) with answer := some 9 }
    let a := dev { busy with swait := .ctxq 8192 0, qS := [busy.capture (.word c)] }
    (∀ r ∈ [(6 : BitVec 5), 7], (s.acting (i r)).here.sReady (i r) (s.inHand (i r)) = true ∧ (s.inHand (i r)).answer = none ∧ s.here.swait = .none
        ∧ does (i r) s (fun t => t.here.sreg 5 == -1) = true)
      ∧ 16 ≤ (s.here.sreg 6).toNat ∧ (s.here.sreg 7).toNat < 16 ∧ (s.grid 15).desc = none
      ∧ (q.acting (i 6)).here.sReady (i 6) (q.inHand (i 6)) = true ∧ does (i 6) q (fun t => t.here.sreg 5 == 9) = true
      ∧ (k.acting c).here.sReady c (k.inHand c) = true ∧ does c k (fun t => t.here.sreg 5 == 9) = true
      ∧ does (.ctxqAnswer 0) a (fun t => (t.bank 0).qS.map (·.answer) == [some (-1)]) = true := by decide +kernel

/-- 09 R208: NOP, and END of a task that has issued nothing. -/
theorem test_nop_and_end :
    (regs.acting (.nop { sy := sy0 })).here.sReady (.nop { sy := sy0 }) (regs.inHand (.nop { sy := sy0 })) = true
      ∧ does (.nop { sy := sy0 }) regs (fun t => t.here.sreg 6 == -8 && t.here.pc == 101) = true
      ∧ (regs.acting (.endt { sy := sy0 })).here.cut = none
      ∧ (regs.acting (.endt { sy := sy0 })).here.popsOk .S sy0 (regs.inHand (.endt { sy := sy0 })) = true
      ∧ (regs.acting (.endt { sy := sy0 })).here.canPush .S sy0.push = true ∧ (regs.acting (.endt { sy := sy0 })).here.allDone = true ∧ regs.here.kind = 0
      ∧ does (.endt { sy := sy0 }) regs (fun t => t.here.status == .free && t.here.sreg 6 == 0) = true := by decide +kernel

/-- 09 R222: PWRACQ of class 16, of the class held and of class 1; PWRREL back to class 4. -/
theorem test_power_class :
    let s := dev { busy with s := scalars [(6, 16), (7, 4), (8, 1), (9, 0)] }
    let i (r : BitVec 5) : Instr := .pwracq { sy := sy0, rd := 5, ra := r }
    let l := dev { busy with pwrCls := 4 }
    (∀ p ∈ [((6 : BitVec 5), (1 : Word), 4), (9, 1, 4), (7, 0, 4), (8, 0, 1)],
      (s.acting (i p.1)).here.sReady (i p.1) (s.inHand (i p.1)) = true ∧ (s.inHand (i p.1)).answer = none
        ∧ does (i p.1) s (fun t => t.here.sreg 5 == p.2.1 && t.here.pwrCls == p.2.2) = true)
      ∧ (s.acting (i 7)).chargeRise 0 4 ≤ 0 ∧ (s.acting (i 8)).chargeRise 0 1 ≤ 0
      ∧ (l.acting (.pwrrel { sy := sy0 })).here.sReady (.pwrrel { sy := sy0 }) (l.inHand (.pwrrel { sy := sy0 })) = true
      ∧ (l.acting (.pwrrel { sy := sy0 })).chargeRise 0 l.here.pwrDecl ≤ 0
      ∧ does (.pwrrel { sy := sy0 }) l (fun t => t.here.pwrCls == 4) = true := by decide +kernel

/-- 09 R222, 18 R385: PWRACQ of class 10, which raises the charge, waits and asks for headroom; it completes once answered. -/
theorem test_power_wait :
    let s := dev { busy with s := scalars [(6, 10)] }
    let i : Instr := .pwracq { sy := sy0, rd := 5, ra := 6 }
    let g := devAt { busy with s := scalars [(6, 10)], swait := .power 10, pwrCls := 10 } { busy.capture (.word i) with answer := some 0 }
    (s.acting i).here.sReady i (s.inHand i) = true ∧ (s.inHand i).answer = none ∧ 0 < (s.acting i).chargeRise 0 10 ∧ s.here.swait = .none
      ∧ does i s (fun t => t.here.swait == .power 10 && t.here.pwrCls == 4 && (t.diePower 0).heads.map (fun h => (h.bank, h.cls)) == [(0, 10)]) = true
      ∧ (g.acting i).here.sReady i (g.inHand i) = true ∧ (g.inHand i).answer = some 0 ∧ does i g (fun t => t.here.pwrCls == 10 && t.here.swait == .none) = true := by
  decide +kernel

/-! ### Handles, layouts and formats -/

/-- A clean leaf of the page at physical address 0x10000: present, a leaf, R and W. -/
def leaf1 : Word := 0x1000F

/-- 01 R25: XLATE of a cached page, of it with a right missing, of a page not cached, and of 2^52. -/
theorem test_xlate :
    let x : Xl := { State.reset.xl with dtc := [{ die := 0, asn := 1, page := 3, big := false, leaf := leaf1 }, { die := 0, asn := 1, page := 4, big := false, leaf := 0x10003 }] }
    let s := { dev { busy with s := scalars [(6, 0x3FFFF), (7, 0x40000), (8, 0x50000), (9, 0x10000000000000)] } with xl := x }
    let i (r : BitVec 5) : Instr := .xlate { sy := sy0, hd := 4, ra := r, rights := 3 }
    let land (t : State) (f : Handle → Bool) : Bool := t.here.hland.all (fun l => l.reg == 4 && f l.h) && t.here.hland.length == 1
    (∀ r ∈ [(6 : BitVec 5), 7, 8, 9], (s.acting (i r)).here.sReady (i r) (s.inHand (i r)) = true ∧ s.xl.heldBy 0 1 (s.here.sreg r).toNat = false)
      ∧ s.xl.hit 0 1 0x3FFFF = some (leaf1, false) ∧ s.xl.hit 0 1 0x40000 = some (0x10003, false) ∧ s.xl.hit 0 1 0x50000 = none
      ∧ does (i 6) s (fun t => land t fun h => h.st == .valid && h.base == 0x30000 && h.extent == 0x10000 && h.loc == 0x10000 && h.rd && h.wr) = true
      ∧ does (i 7) s (fun t => land t fun h => h.st == .faulted && h.fkind == 1) = true
      ∧ does (i 8) s (fun t => (land t fun h => h.st == .pending) && t.xl.walks.length == 1) = true
      ∧ does (i 9) s (fun t => land t fun h => h.st == .faulted && h.fkind == 7) = true := by decide +kernel

/-- 09 R217: HLOCAL over [32, 64) of 64 bytes of scratchpad, and 32 bytes further, which leaves the window. -/
theorem test_hlocal :
    let s := dev { busy with s := scalars [(8, 32), (9, 32), (10, 64)], spSize := 64 }
    let i (r : BitVec 5) : Instr := .hlocal { sy := sy0, hd := 5, base := r, ext := 9, win := 0 }
    (∀ r ∈ [(8 : BitVec 5), 10], (s.acting (i r)).here.sReady (i r) (s.inHand (i r)) = true)
      ∧ does (i 8) s (fun t => t.here.hland.map (fun l => (l.reg, l.h.st, l.h.base, l.h.extent, l.h.loc)) == [(5, .valid, 32, 32, 0x8040000020)]) = true
      ∧ does (i 10) s (fun t => t.here.hland.map (fun l => (l.h.st, l.h.fkind)) == [(.faulted, 3)]) = true := by decide +kernel

/-- 09 R218: HINV, HGET of both words of a local handle, and a landing. -/
theorem test_handle_registers :
    let h := localHandle busy 0 2 0x100 0x40
    let s := dev { busy with h := busy.h.set 4 h }
    let l := dev { busy with hland := [{ reg := 15, h := h, push := 0 }] }
    (∀ i ∈ [Instr.hinv { sy := sy0, hd := 4 }, .hget { sy := sy0, rd := 5, hd := 4, word := 0 }, .hget { sy := sy0, rd := 5, hd := 4, word := 1 }],
      (s.acting i).here.sReady i (s.inHand i) = true)
      ∧ does (.hinv { sy := sy0, hd := 4 }) s (fun t => t.here.hland.map (fun l => l.h.st) == [.invalid]) = true
      ∧ does (.hget { sy := sy0, rd := 5, hd := 4, word := 0 }) s (fun t => t.here.sreg 5 == 0x100) = true
      ∧ does (.hget { sy := sy0, rd := 5, hd := 4, word := 1 }) s (fun t => t.here.sreg 5 == 0x0000004002000076) = true
      ∧ does (.handleLand 0) l (fun t => (t.bank 0).h.get 15 == h && (t.bank 0).hland.isEmpty) = true := by decide +kernel

/-- 09 R219: YSET of field 23 drops the high half, YGET zero-extends, YCLR clears. -/
theorem test_layout_registers :
    let s := dev { busy with s := scalars [(7, 0x1_8000_0001)], y := busy.y.set 2 (Vector.replicate 24 0x80000000) }
    (∀ i ∈ [Instr.yset { sy := sy0, y := 2, field := 23, s := 7 }, .yget { sy := sy0, y := 2, field := 23, s := 8 }, .yclr { sy := sy0, y := 2 }],
      (s.acting i).here.sReady i (s.inHand i) = true)
      ∧ does (.yset { sy := sy0, y := 2, field := 23, s := 7 }) s (fun t => (t.here.y.get 2).get 23 == 0x80000001 && (t.here.y.get 2).get 22 == 0x80000000) = true
      ∧ does (.yget { sy := sy0, y := 2, field := 23, s := 8 }) s (fun t => t.here.sreg 8 == 0x80000000) = true
      ∧ does (.yclr { sy := sy0, y := 2 }) s (fun t => (t.here.y.get 2).get 0 == 0) = true := by decide +kernel

/-- 09 R220: pushes with 15 and with 16 words in the queue. -/
theorem test_format_queue :
    let s (n : Nat) := dev { busy with s := scalars [(6, 0x1_0000_0002)], fq := List.replicate n (0, 0) }
    let f : Instr := .fpush { sy := sy0, ra := 6 }
    let g : Instr := .fpushi { sy := sy0, imm := 0x3FFFFFFF }
    (∀ i ∈ [f, g], ((s 15).acting i).here.sReady i ((s 15).inHand i) = true) ∧ (s 15).here.fq.length < 16 ∧ 16 ≤ (s 16).here.fq.length
      ∧ does f (s 15) (fun t => t.here.fq.drop 15 == [(0, 2)]) = true ∧ does g (s 15) (fun t => t.here.fq.drop 15 == [(0, 0x3FFFFFFF)]) = true
      ∧ (∀ i ∈ [f, g], does i (s 16) (fun t => t.here.fq.length == 16 && t.here.qS.length == 1) = true) := by decide +kernel

/-! ### L and W words -/

/-- The terms of `State.accessGo`, as a test evaluates them. -/
def goes (s : State) (e : Engine) (i : Instr) (a : Access) (last : Bool) (c : Capture) : Bool :=
  (s.inHand i).cap == some c && (s.acting i).lwGate e (usesOf i) (s.inHand i) (s.store.blocks (c.h.loc + a.o) a.z) last == .go
    && (s.inHand i).check (c.check a.needR a.needW a.aligned a.o a.z) == .pass && s.store.locked (c.h.loc + a.o) == false
    && s.store.behindArrival s.cur (s.inHand i).uid (c.h.loc + a.o) == false

theorem goes_iff (s : State) (e : Engine) (i : Instr) (a : Access) (last : Bool) (c : Capture) :
    goes s e i a last c = true ↔ s.accessGo e i a last c := by simp [goes, State.accessGo, and_assoc]

/-- The terms of `State.clean`. -/
def cleanly (s : State) (l n : Nat) : Bool :=
  (unitsOf l n).all fun u => s.store.unitEcc (s.store.resolve (u * 8) / 8) == none && s.store.badUnit u == false
    && s.store.hbmEcc.all (fun p => p.1 / 16 != s.store.resolve (u * 8) / 8 / 16)
    && s.store.tagEcc.all (fun p => p.2.1 != s.store.resolve (u * 8) / 8 / 16)
    && s.store.remote.all fun r => r.ecc.all fun p => p.1 != s.store.resolve (u * 8) / 8

theorem cleanly_iff (s : State) (l n : Nat) : cleanly s l n = true ↔ s.clean l n := by simp [cleanly, State.clean, and_assoc]

/-- A handle of the backed page at 0x10000, with both rights. -/
def page1 : Handle := { Handle.reset with st := .valid, rd := true, wr := true, extent := 0x10000, base := 0x10000, loc := 0x10000 }

def cap1 : Capture := { h := page1, stale := false }

/-- Storage with bytes at physical addresses. -/
def holding (f : List (Nat × List Byte)) : Store := f.foldl (fun st p => st.put 0 p.1 p.2) State.reset.store

/-- h4 is that page; s6 is 16, s7 is 3, s8 is 5; the 16 bytes from 0x10010 are 5 and 0x8786858483828180. -/
def lw : State := { dev { busy with h := busy.h.set 4 page1, s := scalars [(6, 0x10), (7, 3), (8, 5), (9, 0x18)] } with
  store := holding [(0x10010, leBytes 8 5 ++ leBytes 8 0x8786858483828180)] }

/-- 10 R229: the premises of ScalarLoads, and its values: sign and zero extension. -/
theorem test_scalar_loads :
    let a : MemS := { sy := sy0, od := on 1, reg := 5, h := 4, idx := 9, rep := 0, step := 1 }
    ∀ p ∈ [(Instr.ldb a, 1, (-128 : Word)), (.ldbu a, 1, 0x80), (.ldh a, 2, 0xFFFFFFFFFFFF8180), (.ldhu a, 2, 0x8180),
        (.ldw a, 4, 0xFFFFFFFF83828180), (.ldwu a, 4, 0x83828180), (.ldd a, 8, 0x8786858483828180)],
      goes lw .L p.1 { o := 0x18, z := p.2.1, needR := true, needW := false, aligned := 0x18 % p.2.1 == 0 } true cap1 = true
        ∧ cleanly lw 0x10018 p.2.1 = true
        ∧ does p.1 lw (fun t => t.here.ops.map (·.loads) == [[.s 5 p.2.2]]) = true := by
  decide +kernel

/-- 07 R178, 10 R229: the first of two repetitions of LDD keeps the L head; its data is written at once, or, where a choice has its unit
read later, with the operation. -/
theorem test_load_repeats :
    let a : MemS := { sy := sy0, od := on 1, reg := 5, h := 4, idx := 6, rep := 1, step := 1 }
    let late : State := { lw with choices := [1] }
    (∀ s ∈ [lw, late], goes s .L (.ldd a) { o := 0x10, z := 8, needR := true, needW := false, aligned := true } false cap1 = true ∧ cleanly s 0x10010 8 = true
        ∧ (s.acting (.ldd a)).here.firstWriter (s.inHand (.ldd a)).uid 5 = true ∧ ∀ d, s.gaffer.filtersOn d = false)
      ∧ lateMask (lw.inHand (.ldd a)) 0 0x10010 8 = 0 ∧ lateMask (late.inHand (.ldd a)) 1 0x10010 8 = 1
      ∧ does (.ldd a) lw (fun t => t.here.ops.isEmpty && t.here.sreg 5 == 5 && t.here.qL.map (fun x => (x.rep, x.got, x.done)) == [(1, [], [5])]) = true
      ∧ does (.ldd a) late (fun t => t.here.sreg 5 == 0 && t.here.qL.map (fun x => (x.rep, x.got)) == [(1, [.s 5 5])]) = true := by
  decide +kernel

/-- 10 R230, R231: VLD, VLDB and a VLDS whose pitch is s6: its first segment keeps the head. -/
theorem test_vector_loads :
    let a : MemV := { sy := sy0, od := on 1, reg := 3, h := 4, idx := 6, rep := 0, step := 1 }
    goes lw .L (.vld a) { o := 0x10, z := 256, needR := true, needW := false, aligned := true } true cap1 = true ∧ cleanly lw 0x10010 256 = true
      ∧ does (.vld a) lw (fun t => t.here.ops.map (·.loads) == [[.v 3 0x87868584838281800000000000000005 0]]) = true
      ∧ goes lw .L (.vldb a) { o := 0x10, z := 8, needR := true, needW := false, aligned := true } true cap1 = true ∧ cleanly lw 0x10010 8 = true
      ∧ does (.vldb a) lw (fun t => t.here.ops.map (·.loads) == [[.v 3 (vecOf ((List.range 32).flatMap fun _ => leBytes 8 5)) 0]]) = true := by
  decide +kernel

theorem test_strided_load :
    let i : Instr := .vlds { sy := sy0, od := on 1, reg := 3, h := 4, idx := 9, rep := 0, step := 1 }
    let last : State := { lw with active := some { lw.here.capture (.word i) with seg := 7 } }
    let a (o : Nat) : Access := { o := o, z := 32, needR := true, needW := false, aligned := true }
    (lw.inHand i).caps = [0x18, 0] ∧ (lw.inHand i).segOffset 1 = 0x18 ∧ goes lw .L i (a 0x18) false cap1 = true ∧ cleanly lw 0x10018 32 = true
      ∧ does i lw (fun t => t.here.ops.isEmpty && t.here.qL.map (·.seg) == [1]) = true
      ∧ goes last .L i (a 0x18) true cap1 = true ∧ cleanly last 0x10018 32 = true
      ∧ does i last (fun t => t.here.qL.isEmpty && t.here.ops.map (·.uid) == [0]) = true := by
  decide +kernel

/-- 10 R229: the stores take their bytes with their place, and storage is as before. -/
theorem test_scalar_stores :
    let a : MemS := { sy := sy0, od := on 1, reg := 9, h := 4, idx := 6, rep := 0, step := 1 }
    ∀ p ∈ [(Instr.stb a, 1), (.sth a, 2), (.stw a, 4), (.std a, 8)],
      goes lw .W p.1 { o := 0x10, z := p.2, needR := false, needW := true, aligned := true } true cap1 = true ∧ cap1.h.unbacked = false
        ∧ does p.1 lw (fun t => t.here.ops.map (·.puts) == [[{ loc := 0x10010, bytes := leBytes p.2 0x18 }]] && t.store == lw.store) = true := by
  decide +kernel

/-- 10 R230, R231: VST, and the first segment of VSTS. -/
theorem test_vector_stores :
    let a : MemV := { sy := sy0, od := on 1, reg := 3, h := 4, idx := 9, rep := 0, step := 1 }
    goes lw .W (.vst a) { o := 0x18, z := 256, needR := false, needW := true, aligned := true } true cap1 = true
      ∧ does (.vst a) lw (fun t => t.here.ops.map (·.puts) == [[{ loc := 0x10018, bytes := List.replicate 256 0 }]]) = true
      ∧ goes lw .W (.vsts a) { o := 0x18, z := 32, needR := false, needW := true, aligned := true } false cap1 = true
      ∧ does (.vsts a) lw (fun t => t.here.qW.map (fun x => (x.seg, x.puts)) == [(1, [{ loc := 0x10018, bytes := List.replicate 32 0 }])]) = true := by
  decide +kernel

/-- A handle of an unbacked page of pool 3 of die 0. -/
def page2 : Handle := { page1 with unbacked := true, base := 0x200, loc := 0x1060000000000 }

/-- h4 is that page, in the task's pool, with 8 lines reserved. -/
def unb : State := { dev { busy with h := busy.h.set 4 page2, s := scalars [(6, 0x80), (7, 3), (8, 0x100)] } with
  store := { State.reset.store with
    pools := [{ die := 0, num := 3, owner := 1, limit := 100, r := 8, p := 2, late64 := [], late256 := [], nlate := 0, nlost := 0, withdrawn := false }] } }

/-- 02 R49: a store to an unbacked line asks for its line. -/
theorem test_store_asks :
    let i : Instr := .std { sy := sy0, od := on 1, reg := 7, h := 4, idx := 6, rep := 0, step := 1 }
    let c : Capture := { h := page2, stale := false }
    goes unb .W i { o := 0x80, z := 8, needR := false, needW := true, aligned := true } true c = true ∧ c.h.unbacked = true
      ∧ 2 ^ 48 ≤ unb.store.resolve (c.h.loc + 0x80) ∧ (unb.inHand i).alloc = .none
      ∧ does i unb (fun t => t.here.qW.map (·.alloc) == [.asked 0x80 (linesOf (page2.loc + 0x80) 8)] && t.store == unb.store) = true := by
  decide +kernel

/-- 10 R232, R233: the atomics on the object 5 with operands 3 and s5 = 5; AFADD of the FP32 pair (1, 0) and (2, 0). -/
theorem test_atomics :
    let a : Atom := { sy := sy0, od := on 1, res := 8, h := 4, idx := 6, opnd := 7, scope := 2 }
    ∀ p ∈ [(Instr.aadd a, (8 : Nat)), (.amin a, 3), (.amax a, 5), (.aand a, 1), (.aor a, 7), (.axor a, 6), (.aswap a, 3), (.acas a, 3)],
      goes lw .W p.1 { o := 0x10, z := 8, needR := true, needW := true, aligned := true } true cap1 = true ∧ cleanly lw 0x10010 8 = true
        ∧ (lw.choices.headD 0).testBit 0 = false ∧ lw.store.objectHeld 0x10010 8 = true
        ∧ does p.1 lw (fun t => t.here.ops.map (·.loads) == [[.s 8 5]] && t.store.homeNat 0x10010 8 == p.2) = true := by
  decide +kernel

/-- 04 R96, R97, 05 R125: AADD that a choice leaves for its completion: the object is 5 until then, and 8 after it. -/
theorem test_late_atomic :
    let i : Instr := .aadd { sy := sy0, od := on 1, res := 8, h := 4, idx := 6, opnd := 7, scope := 2 }
    let s : State := { lw with choices := [1] }
    goes s .W i { o := 0x10, z := 8, needR := true, needW := true, aligned := true } true cap1 = true ∧ (s.choices.headD 0).testBit 0 = true
      ∧ s.store.objectHeld 0x10010 8 = true
      ∧ does i s (fun t => t.here.ops.map (·.pend) == [true] && t.store.homeNat 0x10010 8 == 5
          && does (.operationComplete 0 0) t fun u => u.store.homeNat 0x10010 8 == 8 && u.here.sreg 8 == 5) = true := by
  decide +kernel

/-- 02 R49, R65: AADD whose granted line a DISCARD has dropped since asks for it anew. -/
theorem test_atomic_asks_anew :
    let i : Instr := .aadd { sy := sy0, od := on 1, res := 8, h := 4, idx := 6, opnd := 7, scope := 2 }
    let s : State := { unb with active := some { unb.here.capture (.word i) with alloc := .granted } }
    goes s .W i { o := 0x80, z := 8, needR := true, needW := true, aligned := true } true { h := page2, stale := false } = true
      ∧ (s.inHand i).alloc = .granted ∧ cleanly s (page2.loc + 0x80) 8 = true ∧ s.store.objectHeld (page2.loc + 0x80) 8 = false
      ∧ does i s (fun t => t.here.qW.map (·.alloc) == [.asked 0x80 (linesOf (page2.loc + 0x80) 8)] && t.store == s.store) = true := by
  decide +kernel

theorem test_fp_atomic :
    let i : Instr := .afadd { sy := sy0, od := on 1, res := 8, h := 4, idx := 6, opnd := 7, scope := 2 }
    let s : State := { dev { busy with h := busy.h.set 4 page1, s := scalars [(6, 0x10), (7, 0x40000000)] } with
      store := holding [(0x10010, leBytes 8 0x3F800000)] }
    goes s .W i { o := 0x10, z := 8, needR := true, needW := true, aligned := true } true cap1 = true ∧ cleanly s 0x10010 8 = true
      ∧ s.here.ofDet = false
      ∧ does i s (fun t => t.here.ops.map (·.loads) == [[.s 8 0x3F800000]] && t.store.homeNat 0x10010 8 == 0x40400000) = true := by
  decide +kernel

/-- A barrier with EXPECTED 4, 1 arrived and phase 7 at 0x10010. -/
def bar : State := { lw with store := holding [(0x10010, leBytes 4 4 ++ leBytes 4 1 ++ leBytes 8 7)] }

/-- 10 R234: SEMSIG of 3; an arrival of 3 that completes the barrier, and one of 2 that does not. -/
theorem test_signals :
    let n : AtomN := { sy := sy0, od := on 1, h := 4, idx := 6, opnd := 7, scope := 2 }
    let a : Atom := { sy := sy0, od := on 1, res := 8, h := 4, idx := 6, opnd := 7, scope := 2 }
    let two : State := { bar with banks := (bar.setBank 0 { bar.bank 0 with s := scalars [(6, 0x10), (7, 2)] }).banks }
    goes lw .W (.semsig n) { o := 0x10, z := 8, needR := true, needW := true, aligned := true } true cap1 = true ∧ cleanly lw 0x10010 8 = true
      ∧ does (.semsig n) lw (fun t => t.store.homeNat 0x10010 8 == 8) = true
      ∧ goes bar .W (.bararv a) { o := 0x10, z := 16, needR := true, needW := true, aligned := true } true cap1 = true
      ∧ cleanly bar 0x10010 16 = true ∧ lw.store.objectHeld 0x10010 8 = true ∧ bar.store.objectHeld 0x10010 16 = true
      ∧ does (.bararv a) bar (fun t => t.here.ops.map (·.loads) == [[.s 8 7]] && t.store.homeNat 0x10014 4 == 0 && t.store.homeNat 0x10018 4 == 8) = true
      ∧ goes two .W (.bararv a) { o := 0x10, z := 16, needR := true, needW := true, aligned := true } true cap1 = true
      ∧ cleanly two 0x10010 16 = true
      ∧ does (.bararv a) two (fun t => t.here.ops.map (·.loads) == [[.s 8 7]] && t.store.homeNat 0x10014 4 == 3 && t.store.homeNat 0x10018 4 == 7) = true := by
  decide +kernel

/-- 10 R234, R235: waits that are met at once, and waits that register. -/
theorem test_waits :
    let a (r : BitVec 5) : Atom := { sy := sy0, od := on 1, res := 8, h := 4, idx := 6, opnd := r, scope := 2 }
    (∀ d, lw.gaffer.filtersOn d = false) ∧ cleanly lw 0x10010 8 = true ∧ cleanly bar 0x10010 16 = true
      ∧ (∀ r ∈ [(8 : BitVec 5), 9],
        goes lw .L (.semwait (a r)) { o := 0x10, z := 8, needR := true, needW := false, aligned := true } true cap1 = true
          ∧ goes bar .L (.barwait (a r)) { o := 0x10, z := 16, needR := true, needW := false, aligned := true } true cap1 = true)
      ∧ does (.semwait (a 8)) lw (fun t => t.here.ops.map (fun o => (o.loads, o.waiting)) == [([.s 8 5], false)]) = true
      ∧ does (.semwait (a 8)) { lw with choices := [1] } (fun t =>
          t.here.ops.map (fun o => (o.loads, o.waiting)) == [([], true)] && t.store.waits.map (fun w => (w.met, w.unread)) == [(none, true)]) = true
      ∧ does (.semwait (a 9)) lw (fun t => t.here.ops.map (fun o => (o.loads, o.waiting)) == [([], true)] && t.store.waits.map (·.val) == [0x18]) = true
      ∧ does (.barwait (a 8)) bar (fun t => t.here.ops.map (fun o => (o.loads, o.waiting)) == [([.s 8 7], false)]) = true := by
  decide +kernel

theorem test_barrier_wait_registers :
    let i : Instr := .barwait { sy := sy0, od := on 1, res := 8, h := 4, idx := 6, opnd := 7, scope := 2 }
    let s : State := { bar with banks := (bar.setBank 0 { bar.bank 0 with s := scalars [(6, 0x10), (7, 7)] }).banks }
    goes s .L i { o := 0x10, z := 16, needR := true, needW := false, aligned := true } true cap1 = true ∧ cleanly s 0x10010 16 = true
      ∧ does i s (fun t => t.here.ops.map (fun o => (o.loads, o.waiting)) == [([], true)] && t.store.waits.map (·.isBar) == [true]) = true := by
  decide +kernel

/-! ### Worklists, copies, pages and slots -/

/-- A handle of the die scratchpad (window 3). -/
def page3 : Handle := localHandle busy 0 3 0 0x1000

/-- A group with NLISTS 1, DEPTH 1, NPART 2 and list 0 as given, at offset 0 of the die scratchpad; s6 = 0 is the index, s7 = 0 the
list, s8 = 9 the item, s9 is all ones. -/
def listed (head tail : Nat) (done : Bool) : State :=
  { dev { busy with h := busy.h.set 4 page3, s := scalars [(8, 9), (9, -1)] } with
    store := holding [(page3.loc, leBytes 8 0x20101 ++ leBytes 8 (if done then 0x100 else 0) ++ List.replicate 48 0 ++ leBytes 4 head
      ++ leBytes 4 tail ++ List.replicate 8 0 ++ leBytes 8 0x77 ++ leBytes 8 0x88)] }

/-- The terms of `State.groupGo`. -/
def groupGoes (s : State) (e : Engine) (i : Instr) (needW : Bool) (c : Capture) (l k : Nat) : Bool :=
  let o := ((s.inHand i).caps.getD 0 0).toNat
  (s.inHand i).cap == some c && l == c.h.loc + o && (s.acting i).lwGate e (usesOf i) (s.inHand i) (s.store.blocks l 64) true == .go
    && ({ c with h := { c.h with isLocal := false } } : Capture).check true needW true 0 0 == .pass
    && c.h.isLocal && c.h.window == 3 && o % 64 == 0 && decide (o + s.store.groupSize l ≤ c.h.extent.toNat)
    && cleanly s l (s.store.groupSize l) && s.store.groupFault l k == none

theorem groupGoes_iff (s : State) (e : Engine) (i : Instr) (needW : Bool) (c : Capture) (l k : Nat) :
    groupGoes s e i needW c l k = true ↔ s.groupGo e i needW c l k := by
  simp only [groupGoes, State.groupGo, Bool.and_eq_true, beq_iff_eq, decide_eq_true_eq, cleanly_iff, and_assoc]

def cap3 : Capture := { h := page3, stale := false }

/-- 15 R325: WLAPPEND with status 0, 1 (2 items in 2 places), 2 and 3. -/
theorem test_worklist_append :
    let i (r : BitVec 5) : Instr := .wlappend { sy := sy0, od := on 1, res := 10, h := 4, idx := 6, opnd := r, scope := 3 }
    ∀ p ∈ [(listed 0 1 false, (8 : BitVec 5), (0 : Word), 2), (listed 0 2 false, 8, 1, 2), (listed 0 1 true, 8, 2, 1), (listed 0 1 true, 9, 3, 1)],
      groupGoes p.1 .W (i p.2.1) true cap3 page3.loc 0 = true
        ∧ does (i p.2.1) p.1 (fun t => t.here.ops.map (·.loads) == [[.s 10 p.2.2.1]] && t.store.listTail page3.loc 0 == p.2.2.2) = true := by
  decide +kernel

/-- 04 R96: a WLAPPEND that a choice leaves for later changes nothing as it issues, and appends as it completes. -/
theorem test_worklist_append_late :
    let i : Instr := .wlappend { sy := sy0, od := on 1, res := 10, h := 4, idx := 6, opnd := 8, scope := 3 }
    let s : State := { listed 0 1 false with choices := [1] }
    groupGoes s .W i true cap3 page3.loc 0 = true ∧ (s.choices.headD 0).testBit 0 = true
      ∧ does i s (fun t => t.here.ops.map (·.pend) == [true] && t.store.listTail page3.loc 0 == 1
          && does (.operationComplete 0 0) t fun u => u.store.listTail page3.loc 0 == 2) = true := by
  decide +kernel

/-- 15 R326: WLTAKE of the item at HEAD 1, of an empty list of a done group, and of an empty list of a group that goes on. -/
theorem test_worklist_take :
    let i : Instr := .wltake { sy := sy0, od := on 1, res := 10, h := 4, idx := 6, opnd := 7, scope := 3 }
    (∀ s ∈ [listed 1 2 false, listed 2 2 true, listed 2 2 false], groupGoes s .L i false cap3 page3.loc 0 = true ∧ s.store.wlOf s.cur 0 = none)
      ∧ cleanly (listed 1 2 false) ((listed 1 2 false).store.itemLoc page3.loc 0 1) 8 = true
      ∧ does i (listed 1 2 false) (fun t => t.here.ops.map (·.loads) == [[.s 10 0x88]] && t.store.listHead page3.loc 0 == 2) = true
      ∧ does i (listed 2 2 true) (fun t => t.here.ops.map (·.loads) == [[.s 10 (-1)]]) = true
      ∧ does i (listed 2 2 false) (fun t => t.here.ops.isEmpty && t.here.qL.length == 1 && t.store.waiting page3.loc == 1) = true := by
  decide +kernel

/-- A layout of format 8 (bytes): rank 1, extent 6, stride 1, a window of 8, FILL 0xAA, PITCH 8. -/
def bytes6 : Layout := ((((((Vector.replicate 24 0 : Layout).set 0 8).set 1 1).set 2 6).set 6 1).set 10 8).set 12 0xAA |>.set 13 8

/-- The terms of `State.copyGo`, but for the choice of the copy. -/
def copyGoes (s : State) (w : CopyWord) (cap : Capture) (y : Layout) : Bool :=
  let x := s.inHand w.i; let t := s.acting w.i; let e := (usesOf w.i).eng.getD .L; let c := t.newCopy e w x cap y
  x.cap == some cap && x.lay == some c.lay && (t.here.copies.all fun k => k.uid != x.uid) && t.lwGate e (usesOf w.i) x [] true == .go
    && decide (t.copiesInFlight < 16) && c.layoutFault (x.caps.getD 2 0).toNat (match t.here.task with | some k => k.gang | none => false) == none
    && t.hasRequests x c.rowPieces && c.la.toNat % 8 == 0 && (c.dsts.all fun k => (c.pieces 0).all fun g => decide (g.a + g.n ≤ (t.copyPlace t.cur c.lvl k).2))
    && x.check (cap.checkRuns c.isIn (!c.isIn) c.lay.z (c.runs 0)) == .pass
    && ((c.runs 0).all fun q => !s.store.locked (cap.h.loc + q.o) && !s.store.behindArrival s.cur x.uid (cap.h.loc + q.o))
    && !c.lay.fold && (c.isIn || !cap.h.unbacked)

theorem copyGo_of_goes (s : State) (w : CopyWord) (cap : Capture) (y : Layout) (h : copyGoes s w cap y = true) :
    s.copyGo w cap ((s.acting w.i).newCopy ((usesOf w.i).eng.getD .L) w (s.inHand w.i) cap y) := by
  simp only [copyGoes, Bool.and_eq_true (_ && _), Bool.and_eq_true, beq_iff_eq, decide_eq_true_eq, Bool.or_eq_true, Bool.not_eq_true'] at h
  obtain ⟨⟨⟨⟨⟨⟨⟨⟨⟨⟨⟨⟨h1, h2⟩, h3⟩, h4⟩, h5⟩, h6⟩, h0⟩, h7⟩, h8⟩, h9⟩, h10⟩, h11⟩, h12⟩ := h
  refine ⟨h1, h2, rfl, h3, h4, h5, h6, h0, h7, h8, h9, ?_, fun hf => ?_, ?_⟩
  · simpa using h10
  · rw [h11] at hf
    exact absurd hf (by decide)
  · exact h12.elim Or.inl fun h => Or.inr (Or.inl h)

/-- A device with the layout in y2, the page of 0x10000 in h4, 64 bytes of scratchpad, and bytes 1-8 at 0x10000. -/
def copying : State :=
  { dev { busy with h := busy.h.set 4 page1, y := busy.y.set 2 bytes6, spSize := 64 } with
    store := holding [(0x10000, leBytes 8 0x0807060504030201), (padBase 0, leBytes 8 0x1817161514131211)] }

/-- 11 R246, R248: the first row of a copy in, of a copy out, of a gather and of a scatter. -/
theorem test_copies :
    let a : CopyW := { sy := sy0, od := on 1, y := 2, h := 4, loc := 6, org := 7, mc := 8, lvl := 0 }
    let g : GatherW := { sy := sy0, od := on 1, vi := 3, h := 4, y := 2, loc := 6, cnt := 0 }
    copying.store.clean = true ∧ copying.store.lines = [] ∧ (∀ d, copying.gaffer.filtersOn d = false)
      ∧ ∀ w ∈ copyWords a g, copyGoes copying w cap1 bytes6 = true
        ∧ does w.i copying (fun t => t.here.copies.map (fun c => c.flights.map (·.puts)) == [[[
            if w.isIn then { loc := padBase 0, bytes := leBytes 8 0xAAAA060504030201 }
            else { loc := 0x10000, bytes := leBytes 6 0x161514131211 }]]]) = true := by
  decide +kernel

/-- The terms of `State.pageGo`. -/
def pageGoes (s : State) (i : Instr) (c : Capture) (o n : Nat) (own : Entry → Capture → Option Nat) : Bool :=
  (s.inHand i).cap == some c && (s.acting i).lwGate .W (usesOf i) (s.inHand i) (s.store.blocks (c.h.loc + o) n) true == .go
    && (s.inHand i).check (({ c with h := { c.h with isLocal := false } } : Capture).check false true true 0 0) == .pass
    && own (s.inHand i) c == none && s.store.locked c.h.loc == false && s.store.behindArrival s.cur (s.inHand i).uid c.h.loc == false

theorem pageGoes_iff (s : State) (i : Instr) (c : Capture) (o n : Nat) (own : Entry → Capture → Option Nat) :
    pageGoes s i c o n own = true ↔ s.pageGo i c o n own := by simp [pageGoes, State.pageGo, and_assoc]

/-- The terms of `State.nonePends`. -/
def pendsNone (s : State) : Bool := s.banks.toList.all fun b => b.ops.all fun o => !o.pend

theorem nonePends_of_pendsNone (s : State) (h : pendsNone s = true) : s.nonePends := by
  intro n o ho
  have := List.all_eq_true.mp (List.all_eq_true.mp h (s.bank n) (by simp [State.bank, Vector.get])) o ho
  simpa using this

def cap2 : Capture := { h := page2, stale := false }

/-- 02 R57, R58: DISCARD of a pinned line, and WBACK of a dirty one. -/
theorem test_page_ranges :
    let d : Instr := .discard { sy := sy0, od := on 1, h := 4, idx := 6, opnd := 7 }
    let w : Instr := .wback { sy := sy0, od := on 1, h := 4, idx := 6, opnd := 7 }
    let s (h : Handle) : State := { dev { busy with h := busy.h.set 4 h, s := scalars [(6, 0x80), (7, 0x80)] } with store := unb.store }
    let p : State := { s page2 with store := { unb.store.put 0 (page2.loc + 0x80) [7] with lines := [((page2.loc + 0x80) / 128, .pinned)] } }
    let b : State := { s page1 with store := holding [(0x10080, [7])] }
    (∀ k, p.gaffer.filtersOn k = false) ∧ pendsNone p = true ∧ pendsNone b = true ∧ (p.store.lines.map (·.1)).Nodup
      ∧ ((page2.loc + 0x80) % 2 ^ 41 + 0x80 ≤ 2 ^ 41 ∧ (p.store.pool 0 3).map (·.p) = some 2 ∧ p.store.pinnedIn (page2.loc + 0x80) 0x80 = 1)
      ∧ p.store.forwards = [] ∧ b.store.forwards = [] ∧ pageGoes p d cap2 0x80 0x80 (rangeChecks true) = true
      ∧ (2 ^ 48 ≤ page2.loc + 0x80 ∧ (page2.loc + 0x80) % 128 = 0)
      ∧ does d p (fun t => t.store.lines.isEmpty && (t.store.pool 0 3).map (·.p) == some 1 && t.store.viewByte 0 (page2.loc + 0x80) == 0) = true
      ∧ pageGoes b w cap1 0x80 0x80 (rangeChecks false) = true ∧ b.store.dirty = [0x10080 / 128] ∧ b.store.hbm.wf = true
      ∧ b.store.clean = true ∧ b.store.lines = [] ∧ (p.choices.headD 0).testBit 0 = false
      ∧ does w b (fun t => t.store.dirty.isEmpty && t.store.hbm.reads 0x10080 1 == [7]) = true := by
  decide +kernel

/-- 05 R132: a DISCARD that a choice leaves for its completion: its line is there until then. -/
theorem test_late_discard :
    let d : Instr := .discard { sy := sy0, od := on 1, h := 4, idx := 6, opnd := 7 }
    let k := (page2.loc + 0x80) / 128
    let s : State := { dev { busy with h := busy.h.set 4 page2, s := scalars [(6, 0x80), (7, 0x80)] } with
      choices := [1], store := { unb.store.put 0 (page2.loc + 0x80) [7] with lines := [(k, .pinned)] } }
    pageGoes s d cap2 0x80 0x80 (rangeChecks true) = true ∧ (s.choices.headD 0).testBit 0 = true
      ∧ does d s (fun t => t.here.ops.map (·.pend) == [true] && t.store.lineSt k == some .pinned
          && does (.operationComplete 0 0) t fun u => u.store.lineSt k == none) = true := by
  decide +kernel

/-- 02 R59: PGRSV of 3 lines, of 93 (past LIMIT 100), of 5 on a die without room; PGREL of 6 of 8 reserved with 2 pinned, asked for 9. -/
theorem test_reservations :
    let v (i : BitVec 5) : Instr := .pgrsv { sy := sy0, od := on 1, res := 10, h := 4, opnd := i }
    let l : Instr := .pgrel { sy := sy0, od := on 1, res := 10, h := 4, opnd := 8 }
    let s : State := { dev { busy with h := busy.h.set 4 page2, s := scalars [(6, 3), (7, 93), (8, 9)] } with store := unb.store }
    let full : State := { s with store := { unb.store with retiredLines := Vector.replicate 4 (2 ^ 40) } }
    s.store.pool (dieOfLoc page2.loc) (poolOfLoc page2.loc) = unb.store.pools.head? ∧ full.store.pool (dieOfLoc page2.loc) (poolOfLoc page2.loc) ≠ none
      ∧ (∀ i ∈ [v 6, v 7, l], pageGoes s i cap2 0 0 unbackedCheck = true)
      ∧ full.store.capacity (dieOfLoc page2.loc) < full.store.reservedOn (dieOfLoc page2.loc) + 3 ∧ pageGoes full (v 6) cap2 0 0 unbackedCheck = true
      ∧ s.store.reservedOn (dieOfLoc page2.loc) + 3 ≤ s.store.capacity (dieOfLoc page2.loc)
      ∧ does (v 6) s (fun t => t.here.ops.map (·.loads) == [[.s 10 0]] && t.store.pools.map (·.r) == [11]) = true
      ∧ does (v 7) s (fun t => t.here.ops.isEmpty && t.here.tcause == tcauseOf { group := 1, kind := 11, engine := .W }) = true
      ∧ does (v 6) full (fun t => t.here.ops.map (·.loads) == [[.s 10 1]]) = true
      ∧ does l s (fun t => t.here.ops.map (·.loads) == [[.s 10 6]] && t.store.pools.map (·.r) == [2]) = true := by
  decide +kernel

/-- 02 R60: PGMIG to a pool that is none, of a page that has become backed, to its own pool, and to pool 4 of die 0. -/
theorem test_page_migration :
    let i (r : BitVec 5) : Instr := .pgmig { sy := sy0, od := on 1, res := 10, h := 4, opnd := r }
    let q : Pool := { die := 0, num := 4, owner := 1, limit := 9, r := 2, p := 0, late64 := [], late256 := [], nlate := 0, nlost := 0, withdrawn := false }
    let s : State := { dev { busy with h := busy.h.set 4 page2, s := scalars [(6, 0x500), (7, 0x300), (8, 0x400)] } with
      store := { unb.store with pools := unb.store.pools ++ [q] } }
    let moved : State := { s with store := { s.store with forwards := [{ src := page2.loc, len := 0x10000, dst := 0x40000, inval := 0, orphan := false }] } }
    (s.acting (i 6)).here.cut = none ∧ (∀ r ∈ [(6 : BitVec 5), 7, 8], pageGoes s (i r) cap2 0 0 unbackedCheck = true) ∧ pageGoes moved (i 7) cap2 0 0 unbackedCheck = true
      ∧ s.store.pool 0 5 = none ∧ (s.store.pool 0 3).map (·.owner) = some 1 ∧ s.store.pool 0 4 = some q ∧ moved.store.resolve page2.loc < 2 ^ 48
      ∧ s.store.resolve page2.loc = page2.loc ∧ dieOfLoc page2.loc = 0 ∧ poolOfLoc page2.loc = 3 ∧ s.store.pinnedIn page2.loc page2.extent.toNat = 0
      ∧ does (i 6) s (fun t => t.here.ops.isEmpty && t.here.tcause == tcauseOf { group := 1, kind := 11, engine := .W }) = true
      ∧ does (i 7) moved (fun t => t.here.ops.map (·.loads) == [[.s 10 3]]) = true
      ∧ does (i 7) s (fun t => t.here.ops.map (·.loads) == [[.s 10 1]]) = true
      ∧ does (i 8) s (fun t => t.here.ops.map (fun o => (o.loads, o.waiting)) == [([.s 10 0], true)]) = true := by
  decide +kernel

/-- A grid of period 1 microsecond from TIME 4 000 000 on, with guard time 2. -/
def grid0 : GridDesc where
  period := 1
  phase := 4000000
  guardTime := 2
  cap := #v[64, 64, 64, 64]
  maxtok := 4
  fill := Vector.replicate 16 0x11
  rom := false
  trapmiss := true
  template := 0x4000
  batch := #v[0x5000, 0, 0, 0]
  seq := #v[0, 0, 0, 0]
  asn := 1

/-- Conversation 5 of grid 3, open from slot 990 on, with its record at 0x20000. -/
def conv5 : Conv where
  m := 5
  grid := 3
  asn := 1
  recVa := 0x20000
  recLoc := 0x20000
  listenVa := 0x21000
  speakVa := 0x22000
  cullVa := 0x23000
  cull := 2
  ingress := 77
  egress := 88
  pending := false
  closing := none
  effective := true
  isOpen := true
  frontier := 1000
  committed := 0
  withdrawn := 0
  close := 0
  rplay := false
  overrun := false
  missed := false
  heard := false
  misses := 0
  rcount := 0
  culseq := 0
  inglate := 0
  ingbad := 0
  named := true
  corrupt := false
  staged := none

/-- A device whose lehr of die 0 holds that grid and a conversation. -/
def lehrOf (c : Conv) (s : State) : State :=
  { s with lehr := { s.lehr with convs := [c], grids := s.lehr.grids.set 3 { Grid.reset with desc := some grid0, started := true } } }

/-- The page of the record. -/
def page5 : Handle := { page1 with base := 0x20000, loc := 0x20000 }

/-- The terms of `State.slotGo`. -/
def slotGoes (s : State) (i : Instr) (c : Capture) (m : ConvId) : Bool :=
  let o := ((s.inHand i).caps.getD 0 0).toNat
  (s.inHand i).cap == some c && (s.acting i).lwGate .W (usesOf i) (s.inHand i) (s.store.blocks (c.h.loc + o) 256) true == .go
    && ({ c with h := { c.h with isLocal := false } } : Capture).check true true true 0 0 == .pass
    && !c.h.isLocal && !c.h.unbacked && o % 256 == 0 && decide (o + 256 ≤ c.h.extent.toNat) && s.convAt (c.h.loc + o) == some m
    && s.lehr.convs.all fun v => v.asn != s.here.asn || !s.convHeld v

theorem slotGoes_iff (s : State) (i : Instr) (c : Capture) (m : ConvId) : slotGoes s i c m = true ↔ s.slotGo i c m := by
  simp [slotGoes, State.slotGo, and_assoc, Decidable.imp_iff_not_or]

/-- 16 R346: COMMIT of slots 1000 (at FRONTIER), 1001 (its boundary is within the guard time), 1015 and 1016; RETRACT from 1001 on. -/
theorem test_slot_words :
    let c (r : BitVec 5) : Instr := .commit { sy := sy0, od := on 1, res := 10, h := 4, idx := 6, opnd := r }
    let r : Instr := .retract { sy := sy0, od := on 1, res := 10, h := 4, idx := 6, opnd := 8 }
    let s : State := lehrOf conv5 (dev { busy with h := busy.h.set 4 page5, s := scalars [(7, 1000), (8, 1001), (9, 1015), (11, 1016)] })
    let k : Capture := { h := page5, stale := false }
    s.convOf 5 = some conv5 ∧ (s.grid 3).desc = some grid0
      ∧ (∀ p ∈ [((7 : BitVec 5), 1), (8, 1), (9, 0), (11, 2)], slotGoes s (c p.1) k 5 = true
        ∧ does (c p.1) s (fun t => t.here.ops.map (·.loads) == [[.s 10 (slotResult 1000 0 p.2)]]) = true)
      ∧ slotGoes s r k 5 = true ∧ (∀ j, j < 15 → conv5.isCommitted j = false)
      ∧ does r s (fun t => t.here.ops.map (·.loads) == [[.s 10 (slotResult 1000 0 0)]]) = true := by
  decide +kernel

/-- 09 R224: the lehr answers a CTXQ of item 0 about that conversation, whose frontier is slot 1000. -/
theorem test_ctxq_frontier :
    let c : Instr := .ctxq { sy := sy0, rd := 5, ra := 6, rb := 7 }
    let a := lehrOf conv5 (dev { busy with swait := .ctxq 5 0, qS := [busy.capture (.word c)] })
    a.convOf 5 = some conv5 ∧ conv5.asn = (a.bank 0).asn ∧ does (.ctxqAnswer 0) a (fun t => (t.bank 0).qS.map (·.answer) == [some 1000]) = true := by
  decide +kernel

/-- 16 R346: both words of a conversation that is not open, and of one that has never taken effect. -/
theorem test_slot_words_closed :
    let a : SlotOp := { sy := sy0, od := on 1, res := 10, h := 4, idx := 6, opnd := 8 }
    let s (c : Conv) : State := lehrOf c (dev { busy with h := busy.h.set 4 page5, s := scalars [(8, 1001)] })
    let shut := s { conv5 with isOpen := false }
    let fresh := s { conv5 with effective := false, isOpen := false }
    let k : Capture := { h := page5, stale := false }
    (∀ i ∈ [Instr.commit a, .retract a], slotGoes shut i k 5 = true ∧ slotGoes fresh i k 5 = true
      ∧ does i shut (fun t => t.here.ops.map (·.loads) == [[.s 10 (slotResult 1000 0 3)]]) = true ∧ does i fresh (fun t => t.here.ops.length == 1) = true)
      ∧ (fresh.convOf 5).map (·.effective) = some false := by
  decide +kernel

/-! ### C words -/

/-- The bank from which a C word issues, once what is due has landed. -/
def State.landed (s : State) (i : Instr) : Bank := ((s.acting i).relook s.cur).here.landDue.1.takeSr (s.inHand i).uid

/-- The terms of `State.cGo`. -/
def cGoes (s : State) (i : Instr) (sr : Bool) (charge : Nat) (reads : Bank → Entry → List CReg) (writes : Bool := true) : Bool :=
  let a := (s.acting i).here; let x := s.inHand i; let sy := (usesOf i).sy; let b := State.landed s i
  a.cut == none && a.popsOk .C sy x && (x.popped || a.canPush .C sy.push) && (!sr || !a.srAwaited x.uid) && ((s.acting i).relook s.cur).here.landDue.2 == none
    && !((reads b x).any b.isLate) && !b.slackOut && (!writes || decide (b.flights.length < 16))
    && b.overClass (if charge = 0 then [] else [(bucketOf s.time, charge)]) == none

theorem cGo_of_goes (s : State) (i : Instr) (sr : Bool) (charge : Nat) (reads : Bank → Entry → List CReg) (writes : Bool)
    (h : cGoes s i sr charge reads writes = true) : s.cGo i sr charge reads (State.landed s i) writes := by
  simp only [cGoes, Bool.and_eq_true, Bool.or_eq_true, beq_iff_eq, decide_eq_true_eq, Bool.not_eq_true'] at h
  obtain ⟨⟨⟨⟨⟨⟨⟨⟨h1, h2⟩, h3⟩, h4⟩, h5⟩, h6⟩, h7⟩, h8⟩, h9⟩ := h
  refine ⟨h1, h2, h3, fun e => ?_, ⟨_, ?_, rfl⟩, h6, h7, fun w => ?_, h9⟩
  · rcases h4 with h4 | h4
    · rw [e] at h4
      exact absurd h4 (by decide)
    · exact h4
  · rw [← h5]
  · rcases h8 with h8 | h8
    · rw [w] at h8
      exact absurd h8 (by decide)
    · exact h8

/-- Of the last flight, what lane 0 gets, by width, and the lowest written bit. -/
def flies (w : Nat) (t : State) : Option (Nat × Bool) :=
  t.here.flights.getLast?.bind fun f => match f.tgt with
    | .v _ x m => some (lane w x 0, m.getLsbD 0)
    | .p _ x m => some (x.toNat % 2 ^ w, m.getLsbD 0)
    | .s _ x => some (x.toNat, true)
    | .acc .. | .accClear _ | .store | .nothing => none

/-- p1 takes lane 0 alone; v2, v3 and v4 hold FP32 1.5, 4.0 and 1.0 in lane 0, v5 and v6 I32 −8 and 2; s6 is 1; 64 Kbytes each of scratchpad
and slice are reserved. -/
def vecs : State := dev { busy with
  v := ((((busy.v.set 2 0x3FC00000).set 3 0x40800000).set 4 0x3F800000).set 5 0xFFFFFFF8).set 6 2
  p := busy.p.set 1 0xF, s := scalars [(6, 1), (7, 0x20)], spSize := 0x10000, mvSize := 0x10000 }

/-- 12 R266-R268: the arithmetic of FP32 1.5 and 4.0 with 1.0 in vd, and the functions of 4.0. -/
theorem test_vector_arithmetic :
    let a : CBin := { sy := sy0, vd := 4, va := 2, vb := 3, pr := 1, ty := .fp32, rep := 0, md := 0 }
    let u : CUn := { sy := sy0, vd := 4, va := 3, pr := 1, ty := .fp32, rep := 0, md := 0 }
    (∀ q ∈ arithWords a ++ unWords u, cGoes vecs q.i q.sr q.charge q.reads = true)
      ∧ (∀ p ∈ [(Instr.vadd a, 0x40B00000), (.vsub a, 0xC0200000), (.vmul a, 0x40C00000), (.vfma a, 0x40E00000), (.vdiv a, 0x3EC00000),
        (.vabs u, 0x40800000), (.vrcp u, 0x3E800000), (.vrsq u, 0x3F000000), (.vsqrt u, 0x40000000)],
        does p.1 vecs (fun t => flies 4 t == some (p.2, true)) = true) := by
  decide +kernel

theorem test_exponentials :
    let u : CUn := { sy := sy0, vd := 4, va := 3, pr := 1, ty := .fp32, rep := 0, md := 0 }
    does (.vexp2 u) vecs (fun t => flies 4 t == some (0x41800000, true)) = true
      ∧ does (.vlog2 u) vecs (fun t => flies 4 t == some (0x40000000, true)) = true := by
  decide +kernel

/-- 12 R272-R274, R278: the words of I32 −8 and 2; VPERM takes lane 2, which is 0. -/
theorem test_vector_logic :
    let a : CTri := { sy := sy0, vd := 4, va := 5, vb := 6, pr := 1, ty := .i32, rep := 0 }
    let s : CBin := { sy := sy0, vd := 4, va := 5, vb := 6, pr := 1, ty := .i32, rep := 0, md := 0 }
    (∀ q ∈ triWords a, cGoes vecs q.i q.sr q.charge q.reads = true)
      ∧ (∀ p ∈ [(Instr.vmin a, 0xFFFFFFF8), (.vmax a, 2), (.vshr a, 0x3FFFFFFE), (.vshra a, 0xFFFFFFFE), (.vperm a, 0), (.vand a, 0), (.vor a, 0xFFFFFFFA),
        (.vxor a, 0xFFFFFFFA), (.vsel a, 0xFFFFFFF8), (.vshl s, 0xFFFFFFE0)],
        does p.1 vecs (fun t => flies 4 t == some (p.2, true)) = true) := by
  decide +kernel

/-- 12 R269, R270, R275, R277, R278. -/
theorem test_vector_moves :
    let m : CMov := { sy := sy0, vd := 4, va := 5, pr := 1, ty := .i32, rep := 0 }
    let mi : CMovi := { sy := sy0, vd := 4, imm := 0x8001, ty := .i32, rep := 0 }
    let fr : CFroms := { sy := sy0, vd := 4, sa := 7, pr := 1, ty := .i32, rep := 0 }
    let sl : CSlide := { sy := sy0, vd := 4, va := 5, sk := 6, pr := 1, ty := .i32, rep := 0 }
    let io : CIota := { sy := sy0, vd := 4, pr := 1, ty := .i32, rep := 0 }
    let cv : CCvt := { sy := sy0, vd := 4, va := 2, src := .fp32, pr := 1, ty := .bf16, rep := 0, rnd := 0, nan := false }
    let q : CQnt := { sy := sy0, vd := 4, va := 2, vb := 3, elem := 0, nx := false, rep := 0, nan := false }
    let dq : CDqnt := { sy := sy0, vd := 4, va := 2, vb := 3, elem := 0, nx := false, rep := 0 }
    let ra : CUn := { sy := sy0, vd := 4, va := 5, pr := 1, ty := .i32, rep := 0, md := 0 }
    (∀ w ∈ moveWords m mi fr sl io cv q dq ra, cGoes vecs w.i w.sr w.charge w.reads = true)
      ∧ (∀ p ∈ [(Instr.vmov m, 0xFFFFFFF8), (.vmovi mi, 0xFFFF8001), (.vfroms fr, 0x20), (.vslide sl, 0), (.vbcast sl, 0), (.viota io, 0),
        (.vredadd ra, 0xFFFFFFF8), (.vredmax m, 0xFFFFFFF8), (.vredmin m, 0xFFFFFFF8), (.vargmax m, 0)],
        does p.1 vecs (fun t => flies 4 t == some (p.2, true)) = true)
      ∧ does (.vcvt cv) vecs (fun t => flies 2 t == some (0x3FC0, true)) = true := by
  decide +kernel

/-- 12 R260: I8 lane 255, the last; k is in range. -/
theorem test_lane_range : 255 < lanesOf .i8 ∧ laneActive (BitVec.allOnes 256) VTy.i8.width 255 = true ∧ lanesOf .fp32 = 64 := by decide +kernel

/-- 12 R271, R276, R279: VCMP −8 < 2, the predicate logic of p1 and p2 = 3, PSET of one lane, a write to p0, and VTOS of lane 1's 0. -/
theorem test_predicate_words :
    let s := dev { vecs.here with p := (busy.p.set 1 0xF).set 2 3 }
    let c (rel : BitVec 3) : CCmp := { sy := sy0, pd := 3, va := 5, vb := 6, pr := 1, ty := .i32, rep := 0, rel := rel }
    let a (d : BitVec 4) : PBin := { sy := sy0, pd := d, pa := 1, pb := 2, pr := 1, ty := .i8, rep := 0 }
    let u : PUn := { sy := sy0, pd := 3, pa := 2, pr := 1, ty := .i8, rep := 0 }
    let k : PSetW := { sy := sy0, pd := 3, sk := 6, pr := 1, ty := .i32, rep := 0 }
    let o (va : BitVec 6) : CTos := { sy := sy0, sd := 5, va := va, sl := 8, ty := .i32 }
    (∀ q ∈ predWords (c 2) (a 3) u k ++ predWords (c 2) (a 0) u k, cGoes s q.i false 2 q.reads = true)
      ∧ (∀ p ∈ [(Instr.pand (a 3), 3), (.por (a 3), 0xF), (.pxor (a 3), 0xC), (.pnot u, 0xC), (.pset k, 0xF)],
        does p.1 s (fun t => flies 4 t == some (p.2, true)) = true)
      ∧ does (.pand (a 0)) s (fun t => t.here.flights.map (·.tgt) == [.nothing]) = true
      ∧ (∀ i ∈ [Instr.vtos (o 5), .vtos { o 5 with sd := 0 }], cGoes s i false 2 (fun b x => [vRd b 5 x]) = true)
      ∧ does (.vtos (o 5)) s (fun t => flies 4 t == some (0xFFFFFFFFFFFFFFF8, true)) = true
      ∧ does (.vcmp (c 2)) s (fun t => flies 4 t == some (if relHolds 2 (orderKey .i32 0xFFFFFFF8) (orderKey .i32 2) then 0xF else 0, true)) = true := by
  decide +kernel

/-- 12 R264, R265: a load at 32, one at 1, and ones at the end of the reservation of 64 Kbytes and past it; a store. -/
theorem test_local_accesses :
    let s : State := { dev { busy with v := busy.v.set 3 0x55, spSize := 0x10000, mvSize := 0x10000, s := scalars [(6, 0x20), (7, 1), (8, 0xFF00), (9, 0xFF20)] } with
      store := holding [(padBase 0 + 0x20, [7]), (sliceBase 0 + 0x20, [9])] }
    let a (r : BitVec 5) : CLocal := { sy := sy0, v := 3, sa := r, off := 0, rep := 0, step := 1 }
    (∀ r ∈ [(6 : BitVec 5), 7, 8, 9], ∀ i ∈ [Instr.vldl (a r), .vldm (a r)], cGoes s i false 1 (fun _ _ => []) = true)
      ∧ cleanly s (padBase 0 + 0x20) 256 = true ∧ cleanly s (sliceBase 0 + 0x20) 256 = true
      ∧ does (.vldl (a 6)) s (fun t => flies 4 t == some (7, true)) = true ∧ does (.vldm (a 6)) s (fun t => flies 4 t == some (9, true)) = true
      ∧ does (.vldl (a 8)) s (fun t => flies 4 t == some (0, true)) = true
      ∧ does (.vldl (a 7)) s (fun t => t.here.tcause == tcauseOf { group := 1, kind := 6, engine := .C } && t.here.tval == 1) = true
      ∧ does (.vldm (a 9)) s (fun t => t.here.tcause == tcauseOf { group := 1, kind := 3, engine := .C } && t.here.tval == 0xFF20) = true
      ∧ (∀ p ∈ [(Instr.vstl (a 6), (0 : BitVec 2), padBase 0), (.vstm (a 6), 1, sliceBase 0)],
        cGoes s p.1 false 1 (fun b x => [.v (physV b.rbv (3 + x.rep))]) = true ∧ (s.acting p.1).here.mmaOverlap p.2.1 0x20 256 = false
          ∧ does p.1 s (fun t => t.store.homeNat (p.2.2 + 0x20) 8 == 0x55) = true) := by
  decide +kernel

/-- 12 R280, R281. -/
theorem test_rotation_and_slack :
    cGoes vecs (.rbset { sy := sy0, v := 63, p := 7 }) false 0 (fun _ _ => []) false = true ∧ cGoes vecs (.slack { sy := sy0, n := 255 }) false 0 (fun _ _ => []) false = true
      ∧ does (.rbset { sy := sy0, v := 63, p := 7 }) vecs (fun t => t.here.rbv == 63 && t.here.rbp == 7) = true
      ∧ does (.slack { sy := sy0, n := 255 }) vecs (fun t => t.here.slack == 255 && t.here.engcyc == 1) = true := by
  decide +kernel

/-- A bank with a format word, and s6, s7 as given. -/
def mats (fw : List (BitVec 32)) (pa pb : Word) : State := dev { vecs.here with fq := fw.map fun w => (0, w), s := scalars [(6, pa), (7, pb)] }

/-- 13 R288: no format word; an illegal code; a reserved bit; both misalignments; both bounds; and INT8 by INT8, which runs. -/
theorem test_matrix_issue :
    let a : MmaW := { sy := sy0, acc := 2, sa := 6, sb := 7, n := 0 }
    let ok : BitVec 32 := 0x0D + 0x0D * 2 ^ 6
    let c (g k : Nat) : Word := tcauseOf { group := g, kind := k, engine := .C }
    ∀ i ∈ [Instr.mma a, .mmat a],
      (∀ p ∈ [(mats [] 0 0, c 3 1, (0 : Word)), (mats [0x3F] 0 0, c 3 0, 0x3F), (mats [ok + 2 ^ 30] 0 0, c 3 2, 0x4000034D), (mats [ok] 1 0, c 1 6, 1),
          (mats [ok] 0 1, c 1 6, 1), (mats [ok] 0xFFE0 0, c 1 3, 0xFFE0), (mats [ok] 0 0xFFE0, c 1 3, 0xFFE0)],
        (p.1.acting i).here.cut = none ∧ (p.1.acting i).here.popsOk .C sy0 (p.1.inHand i) = true ∧ (p.1.acting i).here.canPush .C 0 = true
          ∧ ((p.1.acting i).relook p.1.cur).here.landDue.2 = none ∧ does i p.1 (fun t => t.here.tcause == p.2.1 && t.here.tval == p.2.2) = true)
        ∧ (mats [ok] 0x20 0x20).here.mma.length < 2 ∧ badFormatWord ok = false ∧ (matFmt (fwField ok 0 6)).isSome = true
        ∧ does i (mats [ok] 0x20 0x20) (fun t => t.here.fq.isEmpty && t.here.mma.map (fun m => (m.pa, m.pb, m.n, m.fw)) == [(0x20, 0x20, 1, ok)]) = true := by
  decide +kernel

/-- 09 R221: the queue's one word is of a later push, which is 3.1.C; an earlier push is still to come, for which the MMA waits. -/
theorem test_format_word_is_not_there :
    let i : Instr := .mma { sy := sy0, acc := 2, sa := 6, sb := 7, n := 0 }
    let later := dev { (mats [] 0x20 0x20).here with uid := 5, fq := [(6, 0x34D)] }
    let push : Entry := { later.here.capture (.word (.fpush { sy := sy0, ra := 6 })) with uid := 4 }
    let s := dev { later.here with qS := [push] }
    later.here.formatAwaited (later.inHand i).uid = false ∧ does i later (fun t => t.here.tcause == tcauseOf { group := 3, kind := 1, engine := .C }) = true
      ∧ (s.acting i).here.formatAwaited (s.inHand i).uid = true
      ∧ does i s (fun t => t.here.tcause == 0 && t.here.fq.length == 1 && t.here.qC.length == 1 && t.here.mma.isEmpty) = true := by
  decide +kernel

/-- 13 R290, 18 R387: the rest of the premises of an MMA that runs: it starts one core clock of F0 after 5,000,000 ns, in bucket 40,000. -/
theorem test_matrix_issue_premises :
    let a : MmaW := { sy := sy0, acc := 2, sa := 6, sb := 7, n := 0 }
    let s := mats [0x0D + 0x0D * 2 ^ 6] 0x20 0x20
    let b := ((s.acting (.mma a)).relook s.cur).here.landDue.1
    let m := mmaOf a false (s.inHand (.mma a)) (0x0D + 0x0D * 2 ^ 6)
    0x20 + m.bytesA ≤ b.spSize ∧ 0x20 + m.bytesB ≤ b.mvSize ∧ b.slackOut = false ∧ b.mmaMustLand = false
      ∧ b.mma = [] ∧ clocksNs (clockMhz (s.clusterPower (clusterOf s.cur)).cls) 1 = 3
      ∧ b.overClass [(bucketOf 5000003, 5 * kstepClocks (0x0D + 0x0D * 2 ^ 6))] = none ∧ s.store.clean = true
      ∧ (mats [] 0 0).here.formatAwaited ((mats [] 0 0).inHand (.mma a)).uid = false := by
  decide +kernel

/-- 13 R291-R293: the accumulator words of I32, and ASTS of I8. -/
theorem test_accumulator_words :
    let s := dev { vecs.here with v := busy.v.set 3 0x55, acc := busy.acc.set 2 ((Vector.replicate 12288 (0 : BitVec 32)).set 0 7) }
    let d : ArdW := { sy := sy0, acc := 2, v := 3, row := 0, ty := .i32, rows := 0, rnd := 0 }
    let w : AwrW := { sy := sy0, acc := 2, v := 3, row := 0, ty := .i32, rows := 0 }
    let t : AstsW := { sy := sy0, acc := 2, sa := 7, ty := .i8, rnd := 0 }
    (∀ i ∈ [Instr.aclr { sy := sy0, acc := 2 }, .asts t], cGoes s i false 1 (fun _ _ => []) = true ∧ (s.acting i).here.accBusy 2 = false)
      ∧ cGoes s (.ard d) false 2 (fun _ _ => []) = true ∧ cGoes s (.awr w) false 2 (fun b x => [.v (physV b.rbv (3 + x.rep))]) = true
      ∧ (s.acting (.asts t)).here.mmaOverlap 0 0x20 (12288 * VTy.i8.width) = false ∧ 0x20 + 12288 * VTy.i8.width ≤ s.here.spSize
      ∧ does (.aclr { sy := sy0, acc := 2 }) s (fun t => t.here.flights.map (·.tgt) == [.accClear 2]) = true
      ∧ does (.ard d) s (fun t => flies 4 t == some (7, true)) = true
      ∧ does (.awr w) s (fun t => t.here.flights.map (fun f => match f.tgt with | .acc 2 ws => ws.head? | _ => none) == [some (0, 0x55)]) = true
      ∧ does (.asts t) s (fun t => t.store.homeNat (padBase 0 + 0x20) 2 == 7) = true := by
  decide +kernel

/-- 13 R294: with an MMA of accumulator 2 that reads 0x20 of both windows incomplete, the accumulator words of 2, a VSTL and a VSTM whose
second repetition reaches it, and an ASTS of accumulator 1 there, wait. -/
theorem test_matrix_waits :
    let m := mmaOf { sy := sy0, acc := 2, sa := 6, sb := 7, n := 0 } false ((mats [] 0x20 0x20).inHand (.mma { sy := sy0, acc := 2, sa := 6, sb := 7, n := 0 })) (0x0D + 0x0D * 2 ^ 6)
    let s := dev { vecs.here with mma := [m], s := scalars [(6, 0x20), (7, 0x20)] }
    let v (off : BitVec 16) : CLocal := { sy := sy0, v := 3, sa := 0, off := off.setWidth _, rep := 1, step := 1 }
    let waits (i : Instr) : Bool := does i s fun t => t.here.qC == [s.inHand i] && t.here.flights.isEmpty
    (∀ i ∈ [Instr.aclr { sy := sy0, acc := 2 }, .ard { sy := sy0, acc := 2, v := 3, row := 0, ty := .i32, rows := 0, rnd := 0 },
        .awr { sy := sy0, acc := 2, v := 3, row := 0, ty := .i32, rows := 0 }, .asts { sy := sy0, acc := 2, sa := 7, ty := .i8, rnd := 0 }],
        (s.acting i).here.accBusy 2 = true ∧ waits i = true)
      ∧ (s.acting (.asts { sy := sy0, acc := 1, sa := 7, ty := .i8, rnd := 0 })).here.mmaOverlap 0 0x20 12288 = true
      ∧ waits (.asts { sy := sy0, acc := 1, sa := 7, ty := .i8, rnd := 0 }) = true
      ∧ (∀ p ∈ [(Instr.vstl (v 0), (0 : BitVec 2)), (.vstm (v 0), 1)], (s.acting p.1).here.mmaOverlap p.2 0x100 256 = true ∧ waits p.1 = true) := by
  decide +kernel

/-! ### Dispatch, causes and their answers -/

/-- 07 R162, R163: an ADD and the NOP after it; a JAL, which stops the second; a bank that holds no task. -/
theorem test_dispatch :
    let two := State.reset.withFetchWord 48 0x00094C700000
    let one := State.reset.withFetchWord 48 0x01204000000A
    let jal : Instr := .jal { sy := sy0, rd := 1, off := 10 }
    let after := one.modBank 0 fun b => b.enqueue (.word jal)
    (State.reset.bank 0).dispatches = false ∧ (two.bank 0).dispatches = true
      ∧ two.nextPayload 0 = some (.word (.add { sy := sy0, rd := 5, ra := 6, rb := 7 })) ∧ one.nextPayload 0 = some (.word jal)
      ∧ (two.bank 0).canDispatch (.word jal) = true ∧ (after.bank 0).dispatches = false
      ∧ does (.wordDispatch 0) two (fun t => (t.bank 0).pc == 2 && (t.bank 0).qS.map (·.uid) == [0, 1]) = true
      ∧ does (.wordDispatch 0) one (fun t => (t.bank 0).pc == 1 && (t.bank 0).ctl) = true := by
  decide +kernel

/-- 07 R177: a rotate entry of both bases, from 0. -/
theorem test_rotate :
    let s := dev { busy with qC := [busy.capture (.rotate 3)] }
    (s.bank 0).qC.map (·.what) = [.rotate 3] ∧ (s.bank 0).status = .running ∧ (s.bank 0).cut = none
      ∧ does (.rotateEntry 0) s (fun t => (t.bank 0).rbv == 47 && (t.bank 0).rbp == 7 && (t.bank 0).qC.isEmpty) = true := by
  decide +kernel

/-- 07 R160, 01 R29: a word of kind 3 at the L head, and a fetch fault of kind 4 at index 100. -/
theorem test_marked_words :
    let s := dev { busy with qL := [busy.capture (.illegal 3 0x4031007D0C10)], qS := [busy.capture (.fetchFault 4)] }
    (s.bank 0).status = .running ∧ (s.bank 0).cut = none ∧ (s.bank 0).queue .L = [busy.capture (.illegal 3 0x4031007D0C10)]
      ∧ does (.illegalWord 0 .L) s (fun t => (t.bank 0).tcause == tcauseOf { group := 0, kind := 3, engine := .L } && (t.bank 0).tval == 0x4031007D0C10) = true
      ∧ does (.fetchFault 0) s (fun t => (t.bank 0).tcause == tcauseOf { group := 1, kind := 4, engine := .S } && (t.bank 0).tval == 100) = true := by
  decide +kernel

/-- 17 R359-R363, R371: a cut bank that has drained: its cause goes to its handler or to core 6; a switch; a pre-emption. -/
theorem test_drain_complete :
    let c : Cause := { group := 5, kind := 0, engine := .S }
    let s (k : CutKind) (v : Word) := dev { busy with cut := some k, tvec := v, tcause := tcauseOf c }
    (∀ p ∈ [(CutKind.cause c, (0x8000000000000040 : Word)), (.cause c, 0), (.switch, 0), (.preempt, 0)],
        (s p.1 p.2).drained 0 = true ∧ (((s p.1 p.2).drain 0).bank 0).cut = some p.1)
      ∧ (((s (.cause c) 0x8000000000000040).drain 0).bank 0).toHandler c = true ∧ (((s (.cause c) 0).drain 0).bank 0).toHandler c = false
      ∧ does (.drainComplete 0) (s (.cause c) 0x8000000000000040) (fun t => (t.bank 0).pc == 0x40 && (t.bank 0).kind == 2 && (t.bank 0).image.isSome) = true
      ∧ does (.drainComplete 0) (s (.cause c) 0) (fun t => (t.bank 0).status == .switchedOut && t.gaffer.causes.length == 1) = true
      ∧ does (.drainComplete 0) { s (.cause c) 0 with incoming := [(0, busy)] } (fun t => (t.bank 0).status == .preempted && (t.bank 0).awaits) = true
      ∧ does (.drainComplete 0) (s .switch 0) (fun t => (t.bank 0).cut.isNone) = true
      ∧ does (.drainComplete 0) (s .preempt 0) (fun t => (t.bank 0).status == .preempted && (t.bank 0).kind == 3) = true := by
  decide +kernel

/-- 17 R361: the answers to a trap, 0x17C, to a stale handle, 0x050, which ends refreshed whatever is asked, and to a group-0 cause, 0x010,
which ends the task; 17 R363: to a slot miss, 0x100, and an illegal format word, 0x0C4, of a task without a handler, which resume and end. The
saved L entry holds a stale handle. A HALT's bank that goes on in its handler. -/
theorem test_answers :
    let i : Instr := .ldd { sy := sy0, od := on 1, reg := 5, h := 4, idx := 6, rep := 0, step := 1 }
    let x : Entry := { lw.here.capture (.word i) with cap := some { h := { page1 with va := 0x10000 }, stale := true } }
    let t (c : Nat) : State :=
      let s := dev { busy with status := .switchedOut, awaits := true, tcause := BitVec.ofNat 64 (0x8000 + c), kind := 1, qL := [x] }
      { s with gaffer := { s.gaffer with causes := [(0, c)] } }
    let fresh (u : State) : Bool := (u.bank 0).qL.all fun y => y.cap.all fun c => !c.stale
    let h := dev { busy with status := .switchedOut, stopped := true }
    (∀ c ∈ [0x17C, 0x50, 0x10, 0x100, 0xC4], ((t c).bank 0).awaits = true ∧ ((t c).bank 0).status = .switchedOut)
      ∧ (∀ i ∈ [Instr.resume 0, .refresh 0], does i (t 0x17C) (fun u => (u.bank 0).kind == 0 && !(u.bank 0).awaits && u.gaffer.causes.isEmpty) = true)
      ∧ does (.resume 0) (t 0x17C) (fun u => !fresh u) = true ∧ does (.refresh 0) (t 0x17C) fresh = true
      ∧ does (.answerEnd 0) (t 0x17C) (fun u => (u.bank 0).status == .free && u.gaffer.reports == [.taskEnded 7 0x17C]) = true
      ∧ (∀ i ∈ [Instr.resume 0, .refresh 0, .answerEnd 0], does i (t 0x50) (fun u => (u.bank 0).kind == 0 && fresh u) = true
        ∧ does i (t 0x10) (fun u => (u.bank 0).status == .free && u.gaffer.reports == [.taskEnded 7 0x10]) = true
        ∧ does i (t 0x100) (fun u => (u.bank 0).status != .free && (u.bank 0).kind == 0) = true
        ∧ does i (t 0xC4) (fun u => (u.bank 0).status == .free && u.gaffer.reports == [.taskEnded 7 0xC4]) = true)
      ∧ (h.bank 0).status = .switchedOut ∧ (h.bank 0).stopped = true ∧ (h.bank 0).awaits = false ∧ does (.resume 0) h (fun u => !(u.bank 0).stopped) = true := by
  decide +kernel

/-- 14 R314: the end of a save. -/
theorem test_save_end :
    let s := dev { busy with status := .preempted }
    (s.bank 0).status = .preempted ∧ s.incoming = []
      ∧ does (.preemptionSaveEnd 0) s (fun t => t.saves.map (·.1) == [0] && (t.bank 0).status == .free) = true := by decide +kernel

/-- Bank 0 as it was saved, with its grant and without, and the device with CHECK of its save area written and the bank free. -/
def saved (st : BankSt) : Bank := { busy with status := st, kind := 3, s := scalars [(6, 77)] }

def sealed (st : BankSt) : Store :=
  { State.reset.store with mem := Memory.writes [] (saveBase 0 + 0x3FDF8) (le8 (State.reset.store.frameCrc 0 ((saved st).frameRanges 3)).toNat) }

def restorable (st : BankSt) : State := { State.reset with saves := [(0, saved st)], frames := [(0, saved st)], store := sealed st }

/-- 17 R368: CHECK of that save area is the CRC of its regions. -/
theorem test_save_intact (st : BankSt) : (restorable st).store.homeNat (saveBase 0 + 0x3FDF8) 8
    = ((restorable st).store.frameCrc 0 ((saved st).frameRanges 3)).toNat := by
  rw [show (restorable st).store.frameCrc 0 ((saved st).frameRanges 3) = _ from Store.frameCrc_check (st := State.reset.store) 0 (saved st) 3 _ rfl]
  generalize hx : State.reset.store.frameCrc 0 ((saved st).frameRanges 3) = x
  have home : ∀ i, i < 8 → (restorable st).store.homeByte (saveBase 0 + 0x3FDF8 + i) = (le8 x.toNat).getD i 0 := by
    intro i hi
    have hl : ¬ 2 ^ 48 ≤ saveBase 0 + 0x3FDF8 + i := by
      have : saveBase 0 = 0x8000780000 := by decide
      omega
    have hm : (restorable st).store.homeByte (saveBase 0 + 0x3FDF8 + i) = (restorable st).store.mem.read (saveBase 0 + 0x3FDF8 + i) :=
      if_neg fun h => hl h.1
    rw [hm, restorable, sealed]
    simp only [hx]
    exact Memory.read_writes _ _ _ rfl (by simpa [le8, leBytes] using hi)
  have h := x.isLt
  have hb : (List.range 8).map (fun i => (restorable st).store.homeByte (saveBase 0 + 0x3FDF8 + i)) = le8 x.toNat := by
    apply List.ext_getElem (by simp [le8, leBytes])
    intro i h1 h2
    rw [List.getElem_map, List.getElem_range, home i (by simpa using h1)]
    simp [List.getD, h2]
  rw [Store.homeNat, hb]
  simp [le8, leBytes, leNat]
  omega

theorem test_restore_premises :
    (∀ st, ((restorable st).saves.find? fun p => p.1 == (0 : BankId).val) = some (0, saved st)
        ∧ ((restorable st).frames.find? fun p => p.1 == (0 : BankId).val) = some (0, saved st)
        ∧ (restorable st).store.clean = true ∧ (restorable st).store.lines = [] ∧ (saved st).awaits = false)
      ∧ (State.reset.bank 0).status = .free ∧ (saved .preempted).status ≠ .unfunded ∧ (saved .unfunded).status = .unfunded :=
  ⟨fun _ => ⟨rfl, rfl, rfl, rfl, rfl⟩, by decide +kernel, by decide, rfl⟩

/-- A flight that is due and has its data. -/
def due (tgt : FlightTgt) : Flight :=
  { uid := 0, due := 5, tgt := tgt, arrived := true, slackEnd := 5, expired := false, poison := false, last := true, push := 0, idx := 0, rep := 0
    addr := 0, loc := 0x10000, relook := 0, ent := busy.capture (.word (.nop { sy := sy0 })) }

/-- 07 R170-R174: landings of each kind, a late load, a run-out slack, and an idle engine cycle. -/
theorem test_landings :
    let s (f : Flight) (n : Nat) := dev { busy with flights := [f], engcyc := n, stopFetch := true, qS := [busy.capture (.word (.endt { sy := sy0 }))] }
    let late : Flight := { due (.v 3 9 0xF) with arrived := false }
    (∀ t ∈ [FlightTgt.v 3 9 0xF, .p 2 9 0xFF, .s 6 9, .accClear 1, .acc 1 [(0, 9)]],
        let b := (s (due t) 5).bank 0
        b.status = .running ∧ b.cut = none ∧ b.flights = [due t] ∧ (due t).due ≤ b.engcyc ∧ b.firstWriter 0 6 = true)
      ∧ does (.cWriteLand 0) (s (due (.v 3 9 0xF)) 5) (fun t => (t.bank 0).v.get 3 == 9 && (t.bank 0).flights.isEmpty) = true
      ∧ does (.cWriteLand 0) (s (due (.s 6 9)) 5) (fun t => (t.bank 0).sreg 6 == 9) = true
      ∧ (∀ f ∈ ((s late 4).bank 0).flights, ((s late 4).bank 0).engcyc < f.due)
      ∧ does (.lateLoadArrival 0) (s late 4) (fun t => (t.bank 0).flights.map (·.arrived) == [true]) = true
      ∧ (late.arrived = false ∧ late.slackEnd ≤ ((s late 5).bank 0).engcyc)
      ∧ does (.slackExpiry 0) (s late 5) (fun t => (t.bank 0).slackOut) = true
      ∧ (s (due (.s 6 9)) 4).idles 0 = true ∧ does (.idleEngineCycle 0) (s (due (.s 6 9)) 4) (fun t => (t.bank 0).engcyc == 5) = true := by
  decide +kernel

/-- 04 R111: a local load of zeros whose unit 0 is read as it lands, after a store of 7 there; 03 R86: a load of poison. -/
theorem test_landings_of_loads :
    let f : Flight := due (.v 3 0 (BitVec.allOnes 256))
    let s (f : Flight) : State := { dev { busy with flights := [f], engcyc := 5 } with store := holding [(0x10000, [7]), (0x10008, [9])] }
    let late : Flight := { f with relook := 1 }
    let bad : Flight := { f with poison := true, addr := 0x40 }
    (∀ g ∈ [late, bad], ((s g).bank 0).flights = [g] ∧ ((s g).bank 0).status = .running ∧ ((s g).bank 0).cut = none ∧ g.due ≤ ((s g).bank 0).engcyc)
      ∧ does (.cWriteLand 0) (s late) (fun t => (t.bank 0).v.get 3 == 7 && (t.bank 0).flights.isEmpty) = true
      ∧ does (.cWriteLand 0) (s bad) (fun t => (t.bank 0).tcause == tcauseOf { group := 1, kind := 9, engine := .C } && (t.bank 0).tval == 0x40
          && (t.bank 0).flights.isEmpty && (t.bank 0).qC.map (fun x => (x.uid, x.popped)) == [(0, true)]) = true := by
  decide +kernel

/-- An MMA of one row and one column of INT8 at address 0 of both levels, of which K-step 0 of `n` is next. -/
def mma0 (n : Nat) : Mma where
  uid := 0
  acc := 2
  transposed := false
  pa := 0
  pb := 0
  n := n
  k := 0
  fw := 0x0D + 0x0D * 2 ^ 6
  gA := []
  gB := []
  badA := []
  badB := []
  started := true
  endNs := 0
  nextNs := 0
  push := 0

/-- 13 R289, R290: the premises of KStep, before the last K-step and at it; 32 products of 2 and 3 upon 5. -/
theorem test_kstep :
    let s (n : Nat) : State := dev { busy with mma := [mma0 n] }
    let xs (n : Nat) : Array (Array Machine.Num) := #[(List.replicate 32 (.fin false n 0 false)).toArray]
    (∀ n ∈ [1, (2 : Nat)], ((s n).bank 0).mma = [mma0 n] ∧ (mma0 n).started = true ∧ (s n).store.ecc = [] ∧ (s n).store.hbmEcc = [] ∧ (s n).store.tagEcc = [] ∧ ((s n).bank 0).status = .running ∧ ((s n).bank 0).cut = none)
      ∧ does (.kstepWrite 0) (s 1) (fun t => (t.bank 0).mma.isEmpty) = true
      ∧ does (.kstepWrite 0) (s 2) (fun t => (t.bank 0).mma.map (·.k) == [1]) = true
      ∧ (mma0 1).kstep 0 ((Vector.replicate 12288 0).set 0 5) (xs 2) (xs 3) 0 = (197, false)
      ∧ (mma0 1).kstep 0 ((Vector.replicate 12288 0).set 1 5) (xs 2) (xs 3) 1 = (5, false) := by
  decide +kernel

/-- A device on which a walk for h4 is in flight, whose root table lists one table at entry 1. -/
def walking : State := { dev { busy with h := busy.h.set 4 { page1 with st := .pending, tag := 8, va := 0x30000 } } with
  xl := { State.reset.xl with walks := [{ tag := 8, die := 0, asn := 1, va := 0x30000 }], next := 9, roots := [(1, 0x40000)] }
  store := holding [(0x40008, leBytes 8 0x50001)] }

/-- 01 R24: the walk finds no entry. -/
theorem test_walk_completes :
    (takeFirst (fun (v : Walk) => v.tag == 8) walking.xl.walks).map (·.1.tag) = some 8 ∧ walking.xl.heldBy 0 1 0x30000 = false
      ∧ does (.walkComplete 8) walking (fun t => ((t.bank 0).h.get 4).st == .faulted && t.xl.walks.isEmpty) = true := by
  decide +kernel

/-- 01 R35: the last report of an invalidation, and one before it. -/
theorem test_invalidation_reports :
    let v (ds : List Die) : Inval := { id := 6, asn := 1, base := 0, len := 0x10000, dies := ds, pgmig := none }
    let i (ds : List Die) : State := { dev busy with xl := { State.reset.xl with invals := [v ds], next := 9 } }
    (∀ ds ∈ [[(2 : Die)], [2, 3]], ((i ds).xl.invals.find? fun j => j.id == 6) = some (v ds) ∧ (i ds).dieReaches 2 1 0 0x10000 = false ∧ (i ds).xl.next = 9)
      ∧ does (.invalidationRelease 2 6) (i [2]) (fun t => t.xl.invals.isEmpty) = true
      ∧ does (.invalidationRelease 2 6) (i [2, 3]) (fun t => t.xl.invals.map (·.dies) == [[3]]) = true := by
  decide +kernel

/-- 01 R33: a new level-1 entry, and the removal of another. -/
theorem test_page_table_changes :
    let s : State := { walking with store := holding [(0x40000, leBytes 8 0x50001), (0x50000, leBytes 8 0x60001), (0x60000, leBytes 8 0x7000F)] }
    (s.xl.roots.find? fun r => r.1 == 1) = some (1, 0x40000) ∧ s.store.pools = []
      ∧ s.store.entryAt 0x10000 1 3 0x40000 = some (0x60008, 0) ∧ s.store.entryAt 0 1 3 0x40000 = some (0x60000, 0x7000F)
      ∧ (s.store.leavesUnder 1 0x10000 1 0x8000F).map (·.e) = [0x8000F] ∧ s.entryRefused 1 0x8000F (s.store.leavesUnder 1 0x10000 1 0x8000F) = false
      ∧ (s.store.leavesUnder 1 0 1 0).isEmpty = true ∧ s.entryRefused 1 0 [] = false ∧ s.store.locks = [] ∧ s.store.forwards = [] ∧ s.frames = []
      ∧ s.store.lines = [] ∧ s.store.clean = true ∧ needsInvalidation 1 0x7000F 0 = true ∧ needsInvalidation 1 0 0x8000F = false
      ∧ does (.pageTableChange 1 0x10000 1 0x8000F) s (fun t => t.store.homeNat 0x60008 8 == 0x8000F && t.xl == s.xl) = true
      ∧ does (.pageTableChange 1 0 1 0) s (fun t => t.store.homeNat 0x60000 8 == 0 && t.xl.invals.map (fun v => (v.base, v.len)) == [(0, 0x10000)]) = true := by
  decide +kernel

/-- Tables in memory that holds nothing have no leaves. -/
theorem leavesFrom_reset (asn : BitVec 12) (l t va : Nat) : State.reset.store.leavesFrom asn l t va = [] := by
  have byte : ∀ a, State.reset.store.homeByte a = 0 := fun a => by
    simp only [Store.homeByte, show State.reset.store.mem = [] from rfl, Memory.read, ite_self]
  have none : ∀ k, checkEntry k 0 = .fault 0 := fun k => by simp [checkEntry]
  cases l with
  | zero => rfl
  | succ l =>
    have zero : ∀ a, BitVec.ofNat 64 (State.reset.store.homeNat a 8) = 0 := fun a => by simp only [Store.homeNat, byte]; decide
    simp [Store.leavesFrom, zero, show checkEntry (l + 1) 0#64 = .fault 0 from none _]

/-- 01 R12, R33: a new root for an address space that has one. -/
theorem test_new_root :
    let s : State := { walking with store := State.reset.store }
    (s.xl.roots.find? fun r => r.1 == 1).isSome = true ∧ s.entryRefused 1 0 (s.store.leavesFrom 1 3 (entryPa 0x60001) 0) = false
      ∧ s.noneListed (s.store.leavesFrom 1 3 (entryPa 0x60001) 0) ∧ s.store.locks = [] ∧ s.store.forwards = [] ∧ s.frames = [] ∧ s.store.pools = [] := by
  simp only [State.noneListed, leavesFrom_reset]
  decide +kernel

/-- 02 R429, R430: a level-1 entry that would bring in a leaf of a pool that is none is refused, and one of a page whose move is not over
is not made, and its request waits. -/
theorem test_page_table_refusals :
    let s : State := { walking with store := { holding [(0x40000, leBytes 8 0x50001), (0x50000, leBytes 8 0x60001), (0x60000, leBytes 8 0x7000F)] with
      forwards := [{ src := page2.loc, len := 0x10000, dst := 0x70000, inval := 0, orphan := false }] } }
    let no : Instr := .pageTableChange 1 0x10000 1 0x2F; let wait : Instr := .pageTableChange 1 0 1 0
    s.store.entryAt 0x10000 1 3 0x40000 = some (0x60008, 0) ∧ s.store.entryAt 0 1 3 0x40000 = some (0x60000, 0x7000F)
      ∧ s.entryRefused 1 0x2F (s.store.leavesUnder 1 0x10000 1 0x2F) = true ∧ s.entryRefused 1 0 (s.store.leavesUnder 1 0 1 0) = false
      ∧ ((s.store.leavesUnder 1 0 1 0x7000F).any fun r => s.store.moving r.e) = true
      ∧ does no s (fun t => t.gaffer.reports == [.refused refusedCode] && t.store.homeNat 0x60008 8 == 0) = true
      ∧ s.answerable wait = false ∧ does wait s (fun t => t.store.homeNat 0x60000 8 == 0x7000F && t.gaffer.reports.isEmpty) = true := by
  decide +kernel

/-- 02 R48-R53: the answers to a request for one line with R = 8 and P = 2 or P = 8, with LF clear and set, and the late frame. -/
theorem test_allocation_events :
    let i : Instr := .std { sy := sy0, od := on 1, reg := 7, h := 4, idx := 6, rep := 0, step := 1 }
    let l := (page2.loc + 0x80) / 128
    let s (p : Nat) (lf : Bool) (al : AllocSt) (fr : List Nat) (lk : List (Nat × Nat)) : State :=
      { dev { busy with qW := [{ unb.here.capture (.word i) with alloc := al, cap := some { h := { page2 with lf := lf }, stale := false } }] } with
        store := { unb.store with locks := lk, pools := unb.store.pools.map fun q => { q with p := p, late64 := fr } } }
    let ok := s 2 false (.asked 0x80 [l]) [] []; let full := s 8 false (.asked 0x80 [l]) [] []; let late := s 8 true (.asked 0x80 [l]) [] []
    let none' := s 8 true (.late 0x80) [] [(page2.loc, 0x10000)]; let some' := s 8 true (.late 0x80) [0x70000] [(page2.loc, 0x10000)]
    2 ^ 48 ≤ page2.loc ∧ ok.store.forwards = [] ∧ page2.extent = 0x10000
      ∧ (∀ t ∈ [ok, full, late], t.store.locked page2.loc = false ∧ (t.store.pool (dieOfLoc (page2.loc + 0x80)) (poolOfLoc (page2.loc + 0x80))).isSome = true
        ∧ t.store.lineSt l = none ∧ (t.bank 0).cut = none ∧ t.store.behindArrival 0 0 (page2.loc + 0x80) = false)
      ∧ (∀ t ∈ [none', some'], (t.store.pool (dieOfLoc page2.loc) (poolOfLoc page2.loc)).isSome = true)
      ∧ does (.allocationAnswer 0) ok (fun t => (t.bank 0).qW.map (·.alloc) == [.granted] && t.store.lineSt l == some .pinned) = true
      ∧ does (.allocationAnswer 0) full (fun t => (t.bank 0).tcause == tcauseOf { group := 1, kind := 10, engine := .W } && (t.bank 0).tval == 0x80) = true
      ∧ does (.allocationAnswer 0) late (fun t => (t.bank 0).qW.map (·.alloc) == [.late 0x80] && t.store.locked page2.loc) = true
      ∧ does (.lateFrameConversion 0) none' (fun t => (t.bank 0).tcause == tcauseOf { group := 1, kind := 14, engine := .W } && t.store.locks.isEmpty) = true
      ∧ does (.lateFrameConversion 0) some' (fun t => (t.bank 0).qW.map (·.alloc) == [.granted] && t.store.locks.isEmpty
          && t.store.arrivals.map (fun a => (a.bank, a.page)) == [(0, page2.loc)]) = true := by
  decide +kernel

/-- 04 R97, 10 R235, 03 R79: a load of s5 completes, a store does, an unmet wait does not, and a remote line arrives after the epoch moved. -/
theorem test_completion_events :
    let i : Instr := .ldd { sy := sy0, od := on 1, reg := 5, h := 4, idx := 6, rep := 0, step := 1 }
    let o : Op := opOf .L (usesOf i) (lw.here.capture (.word i)) [] [.s 5 9] []
    let p : Op := { opOf .W (usesOf i) (lw.here.capture (.word i)) [] [] [{ loc := 0x10000, bytes := [7] }] with scope := some 4 }
    let s (o : Op) := dev { busy with ops := [o] }
    let r : RLine := { die := 0, line := 0x2000000000, epoch := 0, bytes := [1], ecc := [] }
    let f (e : Nat) : State := { dev busy with store := { State.reset.store with fills := [r], epoch := State.reset.store.epoch.set 0 e } }
    let w (l : Nat) : SyncWait := { bank := 0, uid := 0, loc := l, isBar := false, val := 0, met := none }
    let met : State := { s { o with waiting := true } with store := { State.reset.store with waits := [{ w 0x10010 with met := some 6 }] } }
    let late : State := { s { o with waiting := true } with store := { State.reset.store with waits := [{ w 0x10010 with unread := true }] } }
    let poll : State := { s o with store := { State.reset.store with waits := [w 0x800000000000] } }
    (∀ q ∈ [o, p], (((s q).bank 0).ops.find? fun p => p.uid == 0) = some q ∧ q.waiting = false ∧ q.pend = false ∧ ((s q).bank 0).mayWrite q = true
        ∧ q.ent.late = [] ∧ q.spent = false ∧ (s q).store.clean = true)
      ∧ does (.operationComplete 0 0) met (fun t => (t.bank 0).sreg 5 == 6 && (t.bank 0).ops.isEmpty) = true
      ∧ (w 0x10010).holds late.store = some 0 ∧ does (.operationComplete 0 0) late (fun t => (t.bank 0).ops.isEmpty) = true
      ∧ (∀ d, (s o).gaffer.filtersOn d = false) ∧ (f 0).store.out = []
      ∧ does (.operationComplete 0 0) (s o) (fun t => (t.bank 0).sreg 5 == 9 && (t.bank 0).ops.isEmpty && (t.bank 0).qdone.get 1 == 1) = true
      ∧ does (.operationComplete 0 0) (s p) (fun t => t.store.homeNat 0x10000 1 == 7 && t.store.epoch.get 0 == 1) = true
      ∧ does (.operationComplete 0 0) (s { o with waiting := true }) (fun t => (t.bank 0).ops.length == 1) = true
      ∧ regionOf 0x800000000000 = .fabric ∧ does (.fabricWaitPoll 0 0) poll (fun t => t.store.waits.length == 1) = true
      ∧ takeFirst (fun q => q.die == 0 && q.line == 0x2000000000) (f 0).store.fills = some (r, [])
      ∧ does (.remoteFill 0 0x2000000000) (f 0) (fun t => t.store.copyOf 0 0x2000000000 == some r) = true
      ∧ does (.remoteFill 0 0x2000000000) (f 1) (fun t => (t.store.copyOf 0 0x2000000000).isNone) = true := by
  decide +kernel

/-- 04 R96, R97: an AADD of 3 that was left for its completion: its premises, and the value of then, not of its issue. -/
theorem test_late_atomic_completes :
    let a : Atom := { sy := sy0, od := on 1, res := 8, h := 4, idx := 6, opnd := 7, scope := 2 }
    let o : Op := { opOf .W (usesOf (.aadd a)) (lw.here.capture (.word (.aadd a))) [] [.s 8 1] [] with pend := true }
    let s : State := { lw with banks := (lw.setBank 0 { lw.bank 0 with ops := [o] }).banks }
    o.waiting = false ∧ o.ent.what = .word (.aadd a) ∧ (atomJob (.aadd a)).map (fun j => (j.z, j.res)) = some (8, 8) ∧ (s.bank 0).mayWrite o = true
      ∧ o.puts = [] ∧ o.ent.late = [] ∧ o.spent = false ∧ s.store.clean = true ∧ s.store.anyBad o.loc 8 = false
      ∧ does (.operationComplete 0 0) s (fun t => (t.bank 0).sreg 8 == 5 && t.store.homeNat 0x10010 8 == 8 && (t.bank 0).ops.isEmpty) = true := by
  decide +kernel

/-- `CPIN` of two rows of bytes: y2 is of rank 2 with a window of 8 by 2. -/
def in2 : Instr := .cpin { sy := sy0, od := on 1, y := 2, h := 4, loc := 6, org := 7, mc := 8, lvl := 0 }

def rows2 : Layout := (((bytes6.set 1 2).set 3 2).set 7 8).set 10 0x20008

def copier : Bank := { busy with h := busy.h.set 4 page1, y := busy.y.set 2 rows2, spSize := 64 }

def in2Word : CopyWord := { i := in2, isIn := true, lvl := 0, index := none }

def copy2 : CopyOp := { (dev copier).newCopy .L in2Word (copier.capture (.word in2)) cap1 rows2 with cursor := 1 }

def row2 (k : Nat) : RowFlight :=
  { row := k, dst := 0, puts := [{ loc := padBase 0 + 8 * k, bytes := [7] }], poison := [(padBase 0 + 8 * k) / 8], bytes := [7], src := [], parts := [], bad := [] }

/-- 11 R249: the second of two rows of a copy-in. -/
theorem test_copy_row_issues :
    let x := copier.capture (.word in2)
    let s := dev { copier with qL := [x], copies := [copy2] }
    (s.bank 0).copyAtHead .L = some (in2Word, x, []) ∧ (usesOf in2).eng = some .L ∧ x.cap = some cap1 ∧ x.lay.isSome = true
      ∧ copy2.cursor < copy2.rows ∧ copy2.la.toNat % 8 = 0 ∧ (s.modBank 0 fun b => b.setQueue .L []).hasRequests x copy2.rowPieces = true
      ∧ s.store.clean = true ∧ s.store.lines = []
      ∧ (copy2.dsts.all fun k => (copy2.pieces copy2.cursor).all fun g => decide (g.a + g.n ≤ (s.copyPlace 0 copy2.lvl k).2)) = true
      ∧ cap1.checkRuns copy2.isIn (!copy2.isIn) copy2.lay.z (copy2.runs copy2.cursor) = .pass
      ∧ ((copy2.runs copy2.cursor).all fun q => !s.store.locked (cap1.h.loc + q.o)) = true ∧ copy2.lay.fold = false ∧ copy2.dsts = [0]
      ∧ does (.copyRowIssue 0 .L) s (fun t => (t.bank 0).copies.map (fun k => (k.cursor, k.flights.map (·.row))) == [(2, [1])]) = true :=
  ⟨rfl, by decide +kernel⟩

/-- 11 R248, 03 R87: the landing of one of two rows. -/
theorem test_copy_row_lands :
    let l := dev { copier with copies := [{ copy2 with flights := [row2 0, row2 1], cursor := 2 }] }
    let c : CopyOp := { copy2 with flights := [row2 0, row2 1], cursor := 2 }
    let may := c.flights.filter fun q => q.row == 0 && !q.puts.any fun p => l.store.locked p.loc
    may[l.choices.headD 0 % max 1 may.length]? = some (row2 0)
      ∧ takeFirst (fun q => q.row == 0 && q.dst == 0) (c.rereadRow l.store 0 (row2 0) ((l.choices.drop 1).headD 0)) = some (row2 0, [row2 1])
      ∧ l.store.clean = true ∧ (∀ d, l.gaffer.filtersOn d = false) ∧ pendsNone l = true
      ∧ copy2.lay.barEn = false ∧ l.store.resolve (padBase 0 / 8 * 8) = padBase 0 / 8 * 8 ∧ padBase 0 < 2 ^ 48
      ∧ does (.copyRowLand 0 0 0) l (fun t => t.store.homeNat (padBase 0) 1 == 7 && t.store.unitEcc (padBase 0 / 8) == some .poison) = true := by
  decide +kernel

/-- 03 R85, 20 R415: the scrubber at a single-bit error and at an uncorrectable unit; a window of 24 hours that ends. -/
theorem test_error_events :
    let s (e : Ecc) : State := { dev busy with store := { State.reset.store with ecc := [(0x2000, e)] } }
    let r : ErrRec := { loc := .core 3, count := 1, first := 0, lasting := false }
    let g : State := { dev busy with time := 86400000000000, gaffer := { State.reset.gaffer with records := [r] } }
    (s .single).store.forwards = [] ∧ (s .single).gaffer.records = []
      ∧ (s .single).store.tagEcc = [] ∧ (s .single).store.hbmEcc = [] ∧ (s .single).store.remote = [] ∧ (errLocOf 0x2000).isSome = true
      ∧ does (.patrolScrub 0x2000) (s .single) (fun t => t.store.unitEcc 0x2000 == none && t.gaffer.records.map (fun r => (some r.loc, r.count)) == [(errLocOf 0x2000, 1)]) = true
      ∧ does (.patrolScrub 0x2000) (s .uncorrectable) (fun t => t.store.unitEcc 0x2000 == some .poison && t.gaffer.records.map (·.count) == [2]) = true
      ∧ does (.errorWindowExpiry (.core 3)) g (fun t => t.gaffer.records.isEmpty) = true := by
  decide +kernel

/-! ### Launches, queues, pools and the fabric -/

/-- Address space 1 maps its page 1 to the page at 0x10000, in the cache of die 0. -/
def mapped (st : Store) (s : State) : State :=
  { s with store := st, xl := { State.reset.xl with dtc := [{ die := 0, asn := 1, page := 1, big := false, leaf := leaf1 }] } }

/-- The launch 7 with changed record bits. -/
def launchWith (more : Nat) (x : LDie) : Launch := { launch7 x with raw := rec0 ||| BitVec.ofNat 2048 more }

def only (l : Launch) (s : State) : State := { s with launches := { list := [l], next := 8, orders := 1 } }

/-- 14 R305: a wait for the count 5, which the semaphore has, and for 6; a hold of 100 µs; ageing at 1 ms; the thermal step at 1 ms. -/
theorem test_launch_waits :
    let waits (n : Nat) : Launch := launchWith (2 ^ 212 + 0x10010 * 2 ^ 640 + n * 2 ^ 704) { eligible7 with st := .waiting }
    let s (l : Launch) : State := only l (mapped lw.store (dev busy))
    let lost := launchWith (2 ^ 212 + 0x20010 * 2 ^ 640 + 5 * 2 ^ 704) { eligible7 with st := .waiting }
    let held := launchWith 0 { eligible7 with st := .held, since := 4900000 }
    let old := launchWith 0 { eligible7 with since := 4000000 }
    let hot := launchWith 0 { eligible7 with hotSince := some 4000000 }
    (∀ l ∈ [waits 5, waits 6, lost, held, old, hot], (s l).launchOf 7 = some l ∧ (s l).behind l 0 = false ∧ (s l).xl.invals = [] ∧ (s l).retireHeld l 0 = false)
      ∧ (s (waits 5)).store.clean = true ∧ (s (waits 5)).store.lines = [] ∧ (∀ d, (s (waits 5)).gaffer.filtersOn d = false)
      ∧ (s (waits 5)).waitsOf (waits 5) = [(0x10010, 5)] ∧ (s (waits 6)).waitsOf (waits 6) = [(0x10010, 6)] ∧ (s (waits 5)).semCount 0 1 0x10010 = some 5
      ∧ does (.launchEligible 0 7) (s (waits 5)) (fun t => (t.ldie 7 0).map (·.st) == some .eligible) = true
      ∧ does (.launchEligible 0 7) (s (waits 6)) (fun t => (t.ldie 7 0).map (·.st) == some .waiting
          && t.store.lwaits.map (fun w => (w.launch, w.k, w.val, w.met)) == [(7, 0, 6, false)]) = true
      ∧ (s lost).waitsOf lost = [(0x20010, 5)] ∧ (s lost).semCount 0 1 0x20010 = none ∧ lost.byLehr = false
      ∧ does (.launchEligible 0 7) (s lost) (fun t => (t.ldie 7 0).map (·.st) == some .retired && t.gaffer.reports == [.waitFailed 7 0]) = true
      ∧ does (.fhintHoldExpiry 0 7) (s held) (fun t => (t.ldie 7 0).map (·.st) == some .eligible) = true
      ∧ does (.launchAgeing 0 7) (s old) (fun t => (t.ldie 7 0).map (fun x => (x.fifo, x.aged)) == some (4, 1)) = true
      ∧ does (.placementThermalTimeout 0 7) (s hot) (fun t => (t.ldie 7 0).map (·.skipHot) == some true) = true := by
  decide +kernel

/-- 14 R307-R310: the first of two tasks is placed in bank 0 of core 0. -/
theorem test_task_placement :
    let l := launch7 eligible7
    let s := only l State.reset
    let sp : Spot := { bank := 0, sp := 0, mv := 0 }
    s.launchOf 7 = some l ∧ s.fifoOrder 0 = [l] ∧ s.findPlace l 0 = .at [sp]
      ∧ does (.taskPlacement 0) s (fun t => (t.bank 0).status == .unfunded && (t.bank 0).pc == 5 && (t.bank 0).sreg 2 == 0x100 && (t.bank 0).spSize == 0x400) = true := by
  decide +kernel

theorem test_no_shadow : (only (launch7 eligible7) State.reset).shadowOf (launch7 eligible7) 0 = none := by decide +kernel

/-- 14 R311, R312: a shadow task starts; a launch retires without a DONE, with one, and with one that cannot be signalled. -/
theorem test_shadow_and_retire :
    let s : State := only (launch7 eligible7) (dev { busy with status := .shadow })
    let r (done : Nat) : State := only (launchWith (done * 2 ^ 576) { eligible7 with st := .placedAll, placed := 2, ended := 2 }) (mapped lw.store (dev busy))
    s.launchOf 7 = some (launch7 eligible7) ∧ dieOf 0 = 0 ∧ (s.bank 0).status = .shadow ∧ (s.bank 0).ofTask (·.launch) = 7 ∧ (s.cores.get (coreOf 0)).retired = false
      ∧ does (.shadowStart 0) s (fun t => (t.bank 0).status == .unfunded && (t.ldie 7 0).map (·.placed) == some 1) = true
      ∧ (∀ n ∈ [0, 0x10010, 0x20010], (r n).launches.list.map (fun l => (r n).retireHeld l 0) = [false])
      ∧ ((r 0).launchOf 7).map (fun l => (recDone l.raw, l.byLehr)) = some (0, false)
      ∧ ((r 0x10010).semSignal 0 1 0x10010).isSome = true ∧ ((r 0x20010).semSignal 0 1 0x20010).isNone = true
      ∧ does (.launchRetire 0 7) (r 0) (fun t => (t.ldie 7 0).map (·.st) == some .retired) = true
      ∧ does (.launchRetire 0 7) (r 0x10010) (fun t => t.store.homeNat 0x10010 8 == 6) = true
      ∧ does (.launchRetire 0 7) (r 0x20010) (fun t => t.gaffer.reports == [.doneFailed 7 0]) = true := by
  decide +kernel

/-- A mapped queue of address space 1 with its ring of 16 entries at VA 0x10000, HEAD 0 and a tail. -/
def qcb (tail : BitVec 32) : Qcb where
  parms := { ringVa := 0x10000, sizelog := 4, prio := 3, asn := 1 }
  head := 0
  tail := tail
  rejIdx := 0
  rej := 0
  err := 0
  st := .mapped
  slot := some 0
  eff := 3
  pendSince := 0
  mapSince := 0
  emptySince := 0
  subs := []

/-- Queue 5 with an entry at HEAD, over memory. -/
def ring (c : Qcb) (kind va : Nat) (more : List (Nat × List Byte)) : State :=
  let s := mapped (holding ([(0x10000, leBytes 8 kind ++ leBytes 8 va)] ++ more)) (dev busy)
  { s with gaffer := { s.gaffer with queues := s.gaffer.queues.set 5 (some c) } }

/-- 19 R405-R407: the entries at HEAD, and the doorbells of 16 and of 17 entries. -/
theorem test_ring_entries :
    let s (kind va : Nat) := ring (qcb 1) kind va []
    (s 0 0).gaffer.queues.get 5 = some (qcb 1)
      ∧ (∀ p ∈ [(0, 0), (2, 0x10010), (3, 0)], ((s p.1 p.2).ringEntry (qcb 1)).2 = .entry p.1 p.2)
      ∧ ((s 0 0).ringEntry { qcb 1 with parms := { (qcb 1).parms with ringVa := 0x20000 } }).2 = .fault := by
  decide +kernel

theorem test_ring_events :
    let s (kind va : Nat) := ring (qcb 1) kind va []
    let bad := ring { qcb 1 with parms := { (qcb 1).parms with ringVa := 0x20000 } } 0 0 []
    let kept (ids : List Nat) : State := only (launchWith 0 eligible7) (ring { qcb 1 with subs := [7], signals := [(1, 0x10010, ids)] } 2 0x10010 [])
    let fresh : State := ring { qcb 0 with st := .unmapped, slot := none } 0 0 []
    let asked : State := { s 0 0 with gaffer := { (s 0 0).gaffer with request := some (9, 1, .queueReset 5) } }
    let q (t : State) (f : Qcb → Bool) : Bool := (t.gaffer.queues.get 5).any f
    (s 2 0x10010).lookupHeld 0 1 0x10010 8 = false ∧ (s 0 0).gaffer.queueRequest = false ∧ asked.gaffer.queueRequest = true
      ∧ does (.doorbell 5 16) asked (fun t => t.gaffer.bells == [(5, 16)] && q t fun c => c.tail == 1) = true
      ∧ fresh.queuesIn (fun k => k.st == .pending) = [] ∧ fresh.freeSlot = some 0
      ∧ does (.doorbell 5 1) fresh (fun t => q t fun c => c.tail == 1 && c.st == .mapped && c.slot == some 0) = true
      ∧ does (.doorbell 5 16) (s 0 0) (fun t => q t fun c => c.tail == 16 && c.st == .mapped) = true
      ∧ does (.doorbell 5 17) (s 0 0) (fun t => q t fun c => c.tail == 1 && c.st == .error && c.err == 1) = true
      ∧ does (.ringNop 5) (s 0 0) (fun t => q t fun c => c.head == 1) = true
      ∧ does (.ringSignal 5) (s 2 0x10010) (fun t => (q t fun c => c.head == 1 && c.signals == [(1, 0x10010, [])])
          && does (.ringSignal 5) t fun u => (q u fun c => c.head == 1 && c.signals.isEmpty) && u.store.homeNat 0x10010 8 == 1) = true
      ∧ (kept [7]).allRetired [7] = false
      ∧ does (.ringSignal 5) (kept [7]) (fun t => q t fun c => c.head == 1 && c.signals.map (·.2.2) == [[7], [7]]) = true
      ∧ (kept []).allRetired [] = true ∧ (kept []).lookupHeld 0 1 0x10010 8 = false ∧ ((kept []).semSignal 0 1 0x10010).isSome = true
      ∧ does (.ringSignal 5) (kept []) (fun t => (q t fun c => c.head == 0 && c.signals.isEmpty) && t.store.homeNat 0x10010 8 == 1) = true
      ∧ does (.ringUnknownType 5) (s 3 0) (fun t => q t fun c => c.err == 3) = true
      ∧ does (.ringFetchFault 5) bad (fun t => q t fun c => c.err == 2) = true := by
  decide +kernel

/-- 14 R301, R312: a sound record and one of PCLASS 0 (reason 3); the NEXT of a launch. -/
theorem test_ring_launch :
    let ok := ring (qcb 1) 1 0x10100 [(0x10100, leBytes 256 rec0.toNat)]
    let bad := ring (qcb 1) 1 0x10100 [(0x10100, leBytes 256 (rec0.toNat - 2 * 2 ^ 200))]
    let q (t : State) (f : Qcb → Bool) : Bool := (t.gaffer.queues.get 5).any f
    ok.lookupHeld 0 1 0x10100 256 = false ∧ (ok.ringEntry (qcb 1)).2 = .entry 1 0x10100 ∧ (ok.agentRead 0 1 0x10100 256).2.toOption.map recordOf = some rec0
      ∧ recReject rec0 false = none ∧ (bad.agentRead 0 1 0x10100 256).2.toOption.map (fun b => recReject (recordOf b) false) = some (some 3)
      ∧ does (.launch 5) ok (fun t => (q t fun c => c.head == 1 && c.subs == [0]) && t.launches.list.map (·.raw) == [rec0]) = true
      ∧ does (.launch 5) bad (fun t => (q t fun c => c.head == 1 && c.rej == 3) && t.launches.list.isEmpty) = true := by
  decide +kernel

theorem test_chain_fetch :
    let s := only (launchWith (0x10100 * 2 ^ 1664 + 0x10010 * 2 ^ 576) eligible7) (ring (qcb 1) 0 0 [(0x10100, leBytes 256 rec0.toNat)])
    (s.launchOf 7).map (fun l => (recNext l.raw, l.followed)) = some (0x10100, false) ∧ s.lookupHeld 0 1 0x10100 256 = false
      ∧ (s.agentRead 0 1 0x10100 256).2.toOption.map recordOf = some rec0
      ∧ does (.chainFetch 7) s (fun t => t.launches.list.map (fun l => (l.id, l.chain)) == [(7, none), (8, some 7)]) = true := by
  decide +kernel

/-- 19 R405-R408: a queue is created with SIZELOG 4 and 16, refused with 3, 17, PRIO 7 and an unaligned ring; scheduled, reset and destroyed. -/
theorem test_queue_control :
    let p : QueueParms := (qcb 0).parms
    let s := dev busy
    let pend : State := ring { qcb 1 with st := .pending, slot := none } 0 0 []
    (∀ r ∈ [p, { p with sizelog := 16, ringVa := 0x100000 }], does (.queueCreate 5 r) s (fun t => (t.gaffer.queues.get 5).any fun c => c.st == .unmapped) = true)
      ∧ (∀ r ∈ [{ p with sizelog := 3 }, { p with sizelog := 17, ringVa := 0 }, { p with prio := 7 }, { p with ringVa := 0x10010 }],
        does (.queueCreate 5 r) s (fun t => (t.gaffer.queues.get 5).isNone) = true)
      ∧ s.gaffer.bells = [] ∧ does (.queueReset 5) { ring (qcb 1) 0 0 [] with gaffer := { (ring (qcb 1) 0 0 []).gaffer with bells := [(5, 3)] } }
        (fun t => t.gaffer.bells.isEmpty && (t.gaffer.queues.get 5).any fun c => c.head == 0 && c.tail == 3 && c.st == .mapped) = true
      ∧ pend.queuesIn (fun c => c.st == .pending) = [(5, { qcb 1 with st := .pending, slot := none })] ∧ pend.freeSlot = some 0
      ∧ s.queuesIn (fun c => c.st == .pending) = [] ∧ pend.decides = true ∧ s.decides = true
      ∧ ({ s with gaffer := { s.gaffer with qAt := 500 } } : State).decides = false ∧ does .queueSchedule s (fun t => !t.decides) = true
      ∧ (∀ st ∈ [QSt.unmapped, .error], does (.queueCreate 5 { p with sizelog := 5, ringVa := 0x20000 }) (ring { qcb 1 with st := st } 0 0 [])
        (fun t => (t.gaffer.queues.get 5).any fun c => c.st == st && c.parms.sizelog == 5 && c.tail == 1) = true)
      ∧ (∀ st ∈ [QSt.pending, .mapped], does (.queueCreate 5 { p with sizelog := 5, ringVa := 0x20000 }) (ring { qcb 1 with st := st } 0 0 [])
        (fun t => (t.gaffer.queues.get 5).any fun c => c.parms.sizelog == 4) = true)
      ∧ does .queueSchedule pend (fun t => (t.gaffer.queues.get 5).any fun c => c.st == .mapped && c.eff == 6) = true
      ∧ does (.queueReset 5) (ring (qcb 1) 0 0 []) (fun t => (t.gaffer.queues.get 5).any fun c => c.st == .unmapped && c.tail == 0) = true
      ∧ does (.queueDestroy 5) (ring (qcb 1) 0 0 []) (fun t => (t.gaffer.queues.get 5).isNone) = true := by
  decide +kernel

/-- 02 R46, R47, R429: pools at the limit of a die and past it. -/
theorem test_pools :
    let parms (n : Nat) : PoolParms := { owner := 1, limit := n, late64 := [], late256 := [] }
    let s := dev busy
    let u : State := { dev busy with store := unb.store }
    let free : State := { dev busy with store := { unb.store with pools := unb.store.pools.map fun p => { p with p := 0 } } }
    s.store.pool 0 3 = none ∧ (u.store.pool 0 3).isSome = true ∧ (u.store.pools.filter fun q => q.die == 0 && q.num.toNat == 3) = u.store.pools
      ∧ u.store.pools.map (·.p) = [2]
      ∧ s.reserveOk 0 false [0x70000] = true ∧ s.reserveOk 0 false [0x70001] = false ∧ s.reserveOk 0 true [] = true
      ∧ does (.poolCreate 0 3 { parms 1 with late64 := [0x70000] }) s (fun t => t.store.pools.map (·.late64) == [[0x70000]]
          && t.gaffer.reports == [.poolState 0 3 1 [1, 0, 0, 1, 0, 0, 0]]) = true
      ∧ does (.poolCreate 0 3 { parms 1 with late64 := [0x70001] }) s (fun t => t.store.pools.isEmpty) = true
      ∧ does (.poolCreate 0 3 (parms 589824)) s (fun t => t.store.pools.map (·.limit) == [589824]) = true
      ∧ does (.poolCreate 0 3 (parms 589825)) s (fun t => t.store.pools.isEmpty) = true
      ∧ does (.poolCreate 0 3 (parms 1)) u (fun t => t.store.pools.map (·.limit) == [100]) = true
      ∧ does (.poolSetLimit 0 3 2) u (fun t => t.store.pools.map (fun p => (p.limit, p.r)) == [(2, 2)]) = true
      ∧ does (.poolWithdraw 0 3) free (fun t => t.store.pools.isEmpty) = true
      ∧ does (.poolWithdraw 0 3) { free with xl := { free.xl with invals := [{ id := 0, asn := 1, base := 0, len := 0x10000, dies := [1], pgmig := none }] } }
          (fun t => t.store.pools.map (fun p => (p.limit, p.withdrawn)) == [(0, true)]) = true := by
  decide +kernel

/-- 19 R397, R401, R402: the changes of a port of 4, 2 and 1 lanes; messages ahead by 50 ns and by 5 ms; 10 ms without one. -/
theorem test_fabric_and_time :
    let u (lanes use : Nat) (tr : Bool) : State := { dev busy with fabric := { State.reset.fabric with
      ports := State.reset.fabric.ports.set 7 { lanes := lanes, goal := 2, training := tr, replay := [1, 2], resent := [], held := [], errs := [], use := use, useSince := 0 } } }
    let s (lanes : Nat) (tr : Bool) : State := u lanes 0 tr
    let g (t : State) := t.fabric.ports.get 7
    let quiet : State := { dev busy with time := 10000000 }
    does (.flitRetransmit 7) (s 4 false) (fun t => (g t).resent == [1]) = true
      ∧ does (.flitRetransmit 7) { s 4 false with choices := [1] } (fun t => (g t).resent == [2]) = true
      ∧ (∀ p ∈ [(4, 2), (2, 1)], (s p.1 false).shedDue 7 = true ∧ does (.laneShed 7) (s p.1 false) (fun t => (g t).goal == p.2 && (g t).training) = true)
      ∧ (∀ p ∈ [(1, 2), (2, 4)], does (.laneRestore 7) (u p.1 51 false) (fun t => (g t).goal == p.2 && (g t).training) = true)
      ∧ (u 4 25 false).shedDue 7 = false ∧ (u 2 50 false).restoreDue 7 = false
      ∧ does (.linkRetrained 7) (s 4 true) (fun t => (g t).lanes == 2 && !(g t).training) = true
      ∧ does (.timeMessage 5000050) (dev busy) (fun t => t.fabric.rate == 50) = true
      ∧ does (.timeMessage 10000000) (dev busy) (fun t => t.fabric.rate == 100) = true
      ∧ quiet.fabric.freeRun = false ∧ quiet.fabric.lastMessage + 10000000 ≤ quiet.time
      ∧ does .timeSyncLoss quiet (fun t => t.fabric.freeRun && t.gaffer.reports == [.syncLoss]) = true := by
  decide +kernel

/-- 19 R400: a load over the fabric that is refused for reason 2, under no cut and under a cause's; one of two stores, the second by a choice;
an AADD; and no acknowledgement, 1 ms after the issue and before. -/
theorem test_fabric_error :
    let i : Instr := .ldd { sy := sy0, od := on 1, reg := 5, h := 4, idx := 6, rep := 0, step := 1 }
    let j : Instr := .std { sy := sy0, od := on 1, reg := 9, h := 4, idx := 6, rep := 1, step := 1 }
    let a : Instr := .aadd { sy := sy0, od := on 1, res := 8, h := 4, idx := 6, opnd := 7, scope := 2 }
    let o : Op := { opOf .L (usesOf i) { lw.here.capture (.word i) with since := [4000000] } [] [.s 5 9] [] with fabric := true }
    let puts : List Put := [{ loc := 0x10010, bytes := [1] }, { loc := 0x10018, bytes := [2] }]
    let w : Op := { opOf .W (usesOf j) { lw.here.capture (.word j) with rep := 1 } [] [] puts with fabric := true }
    let y : Op := { opOf .W (usesOf a) (lw.here.capture (.word a)) [] [.s 8 5] [] with fabric := true }
    let trap : Cause := { group := 5, kind := 15, engine := .S }
    let s (q : Op) (k : Option CutKind) (time : Nat) : State := { dev { busy with ops := [q], cut := k } with time := time, choices := [1] }
    let is54 (e : Engine) (v : Word) (t : State) : Bool := t.here.tcause == tcauseOf { group := 5, kind := 4, engine := e } && t.here.tval == v
    (∀ q ∈ [o, w, y], (((s q none 5000000).bank 0).ops.find? fun p => p.uid == 0 && p.fabric) = some q ∧ q.isCopy = false)
      ∧ o.ent.shape.isSome = true ∧ w.ent.shape.isSome = true ∧ y.ent.shape = none ∧ y.pend = false
      ∧ does (.fabricCompletionError 0 0 2) (s o none 5000000) (fun t => is54 .L 0x0200000000010010 t && t.here.ops.map (·.loads) == [[]]) = true
      ∧ does (.fabricCompletionError 0 0 2) (s o (some (.cause trap)) 5000000) (fun t => t.here.failed.map (·.2) == [(.L, 0x0200000000010010)]
          && t.here.cut == some (.cause trap)) = true
      ∧ does (.fabricCompletionError 0 0 2) (s w none 5000000) (fun t => is54 .W 0x0200000000010018 t && t.here.ops.map (·.uid) == [0]) = true
      ∧ does (.fabricCompletionError 0 0 2) (s y none 5000000) (fun t => is54 .W 0x0200000000010010 t && t.here.ops.isEmpty) = true
      ∧ does (.fabricCompletionError 0 0 1) (s o none 5000000) (is54 .L 0x0100000000010010) = true
      ∧ does (.fabricCompletionError 0 0 1) (s o none 4999999) (fun t => t.here.cut.isNone && t.here.ops == [o]) = true := by
  decide +kernel

/-- 19 R400: of an LDD x3 at its head over the fabric, the first access is refused; for want of an acknowledgement only the second, issued at
4,000,000, may end at 5,000,000, and none does 1 ns before. -/
theorem test_fabric_head_error :
    let i : Instr := .ldd { sy := sy0, od := on 1, reg := 5, h := 4, idx := 6, rep := 2, step := 1 }
    let x : Entry := { lw.here.capture (.word i) with
      rep := 2, cap := some { h := { page1 with loc := 2 ^ 47 }, stale := false }, got := [.s 5 9, .s 6 8], since := [4500000, 4000000] }
    let s (time : Nat) : State := { dev { busy with qL := [x] } with time := time }
    let is54 (v : Word) (t : State) : Bool := t.here.tcause == tcauseOf { group := 5, kind := 4, engine := .L } && t.here.tval == v
    (((s 0).bank 0).ops.find? fun p => p.uid == x.uid && p.fabric) = none ∧ ((s 0).bank 0).fabricHead x.uid = some (.L, x)
      ∧ (x.inFlight false x.got x.puts).map (·.2) = [0, 1]
      ∧ does (.fabricCompletionError 0 x.uid 2) (s 0) (fun t => is54 0x0200800000000010 t && t.here.qL.map (·.got) == [[.s 6 8]]) = true
      ∧ does (.fabricCompletionError 0 x.uid 1) (s 5000000) (fun t => is54 0x0100800000000018 t && t.here.qL.map (·.got) == [[.s 5 9]]) = true
      ∧ does (.fabricCompletionError 0 x.uid 1) (s 4999999) (fun t => t.here.cut.isNone && t.here.qL == [x]) = true := by
  decide +kernel

/-- 19 R403, 20 R423: a commander's accesses; an address in a hole, where the step stops; another endpoint; a filter's ring of 2^12 entries,
and one of 2^21. -/
theorem test_fabric_endpoints :
    let s : State := { dev busy with store := { lw.store with dirty := [], hbm := lw.store.mem }, boot := { State.reset.boot with commanders := [9] } }
    let l2 : State := { s with store := lw.store }
    let f (n : Nat) : FilterParms :=
      { idx := 1, enabled := true, base := 0, mask := 0, reqLo := 0, reqHi := 9, ops := 511, hits := true, misses := true, ringPa := 0x100000, ringLog := n }
    (∀ d, s.gaffer.filtersOn d = false) ∧ s.store.clean = true ∧ s.store.lines = [] ∧ s.boot.exports = []
      ∧ s.store.forwards = [] ∧ s.store.mem.wf = true ∧ s.store.hbm.wf = true ∧ l2.store.dirty.contains (0x10010 / 128) = true
      ∧ regionOf 0x10010 = .hbm 0 ∧ regionOf 0x10017 = .hbm 0 ∧ regionOf 0x1800000000 = .hole
      ∧ does (.fabricEndpointAccess 9 (.read 0x10010 2)) s (fun t => t.gaffer.reports == [.data 9 [5, 0]]) = true
      ∧ does (.fabricEndpointAccess 9 (.write 0x10010 [6])) s (fun t => t.store.homeNat 0x10010 8 == 6 && t.store.hbm.read 0x10010 == 6) = true
      ∧ does (.fabricEndpointAccess 9 (.read 0x10010 2)) l2 (fun t => t.gaffer.reports == [.data 9 [0, 0]]) = true
      ∧ does (.fabricEndpointAccess 9 (.write 0x10010 [6])) l2 (fun t => t.store.homeNat 0x10010 8 == 5 && t.store.hbm.read 0x10010 == 6) = true
      ∧ (match exec (.fabricEndpointAccess 9 (.read 0x1800000000 8)) s with | .fault f => f == .physicalHole | .next _ | .refused _ => false) = true
      ∧ (match exec (.fabricEndpointAccess 9 (.write 0x1800000000 [6])) s with | .fault f => f == .physicalHole | .next _ | .refused _ => false) = true
      ∧ does (.fabricEndpointAccess 8 (.write 0x10010 [2])) s (fun t => t.gaffer.reports == [.refusedAccess 8] && t.store == s.store) = true
      ∧ does (.fabricEndpointAccess 8 (.read 0x10010 2)) s (fun t => t.gaffer.reports == [.refusedAccess 8]) = true
      ∧ does (.setTrafficFilter 0 (f 12)) s (fun t => ((t.gaffer.filters.get 0).get 1) == some (f 12)) = true
      ∧ does (.setTrafficFilter 0 (f 21)) s (fun t => ((t.gaffer.filters.get 0).get 1).isNone) = true := by
  decide +kernel

/-! ### Slots, power, debug and start-up -/

/-- Address space 1 maps its page 2 to the page at 0x20000, which holds bytes. -/
def mapped2 (f : List (Nat × List Byte)) (s : State) : State :=
  { s with store := holding f, xl := { State.reset.xl with dtc := [{ die := 0, asn := 1, page := 2, big := false, leaf := 0x2000F }] } }

/-- A grid of 10 ms with room on die 0, its template, batch table and semaphore in page 2. -/
def grid1 : GridDesc := { grid0 with
  period := 10000, phase := 0, cap := #v[64, 0, 0, 0], template := 0x20100, batch := #v[0x24000, 0, 0, 0], seq := #v[0x25000, 0, 0, 0] }

/-- Grid 3 as given, and no conversation. -/
def gridOf (x : Grid) (s : State) : State := { s with lehr := { s.lehr with grids := s.lehr.grids.set 3 x } }

/-- 16 R330, R332: a descriptor for a stopped grid and for a started one; a start at TIME 5 ms, whose first boundary is at 10 ms; a stop. -/
theorem test_grids :
    let off : State := gridOf { Grid.reset with desc := some grid1 } (mapped2 [(0x20100, leBytes 256 rec0.toNat)] (dev busy))
    let on' : State := gridOf { Grid.reset with desc := some grid1, started := true } (dev busy)
    (off.grid 3).started = false ∧ (off.grid 3).idle = true ∧ (on'.grid 3).started = true ∧ gridInRange grid1 = true ∧ grid1.template.toNat % 256 = 0
      ∧ (off.agentRead 0 1 0x20100 256).2.toOption.map (fun b => recReject (recordOf b) true) = some none
      ∧ ((List.finRange 4).all (off.gridDieOk 3 grid1 rec0)) = true
      ∧ does (.gridConfigure 3 grid0) off (fun t => (t.grid 3).desc == some grid0) = true
      ∧ does (.gridConfigure 3 grid0) on' (fun t => (t.grid 3).desc == some grid1) = true
      ∧ does (.gridStart 3) off (fun t => (t.grid 3).started && (t.grid 3).next.get 0 == 1) = true
      ∧ does (.gridStop 3) on' (fun t => (t.grid 3).stopping == some 1) = true := by
  decide +kernel

/-- The record of conversation 5 in page 2, with CULL as given. -/
def convRec (cull : Nat) : List (Nat × List Byte) :=
  [(0x20000, leBytes 256 (5 + 3 * 2 ^ 16 + cull * 2 ^ 24 + 0x21000 * 2 ^ 640 + 0x22000 * 2 ^ 704 + 0x23000 * 2 ^ 768))]

/-- 16 R336: opens with CULL 4 and 3. -/
theorem test_conversation_opens :
    let s (cull : Nat) : State := gridOf { Grid.reset with desc := some grid1 } (mapped2 (convRec cull) (dev busy))
    (∀ p ∈ [(4, true), (3, false)],
      ((s p.1).openGrid 5 0x20000).map (fun q => (q.1, q.2.2.1, ((s p.1).sense q.2.2.1 256).openOk 5 0x20000 q.1 q.2.1 q.2.2.2)) = some (3, 0x20000, p.2))
      ∧ does (.convOpen 5 0x20000) (s 4) (fun t => t.lehr.convs.map (fun c => (c.m, c.pending)) == [(5, true)]) = true
      ∧ does (.convOpen 5 0x20000) (s 3) (fun t => t.lehr.convs.isEmpty) = true := by
  decide +kernel

/-- 16 R336: closes of a conversation whose grid runs, and whose grid does not. -/
theorem test_conversation_closes :
    let s (run : Bool) : State := { gridOf { Grid.reset with desc := some grid0, started := run } (dev busy) with
      lehr := { (gridOf { Grid.reset with desc := some grid0, started := run } (dev busy)).lehr with convs := [conv5] } }
    (∀ r ∈ [true, false], (s r).convOf 5 = some conv5 ∧ ((s r).grid 3).runsOn (homeOf 5) = r)
      ∧ does (.convClose 5) (s true) (fun t => t.lehr.convs.map (·.closing) == [some 1]) = true
      ∧ does (.convClose 5) (s false) (fun t => t.lehr.convs.map (fun c => (c.isOpen, c.close)) == [(false, 1)]) = true := by
  decide +kernel

/-- A device at boundary 1001 of grid 3 with conversation 5 in page 2. -/
def turning (c : Conv) : State :=
  let s := lehrOf c (mapped2 [(0x22000 + 64 * (1001 % 64), leBytes 4 0x41)] { dev busy with time := 6000000 })
  s.modGrid 3 fun x => { x with next := Vector.replicate 4 1001, desc := some { grid0 with cap := #v[0, 0, 0, 0] } }

/-- 16 R340, R344: the boundary plays a committed slot, and the fill of one that is not. -/
theorem test_slot_boundary :
    let com : Conv := { conv5 with committed := 1 }
    let g : GridDesc := { grid0 with cap := #v[0, 0, 0, 0] }
    (∀ c ∈ [com, conv5],
      ((turning c).grid 3).desc = some g ∧ ((turning c).grid 3).runsOn 0 = true ∧ boundaryTime g 1001 ≤ (turning c).time
        ∧ ((turning c).grid 3).next.get 0 = 1001 ∧ ((turning c).grid 3).stopping = none ∧ (turning c).gridHeld 3 0 = false ∧ (turning c).openConvs 3 0 = [5] ∧ (turning c).convOf 5 = some c
        ∧ c.m = 5 ∧ c.pending = false ∧ (turning c).store.clean = true ∧ (turning c).store.lines = [] ∧ (∀ d, (turning c).gaffer.filtersOn d = false)
        ∧ ((turning c).closeListen c 1001).map (fun q => (q.2.closing, q.1.convLoc q.2 (ringVa q.2.speakVa 1001))) = some (none, some (0x22000 + 64 * 41)))
      ∧ does (.slotBoundary 0 3) (turning com) (fun t =>
        t.lehr.egress.map (fun e => (e.bytes.take 20, e.bytes.length)) == [([5, 0, 16, 4, 80, 0, 0, 0, 0xE9, 3, 0, 0, 0, 0, 0, 0, 0x41, 0, 0, 0], 80)] && t.lehr.convs.map (·.frontier) == [1001]) = true
      ∧ does (.slotBoundary 0 3) (turning conv5) (fun t =>
        t.lehr.egress.map (fun e => leNat ((e.bytes.drop 16).take 4)) == [0x04000011] && t.lehr.convs.map (·.misses) == [1]) = true := by
  decide +kernel

/-- 16 R346-R348: COMMIT of slot 1015 of that conversation's mapped record at 0x20000, and RETRACT from 1001 on of the one committed slot,
1001, whose ring entry holds one token. -/
theorem test_slot_words_store :
    let a : SlotOp := { sy := sy0, od := on 1, res := 10, h := 4, idx := 6, opnd := 8 }
    let com : Conv := { conv5 with committed := 1 }
    let s (c : Conv) (slot : Word) : State :=
      lehrOf c (mapped2 [(0x22000 + 64 * (1001 % 64), leBytes 4 0x41)] (dev { busy with h := busy.h.set 4 page5, s := scalars [(8, slot)] }))
    let k : Capture := { h := page5, stale := false }
    (∀ p ∈ [(Instr.commit a, s conv5 1015), (.retract a, s com 1001)], slotGoes p.2 p.1 k 5 = true ∧ (p.2.choices.headD 0).testBit 0 = false
        ∧ (∀ d, p.2.gaffer.filtersOn d = false) ∧ p.2.store.clean = true ∧ p.2.store.lines = [] ∧ p.2.convLoc conv5 conv5.recVa.toNat = some 0x20000)
      ∧ com.isCommitted 0 = true ∧ (∀ j, j < 15 → 0 < j → com.isCommitted j = false)
      ∧ (s com 1001).convLoc com (ringVa com.speakVa 1001) = some (0x22000 + 64 * 41) ∧ ((s com 1001).convLoc com com.culletVa).isSome = true
      ∧ does (.commit a) (s conv5 1015) (fun t => t.lehr.convs.map (·.committed) == [0x4000] && t.here.ops.map (·.loads) == [[.s 10 (slotResult 1000 0 0)]]) = true
      ∧ does (.retract a) (s com 1001) (fun t => t.lehr.convs.map (fun c => (c.committed, c.withdrawn, c.rcount)) == [(0, 1, 1)]
          && t.here.ops.map (·.loads) == [[.s 10 (slotResult 1000 1 0)]] && t.store.homeNat (0x22000 + 64 * 41) 4 == 0x08000041) = true := by
  decide +kernel

/-- 16 R338, R339: a group for the open slot with one token, one for another slot, and one for no conversation. -/
theorem test_ingress :
    let grp (m slot : Nat) : Ingress :=
      { sender := 77, bytes := leBytes 8 (m + 2 ^ 16 + 4 * 2 ^ 24 + 20 * 2 ^ 32) ++ leBytes 8 slot ++ leBytes 4 0x41, poison := false }
    let s := turning { conv5 with named := false }
    s.convOf 5 = some { conv5 with named := false } ∧ s.convHeld { conv5 with named := false } = false ∧ (s.convLoc conv5 0x20000).isSome = true ∧ conv5.ingress.toNat = 77 ∧ (s.convOf 6).isNone = true
      ∧ leNat ((grp 5 1000).bytes.take 16) / 2 ^ 64 = 1000 ∧ ((groupTokens (grp 5 1000).bytes 1).all fun x => decide (x.toNat < 2 ^ 24)) = true
      ∧ (grp 5 1000).bytes.length = 20
      ∧ does (.ingressGroup 0 (grp 5 1000)) s (fun t => t.lehr.convs.map (·.staged) == [some [0x41]]) = true
      ∧ does (.ingressGroup 0 (grp 5 999)) s (fun t => t.lehr.convs.map (·.inglate) == [1]) = true
      ∧ does (.ingressGroup 0 (grp 6 1000)) s (fun t => t.lehr.dropped.get 0 == 1) = true := by
  decide +kernel

/-- A device with a die 0 and a cluster 0 of a class. -/
def powered (p : PwrDie) (cls : Nat) (b : Bank) : State :=
  let s := dev b
  { s with power := { s.power with
      dies := s.power.dies.set 0 p, freqOrder := [0]
      clusters := s.power.clusters.set 0 { s.power.clusters.get 0 with cls := cls } } }

/-- 18 R383, R384: requests for F7 under CAP 7 and under CAP 6, one step up at CAP, and steps down from F1 and from F0. -/
theorem test_frequency_requests :
    let s (cap cls : Nat) (r : Nat × Nat) : State := powered { PwrDie.reset with cap := cap } cls { busy with freqPend := some r }
    ∀ p ∈ [(7, 0, (1, 7), (none : Option Nat)), (6, 0, (1, 7), some 2), (6, 5, (2, 0), none), (6, 6, (2, 0), some 2), (7, 1, (3, 0), none), (7, 0, (3, 0), some 1)],
      let u := s p.1 p.2.1 p.2.2.1
      dieOf 0 = 0 ∧ (u.diePower 0).change = none ∧ ((u.power.freqOrder.filter fun b => dieOf b == 0).head? == some 0) = true
        ∧ (u.bank 0).freqPend = some p.2.2.1 ∧ (u.clusterPower (clusterOf 0)).cls = p.2.1
        ∧ does (.freqRequestTakeup 0) u (fun t => t.power.freqOrder.isEmpty && match p.2.2.2 with
          | some why => (t.bank 0).freqReason == why && (t.bank 0).freqResult == 2
          | none => (t.bank 0).freqResult != 2) = true := by
  decide +kernel

/-- 18 R379: a change up from F0 to F7: the rail below its need, and at it; a change down before its clock has switched, and after. -/
theorem test_class_changes :
    let s (vdie : Nat) (up sw : Bool) (target : Nat) : State :=
      powered { PwrDie.reset with vdie := vdie, change := some { cluster := 0, target := target, up := up, switched := sw } } 0 { busy with freqStand := some 7 }
    dieOfCluster 0 = 0 ∧ (s 60 true false 7).vneed 0 = 78 ∧ (s 78 true false 7).vneed 0 = 78 ∧ (s 100 false true 0).vneed 0 < 100
      ∧ does (.railStep 0) (s 60 true false 7) (fun t => (t.diePower 0).vdie == 61) = true
      ∧ does (.clockSwitchEnd 0) (s 78 true false 7) (fun t => (t.clusterPower 0).cls == 7) = true
      ∧ does (.clockSwitchEnd 0) (s 100 false false 0) (fun t => (t.clusterPower 0).cls == 0 && (t.diePower 0).vdie == 100 && ((t.diePower 0).change.map (·.switched)) == some true) = true
      ∧ does (.railStep 0) (s 100 false true 0) (fun t => (t.diePower 0).vdie == 99) = true := by
  decide +kernel

/-- 18 R378, R382, R385, R389-R394: samples, limits, the budget, and the marver rail. -/
theorem test_power_limits :
    let s (p : PwrDie) : State := { powered p 4 { busy with qS := [busy.capture (.word (.pwracq { sy := sy0, rd := 5, ra := 6 }))] } with time := 70000000000 }
    let d := PwrDie.reset
    let h : HeadReq := { bank := 0, cls := 2, urgent := false, placement := false }
    does (.stallratioSample 0 1 4) (s d) (fun t => (t.clusterPower 0).ratio == 0x4000 && (t.clusterPower 0).sample == 1) = true
      ∧ does (.boardCapChange 0 3) (s d) (fun t => (t.diePower 0).boardCap == 3 && (t.diePower 0).cap == 3) = true
      ∧ (s { d with heads := [h] }).grantable 0 = some h
      ∧ does (.budgetGrant 0) (s { d with heads := [h] }) (fun t => (t.bank 0).pwrCls == 2 && (t.diePower 0).heads.isEmpty) = true
      ∧ does (.marverRailWindow 0) (s { d with corrected := 33 }) (fun t => (t.diePower 0).railUp == 1) = true
      ∧ does (.marverRailWindow 0) (s { d with corrected := 15, hold := true }) (fun t => (t.diePower 0).railDown == 0) = true
      ∧ does (.marverRailWindow 0) (s { d with corrected := 15 }) (fun t => (t.diePower 0).railDown == 1) = true
      ∧ does (.marverRailStep 0) (s { d with railUp := 2 }) (fun t => (t.diePower 0).vmrv == 151 && (t.diePower 0).railUp == 1) = true
      ∧ does (.marverRailStep 0) (s { d with railDown := 2 }) (fun t => (t.diePower 0).vmrv == 149) = true
      ∧ does (.undervoltHoldEnd 0) (s { d with hold := true }) (fun t => !(t.diePower 0).hold) = true
      ∧ does (.setPointRestore 0) (s { d with sp := 8 }) (fun t => (t.diePower 0).sp == 16) = true := by
  decide +kernel

/-- 18 R390-R392: sensors that read above the critical limit, above the throttle limit, and 5 degrees below it under a lowered CAP. -/
theorem test_hottest_column :
    let s : State := powered { PwrDie.reset with cap := 6 } 4 busy
    (PwrDie.reset.critical < 461 ∧ 421 ≤ PwrDie.reset.critical ∧ PwrDie.reset.throttle < 421 ∧ 400 + 20 ≤ PwrDie.reset.throttle
      ∧ (s.diePower 0).cap < (s.diePower 0).boardCap) ∧ ∀ t ∈ [461, 421, 400], (List.range 72).foldl (fun m k =>
      max m (((s.readSensors 0 [{ core := 3, t0 := t, t1 := 0 }]).cores.get (coreAt 0 k)).temp)) 0 = t := by
  decide +kernel

/-- 20 R419-R421: HALT, of a bank that executes, that awaits an answer, and whose task has not started; a STOPSEQ and a BREAK that match; the
status of a stopped bank; writes to a quiesced bank and to another; a read of it by a commander and by another. -/
theorem test_debugging :
    let x := busy.capture (.word (.nop { sy := sy0 }))
    let q := dev { busy with qS := [x], stopSeq := [(.C, 9), (.S, 0)] }
    let k := dev { busy with qS := [x], brk := [100], stopSeq := [(.C, 0)], qC := [x] }
    let c := dev { busy with stopSeq := [(.C, 0)], qC := [x] }
    let w := dev { busy with status := .switchedOut, awaits := true }
    let f := dev { busy with status := .unfunded }
    let h := dev { busy with halt := true }
    let o := dev { busy with status := .switchedOut, stopped := true }
    let r := { dev busy with cores := State.reset.cores }
    (regs.bank 0).status = .running ∧ (regs.bank 0).cut = none ∧ ((q.bank 0).queue .S) = [x] ∧ x.uid = 0 ∧ x.idx = 100 ∧ (k.bank 0).seqAt .S = none ∧ (c.bank 0).brkMatch = none
      ∧ (c.bank 0).seqMatch = some ((.C, 0), x) ∧ (c.bank 0).halt = false
      ∧ (q.bank 0).seqMatch = some ((.S, 0), x) ∧ (∀ t ∈ [q, k], (t.bank 0).halt = false) ∧ (o.bank 0).status ≠ .preempted
      ∧ does (.halt 0) w (fun t => (t.bank 0).stopped && (t.bank 0).awaits) = true ∧ does (.halt 0) f (fun t => (t.bank 0).halt) = true
      ∧ does (.debugStopMatch 0) h (fun t => (t.bank 0).tval == 0 && (t.bank 0).stopped && !(t.bank 0).halt) = true
      ∧ (o.saves.all fun p => p.1 != 0) = true ∧ (o.bank 0).quiesced = true ∧ (r.bank 0).quiesced = false
      ∧ does (.halt 0) regs (fun t => (t.bank 0).tcause == 0x8154 && (t.bank 0).stopped) = true
      ∧ does (.debugStopMatch 0) q (fun t => (t.bank 0).tval == 1 && (t.bank 0).stopSeq == [(.C, 9)]) = true
      ∧ does (.debugStopMatch 0) k (fun t => (t.bank 0).tval == 0x6402 && (t.bank 0).brk == [100]) = true
      ∧ does (.debugStopMatch 0) c (fun t => (t.bank 0).tval == 1 && (t.bank 0).tstate.toNat / 4 % 4 == 2 && (t.bank 0).stopSeq.isEmpty) = true
      ∧ (o.debugRead 9 0 (.sreg 6)).gaffer.reports = [.refusedAccess 9]
      ∧ (({ o with boot := { o.boot with commanders := [9] } } : State).debugRead 9 0 (.sreg 6)).gaffer.reports = [.debugValue 0 (.sreg 6) (.word 0)]
      ∧ does (.status 0) o (fun t => t.gaffer.status.getLsbD 0 && t.gaffer.status.getLsbD 1) = true
      ∧ does (.debugWrite 0 (.sreg 6 9)) o (fun t => (t.bank 0).sreg 6 == 9) = true
      ∧ does (.debugWrite 0 (.vreg 63 9)) o (fun t => (t.bank 0).v.get 63 == 9) = true
      ∧ does (.debugWrite 0 (.sreg 6 9)) r (fun t => (t.bank 0).sreg 6 == 0) = true := by
  decide +kernel

theorem test_arming :
    does (.stopseq 0 .C 7) (dev { busy with stopSeq := [(.L, 3)] }) (fun t => (t.bank 0).stopSeq == [(.L, 3), (.C, 7)]) = true
      ∧ does (.brk 0 9) (dev { busy with brk := [8] }) (fun t => (t.bank 0).brk == [8, 9]) = true
      ∧ does (.debugDisarm 0) (dev { busy with brk := [9] }) (fun t => (t.bank 0).brk.isEmpty) = true := by
  decide +kernel

/-- 20 R425, R426: a start without an image fails with reason 1; with the count at 3 it ends in minimal mode; the watchdog; minimal mode's requests. -/
theorem test_start_up :
    let env : StartEnv := { puf := [], links := true, hbm := true, cores := true, ports := true, time := 0 }
    let s (m : BootMode) (n : Nat) : State := { State.reset with boot := { State.reset.boot with mode := m, fails := n } }
    let img : SignedImage := { firmware := [], helper := [], retirement := [], certKey := 0, commanders := [], vendorSig := 0, identitySig := 0 }
    startFailure none env = some 1
      ∧ does (.deviceStart env) (s .off 2) (fun t => t.boot.mode == .off && t.boot.fails == 3 && t.boot.reason == 1) = true
      ∧ does (.deviceStart env) (s .off 3) (fun t => t.boot.mode == .minimal) = true
      ∧ does .startWatchdog (s .off 0) (fun t => t.boot.reason == 7 && t.boot.fails == 1) = true
      ∧ does (.writeImage img) (s .minimal 3) (fun t => t.boot.image == some img) = true ∧ does .fullStart (s .minimal 3) (fun t => t.boot.mode == .starting) = true
      ∧ does (.writeImage img) (s .ready 0) (fun t => t.boot.image.isNone) = true
      ∧ does .powerLoss (s .ready 2) (fun t => t.boot.mode == .off && t.boot.fails == 2) = true := by
  decide +kernel

/-- 20 R427: ATTEST in normal running and outside it; a signature where the image's list is empty; a release. -/
theorem test_commanders :
    let img : SignedImage := { firmware := [], helper := [], retirement := [], certKey := 0, commanders := [], vendorSig := 0, identitySig := 0 }
    let s (m : BootMode) : State := { State.reset with boot := { State.reset.boot with mode := m, image := some img, nonces := [(9, 4)], commanders := [8, 9] } }
    (s .ready).boot.mode = .ready ∧ (s .ready).boot.image = some img ∧ (s .minimal).boot.mode ≠ .ready
      ∧ ((s .ready).boot.nonces.find? fun p => p.1 == 9) = some (9, 4)
      ∧ does (.attest 9 5) (s .ready) (fun t => t.boot.attested.map (fun a => (a.host, a.nonce, a.time)) == [(9, 5, 0)] && t.boot.nonceNext == 1) = true
      ∧ does (.attest 9 5) (s .minimal) (fun t => t.boot.attested.isEmpty && t.gaffer.reports == [.refused 4]) = true
      ∧ does (.commanderSignature 9 0) (s .ready) (fun t => t.boot.badSigs == 1 && t.gaffer.reports == [.refused 4]) = true
      ∧ does (.commanderRelease 9) (s .ready) (fun t => t.boot.commanders == [8]) = true := by
  decide +kernel

/-! ### Memory, decoding and the step -/

/-- 03 R66, R79: a write to backed bytes and to a pinned line, and a valid remote copy at another die. -/
theorem test_memory_premises :
    let p : Store := { unb.store with lines := [(page2.loc / 128, .pinned)] }
    let far : Store := { lw.store with remote := [{ die := 1, line := 0x10000 / 128, epoch := 0, bytes := List.replicate 128 3, ecc := [] }] }
    lw.store.mem.wf = true ∧ (∀ i ∈ List.range 8, lw.store.resolve (0x10010 + i) = lw.store.resolve 0x10010 + i)
      ∧ lw.store.resolve 0x10010 + 8 ≤ 2 ^ 48 ∧ p.mem.wf = true ∧ 2 ^ 48 ≤ p.resolve page2.loc
      ∧ (∀ x ∈ linesOf (p.resolve page2.loc) 8, p.lineSt x = some .pinned)
      ∧ (lw.store.put 0 0x10010 [1, 2]).homeByte 0x10011 = 2 ∧ (lw.store.put 0 0x10010 [1, 2]).homeByte 0x10018 = 0x80
      ∧ remoteHomed 1 (far.resolve 0x10000) = true ∧ (far.copyOf 1 (far.resolve 0x10000 / 128)).isSome = true
      ∧ (far.put 0 0x10000 [9]).viewByte 1 0x10000 = 3 ∧ (far.put 0 0x10000 [9]).viewByte 0 0x10000 = 9 := by
  decide +kernel

theorem reset_canonical : State.reset.canonical := ⟨rfl, rfl⟩

/-- A step answers a next state of which something holds. -/
def steps (s : State) (p : State → Bool) : Bool := match step s with | .next t => p t | .fault _ | .refused _ => false

/-- A step in which a word is dispatched, and one whose agenda brings a commander's write. -/
theorem test_steps :
    let s : State := { State.reset with
      agenda := [(0, .event (.fabricEndpointAccess 9 (.write 0x10010 [6])))], boot := { State.reset.boot with mode := .ready, commanders := [9] } }
    steps (State.reset.withFetchWord 48 0x00094C700000) (fun t => t.store.mem.wf) = true ∧ s.store.mem.wf = true ∧ s.store.hbm.wf = true
      ∧ steps s (fun t => t.store.homeNat 0x10010 1 == 6 && t.agenda.isEmpty) = true := by
  decide +kernel

/-- 07 R158: a well-formed instruction with its word, and the word back. -/
theorem test_encode_premises :
    let i : Instr := .ldd { sy := { pop := 7, push := 3 }, od := { stream := 7, mask := 255 }, reg := 0, h := 15, idx := 31, rep := 31, step := 15 }
    (Instr.addi { sy := sy0, rd := 5, ra := 6, imm := 12 }).wf = true ∧ encode (.addi { sy := sy0, rd := 5, ra := 6, imm := 12 }) = some 0x00A14C00000C
      ∧ i.wf = true ∧ (encode i).isSome = true ∧ (encode i).bind (fun v => (decode v).toOption) = some i := by
  decide +kernel

/-- The device whose next word is the ADD of 09 Table 9.2, and its bank 0 at an engine's turn with that word at its head. -/
def adding : State := State.reset.withFetchWord 48 0x00094C700000

def add567 : Instr := .add { sy := sy0, rd := 5, ra := 6, rb := 7 }

def atHead : State := adding.modBank 0 fun b => { b with slot := .S, qS := [b.capture (.word add567)] }

def turned (s : State) : State := { s.tick s.pace with turn := Fin.ofNat 289 1 }

/-- 07 R160: the turn of bank 0 comes, and its dispatcher reads the word. -/
theorem test_dispatch_turn : adding.turnOf 0 0 (turned adding) where
  agenda := rfl
  first := by decide +kernel
  state := rfl
  quiet := by decide +kernel
  runs := ⟨0, by decide +kernel, rfl⟩
  noneFailed := by decide +kernel

theorem test_dispatch_premises :
    let v := (turned adding).modBank 0 fun x => { x with slot := .S }
    ((turned adding).bank 0).slot = .dispatch ∧ v.fetch 0 (v.bank 0).pc = .word 0x00094C700000 ∧ decode 0x00094C700000 = .ok add567
      ∧ ((v.bank 0).ofDet && isAfadd add567) = false ∧ (v.bank 0).dispatches = true ∧ (v.bank 0).canDispatch (.word add567) = true
      ∧ (v.bank 0).issuesAtOnce (.word add567) = true ∧ steps adding (fun t => (t.bank 0).pc == 1) = true := by
  decide +kernel

/-- 07 R162: the turn of engine S with the word at its head. -/
theorem test_engine_turn : atHead.turnOf 0 0 (turned atHead) where
  agenda := rfl
  first := by decide +kernel
  state := rfl
  quiet := by decide +kernel
  runs := ⟨0, by decide +kernel, rfl⟩
  noneFailed := by decide +kernel

theorem test_engine_premises :
    let v := (turned atHead).modBank 0 fun x => { x with slot := Slot.S.next }
    ((turned atHead).bank 0).slot = .S ∧ (v.bank 0).takes = true ∧ (v.bank 0).stopDue = false ∧ ((v.bank 0).queue .S).map (·.what) = [.word add567]
      ∧ (v.bank 0).upset = [] ∧ steps atHead (fun t => (t.bank 0).qS.isEmpty) = true := by
  decide +kernel

def upsetHead : State := atHead.modBank 0 fun b => { b with upset := [(.S, 0x60000, false)] }

/-- 03 R84, R90; 17 Table 17.2: a single-bit error in s6, which is corrected, so that the word executes; an error in s6 at the turn of engine S is cause 0x014C. -/
theorem test_upset_turn : upsetHead.turnOf 0 0 (turned upsetHead) where
  agenda := rfl
  first := by decide +kernel
  state := rfl
  quiet := by decide +kernel
  runs := ⟨0, by decide +kernel, rfl⟩
  noneFailed := by decide +kernel

theorem test_corrected_premises :
    let one : State := atHead.modBank 0 fun b => { b with upset := [(.S, 0x60000, true)] }
    let v := (turned one).modBank 0 fun x => { x with slot := Slot.S.next }; let w := v.correctUpsets 0 .S
    ((turned one).bank 0).failed = [] ∧ ((turned one).bank 0).slot = .S ∧ (v.bank 0).takes = true ∧ (v.bank 0).stopDue = false ∧ (w.bank 0).takes = true
      ∧ (w.bank 0).stopDue = false ∧ ((w.bank 0).queue .S).map (·.what) = [.word add567] ∧ (w.bank 0).upset = []
      ∧ steps one (fun t => (t.bank 0).qS.isEmpty && (t.bank 0).cut.isNone && t.gaffer.records.length == 1) = true := by
  decide +kernel

theorem test_upset_premises :
    let v := (turned upsetHead).modBank 0 fun x => { x with slot := Slot.S.next }
    ((turned upsetHead).bank 0).slot = .S ∧ (v.bank 0).takes = true ∧ (v.bank 0).stopDue = false ∧ ((v.bank 0).queue .S).map (·.what) = [.word add567]
      ∧ ((v.bank 0).upset.find? fun q => q.1 == .S) = some (.S, 0x60000, false)
      ∧ steps upsetHead (fun t => (t.bank 0).tcause == 0x814C && (t.bank 0).tval == 0x60000 && (t.bank 0).qS.length == 1) = true := by
  decide +kernel

/-! ### Moves of pages, and clauses of the events -/

/-- Address space 1 maps its page 0 to the unbacked page of h4, whose line 1 is pinned and holds a 7, by a leaf of LF as given and GEN 7. -/
def tabled (lf : Word) (b : Bank) (ps : List Pool) : State :=
  let leaf : Word := 0x700000001802F + lf * 64
  { dev { b with h := busy.h.set 4 { page2 with lf := lf != 0 }, s := scalars [(8, 0x400)] } with
    store := { (holding [(0x40000, leBytes 8 0x50001), (0x50000, leBytes 8 0x60001), (0x60000, leBytes 8 leaf.toNat)]).put 0 page2.loc [] with
      mem := (holding [(0x40000, leBytes 8 0x50001), (0x50000, leBytes 8 0x60001), (0x60000, leBytes 8 leaf.toNat)]).mem ++ [(page2.loc + 0x80, 7)]
      lines := [((page2.loc + 0x80) / 128, .pinned)], pools := ps }
    xl := { State.reset.xl with roots := [(1, 0x40000)] } }

/-- Pool 3, where that page is, and pool 4, with `r` reserved, 2 pinned and frames of its late reserve. -/
def pools34 (r : Nat) (fs : List Nat) : List Pool :=
  [{ die := 0, num := 3, owner := 1, limit := 100, r := 8, p := 8, late64 := fs, late256 := [], nlate := 0, nlost := 0, withdrawn := false },
   { die := 0, num := 4, owner := 1, limit := 100, r := r, p := 2, late64 := fs, late256 := [], nlate := 0, nlost := 0, withdrawn := false }]

def movable (lf : Word) (r : Nat) (fs : List Nat) : State := tabled lf busy (pools34 r fs)

theorem test_plain_moves : ∀ p ∈ [((0 : Word), 3, ([] : List Nat)), (0, 2, []), (1, 2, [0x70000]), (1, 2, [])],
    (movable p.1 p.2.1 p.2.2).plainMove page2.loc 0x10000 := by
  intro p hp
  simp only [List.mem_cons, List.not_mem_nil, or_false] at hp
  rcases hp with rfl | rfl | rfl | rfl
  all_goals
    exact { forwards := by decide +kernel, clean := by decide +kernel, filters := by intro d; revert d; decide +kernel, frames := by decide +kernel,
            lines := by decide +kernel, mem := by decide +kernel, pinned := by decide +kernel, size := Or.inl rfl, aligned := by decide +kernel }

/-- `PGMIG` to the pool of s8, which is pool 4 of die 0. -/
def pgmig8 : Instr := .pgmig { sy := sy0, od := on 1, res := 10, h := 4, opnd := 8 }

/-- 02 R60: PGMIG to a pool with room for the one pinned line, to one without with LF = 0, to a late frame, and without one. -/
theorem test_page_moves :
    let s := movable 0 3 []; let cap : Capture := { h := page2, stale := false }; let capL : Capture := { h := { page2 with lf := true }, stale := false }
    let dst := unbackedLoc 0 4 (upnOfLoc page2.loc)
    let leaf (u : State) : Word := BitVec.ofNat 64 (u.store.homeNat 0x60000 8)
    pageGoes s pgmig8 cap 0 0 unbackedCheck = true ∧ pageGoes (movable 0 2 []) pgmig8 cap 0 0 unbackedCheck = true
      ∧ (∀ f ∈ [[], [0x70000]], pageGoes (movable 1 2 f) pgmig8 capL 0 0 unbackedCheck = true)
      ∧ s.store.resolve page2.loc = page2.loc ∧ s.store.linesIn dst 0x10000 = [] ∧ s.store.pinnedIn page2.loc 0x10000 = 1 ∧ regionOf 0x60000 = .hbm 0
      ∧ (∀ p ∈ [(s.store.toUnbacked page2.loc 0x10000 dst, (0 : Word), s),
          (((movable 1 2 [0x70000]).store.modPool 0 4 fun _ => (pools34 2 []).getD 1 (pools34 2 [])[0]).toFrame page2.loc 0x10000 0x70000, 1, movable 1 2 [0x70000])],
        ({ p.2.2 with store := p.1 } : State).leafAt 1 0x200 = some (0x60000, 0x700000001802F + p.2.1 * 64)
          ∧ leafU (0x700000001802F + p.2.1 * 64) = true ∧ leafLoc (0x700000001802F + p.2.1 * 64) = page2.loc)
      ∧ does pgmig8 s (fun t => t.store.pools.map (·.p) == [7, 3] && t.store.lines == [((dst + 0x80) / 128, .pinned)] && t.store.homeNat (dst + 0x80) 1 == 7
          && leaf t == 0x800000002002F && t.xl.invals.map (fun v => (v.base, v.len)) == [(0, 0x10000)]
          && t.here.ops.map (fun o => (o.loads, o.waiting)) == [([.s 10 0], true)]) = true
      ∧ does pgmig8 (movable 0 2 []) (fun t => t.here.tcause == tcauseOf { group := 1, kind := 10, engine := .W }) = true
      ∧ does pgmig8 (movable 1 2 []) (fun t => t.here.tcause == tcauseOf { group := 1, kind := 14, engine := .W }) = true
      ∧ does pgmig8 (movable 1 2 [0x70000]) (fun t => t.store.pools.map (fun p => (p.p, p.late64)) == [(7, [0x70000]), (2, [])]
          && t.store.lines.isEmpty && t.store.homeNat 0x70080 1 == 7 && leaf t == 0x800000007000F
          && t.here.ops.map (fun o => (o.loads, o.waiting)) == [([.s 10 2], true)]) = true := by
  decide +kernel

/-- 02 R52: the late frame of a page with one pinned line that holds a 7. -/
theorem test_late_frame_content :
    let i : Instr := .std { sy := sy0, od := on 1, reg := 7, h := 4, idx := 6, rep := 0, step := 1 }
    let b : Bank := { busy with qW := [{ unb.here.capture (.word i) with alloc := .late 0x80, cap := some { h := { page2 with lf := true }, stale := false } }] }
    let s := tabled 1 b (pools34 2 [0x70000])
    (s.store.pool 0 3).bind (fun p => p.takeFrame 0x10000) = some (0x70000, (pools34 2 [])[0])
      ∧ ({ s with store := (s.store.modPool 0 3 fun _ => (pools34 2 [])[0]).toFrame page2.loc 0x10000 0x70000 } : State).leafAt 1 0x200
          = some (0x60000, 0x700000001806F)
      ∧ does (.lateFrameConversion 0) s (fun t => t.store.pools.map (fun p => (p.p, p.nlate)) == [(7, 1), (2, 0)] && t.store.homeNat 0x70080 1 == 7
          && t.store.homeNat 0x70000 1 == 0 && t.store.resolve (page2.loc + 0x80) == 0x70080 && t.store.homeNat 0x60000 8 == 0x800000007000F) = true := by
  decide +kernel

/-- 02 R48: a grant of the two lines of a store that crosses into the next, neither of them pinned. -/
theorem test_grant_of_two_lines :
    let i : Instr := .std { sy := sy0, od := on 1, reg := 7, h := 4, idx := 6, rep := 0, step := 1 }
    let ls := linesOf (page2.loc + 0xFC) 8
    let s : State := { dev { busy with qW := [{ unb.here.capture (.word i) with alloc := .asked 0xFC ls, cap := some { h := page2, stale := false } }] } with store := unb.store }
    ls.Nodup ∧ ls.length = 2 ∧ (∀ k ∈ ls, dieOfLine k = 0 ∧ poolOfLine k = 3 ∧ s.store.lineSt k = none)
      ∧ does (.allocationAnswer 0) s (fun t => t.store.pools.map (·.p) == [4]) = true := by
  decide +kernel

/-- 04 R106: a write lands that pushes a token, while a local load with a unit still to be read is in flight. -/
theorem test_landing_pushes :
    let f : Flight := { due (.s 6 9) with push := 2 }
    let g : Flight := { due (.v 3 0 (BitVec.allOnes 256)) with uid := 1, due := 9, relook := 1 }
    let s : State := { dev { busy with flights := [f, g], engcyc := 5 } with store := holding [(0x10000, [7])] }
    (s.bank 0).status = .running ∧ (s.bank 0).cut = none ∧ f.due ≤ (s.bank 0).engcyc ∧ (s.bank 0).engcyc < g.due
      ∧ does (.cWriteLand 0) s (fun t => (t.bank 0).flights.map (fun k => (k.uid, k.relook)) == [(1, 0)] && (t.bank 0).sreg 6 == 9) = true := by
  decide +kernel

/-- 04 R106: a store that pushes a token completes after a store ordered before it, whose bytes are performed with it. -/
theorem test_pushing_completion :
    let i : Instr := .std { sy := sy0, od := on 1, reg := 7, h := 4, idx := 6, rep := 0, step := 1 }
    let x := lw.here.capture (.word i)
    let p : Op := opOf .W (usesOf i) x [] [] [{ loc := 0x10000, bytes := [5] }]
    let o : Op := { opOf .W (usesOf i) { x with uid := 1, preds := [0] } [] [] [{ loc := 0x10008, bytes := [7] }] with push := 2 }
    let s := dev { busy with ops := [p, o] }
    ((s.bank 0).ops.find? fun q => q.uid == o.uid) = some o ∧ o.ent.late = [] ∧ o.spent = false ∧ o.waiting = false ∧ o.pend = false ∧ (s.bank 0).mayWrite o = true
      ∧ ((s.bank 0).ops.filter fun q => o.ent.preds.contains q.uid) = [p] ∧ p.waiting = false ∧ p.isCopy = false ∧ p.spent = false ∧ p.pend = false ∧ p.ent.late = []
      ∧ does (.operationComplete 0 1) s (fun t => (t.bank 0).ops.map (fun q => (q.uid, q.puts)) == [(0, [])]
          && t.store.homeNat 0x10000 1 == 5 && t.store.homeNat 0x10008 1 == 7) = true := by
  decide +kernel

/-- 17 R361: a Refresh of a stale, a faulted and a pending capture of pages that are cached, and of a pending one of a page that is not. -/
theorem test_refreshed :
    let i : Instr := .ldd { sy := sy0, od := on 1, reg := 5, h := 4, idx := 6, rep := 0, step := 1 }
    let x (n : Nat) (h : Handle) (st : Bool) : Entry := { lw.here.capture (.word i) with uid := n, cap := some { h := { h with reqR := true, reqW := false }, stale := st } }
    let qs := [x 0 { page1 with base := 0x10000 } true, x 1 { page1 with st := .faulted, va := 0x10008 } false, x 2 { page1 with st := .pending, va := 0x10010 } false,
      x 3 { page1 with st := .pending, va := 0x50000 } false, x 4 { page1 with st := .faulted, va := 0x10000000000000 } false]
    let s : State := { mapped lw.store (dev { busy with status := .switchedOut, awaits := true, tcause := 0x8050, kind := 1, qL := qs }) with
      gaffer := { State.reset.gaffer with causes := [(0, 0x50)] } }
    let hit (va : Word) : Handle := makeHandle (.leaf leaf1 false) true false va
    s.xl.hit 0 1 0x10000 = some (leaf1, false) ∧ s.xl.heldBy 0 1 0x10000 = false ∧ s.xl.hit 0 1 0x50000 = none ∧ s.store.clean = true
      ∧ does (.refresh 0) s (fun t =>
        let hs := (t.bank 0).qL.map fun y => (y.cap.map (·.h)).getD Handle.reset
        hs.take 3 == [hit 0x10000, hit 0x10008, hit 0x10010] && (hs.drop 3).map (fun h => (h.st, h.va)) == [(.pending, 0x50000), (.faulted, 0x10000000000000)]
          && (hs.drop 4).map (·.fkind) == [7] && t.xl.walks.map (·.va) == [0x50000]) = true := by
  decide +kernel

/-- 01 R35: an XLATE of a cached page that an invalidation holds. -/
theorem test_xlate_held :
    let s : State := { dev { busy with s := scalars [(6, 0x10000)] } with xl := { State.reset.xl with
      dtc := [{ die := 0, asn := 1, page := 1, big := false, leaf := leaf1 }]
      invals := [{ id := 0, asn := 1, base := 0x10000, len := 0x10000, dies := [0], pgmig := none }] } }
    let i : Instr := .xlate { sy := sy0, hd := 4, ra := 6, rights := 3 }
    (s.acting i).here.sReady i (s.inHand i) = true ∧ s.xl.heldBy 0 1 0x10000 = true ∧ s.xl.hit 0 1 0x10000 = some (leaf1, false)
      ∧ does i s (fun t => t.here.hland.map (fun l => (l.h.st, l.h.va)) == [(.pending, 0x10000)] && t.xl.walks.map (·.va) == [0x10000]) = true := by
  decide +kernel

/-- 11 R248: the second row of a copy-in carries its bytes to its place, and a bank that is switched out issues none. -/
theorem test_later_row_bytes :
    let x := copier.capture (.word in2)
    let s (st : BankSt) : State := { dev { copier with status := st, qL := [x], copies := [copy2] } with store := holding [(0x10000, leBytes 8 0x0807060504030201 ++ leBytes 8 0x1817161514131211)] }
    (∀ d, (s .running).gaffer.filtersOn d = false) ∧ ((s .running).bank 0).stopped = false ∧ copy2.lay.fold = false ∧ copy2.isIn = true
      ∧ ((copy2.runs 1).map fun q => (q.o, q.n)) = [(8, 6)]
      ∧ does (.copyRowIssue 0 .L) (s .running) (fun t => (t.bank 0).copies.map (fun k => k.flights.map (·.puts))
          == [[(copy2.pieces 1).map fun g => { loc := padBase 0 + g.a, bytes := [0x11, 0x12, 0x13, 0x14, 0x15, 0x16, 0xAA, 0xAA] }]]) = true
      ∧ does (.copyRowIssue 0 .L) (s .switchedOut) (fun t => (t.bank 0).copies == [copy2]) = true := by
  decide +kernel

/-- 18 R381: the policy's step of a cluster with a task and neither a request nor a hint; 20 R414: a start that fails
by its watchdog takes the mark of the next start. -/
theorem test_power_and_start_clauses :
    let s := { powered { PwrDie.reset with cap := 5 } 4 busy with time := 1000000 }
    let st (r : Nat) (n : Nat) : Bool := does (.stallratioSample 0 r 16) s fun t => (t.clusterPower 0).target == n
    let w : State := { State.reset with boot := { State.reset.boot with mode := .off, failNext := true } }
    s.clusterUsed 0 = true ∧ s.requestOf 0 = none ∧ s.hintOf 0 = none ∧ s.askedNow 0 = false ∧ (s.clusterPower 0).policy = 0
      ∧ st 8 0 = true ∧ st 4 0 = true ∧ st 3 1 = true
      ∧ does .startWatchdog w (fun t => !t.boot.failNext) = true := by
  decide +kernel

end Sys2Proof.Tests
end

/-! ### Handle words (01 R25; 09 R217, R218): what they share -/

namespace Sys2Proof.Machine

open Sys2Proof

@[simp] theorem State.acting_xl (s : State) (i : Instr) : (s.acting i).xl = s.xl := by rw [State.acting, State.begin_state]; rfl

@[simp] theorem State.acting_store (s : State) (i : Instr) : (s.acting i).store = s.store := by
  rw [State.acting, State.begin_state]; rfl

@[simp] theorem State.acting_asn (s : State) (i : Instr) : (s.acting i).here.asn = s.here.asn := by
  rw [State.acting, State.begin_bank]

@[simp] theorem State.acting_h (s : State) (i : Instr) : (s.acting i).here.h = s.here.h := by
  rw [State.acting, State.begin_bank]

@[simp] theorem State.acting_hland (s : State) (i : Instr) : (s.acting i).here.hland = s.here.hland := by
  rw [State.acting, State.begin_bank]

@[simp] theorem State.acting_windowSize (s : State) (i : Instr) (w : BitVec 2) :
    (s.acting i).here.windowSize w = s.here.windowSize w := by
  rw [State.acting, State.begin_bank]; rfl

@[simp] theorem State.acting_windowBase (s : State) (i : Instr) (n : BankId) (w : BitVec 2) :
    (s.acting i).here.windowBase n w = s.here.windowBase n w := by
  rw [State.acting, State.begin_bank]; rfl

/-- A handle word moves tokens and puts its result on its way (01 R25). -/
theorem Bank.launchHandle_frame (b : Bank) (sy : Sync) (x : Entry) (r : BitVec 4) (h : Handle) :
    b.launchHandle sy x r h = { b with
      tok := (b.launchHandle sy x r h).tok, rsv := (b.launchHandle sy x r h).rsv
      hland := b.hland ++ [{ reg := r, h := h, push := sy.push }] } := by
  unfold Bank.launchHandle
  rw [Bank.reserve_frame, Bank.doPops_frame]

/-- The bank after a handle word that S took: its result is the last on its way, and the handle registers and the scalar
registers are as before (01 R25; 09 R217, R218). -/
theorem State.launchHandle_here (s : State) (i : Instr) (sy : Sync) (x : Entry) (r : BitVec 4) (h : Handle) :
    let c := (s.acting i).here.launchHandle sy x r h
    c.hland = s.here.hland ++ [{ reg := r, h := h, push := sy.push }] ∧ c.h = s.here.h ∧ ∀ q, c.sreg q = s.here.sreg q := by
  intro c
  have hc : c = _ := Bank.launchHandle_frame ..
  refine ⟨?_, ?_, fun q => ?_⟩
  · rw [hc, State.acting_hland]
  · rw [hc, State.acting_h]
  · rw [hc, ← s.acting_sreg i q]; rfl

/-! ### XLATE (01 R25, R35) -/

/-- What a die finds in its caches and in the page tables depends on translation and storage alone. -/
theorem State.samePage_congr {s t : State} (hx : t.xl = s.xl) (hs : t.store = s.store) : t.samePage = s.samePage := by
  funext d asn va va'
  simp only [State.samePage, State.walkVa, hx, hs]

theorem State.samePage_self (s : State) (d : Die) (asn : BitVec 12) (va : Nat) : s.samePage d asn va va = true := by
  simp [State.samePage]

/-- A miss is on a walk of its die and address space whose page is the same (01 R24). -/
theorem Xl.startWalk_on (x : Xl) (d : Die) (asn : BitVec 12) (va : Word) (same : Nat → Bool) (h : same va.toNat = true) :
    ∃ k ∈ (x.startWalk d asn va same).2.walks,
      k.tag = (x.startWalk d asn va same).1 ∧ k.die = d ∧ k.asn = asn ∧ same k.va.toNat = true := by
  unfold Xl.startWalk
  split
  next w hw =>
    have hp := List.find?_some hw
    simp only [Bool.and_eq_true, beq_iff_eq] at hp
    exact ⟨w, List.mem_of_find?_eq_some hw, rfl, hp.1.1, hp.1.2, hp.2⟩
  next => exact ⟨_, List.mem_append_right _ (List.mem_singleton_self _), rfl, rfl, rfl, h⟩

theorem State.xlateHandle_noncanonical (s : State) (b : BankId) {va : Word} (r w : Bool) (h : 2 ^ 52 ≤ va.toNat) :
    s.xlateHandle b va r w = ({ Handle.faultedOf 7 with va := va, reqR := r, reqW := w }, s.xl) := if_pos h

theorem State.xlateHandle_hit (s : State) (b : BankId) {va : Word} (r w : Bool) (h : va.toNat < 2 ^ 52) {e : Word} {big : Bool}
    (hh : s.xl.heldBy (dieOf b) (s.bank b).asn va.toNat = false)
    (hc : s.xl.hit (dieOf b) (s.bank b).asn va.toNat = some (e, big)) :
    s.xlateHandle b va r w = (makeHandle (.leaf e big) r w va, s.xl) := by
  simp only [State.xlateHandle, if_neg (Nat.not_le.mpr h), hh, hc, Bool.false_eq_true, if_false]

theorem State.xlateHandle_miss (s : State) (b : BankId) {va : Word} (r w : Bool) (h : va.toNat < 2 ^ 52)
    (hc : s.xl.heldBy (dieOf b) (s.bank b).asn va.toNat = true ∨ s.xl.hit (dieOf b) (s.bank b).asn va.toNat = none) :
    s.xlateHandle b va r w =
      let p := s.xl.startWalk (dieOf b) (s.bank b).asn va fun k => s.samePage (dieOf b) (s.bank b).asn k va.toNat
      ({ Handle.reset with st := .pending, tag := p.1, va := va, reqR := r, reqW := w }, p.2) := by
  have hn : (if s.xl.heldBy (dieOf b) (s.bank b).asn va.toNat then none else s.xl.hit (dieOf b) (s.bank b).asn va.toNat) = none := by
    split
    · rfl
    · next hf => exact hc.resolve_left hf
  simp only [State.xlateHandle, if_neg (Nat.not_le.mpr h), hn]

/-- The rights asked for are among those of a leaf. -/
theorem leafGrants_iff (e : Word) (r w : Bool) :
    ((r && !e.getLsbD 2) || (w && !e.getLsbD 3)) = false ↔ (r = true → e.getLsbD 2 = true) ∧ (w = true → e.getLsbD 3 = true) := by
  cases r <;> cases w <;> simp

/-- The handle of a leaf that lacks a right asked for (01 R25). -/
theorem makeHandle_denied {e : Word} {big : Bool} {r w : Bool} (va : Word)
    (h : ¬((r = true → e.getLsbD 2 = true) ∧ (w = true → e.getLsbD 3 = true))) :
    (makeHandle (.leaf e big) r w va).st = .faulted ∧ (makeHandle (.leaf e big) r w va).fkind = 1 := by
  have hd : ((r && !e.getLsbD 2) || (w && !e.getLsbD 3)) = true :=
    Bool.eq_true_of_not_eq_false fun hf => h ((leafGrants_iff e r w).mp hf)
  simp only [makeHandle, if_pos hd]
  exact ⟨rfl, rfl⟩

theorem fieldOf_lt (w : Word) (lo n : Nat) : fieldOf w lo n < 2 ^ n := Nat.mod_lt _ (Nat.two_pow_pos n)

/-- The handle of a leaf that grants what is asked for (01 R25). -/
theorem makeHandle_granted {e : Word} {big : Bool} {r w : Bool} {va : Word} (hva : va.toNat < 2 ^ 52)
    (h : (r = true → e.getLsbD 2 = true) ∧ (w = true → e.getLsbD 3 = true)) :
    let k := makeHandle (.leaf e big) r w va
    k.st = .valid ∧ k.rd = r ∧ k.wr = w ∧ k.extent.toNat = pageSize big ∧ k.base.toNat = va.toNat - va.toNat % pageSize big
      ∧ k.loc = leafLoc e ∧ k.unbacked = leafU e ∧ k.home.toNat = leafHome e ∧ k.gen.toNat = fieldOf e 48 8
      ∧ k.size = (if big then 1 else 0) ∧ k.isLocal = false := by
  have hg : ((r && !e.getLsbD 2) || (w && !e.getLsbD 3)) = false := (leafGrants_iff e r w).mpr h
  have hext : (BitVec.ofNat 32 (pageSize big)).toNat = pageSize big := by cases big <;> rfl
  have hpage : va.toNat / pageSize big * pageSize big = va.toNat - va.toNat % pageSize big := by
    have := Nat.div_add_mod' va.toNat (pageSize big)
    omega
  have hbase : (BitVec.ofNat 52 (va.toNat / pageSize big * pageSize big)).toNat = va.toNat - va.toNat % pageSize big := by
    rw [BitVec.toNat_ofNat, hpage, Nat.mod_eq_of_lt (Nat.lt_of_le_of_lt (Nat.sub_le ..) hva)]
  have hhome : (BitVec.ofNat 2 (leafHome e)).toNat = leafHome e := Nat.mod_eq_of_lt (fieldOf_lt e 7 2)
  have hgen : (BitVec.ofNat 8 (fieldOf e 48 8)).toNat = fieldOf e 48 8 := Nat.mod_eq_of_lt (fieldOf_lt e 48 8)
  intro k
  have hk : k = _ := if_neg (by rw [hg]; exact Bool.false_ne_true)
  rw [hk]
  exact ⟨rfl, rfl, rfl, hext, hbase, rfl, rfl, hhome, hgen, rfl, rfl⟩

theorem State.xlateHandle_congr {s t : State} {b : BankId} (hx : t.xl = s.xl) (hs : t.store = s.store)
    (ha : (t.bank b).asn = (s.bank b).asn) : t.xlateHandle b = s.xlateHandle b := by
  funext va r w
  simp only [State.xlateHandle, ha, hx, State.samePage_congr hx hs]

/-- An XLATE that S takes puts its handle on its way, and its walk among the walks (01 R25). -/
theorem execXlate_go (s : State) (a : SXlate) (h : s.sGo (.xlate a)) :
    let u := s.acting (.xlate a)
    let r := s.xlateHandle s.cur (s.here.sreg a.ra) (a.rights.getLsbD 0) (a.rights.getLsbD 1)
    exec (.xlate a) s = .next { u.setBank s.cur (u.here.launchHandle a.sy (s.inHand (.xlate a)) a.hd r.1) with xl := r.2 } := by
  have hsame : (s.acting (.xlate a)).xlateHandle s.cur = s.xlateHandle s.cur :=
    State.xlateHandle_congr (s.acting_xl _) (s.acting_store _) (by simpa [State.here] using s.acting_asn (.xlate a))
  intro u r
  simp only [r, u, ← s.acting_sreg (.xlate a), ← hsame]
  exact if_pos h

/-- 01 R25: an XLATE never traps, and its handle is that of `xlateHandle` (R25, R35). -/
theorem saidTranslateResult_holds : saidTranslateResult := by
  intro s a i va d r w hgo
  obtain ⟨hland, hregs, hsregs⟩ := s.launchHandle_here i a.sy (s.inHand i) a.hd (s.xlateHandle s.cur va r w).1
  have hbank := s.here_setBank_acting i
  refine ⟨_, (s.xlateHandle s.cur va r w).1, execXlate_go s a hgo, (congrArg Bank.hland (hbank _)).trans hland,
    (congrArg Bank.h (hbank _)).trans hregs, fun q => (congrArg (Bank.sreg · q) (hbank _)).trans (hsregs q), s.acting_store i,
    fun hva => ?noncanonical, fun hva hheld e big hhit => ?hit, fun hva hmiss => ?miss⟩
  case noncanonical =>
    rw [s.xlateHandle_noncanonical _ _ _ hva]
    exact ⟨rfl, rfl⟩
  case hit =>
    rw [s.xlateHandle_hit _ _ _ hva hheld hhit]
    split
    next hrights => exact makeHandle_granted hva hrights
    next hrights => exact makeHandle_denied va hrights
  case miss =>
    rw [s.xlateHandle_miss _ _ _ hva hmiss]
    exact ⟨rfl, rfl, rfl, rfl, s.xl.startWalk_on d s.here.asn va _ (s.samePage_self ..)⟩

/-! ### HLOCAL, HINV, HGET and HANDLE_LAND (09 R217, R218; 01 R25, R39) -/

/-- The handle of an HLOCAL over a part of its window (09 R217). -/
theorem hlocalHandle_spec (b : Bank) (id : BankId) (w : BitVec 2) (base ext : Word) :
    let h := hlocalHandle b id w base ext
    if base.toNat % 32 ≠ 0 ∨ ext.toNat % 32 ≠ 0 ∨ ext.toNat < 32 ∨ b.windowSize w < base.toNat + ext.toNat then
      h.st = .faulted ∧ h.fkind = 3
    else h.st = .valid ∧ h.isLocal = true ∧ h.size = 2 ∧ h.window = w.setWidth 3 ∧ h.base = BitVec.ofNat 52 base.toNat
      ∧ h.extent = BitVec.ofNat 32 ext.toNat ∧ h.rd = true ∧ h.wr = true ∧ h.gen = 0 ∧ h.unbacked = false
      ∧ h.home.toNat = (dieOf id).val ∧ h.loc = b.windowBase id w + base.toNat := by
  intro h
  have hdie : (BitVec.ofNat 2 (dieOf id).val).toNat = (dieOf id).val := Nat.mod_eq_of_lt (dieOf id).isLt
  split
  next hbad =>
    have hh : h = _ := if_pos hbad
    rw [hh]
    exact ⟨rfl, rfl⟩
  next hok =>
    have hh : h = _ := if_neg hok
    rw [hh]
    exact ⟨rfl, rfl, rfl, rfl, rfl, rfl, rfl, rfl, rfl, rfl, hdie, rfl⟩

theorem hlocalHandle_acting (s : State) (i : Instr) (w : BitVec 2) (base ext : Word) :
    hlocalHandle (s.acting i).here s.cur w base ext = hlocalHandle s.here s.cur w base ext := by
  simp only [hlocalHandle, localHandle, State.acting_windowSize, State.acting_windowBase]

theorem execHlocal_go (s : State) (a : SHlocal) (h : s.sGo (.hlocal a)) :
    let u := s.acting (.hlocal a)
    exec (.hlocal a) s = .next (u.setBank s.cur (u.here.launchHandle a.sy (s.inHand (.hlocal a)) a.hd
      (hlocalHandle s.here s.cur a.win (s.here.sreg a.base) (s.here.sreg a.ext)))) := by
  intro u
  simp only [u, ← hlocalHandle_acting s (.hlocal a), ← s.acting_sreg (.hlocal a)]
  exact if_pos h

/-- 09 R217: an HLOCAL's handle is valid over its part of the window, or faulted with kind 3. -/
theorem saidLocalHandleResult_holds : saidLocalHandleResult := by
  intro s a i b e hgo
  obtain ⟨hland, hregs, hsregs⟩ := s.launchHandle_here i a.sy (s.inHand i) a.hd
    (hlocalHandle s.here s.cur a.win (s.here.sreg a.base) (s.here.sreg a.ext))
  have hbank := s.here_setBank_acting i
  exact ⟨_, _, execHlocal_go s a hgo, (congrArg Bank.hland (hbank _)).trans hland, s.bankOnly_setBank i _,
    fun q => (congrArg (Bank.sreg · q) (hbank _)).trans (hsregs q), (congrArg Bank.h (hbank _)).trans hregs,
    hlocalHandle_spec ..⟩

/-- The latest result on its way to a handle register, or else what the register holds (01 R26). -/
theorem Bank.latestHandle_eq (b : Bank) (r : BitVec 4) :
    b.latestHandle r = ((b.hland.filter fun l => l.reg == r).getLast?.map (·.h)).getD (b.h.get r.toFin) := by
  unfold Bank.latestHandle
  split
  next l hl => rw [hl]; rfl
  next hl => rw [hl]; rfl

theorem execHinv_go (s : State) (a : SHinv) (h : s.sGo (.hinv a)) :
    let u := s.acting (.hinv a)
    exec (.hinv a) s = .next (u.setBank s.cur (u.here.launchHandle a.sy (s.inHand (.hinv a)) a.hd
      { u.here.latestHandle a.hd with st := .invalid })) := if_pos h

/-- 09 R218, 01 R39: an HINV's result is its register's latest handle, invalid. -/
theorem execHinv_result (s : State) (a : SHinv) (hgo : s.sGo (.hinv a)) :
    ∃ t h, exec (.hinv a) s = .next t ∧ t.here.hland = s.here.hland ++ [{ reg := a.hd, h := h, push := a.sy.push }]
      ∧ h = { (((s.here.hland.filter fun l => l.reg == a.hd).getLast?.map (·.h)).getD (s.here.h.get a.hd.toFin)) with st := .invalid }
      ∧ s.bankOnly t ∧ ∀ q, t.here.sreg q = s.here.sreg q := by
  obtain ⟨hland, -, hsregs⟩ := s.launchHandle_here (.hinv a) a.sy (s.inHand (.hinv a)) a.hd
    { (s.acting (.hinv a)).here.latestHandle a.hd with st := .invalid }
  have hbank := s.here_setBank_acting (.hinv a)
  refine ⟨_, _, execHinv_go s a hgo, (congrArg Bank.hland (hbank _)).trans hland, ?_, s.bankOnly_setBank _ _,
    fun q => (congrArg (Bank.sreg · q) (hbank _)).trans (hsregs q)⟩
  rw [Bank.latestHandle_eq, State.acting_hland, State.acting_h]

theorem State.synced_h (s : State) (i : Instr) (sy : Sync) (x : Entry) : ((s.acting i).here.sSync sy x).h = s.here.h := by
  rw [Bank.sSync_frame, State.acting_h]

/-- 09 R218: HGET writes a word of a handle register. -/
theorem execHget_result (s : State) (a : SHget) (hgo : s.sGo (.hget a)) :
    ∃ t, exec (.hget a) s = .next t
      ∧ s.scalarDone t a.rd (if a.word = 0 then (s.here.h.get a.hd.toFin).word0 else (s.here.h.get a.hd.toFin).word1) := by
  have hdone := s.sResult_done (.hget a) a.rd (fun b => if a.word = 0 then (b.h.get a.hd.toFin).word0 else (b.h.get a.hd.toFin).word1) hgo
  simp only [State.synced_h] at hdone
  exact ⟨_, rfl, hdone⟩

/-- 01 R25: HANDLE_LAND writes the oldest result into its register. -/
theorem execHandleLand_result (s : State) (n : BankId) (l : HLand) (rest : List HLand) (hl : (s.bank n).hland = l :: rest) :
    ∃ t, exec (.handleLand n) s = .next t ∧ (t.bank n).hland = rest ∧ (t.bank n).h.get l.reg.toFin = l.h
      ∧ (∀ k, k ≠ l.reg.toFin → (t.bank n).h.get k = (s.bank n).h.get k)
      ∧ (t.bank n).s = (s.bank n).s ∧ t.store = s.store ∧ ∀ m, m ≠ n → t.bank m = s.bank m := by
  have hexec : exec (.handleLand n) s = .next (s.setBank n
      (({ s.bank n with hland := rest, h := (s.bank n).h.set l.reg.toNat l.h l.reg.isLt } : Bank).pushTok .S l.push)) := by
    simp only [exec_handleLand, execHandleLand, hl]
  refine ⟨_, hexec, ?_, ?_, fun k hk => ?_, ?_, rfl, fun m hm => s.bank_setBank_ne _ hm⟩
  all_goals rw [State.bank_setBank, Bank.pushTok_frame]
  · exact (vector_get_set (s.bank n).h l.reg.toNat l.h l.reg.isLt _).trans (if_pos rfl)
  · exact (vector_get_set (s.bank n).h l.reg.toNat l.h l.reg.isLt _).trans (if_neg fun e => hk (Fin.ext e.symm))

/-- 09 R218, 01 R25, R39: HINV, HGET and HANDLE_LAND. -/
theorem saidHandleRegisters_holds : saidHandleRegisters :=
  ⟨execHinv_result, execHget_result, execHandleLand_result⟩

/-- Settles O8: XLATE, HLOCAL, HINV, HGET and HANDLE_LAND, each by what its handle is and what the word leaves as it is. -/
theorem handles : Obligations.Handles :=
  ⟨saidTranslateResult_holds, saidLocalHandleResult_holds, saidHandleRegisters_holds⟩

end Sys2Proof.Machine

/-! ### What leaves translation and the forwarding entries as they are (01 R33, R35; 02 R52) -/

namespace Sys2Proof.Machine

open Sys2Proof

/-- A fold of steps that each keep a part of the state keeps that part. -/
theorem foldl_keeps {σ α β : Type} (part : σ → β) {f : σ → α → σ} (hf : ∀ t x, part (f t x) = part t) (xs : List α) (t : σ) :
    part (xs.foldl f t) = part t := by
  induction xs generalizing t with
  | nil => rfl
  | cons x xs ih => exact (ih _).trans (hf t x)

/-! #### Storage: what a write and a change of check bits leave -/

/-- Where pages are: the pools and the forwarding entries (02 R41, R52). -/
def Store.places (st : Store) : List Pool × List Forward := (st.pools, st.forwards)

@[simp] theorem Store.fillLine_places (st : Store) (line : Nat) : (st.fillLine line).places = st.places := by
  rw [Store.fillLine_frame]; rfl

@[simp] theorem Store.setEcc_places (st : Store) (u : Nat) (x : Option Ecc) : (st.setEcc u x).places = st.places := rfl

@[simp] theorem Store.putAt_places (st : Store) (d : Die) (l : Nat) (bs : List Byte) : (st.putAt d l bs).places = st.places := by
  rw [Store.putAt_frame]; rfl

@[simp] theorem Store.put_places (st : Store) (d : Die) (l : Nat) (bs : List Byte) : (st.put d l bs).places = st.places := by
  unfold Store.put
  simp only []
  split
  · exact st.putAt_places ..
  · refine foldl_keeps Store.places (fun t x => ?_) _ st
    split
    · exact t.putAt_places ..
    · rfl

@[simp] theorem Store.writeEntry_places (st : Store) (addr : Nat) (e : Word) : (st.writeEntry addr e).places = st.places := by
  unfold Store.writeEntry
  split
  · exact st.put_places ..
  all_goals rfl

@[simp] theorem Store.copyFrame_places (st : Store) (src n dst : Nat) : (st.copyFrame src n dst).places = st.places := rfl

@[simp] theorem Store.dropWaits_places (st : Store) (asn : BitVec 12) (base len : Nat) :
    (st.dropWaits asn base len).places = st.places := rfl

theorem Store.seal_places (st : Store) (n : BankId) (rs : List (Nat × Nat)) : (st.seal n rs).places = st.places := st.put_places ..

@[simp] theorem Store.modPool_forwards (st : Store) (d : Die) (n : Nat) (f : Pool → Pool) : (st.modPool d n f).forwards = st.forwards := rfl

@[simp] theorem Store.dropLine_forwards (st : Store) (line : Nat) : (st.dropLine line).forwards = st.forwards := by
  unfold Store.dropLine
  split
  · rfl
  · simp only []
    split <;> rfl

/-! #### The state: what reads that find errors, traffic filters and table writes leave -/

/-- Translation and the forwarding entries. -/
def State.translation (s : State) : Xl × List Forward := (s.xl, s.store.forwards)

theorem State.modStore_translation (s : State) {f : Store → Store} (h : (f s.store).forwards = s.store.forwards) :
    (s.modStore f).translation = s.translation := congrArg (Prod.mk s.xl) h

/-- A change of the storage that leaves where pages are leaves translation. -/
theorem State.translation_of_places {s t : State} (hx : t.xl = s.xl) (h : t.store.places = s.store.places) :
    t.translation = s.translation := by
  have hf : t.store.forwards = s.store.forwards := congrArg Prod.snd h
  exact Prod.ext hx hf

@[simp] theorem State.modGaffer_translation (s : State) (f : Gaffer → Gaffer) : (s.modGaffer f).translation = s.translation := rfl

@[simp] theorem State.report_translation (s : State) (r : Report) : (s.report r).translation = s.translation := rfl

@[simp] theorem State.countQuiet_translation (s : State) (loc : ErrLoc) (w : Nat) : (s.countQuiet loc w).translation = s.translation := rfl

@[simp] theorem State.modDie_translation (s : State) (d : Die) (f : PwrDie → PwrDie) : (s.modDie d f).translation = s.translation := rfl

theorem State.senseHbm_translation (s : State) (u : Nat) : (s.senseHbmBy State.countQuiet u).translation = s.translation := by
  unfold State.senseHbmBy
  split
  · rfl
  · refine (foldl_keeps State.translation (fun t k => ?_) _ _).trans (State.translation_of_places rfl (s.store.fillLine_places _))
    split <;> rfl

theorem State.senseTag_translation (s : State) (d : Die) (line : Nat) :
    (s.senseTagBy State.countQuiet d line).translation = s.translation := by
  have hset (us : List Nat) (st : Store) : (us.foldl (fun st u => st.setEcc u (some .poison)) st).places = st.places :=
    foldl_keeps Store.places (fun t u => t.setEcc_places u _) us st
  unfold State.senseTagBy
  split
  · rfl
  · simp only []
    split
    · rfl
    · refine State.translation_of_places rfl ?_
      split
      · rfl
      · exact hset ..

theorem State.senseHomeTag_translation (s : State) (line : Nat) :
    (s.senseHomeTagBy State.countQuiet line).translation = s.translation := by
  unfold State.senseHomeTagBy
  split
  · rfl
  · split
    · exact s.senseTag_translation ..
    · rfl

theorem State.senseUnit_translation (s : State) (u : Nat) : (s.senseUnitBy State.countQuiet u).translation = s.translation := by
  unfold State.senseUnitBy
  simp only []
  refine Eq.trans ?_ (s.senseHomeTag_translation (s.store.resolve (u * 8) / 8 / 16))
  generalize s.senseHomeTagBy State.countQuiet (s.store.resolve (u * 8) / 8 / 16) = t
  split
  · exact t.senseHbm_translation _
  · rfl
  · split <;> split <;> rfl
  · split
    · split <;> split <;> rfl
    · split <;> rfl

theorem State.senseRange_translation (s : State) (l n : Nat) : (s.senseRange l n).translation = s.translation := by
  unfold State.senseRange
  split
  · rfl
  · exact (foldl_keeps State.translation State.senseHbm_translation _ _).trans
      ((foldl_keeps State.translation State.senseUnit_translation _ _).trans
        (foldl_keeps State.translation (fun t u => t.senseHomeTag_translation (u / 16)) _ s))

theorem State.openLine_translation (s : State) (l : Nat) : (s.openLine l).translation = s.translation :=
  (State.senseHbm_translation _ _).trans (s.senseHomeTag_translation _)

theorem State.logLine_translation (s : State) (h : Die) (req op : Nat) (known : Option Bool) (line : Nat) :
    (s.logLine h req op known line).translation = s.translation := by
  unfold State.logLine
  simp only []
  refine Eq.trans ?_ (s.openLine_translation ((s.gaffer.rings.get h).pa + 16 * (s.gaffer.rings.get h).next))
  split
  · refine State.translation_of_places rfl ?_
    simp only []
    split
    · exact Store.put_places ..
    · rfl
  · exact (s.openLine_translation _).symm

theorem State.traffic_translation (s : State) (req : Die → Nat) (op l n : Nat) : (s.traffic req op l n).translation = s.translation := by
  unfold State.traffic
  simp only []
  split
  · rfl
  · split
    · exact foldl_keeps State.translation (fun t x => t.logLine_translation ..) _ s
    · rfl

theorem State.writeEntry_translation (s : State) (addr : Nat) (e : Word) : (s.writeEntry addr e).translation = s.translation := by
  have hstore (t : State) : (t.modStore fun st => st.writeEntry addr e).translation = t.translation :=
    State.translation_of_places rfl (t.store.writeEntry_places addr e)
  exact (hstore _).trans ((State.traffic_translation ..).trans (s.openLine_translation addr))

theorem State.dropFrame_translation (s : State) (pa : Nat) : (s.dropFrame pa).translation = s.translation := by
  unfold State.dropFrame
  simp only []
  split
  · split <;> rfl
  · split
    · split <;> rfl
    · rfl

/-- The end of pools changes pools and lines alone (02 R429). -/
theorem State.endPools_translation (s : State) : s.endPools.translation = s.translation := by
  unfold State.endPools
  split <;> rfl

theorem Store.giveBack_forwards (st : Store) (f : Forward) : (st.giveBack f).forwards = st.forwards := by
  unfold Store.giveBack
  split
  · rfl
  · exact foldl_keeps Store.forwards (fun t (p : Nat × LineSt) => t.dropLine_forwards p.1) _ st

theorem State.invalidateSaved_translation (s : State) (p : Nat × Bank) (base len : Nat) :
    (s.invalidateSaved p base len).translation = s.translation := by
  unfold State.invalidateSaved
  simp only []
  split
  · rfl
  · exact State.translation_of_places rfl
      ((Store.seal_places ..).trans (foldl_keeps Store.places (fun t k => t.put_places ..) _ s.store))

/-! ### Invalidations (01 R35) -/

/-- The invalidation that a change of leaves of an address space starts on all dies (01 R35 step 1). -/
def State.newInval (s : State) (asn : BitVec 12) (base len : Nat) (pgmig : Option (BankId × Nat)) (old : List Nat) : Inval :=
  { id := s.xl.next, asn := asn, base := base, len := len, dies := [0, 1, 2, 3], pgmig := pgmig, old := old }

/-- What an invalidation does to translation: its entry is the last, and the dies drop what they cached (01 R35 steps 1-3). -/
theorem State.invalidate_translation (s : State) (asn : BitVec 12) (base len : Nat) (pgmig : Option (BankId × Nat)) (old : List Nat) :
    let t := s.invalidate asn base len pgmig old
    t.xl.invals = s.xl.invals ++ [s.newInval asn base len pgmig old] ∧ t.xl.next = s.xl.next + 1 ∧ t.xl.roots = s.xl.roots
      ∧ t.store.forwards = s.store.forwards := by
  intro t
  obtain ⟨u, hu⟩ : ∃ u : State, t.translation = u.translation ∧ u.xl.invals = s.xl.invals ++ [s.newInval asn base len pgmig old]
      ∧ u.xl.next = s.xl.next + 1 ∧ u.xl.roots = s.xl.roots ∧ u.store.forwards = s.store.forwards := by
    refine ⟨_, foldl_keeps State.translation (fun v p => ?_) _ _, rfl, rfl, rfl, rfl⟩
    split
    · exact v.invalidateSaved_translation ..
    · rfl
  obtain ⟨ht, hi, hn, hr, hf⟩ := hu
  have hx : t.xl = u.xl := congrArg Prod.fst ht
  exact ⟨hx ▸ hi, hx ▸ hn, hx ▸ hr, (congrArg Prod.snd ht).trans hf⟩

/-- An invalidation has been reported by all dies: neither it nor a forwarding entry that waits for it stands, and its number is not
given again (01 R35 step 6; 02 R52 step 7). -/
structure State.Reported (s : State) (id : Nat) : Prop where
  invals : ∀ j ∈ s.xl.invals, j.id ≠ id
  forwards : ∀ f ∈ s.store.forwards, f.inval ≠ id
  next : id < s.xl.next

theorem State.Reported.of_translation {s t : State} {id : Nat} (h : s.Reported id) (ht : t.translation = s.translation) : t.Reported id := by
  have hx : t.xl = s.xl := congrArg Prod.fst ht
  have hf : t.store.forwards = s.store.forwards := congrArg Prod.snd ht
  exact ⟨hx ▸ h.invals, hf ▸ h.forwards, hx ▸ h.next⟩

theorem State.Reported.foldl {α : Type} {f : State → α → State} {id : Nat} (hf : ∀ t x, t.Reported id → (f t x).Reported id)
    (xs : List α) {s : State} (h : s.Reported id) : (xs.foldl f s).Reported id := by
  induction xs generalizing s with
  | nil => exact h
  | cons x xs ih => exact ih (hf s x h)

/-- A later invalidation has another number. -/
theorem State.Reported.invalidate {s : State} {id : Nat} (h : s.Reported id) (asn : BitVec 12) (base len : Nat)
    (pgmig : Option (BankId × Nat)) (old : List Nat) : (s.invalidate asn base len pgmig old).Reported id := by
  obtain ⟨hi, hn, -, hf⟩ := s.invalidate_translation asn base len pgmig old
  refine ⟨fun j hj => ?_, hf ▸ h.forwards, hn ▸ Nat.lt_succ_of_lt h.next⟩
  rw [hi, List.mem_append, List.mem_singleton] at hj
  obtain hj | rfl := hj
  · exact h.invals j hj
  · exact (Nat.ne_of_lt h.next).symm

theorem State.Reported.movePage {s : State} {id : Nat} (h : s.Reported id) (pa : Nat) (big : Bool) (ls : List LeafRef) :
    (s.movePage pa big ls).Reported id := by
  unfold State.movePage
  split
  · exact h
  · split
    · exact h
    · refine State.Reported.foldl (fun t l ht => ht.invalidate ..) ls (h.of_translation ?_)
      refine (foldl_keeps State.translation (fun t l => t.writeEntry_translation ..) ls _).trans ?_
      exact (State.modStore_translation _ rfl).trans ((State.traffic_translation ..).trans
        ((State.traffic_translation ..).trans (s.senseRange_translation ..)))

theorem State.Reported.retireFrame {s : State} {id : Nat} (h : s.Reported id) (pa : Nat) : (s.retireFrame pa).Reported id := by
  unfold State.retireFrame
  exact State.Reported.foldl (fun t p ht => ht.movePage ..) _ (h.of_translation (s.dropFrame_translation pa))

theorem State.Reported.retryMoves {s : State} {id : Nat} (h : s.Reported id) : s.retryMoves.Reported id := by
  refine State.Reported.foldl (fun t r ht => ?_) _ h
  split
  · exact ht.retireFrame _
  all_goals exact ht

/-- The end of an invalidation leaves neither it nor a forwarding entry that waits for it (01 R35 step 6; 02 R52 step 7). -/
theorem State.invalDone_reported (s : State) (i : Inval) (h : i.id < s.xl.next) : (s.invalDone i).Reported i.id := by
  unfold State.invalDone
  simp only []
  refine State.Reported.of_translation (State.Reported.retryMoves ?_) (State.endPools_translation _)
  have hfwd (fs : List Forward) (st : Store) : (fs.foldl Store.giveBack st).forwards = st.forwards :=
    foldl_keeps Store.forwards Store.giveBack_forwards fs st
  generalize hs1 : ({ s with xl := _, store := _ } : State) = s1
  have h1 : s1.Reported i.id := by
    subst hs1
    refine ⟨fun j hj => ?_, fun f hf => ?_, h⟩
    · simpa using (List.mem_filter.mp hj).2
    · rw [hfwd] at hf
      simpa using (List.mem_filter.mp hf).2
  split
  · exact h1
  · exact h1.of_translation rfl

end Sys2Proof.Machine

/-! ### Translation events where nothing is logged and no error is stored (20 R423; 03 R85) -/

namespace Sys2Proof.Machine

open Sys2Proof

theorem State.traffic_off (s : State) (req : Die → Nat) (op l n : Nat) (h : s.filtersOff) : s.traffic req op l n = s := by
  unfold State.traffic
  simp only [h _]
  split <;> rfl

theorem State.openLine_clean (s : State) (l : Nat) (h : s.store.clean = true) : s.openLine l = s := by
  simp only [Store.clean, Bool.and_eq_true] at h
  obtain ⟨⟨⟨-, hhbm⟩, htag⟩, -⟩ := h
  simp only [State.openLine, State.senseHomeTagBy, State.senseHbmBy, htag, hhbm, Bool.true_or, if_true]

theorem State.writeEntry_off (s : State) (addr : Nat) (e : Word) (hf : s.filtersOff) (hc : s.store.clean = true) :
    s.writeEntry addr e = s.modStore fun st => st.writeEntry addr e := by
  rw [State.writeEntry, s.openLine_clean addr hc, s.traffic_off _ _ _ _ hf]

/-- The reads of a walk find no error and are not logged. -/
theorem State.readWalk_off (s : State) (d : Die) (asn : BitVec 12) (va : Nat) (hf : s.filtersOff) (hc : s.store.clean = true) :
    s.readWalk d asn va = s := by
  have hnone : (List.finRange 4).any s.gaffer.filtersOn = false := by simp [hf _]
  have hread (req : Die → Nat) (a : Nat) : (s.sense a 8).traffic req 7 a 8 = s := by
    rw [s.sense_clean a 8 hc, s.traffic_off _ _ _ _ hf]
  unfold State.readWalk
  simp only [hnone, Bool.false_eq_true, if_false]
  exact List.foldl_fixed' (hread _) _

/-! ### WALK_COMPLETE (01 R24, R27) -/

@[simp] theorem State.bank_mapBanks (s : State) (f : Bank → Bank) (n : BankId) : (s.mapBanks f).bank n = f (s.bank n) :=
  vector_get_map ..

/-- A walk's end fills the die's caches, and its result goes to every bank (01 R24, R27). -/
theorem execWalkComplete_go (s : State) (tag : Nat) (w : Walk) (rest : List Walk)
    (hw : takeFirst (fun v => v.tag == tag) s.xl.walks = some (w, rest)) (hheld : s.xl.heldBy w.die w.asn w.va.toNat = false)
    (hf : s.filtersOff) (hc : s.store.clean = true) :
    ∃ dtc ptrs, exec (.walkComplete tag) s = .next ({ s with xl := { s.xl with walks := rest, dtc := dtc, ptrs := ptrs } }.mapBanks
      fun b => b.walked tag (s.walkVa w.die w.asn w.va.toNat).1) := by
  simp only [exec_walkComplete, execWalkComplete, hw, hheld, s.readWalk_off _ _ _ hf hc, Bool.false_eq_true, if_false]
  exact ⟨_, _, rfl⟩

/-- 01 R24, R27: every handle that is pending on a walk gets its result, and the other handles stay. -/
theorem walkComplete_handles (s : State) (tag : Nat) (w : Walk) (rest : List Walk)
    (hw : takeFirst (fun v => v.tag == tag) s.xl.walks = some (w, rest)) (hheld : s.xl.heldBy w.die w.asn w.va.toNat = false)
    (hf : s.filtersOff) (hc : s.store.clean = true) :
    ∃ t, exec (.walkComplete tag) s = .next t ∧ t.xl.walks = rest ∧ t.store = s.store
      ∧ ∀ (n : BankId) (r : Fin 16), let h := (s.bank n).h.get r
        (t.bank n).h.get r = if h.st = .pending ∧ h.tag = tag then
          makeHandle (s.walkVa w.die w.asn w.va.toNat).1 h.reqR h.reqW h.va else h := by
  obtain ⟨dtc, ptrs, hexec⟩ := execWalkComplete_go s tag w rest hw hheld hf hc
  refine ⟨_, hexec, rfl, rfl, fun n r => ?_⟩
  rw [State.bank_mapBanks]
  exact vector_get_map ..

/-! ### INVALIDATION_RELEASE (01 R35 step 6) -/

/-- What replaces the first member is found in its place. -/
theorem find?_modFirst {α : Type} (p : α → Bool) (xs : List α) {x y : α} (hx : xs.find? p = some x) (hy : p y = true) :
    (modFirst p (fun _ => y) xs).find? p = some y := by
  induction xs with
  | nil => cases hx
  | cons z zs ih =>
    unfold modFirst
    split
    next hz => rw [List.find?_cons_of_pos hy]
    next hz =>
      rw [List.find?_cons_of_neg hz] at hx ⊢
      exact ih hx

/-- A die whose accesses of the range are complete reports, and the last report ends the invalidation (01 R35 step 6). -/
theorem invalidationRelease_reports (s : State) (d : Die) (i : Inval) (hfind : (s.xl.invals.find? fun j => j.id == i.id) = some i)
    (hd : d ∈ i.dies) (hreach : s.dieReaches d i.asn i.base i.len = false) (hnext : i.id < s.xl.next) :
    ∃ t, exec (.invalidationRelease d i.id) s = .next t
      ∧ ((∃ e ∈ i.dies, e ≠ d) → (t.xl.invals.find? fun j => j.id == i.id) = some { i with dies := i.dies.filter (· != d) })
      ∧ ((∀ e ∈ i.dies, e = d) → (∀ j ∈ t.xl.invals, j.id ≠ i.id) ∧ ∀ f ∈ t.store.forwards, f.inval ≠ i.id) := by
  have hgo : (!i.dies.contains d || s.dieReaches d i.asn i.base i.len) = false := by simp [hd, hreach]
  have hlast : (i.dies.filter (· != d)).isEmpty = true ↔ ∀ e ∈ i.dies, e = d := by simp [List.filter_eq_nil_iff]
  have hexec : exec (.invalidationRelease d i.id) s = if (i.dies.filter (· != d)).isEmpty then .next (s.invalDone i)
      else .next { s with xl := { s.xl with
        invals := modFirst (fun k => k.id == i.id) (fun _ => { i with dies := i.dies.filter (· != d) }) s.xl.invals } } := by
    simp only [exec_invalidationRelease, execInvalidationRelease, hfind, hgo, Bool.false_eq_true, if_false]
  by_cases hall : ∀ e ∈ i.dies, e = d
  · rw [if_pos (hlast.mpr hall)] at hexec
    have hrep := s.invalDone_reported i hnext
    exact ⟨_, hexec, fun ⟨e, he, hne⟩ => absurd (hall e he) hne, fun _ => ⟨hrep.invals, hrep.forwards⟩⟩
  · rw [if_neg (mt hlast.mp hall)] at hexec
    exact ⟨_, hexec, fun _ => find?_modFirst _ _ hfind (beq_self_eq_true _), fun h => absurd h hall⟩

/-! ### PAGE_TABLE_CHANGE (01 R12, R19, R33, R35; 02 R42, R429, R430) -/

theorem State.changeWaits_still (s : State) (asn : BitVec 12) (va : Word) (level : BitVec 2) (hl : s.store.locks = [])
    (hf : s.store.forwards = []) : s.changeWaits asn va level = false := by
  simp [State.changeWaits, hl, hf]

theorem State.firstValid_noneListed (s : State) (ls : List LeafRef) (h : s.noneListed ls) : s.firstValid ls = s := by
  have hnil : (ls.filter fun r => leafU r.e && !(s.store.linesIn (leafLoc r.e) (pageSize r.big)).isEmpty) = [] := by
    refine List.filter_eq_nil_iff.mpr fun r hr hu => ?_
    rw [Bool.and_eq_true] at hu
    simp [h r hr hu.1] at hu
  unfold State.firstValid
  simp only [hnil, List.isEmpty_nil, if_true]

theorem State.endPools_standing (s : State) (h : ∀ p ∈ s.store.pools, p.withdrawn = false) : s.endPools = s := by
  have hall : (s.store.pools.all fun p => !p.withdrawn) = true := by simpa using h
  rw [State.endPools, if_pos hall]

/-- With no task saved, an invalidation changes of the storage the waits of launches in its range (01 R35, R36). -/
theorem State.invalidate_store (s : State) (asn : BitVec 12) (base len : Nat) (pgmig : Option (BankId × Nat)) (old : List Nat)
    (h : s.frames = []) : (s.invalidate asn base len pgmig old).store = s.store.dropWaits asn base len := by
  unfold State.invalidate
  simp only [State.mapBanks, h, List.foldl_nil]

theorem State.invalidate_new (s : State) (asn : BitVec 12) (base len : Nat) (pgmig : Option (BankId × Nat)) (old : List Nat) :
    s.newInval asn base len pgmig old ∈ (s.invalidate asn base len pgmig old).xl.invals := by
  rw [(s.invalidate_translation asn base len pgmig old).1]
  exact List.mem_append_right _ (List.mem_singleton_self _)

/-- The addresses that an entry of a level covers: how many, and the first of them (01 R16). -/
abbrev entrySpan (level : BitVec 2) : Nat := 2 ^ (4 + 12 * level.toNat)

abbrev entryBase (va : Word) (level : BitVec 2) : Nat := va.toNat / entrySpan level * entrySpan level

/-- The state after the change of the entry at `addr`, which read `old`, with its invalidation where the change needs one (01 R33). -/
def State.entryChanged (s : State) (asn : BitVec 12) (va : Word) (level : BitVec 2) (e : Word) (addr : Nat) (old : Word) : State :=
  let s1 := s.modStore fun st => st.writeEntry addr (entryWritten level.toNat old e)
  if needsInvalidation level.toNat old e then
    s1.invalidate asn (entryBase va level) (entrySpan level) none (s.unbackedOf asn va level) else s1

section

variable {s : State} {asn : BitVec 12} {va : Word} {level : BitVec 2} {e : Word} {root : BitVec 12 × Nat} {addr : Nat} {old : Word}

/-- The storage and the invalidations after the change of an entry (01 R33, R35). -/
theorem State.entryChanged_store (h : needsInvalidation level.toNat old e = true) (hframes : s.frames = []) :
    (s.entryChanged asn va level e addr old).store
      = (s.store.writeEntry addr (entryWritten level.toNat old e)).dropWaits asn (entryBase va level) (entrySpan level) := by
  rw [State.entryChanged, if_pos h]
  exact State.invalidate_store _ _ _ _ _ _ hframes

theorem State.entryChanged_invals (h : needsInvalidation level.toNat old e = true) :
    s.newInval asn (entryBase va level) (entrySpan level) none (s.unbackedOf asn va level)
      ∈ (s.entryChanged asn va level e addr old).xl.invals := by
  rw [State.entryChanged, if_pos h]
  exact State.invalidate_new ..

theorem State.entryChanged_plain (h : needsInvalidation level.toNat old e = false) :
    s.entryChanged asn va level e addr old = s.modStore fun st => st.writeEntry addr (entryWritten level.toNat old e) := by
  rw [State.entryChanged, if_neg (Bool.eq_false_iff.mp h)]

theorem State.entryChanged_pools (hframes : s.frames = []) : (s.entryChanged asn va level e addr old).store.pools = s.store.pools := by
  have hwrite : (s.store.writeEntry addr (entryWritten level.toNat old e)).pools = s.store.pools :=
    congrArg Prod.fst (s.store.writeEntry_places ..)
  cases h : needsInvalidation level.toNat old e with
  | true => rw [State.entryChanged_store h hframes]; exact hwrite
  | false => rw [State.entryChanged_plain h]; exact hwrite

/-- The leaves that such a change replaces are those under the entry. -/
theorem State.leavesOf_entry (h0 : level ≠ 0) (hroot : (s.xl.roots.find? fun r => r.1 == asn) = some root)
    (hentry : s.store.entryAt va.toNat level.toNat 3 root.2 = some (addr, old)) :
    s.leavesOf asn va level = s.store.leavesUnder asn (entryBase va level) level.toNat old := by
  simp only [State.leavesOf, if_neg h0, hroot, hentry]

/-- A change that replaces a leaf of a page that moves waits (02 R430). -/
theorem State.changeWaits_moving {r : LeafRef} (hr : r ∈ s.leavesOf asn va level) (hm : s.store.moving r.e = true) :
    s.changeWaits asn va level = true := by
  have hbusy : (s.store.locks.isEmpty && s.store.forwards.isEmpty) = false := by
    refine Bool.eq_false_iff.mpr fun hidle => ?_
    simp only [Bool.and_eq_true, List.isEmpty_iff] at hidle
    simp [Store.moving, Store.locked, hidle.1, hidle.2] at hm
  simp only [State.changeWaits, hbusy, Bool.not_false, Bool.true_and, List.any_eq_true]
  exact ⟨r, hr, hm⟩

/-- The change of an entry of a table: it is refused, it waits, or it is written (01 R33; 02 R429, R430). -/
theorem execPageTableChange_entry (h0 : level ≠ 0) (hroot : (s.xl.roots.find? fun r => r.1 == asn) = some root)
    (hentry : s.store.entryAt va.toNat level.toNat 3 root.2 = some (addr, old)) (ls : List LeafRef)
    (hls : ls = s.store.leavesUnder asn (entryBase va level) level.toNat e) :
    exec (.pageTableChange asn va level e) s =
      if s.entryRefused asn e ls then .next (s.report (.refused refusedCode))
      else if s.changeWaits asn va level then .next s
      else .next (if needsInvalidation level.toNat old e then
          ((s.firstValid ls).writeEntry addr (entryWritten level.toNat old e)).invalidate asn (entryBase va level) (entrySpan level) none
            (s.unbackedOf asn va level)
        else (s.firstValid ls).writeEntry addr (entryWritten level.toNat old e)).endPools := by
  subst hls
  simp only [exec_pageTableChange, execPageTableChange, if_neg h0, hroot, Option.bind_some, hentry]

/-- 01 R33: an entry that is written, with its invalidation where the change needs one. -/
theorem pageTableChange_written (h0 : level ≠ 0) (hroot : (s.xl.roots.find? fun r => r.1 == asn) = some root)
    (hentry : s.store.entryAt va.toNat level.toNat 3 root.2 = some (addr, old))
    (hok : s.entryRefused asn e (s.store.leavesUnder asn (entryBase va level) level.toNat e) = false)
    (hlocks : s.store.locks = []) (hfwd : s.store.forwards = []) (hframes : s.frames = [])
    (hpools : ∀ p ∈ s.store.pools, p.withdrawn = false)
    (hlisted : s.noneListed (s.store.leavesUnder asn (entryBase va level) level.toNat e))
    (hoff : s.filtersOff) (hclean : s.store.clean = true) :
    exec (.pageTableChange asn va level e) s = .next (s.entryChanged asn va level e addr old) := by
  have hstay : (s.entryChanged asn va level e addr old).endPools = s.entryChanged asn va level e addr old :=
    State.endPools_standing _ (by rw [State.entryChanged_pools hframes]; exact hpools)
  rw [execPageTableChange_entry h0 hroot hentry _ rfl, hok, if_neg Bool.false_ne_true,
    s.changeWaits_still asn va level hlocks hfwd, if_neg Bool.false_ne_true, s.firstValid_noneListed _ hlisted,
    s.writeEntry_off addr _ hoff hclean, ← hstay]
  rfl

/-- 02 R429, 20 R416: an entry that would bring in a leaf that is not allowed is refused. -/
theorem pageTableChange_refused (h0 : level ≠ 0) (hroot : (s.xl.roots.find? fun r => r.1 == asn) = some root)
    (hentry : s.store.entryAt va.toNat level.toNat 3 root.2 = some (addr, old))
    (hbad : s.entryRefused asn e (s.store.leavesUnder asn (entryBase va level) level.toNat e) = true) :
    exec (.pageTableChange asn va level e) s = .next (s.report (.refused refusedCode)) := by
  rw [execPageTableChange_entry h0 hroot hentry _ rfl, if_pos hbad]

/-- 02 R430: a change of a page whose conversion or move is not over is not made, and its request waits. -/
theorem pageTableChange_waits (h0 : level ≠ 0) (hroot : (s.xl.roots.find? fun r => r.1 == asn) = some root)
    (hentry : s.store.entryAt va.toNat level.toNat 3 root.2 = some (addr, old))
    (hok : s.entryRefused asn e (s.store.leavesUnder asn (entryBase va level) level.toNat e) = false)
    (hmoving : ∃ r ∈ s.store.leavesUnder asn (entryBase va level) level.toNat old, s.store.moving r.e = true) :
    exec (.pageTableChange asn va level e) s = .next s ∧ s.answerable (.pageTableChange asn va level e) = false := by
  obtain ⟨r, hr, hm⟩ := hmoving
  have hwaits : s.changeWaits asn va level = true :=
    State.changeWaits_moving (by rw [State.leavesOf_entry h0 hroot hentry]; exact hr) hm
  refine ⟨?_, congrArg (!·) hwaits⟩
  rw [execPageTableChange_entry h0 hroot hentry _ rfl, hok, if_neg Bool.false_ne_true, if_pos hwaits]

end

/-! #### Level 0: the root (log entry 12) -/

/-- An address space with the root table at `pa`. -/
def State.withRoot (s : State) (asn : BitVec 12) (pa : Nat) : State :=
  { s with xl := { s.xl with roots := (asn, pa) :: s.xl.roots.filter fun r => r.1 != asn } }

theorem execPageTableChange_root (s : State) (asn : BitVec 12) (va e : Word)
    (hok : s.entryRefused asn 0 (s.store.leavesFrom asn 3 (entryPa e) 0) = false) (hwaits : s.changeWaits asn va 0 = false) :
    exec (.pageTableChange asn va 0 e) s = .next (s.setRoot asn e) := by
  simp only [exec_pageTableChange, execPageTableChange, hok, hwaits, Bool.and_false, Bool.false_eq_true, if_true, if_false]

/-- A root that is assigned, with an invalidation of all addresses where one stood (01 R12, R33). -/
theorem State.setRoot_assigned (s : State) (asn : BitVec 12) {e : Word} (he : e ≠ 0)
    (hlisted : s.noneListed (s.store.leavesFrom asn 3 (entryPa e) 0)) :
    s.setRoot asn e = (if (s.xl.roots.find? fun r => r.1 == asn).isSome then
      (s.withRoot asn (entryPa e)).invalidate asn 0 (2 ^ 52) none (s.unbackedOf asn 0 0) else s.withRoot asn (entryPa e)).endPools := by
  simp only [State.setRoot, if_neg he, s.firstValid_noneListed _ hlisted, List.isSome_find?]
  rfl

/-- 01 R12, R33: level 0 assigns the root, and the leaves of one that stood go through an invalidation. -/
theorem pageTableChange_assigns (s : State) (asn : BitVec 12) (va e : Word) (he : e ≠ 0) :
    let ls := s.store.leavesFrom asn 3 (entryPa e) 0
    s.entryRefused asn 0 ls = false → s.store.locks = [] → s.store.forwards = [] → s.frames = [] →
    (∀ p ∈ s.store.pools, p.withdrawn = false) → s.noneListed ls →
    let had := (s.xl.roots.find? fun r => r.1 == asn).isSome
    ∃ t, exec (.pageTableChange asn va 0 e) s = .next t ∧ t.store = (if had then s.store.dropWaits asn 0 (2 ^ 52) else s.store)
      ∧ (t.xl.roots.find? fun r => r.1 == asn) = some (asn, entryPa e)
      ∧ (had = true → ∃ v ∈ t.xl.invals, v.id = s.xl.next ∧ v.asn = asn ∧ v.base = 0 ∧ v.len = 2 ^ 52 ∧ v.dies = [0, 1, 2, 3]) := by
  intro ls hok hlocks hfwd hframes hpools hlisted had
  have hexec := execPageTableChange_root s asn va e hok (s.changeWaits_still asn va 0 hlocks hfwd)
  rw [s.setRoot_assigned asn he hlisted] at hexec
  have hfound : ((s.withRoot asn (entryPa e)).xl.roots.find? fun r => r.1 == asn) = some (asn, entryPa e) :=
    List.find?_cons_of_pos (beq_self_eq_true asn)
  cases hhad : had with
  | true =>
    simp only [had] at hhad
    rw [hhad, if_pos rfl] at hexec
    have hstore := (s.withRoot asn (entryPa e)).invalidate_store asn 0 (2 ^ 52) none (s.unbackedOf asn 0 0) hframes
    have hroots := ((s.withRoot asn (entryPa e)).invalidate_translation asn 0 (2 ^ 52) none (s.unbackedOf asn 0 0)).2.2.1
    rw [State.endPools_standing _ (by rw [hstore]; exact hpools)] at hexec
    exact ⟨_, hexec, hstore, by rw [hroots]; exact hfound, fun _ => ⟨_, State.invalidate_new .., rfl, rfl, rfl, rfl, rfl⟩⟩
  | false =>
    simp only [had] at hhad
    rw [hhad, if_neg Bool.false_ne_true, State.endPools_standing (s.withRoot asn (entryPa e)) hpools] at hexec
    exact ⟨_, hexec, rfl, hfound, fun h => absurd h (by decide)⟩

/-- Settles O34: walks end in handles, invalidations in reports, and table changes in entries and invalidations. -/
theorem translationEvents : Obligations.TranslationEvents := by
  intro s
  refine ⟨walkComplete_handles s, invalidationRelease_reports s, ?entry, pageTableChange_assigns s⟩
  case entry =>
    intro asn va level e h0 root addr old hroot hentry len base ls i
    refine ⟨fun hok hlocks hfwd hframes hpools hlisted hoff hclean => ?written, fun hbad => ?refused, fun hok hmoving => ?waits⟩
    case written =>
      refine ⟨_, pageTableChange_written h0 hroot hentry hok hlocks hfwd hframes hpools hlisted hoff hclean, fun hneed => ?_, fun hneed => ?_⟩
      · exact ⟨State.entryChanged_store hneed hframes, _, State.entryChanged_invals hneed, rfl, rfl, rfl, rfl, rfl⟩
      · rw [State.entryChanged_plain hneed]
        exact ⟨rfl, rfl⟩
    case refused =>
      exact ⟨_, pageTableChange_refused h0 hroot hentry hbad, rfl, rfl, List.mem_append_right _ (List.mem_singleton_self _)⟩
    case waits => exact pageTableChange_waits h0 hroot hentry hok hmoving

end Sys2Proof.Machine

/-! ### What steps go on (19 R403; log entry 66): every meaning but that of an access by physical address -/

namespace Sys2Proof.Machine

open Sys2Proof

/-- A meaning neither stops nor is refused. -/
inductive Goes : Out → Prop where
  | next {t : State} : Goes (.next t)

theorem Goes.ite {c : Prop} [Decidable c] {a b : Out} (ha : Goes a) (hb : Goes b) : Goes (if c then a else b) := by
  split
  · exact ha
  · exact hb

theorem Goes.not_refused {o : Out} (h : Goes o) (r : Refusal) : o ≠ .refused r := by
  cases h
  simp

theorem Goes.not_fault {o : Out} (h : Goes o) (f : Fault) : o ≠ .fault f := by
  cases h
  simp

/-! #### Words of programs -/

theorem execLoopb_goes (a : SLoop) (s : State) : Goes (execLoopb a s) := .ite .next .next

theorem execCrd_goes (a : SCrd) (s : State) : Goes (execCrd a s) := by
  unfold execCrd
  dsimp only
  split
  · exact .next
  · exact .ite .next .next

theorem execTrap_goes (a : STrap) (s : State) : Goes (execTrap a s) := .ite .next .next

theorem execEret_goes (a : S0) (s : State) : Goes (execEret a s) := by
  unfold execEret
  dsimp only
  split
  · exact .next
  · refine .ite ?_ .next
    split <;> exact .next

theorem execWaitev_goes (a : SWait) (s : State) : Goes (execWaitev a s) := .ite .next .next

theorem execEndt_goes (a : S0) (s : State) : Goes (execEndt a s) := .ite .next .next

theorem execYield_goes (a : S0) (s : State) : Goes (execYield a s) := by
  refine .ite (.ite .next ?_) .next
  dsimp only
  split <;> exact .next

theorem execXlate_goes (a : SXlate) (s : State) : Goes (execXlate a s) := .ite .next .next

theorem execHlocal_goes (a : SHlocal) (s : State) : Goes (execHlocal a s) := .ite .next .next

theorem execHinv_goes (a : SHinv) (s : State) : Goes (execHinv a s) := .ite .next .next

theorem execPwracq_goes (a : SRr) (s : State) : Goes (execPwracq a s) := .ite (.ite .next .next) .next

theorem execPwrrel_goes (a : S0) (s : State) : Goes (execPwrrel a s) := .ite .next .next

theorem execSlotwait_goes (a : SRr) (s : State) : Goes (execSlotwait a s) := by
  refine .ite ?_ .next
  split
  · exact .next
  · exact .ite .next .next
  all_goals exact .next

theorem execCtxq_goes (a : SRrr) (s : State) : Goes (execCtxq a s) := by
  refine .ite ?_ .next
  split <;> exact .next

theorem execAfadd_goes (a : Atom) (s : State) : Goes (execAfadd a s) := .ite .next .next

theorem execWltake_goes (a : Atom) (s : State) : Goes (execWltake a s) := by
  unfold execWltake
  dsimp only
  split
  · split
    · exact .ite .next (.ite .next .next)
    · exact .next
  · exact .next

/-! #### Events of a bank -/

theorem execWordDispatch_goes (n : BankId) (s : State) : Goes (execWordDispatch n s) := by
  unfold execWordDispatch
  split
  · exact .next
  · split <;> exact .next

theorem execIllegalWord_goes (n : BankId) (e : Engine) (s : State) : Goes (execIllegalWord n e s) := by
  unfold execIllegalWord
  dsimp only
  split
  · split
    · exact .ite .next .next
    all_goals exact .next
  · exact .next

theorem execFetchFault_goes (n : BankId) (s : State) : Goes (execFetchFault n s) := by
  unfold execFetchFault
  dsimp only
  split
  · split
    · exact .ite .next .next
    all_goals exact .next
  · exact .next

theorem execRotateEntry_goes (n : BankId) (s : State) : Goes (execRotateEntry n s) := by
  unfold execRotateEntry
  dsimp only
  split
  · split
    · exact .ite .next .next
    all_goals exact .next
  · exact .next

theorem execWaitevDeadline_goes (n : BankId) (s : State) : Goes (execWaitevDeadline n s) := by
  unfold execWaitevDeadline
  dsimp only
  split
  · split
    · exact .ite (execWaitev_goes ..) .next
    · exact .next
  · exact .next

theorem execCtxqAnswer_goes (n : BankId) (s : State) : Goes (execCtxqAnswer n s) := by
  unfold execCtxqAnswer
  dsimp only
  split <;> exact .next

theorem execHandleLand_goes (n : BankId) (s : State) : Goes (execHandleLand n s) := by
  unfold execHandleLand
  dsimp only
  split <;> exact .next

theorem execCWriteLand_goes (n : BankId) (s : State) : Goes (execCWriteLand n s) := .ite .next .next

theorem execLateLoadArrival_goes (n : BankId) (s : State) : Goes (execLateLoadArrival n s) := .ite .next .next

theorem execKstepWrite_goes (n : BankId) (s : State) : Goes (execKstepWrite n s) := .ite .next .next

theorem execCopyRowIssue_goes (n : BankId) (e : Engine) (s : State) : Goes (execCopyRowIssue n e s) := by
  unfold execCopyRowIssue
  split
  · exact .next
  · exact .ite .next .next

theorem execOperationComplete_goes (b : BankId) (uid : Nat) (s : State) : Goes (execOperationComplete b uid s) := by
  unfold execOperationComplete
  split
  · exact .next
  · split
    · exact .next
    · exact .ite .next .next

theorem execFabricCompletionError_goes (n : BankId) (uid reason : Nat) (s : State) : Goes (execFabricCompletionError n uid reason s) := by
  unfold execFabricCompletionError
  dsimp only
  split
  · refine .ite ?_ .next
    split
    · exact .next
    · split <;> exact .next
  · split <;> exact .next

theorem execAllocationAnswer_goes (b : BankId) (s : State) : Goes (execAllocationAnswer b s) := by
  unfold execAllocationAnswer
  split
  · exact .next
  · split
    · exact .ite .next (.ite .next (.ite .next (.ite .next (.ite .next .next))))
    · exact .next

theorem execLateFrameConversion_goes (b : BankId) (s : State) : Goes (execLateFrameConversion b s) := by
  unfold execLateFrameConversion
  split
  · exact .next
  · split
    · refine .ite .next ?_
      split <;> exact .next
    · exact .next

theorem execDrainComplete_goes (n : BankId) (s : State) : Goes (execDrainComplete n s) := by
  unfold execDrainComplete
  dsimp only
  split
  · exact .next
  · split
    · exact .next
    · split
      · exact .next
      · split <;> exact .next
    all_goals exact .next

theorem execPreemptionSaveEnd_goes (n : BankId) (s : State) : Goes (execPreemptionSaveEnd n s) := by
  refine .ite .next ?_
  split <;> exact .next

theorem execRestore_goes (n : BankId) (s : State) : Goes (execRestore n s) := by
  unfold execRestore
  dsimp only
  split
  · split
    · exact .next
    · split
      · exact .next
      · split
        · exact .next
        · split
          · split <;> exact .next
          · split <;> exact .next
  · exact .next

/-! #### Translation, pools and remote lines -/

theorem execWalkComplete_goes (tag : Nat) (s : State) : Goes (execWalkComplete tag s) := by
  unfold execWalkComplete
  split
  · exact .next
  · exact .ite .next .next

theorem execInvalidationRelease_goes (d : Die) (id : Nat) (s : State) : Goes (execInvalidationRelease d id s) := by
  unfold execInvalidationRelease
  split
  · exact .next
  · exact .ite .next (.ite .next .next)

theorem execPageTableChange_goes (asn : BitVec 12) (va : Word) (level : BitVec 2) (e : Word) (s : State) :
    Goes (execPageTableChange asn va level e s) := by
  refine .ite (.ite .next (.ite .next .next)) ?_
  split
  · exact .next
  · exact .ite .next (.ite .next .next)

theorem execPoolCreate_goes (d : Die) (pool : BitVec 8) (parms : PoolParms) (s : State) : Goes (execPoolCreate d pool parms s) :=
  .ite .next .next

theorem execPoolSetLimit_goes (d : Die) (pool : BitVec 8) (limit : Nat) (s : State) : Goes (execPoolSetLimit d pool limit s) :=
  .ite .next .next

theorem execPoolWithdraw_goes (d : Die) (pool : BitVec 8) (s : State) : Goes (execPoolWithdraw d pool s) := .ite .next .next

theorem execRemoteFill_goes (d : Die) (line : Nat) (s : State) : Goes (execRemoteFill d line s) := by
  unfold execRemoteFill
  split <;> exact .next

/-! #### Launches -/

theorem execFhintHoldExpiry_goes (d : Die) (id : Nat) (s : State) : Goes (execFhintHoldExpiry d id s) := by
  unfold execFhintHoldExpiry
  split
  · exact .next
  · exact .ite .next .next

theorem execLaunchAgeing_goes (d : Die) (id : Nat) (s : State) : Goes (execLaunchAgeing d id s) := by
  unfold execLaunchAgeing
  split
  · exact .next
  · exact .ite .next .next

theorem execTaskPlacement_goes (d : Die) (s : State) : Goes (execTaskPlacement d s) := by
  unfold execTaskPlacement
  dsimp only
  split
  · exact .next
  · split <;> exact .next

theorem execPlacementThermalTimeout_goes (d : Die) (id : Nat) (s : State) : Goes (execPlacementThermalTimeout d id s) := by
  unfold execPlacementThermalTimeout
  split
  · exact .next
  · split
    · exact .ite .next .next
    · exact .next

theorem execShadowStart_goes (n : BankId) (s : State) : Goes (execShadowStart n s) := by
  unfold execShadowStart
  dsimp only
  split
  · exact .ite .next (.ite .next .next)
  · exact .next

theorem execLaunchRetire_goes (d : Die) (id : Nat) (s : State) : Goes (execLaunchRetire d id s) := by
  unfold execLaunchRetire
  split
  · exact .next
  · exact .ite .next .next

theorem execChainFetch_goes (id : Nat) (s : State) : Goes (execChainFetch id s) := by
  unfold execChainFetch
  split
  · exact .next
  · refine .ite .next ?_
    dsimp only
    split
    · exact .next
    · split
      · exact .next
      · split <;> exact .next

/-! #### Grids and conversations -/

theorem execSlotBoundary_goes (d : Die) (g : GridId) (s : State) : Goes (execSlotBoundary d g s) := by
  unfold execSlotBoundary
  dsimp only
  split
  · exact .next
  · exact .ite .next (.ite (.ite .next .next) .next)

theorem execGridConfigure_goes (g : GridId) (desc : GridDesc) (s : State) : Goes (execGridConfigure g desc s) := .ite .next .next

theorem execGridStart_goes (g : GridId) (s : State) : Goes (execGridStart g s) := by
  unfold execGridStart
  dsimp only
  split
  · exact .next
  · refine .ite .next ?_
    split
    · exact .next
    · exact .ite .next .next

theorem execGridStop_goes (g : GridId) (s : State) : Goes (execGridStop g s) := by
  unfold execGridStop
  dsimp only
  split
  · exact .next
  · exact .ite .next .next

theorem execConvOpen_goes (m : ConvId) (recVa : Word) (s : State) : Goes (execConvOpen m recVa s) := by
  unfold execConvOpen
  split
  · exact .next
  · exact .ite .next .next

theorem execConvClose_goes (m : ConvId) (s : State) : Goes (execConvClose m s) := by
  unfold execConvClose
  split
  · exact .next
  · split
    · exact .next
    · exact .ite .next (.ite .next .next)

theorem execIngressGroup_goes (d : Die) (grp : Ingress) (s : State) : Goes (execIngressGroup d grp s) := by
  unfold execIngressGroup
  dsimp only
  split
  · exact .next
  · exact .ite .next (.ite .next (.ite .next (.ite .next .next)))

/-! #### Power and links -/

theorem execFreqRequestTakeup_goes (n : BankId) (s : State) : Goes (execFreqRequestTakeup n s) := by
  refine .ite .next ?_
  dsimp only
  split <;> exact .next

theorem execRailStep_goes (d : Die) (s : State) : Goes (execRailStep d s) := by
  unfold execRailStep
  dsimp only
  split
  · exact .next
  · exact .ite (.ite .next (.ite .next .next)) (.ite .next .next)

theorem execClockSwitchEnd_goes (d : Die) (s : State) : Goes (execClockSwitchEnd d s) := by
  unfold execClockSwitchEnd
  dsimp only
  split
  · exact .next
  · exact .ite .next .next

theorem execBoardCapChange_goes (d : Die) (cap : Nat) (s : State) : Goes (execBoardCapChange d cap s) := .ite .next .next

theorem execBudgetGrant_goes (d : Die) (s : State) : Goes (execBudgetGrant d s) := by
  unfold execBudgetGrant
  split <;> exact .next

theorem execSensorRefresh_goes (d : Die) (rs : List Reading) (s : State) : Goes (execSensorRefresh d rs s) := by
  unfold execSensorRefresh
  dsimp only
  split
  · exact .next
  · split
    · exact .next
    · split <;> exact .next

theorem execTimeSyncLoss_goes (s : State) : Goes (execTimeSyncLoss s) := .ite .next .next

/-! #### Queues of hosts -/

theorem execDoorbell_goes (q : QueueId) (tail : BitVec 32) (s : State) : Goes (execDoorbell q tail s) := .ite .next .next

theorem State.onEntry_goes (s : State) (q : QueueId) (f : State → Qcb → RingEntry → State) : Goes (s.onEntry q f) := by
  unfold State.onEntry
  split <;> exact .next

theorem execRingSignal_goes (q : QueueId) (s : State) : Goes (execRingSignal q s) := by
  unfold execRingSignal
  split
  · exact .next
  · exact s.onEntry_goes ..

theorem execLaunch_goes (q : QueueId) (s : State) : Goes (execLaunch q s) := by
  unfold execLaunch
  exact s.onEntry_goes ..

theorem execRingNop_goes (q : QueueId) (s : State) : Goes (execRingNop q s) := by
  unfold execRingNop
  exact s.onEntry_goes ..

theorem execRingUnknownType_goes (q : QueueId) (s : State) : Goes (execRingUnknownType q s) := by
  unfold execRingUnknownType
  exact s.onEntry_goes ..

theorem execRingFetchFault_goes (q : QueueId) (s : State) : Goes (execRingFetchFault q s) := by
  unfold execRingFetchFault
  exact s.onEntry_goes ..

theorem execQueueCreate_goes (q : QueueId) (parms : QueueParms) (s : State) : Goes (execQueueCreate q parms s) := by
  refine .ite .next ?_
  split
  · exact .next
  · exact .ite .next .next

theorem execSetTrafficFilter_goes (d : Die) (parms : FilterParms) (s : State) : Goes (execSetTrafficFilter d parms s) := .ite .next .next

/-! #### Debug and start -/

theorem execHalt_goes (n : BankId) (s : State) : Goes (execHalt n s) := by
  unfold execHalt
  dsimp only
  split
  iterate 7 exact .next
  -- a place that is free or holds a shadow: the saved bank halts, where one stands
  iterate 2 split <;> exact .next
  exact .next

theorem execDebugStopMatch_goes (n : BankId) (s : State) : Goes (execDebugStopMatch n s) := by
  refine .ite .next (.ite .next ?_)
  split <;> exact .next

theorem execDebugWrite_goes (n : BankId) (tgt : DebugTarget) (s : State) : Goes (execDebugWrite n tgt s) := by
  refine .ite .next ?_
  split
  · split
    · exact .next
    · exact .next
    · exact .ite .next .next
  all_goals exact .next

theorem execDeviceStart_goes (env : StartEnv) (s : State) : Goes (execDeviceStart env s) := by
  unfold execDeviceStart
  split
  · exact .ite .next .next
  all_goals exact .next

theorem execStartWatchdog_goes (s : State) : Goes (execStartWatchdog s) := by
  unfold execStartWatchdog
  split <;> exact .next

theorem execWriteImage_goes (img : SignedImage) (s : State) : Goes (execWriteImage img s) := .ite .next .next

theorem execFullStart_goes (s : State) : Goes (execFullStart s) := .ite .next .next

theorem execAttest_goes (host : EndpointId) (nonce : BitVec 256) (s : State) : Goes (execAttest host nonce s) := by
  unfold execAttest
  split <;> exact .next

theorem execCommanderSignature_goes (host : EndpointId) (sig : BitVec 512) (s : State) : Goes (execCommanderSignature host sig s) := by
  unfold execCommanderSignature
  split
  · exact .ite .next .next
  · exact .next

/-! #### Every row but one -/

/-- Every row of the table but an access by physical address goes on in every state: where its meaning branches, in every branch. -/
theorem exec_goes (i : Instr) (s : State) (h : ∀ ep a, i ≠ .fabricEndpointAccess ep a) : Goes (exec i s) := by
  cases i with
  | fabricEndpointAccess ep a => exact absurd rfl (h ep a)
  | loopb a => exact execLoopb_goes a s
  | crd a => exact execCrd_goes a s
  | trap a => exact execTrap_goes a s
  | eret a => exact execEret_goes a s
  | waitev a => exact execWaitev_goes a s
  | endt a => exact execEndt_goes a s
  | yield a => exact execYield_goes a s
  | xlate a => exact execXlate_goes a s
  | hlocal a => exact execHlocal_goes a s
  | hinv a => exact execHinv_goes a s
  | pwracq a => exact execPwracq_goes a s
  | pwrrel a => exact execPwrrel_goes a s
  | slotwait a => exact execSlotwait_goes a s
  | ctxq a => exact execCtxq_goes a s
  | afadd a => exact execAfadd_goes a s
  | wltake a => exact execWltake_goes a s
  | wordDispatch n => exact execWordDispatch_goes n s
  | illegalWord n e => exact execIllegalWord_goes n e s
  | fetchFault n => exact execFetchFault_goes n s
  | rotateEntry n => exact execRotateEntry_goes n s
  | waitevDeadline n => exact execWaitevDeadline_goes n s
  | ctxqAnswer n => exact execCtxqAnswer_goes n s
  | handleLand n => exact execHandleLand_goes n s
  | cWriteLand n => exact execCWriteLand_goes n s
  | lateLoadArrival n => exact execLateLoadArrival_goes n s
  | kstepWrite n => exact execKstepWrite_goes n s
  | copyRowIssue n e => exact execCopyRowIssue_goes n e s
  | operationComplete n uid => exact execOperationComplete_goes n uid s
  | fabricCompletionError n uid reason => exact execFabricCompletionError_goes n uid reason s
  | allocationAnswer n => exact execAllocationAnswer_goes n s
  | lateFrameConversion n => exact execLateFrameConversion_goes n s
  | drainComplete n => exact execDrainComplete_goes n s
  | preemptionSaveEnd n => exact execPreemptionSaveEnd_goes n s
  | restore n => exact execRestore_goes n s
  | walkComplete tag => exact execWalkComplete_goes tag s
  | invalidationRelease d id => exact execInvalidationRelease_goes d id s
  | pageTableChange asn va level e => exact execPageTableChange_goes asn va level e s
  | poolCreate d pool parms => exact execPoolCreate_goes d pool parms s
  | poolSetLimit d pool limit => exact execPoolSetLimit_goes d pool limit s
  | poolWithdraw d pool => exact execPoolWithdraw_goes d pool s
  | remoteFill d line => exact execRemoteFill_goes d line s
  | fhintHoldExpiry d id => exact execFhintHoldExpiry_goes d id s
  | launchAgeing d id => exact execLaunchAgeing_goes d id s
  | taskPlacement d => exact execTaskPlacement_goes d s
  | placementThermalTimeout d id => exact execPlacementThermalTimeout_goes d id s
  | shadowStart n => exact execShadowStart_goes n s
  | launchRetire d id => exact execLaunchRetire_goes d id s
  | chainFetch id => exact execChainFetch_goes id s
  | slotBoundary d g => exact execSlotBoundary_goes d g s
  | gridConfigure g desc => exact execGridConfigure_goes g desc s
  | gridStart g => exact execGridStart_goes g s
  | gridStop g => exact execGridStop_goes g s
  | convOpen m recVa => exact execConvOpen_goes m recVa s
  | convClose m => exact execConvClose_goes m s
  | ingressGroup d grp => exact execIngressGroup_goes d grp s
  | freqRequestTakeup n => exact execFreqRequestTakeup_goes n s
  | railStep d => exact execRailStep_goes d s
  | clockSwitchEnd d => exact execClockSwitchEnd_goes d s
  | boardCapChange d cap => exact execBoardCapChange_goes d cap s
  | budgetGrant d => exact execBudgetGrant_goes d s
  | sensorRefresh d rs => exact execSensorRefresh_goes d rs s
  | timeSyncLoss => exact execTimeSyncLoss_goes s
  | doorbell q tail => exact execDoorbell_goes q tail s
  | launch q => exact execLaunch_goes q s
  | ringNop q => exact execRingNop_goes q s
  | ringUnknownType q => exact execRingUnknownType_goes q s
  | ringFetchFault q => exact execRingFetchFault_goes q s
  | ringSignal q => exact execRingSignal_goes q s
  | queueCreate q parms => exact execQueueCreate_goes q parms s
  | setTrafficFilter d parms => exact execSetTrafficFilter_goes d parms s
  | halt n => exact execHalt_goes n s
  | debugStopMatch n => exact execDebugStopMatch_goes n s
  | debugWrite n tgt => exact execDebugWrite_goes n tgt s
  | deviceStart env => exact execDeviceStart_goes env s
  | startWatchdog => exact execStartWatchdog_goes s
  | writeImage img => exact execWriteImage_goes img s
  | fullStart => exact execFullStart_goes s
  | attest host nonce => exact execAttest_goes host nonce s
  | commanderSignature host sig => exact execCommanderSignature_goes host sig s
  | _ => exact .next

/-! ### Accesses by physical address (01 R14; 19 R403) -/

/-- The first or the last byte of an access lies in a hole of the physical map (01 R14). -/
def reachesHole (a : EpAccess) : Prop := regionOf (endsOf a).1 = .hole ∨ regionOf (endsOf a).2 = .hole

/-- A write to a control page is a doorbell, an ingress group, a request or nothing (19 R404). -/
theorem State.writeControl_goes (s : State) (ep : EndpointId) (d : Die) (off : Nat) (bytes : List Byte) :
    Goes (s.writeControl ep d off bytes) :=
  .ite (.ite (execDoorbell_goes ..) .next) (.ite (execIngressGroup_goes ..) (.ite .next .next))

/-- A commander's access that reaches a hole stops (log entry 66). -/
theorem State.commanderAccess_of_reachesHole (s : State) (ep : EndpointId) (a : EpAccess) (h : reachesHole a) :
    s.commanderAccess ep a = .fault .physicalHole := by
  unfold State.commanderAccess
  cases a with
  | read p n =>
    obtain h | h := h <;> dsimp only [endsOf] at h <;> simp only [h]
    cases regionOf p <;> rfl
  | write p bs =>
    obtain h | h := h <;> dsimp only [endsOf] at h <;> simp only [h]
    cases regionOf p <;> rfl

/-- Every other access of a commander goes on (19 R403). -/
theorem State.commanderAccess_goes (s : State) (ep : EndpointId) (a : EpAccess) (h : ¬reachesHole a) :
    Goes (s.commanderAccess ep a) := by
  cases a with
  | read p n =>
    unfold State.commanderAccess
    dsimp only
    split
    next h1 => exact absurd (.inl h1) h
    next h2 _ => exact absurd (.inr h2) h
    all_goals exact .next
  | write p bs =>
    unfold State.commanderAccess
    dsimp only
    split
    next h1 => exact absurd (.inl h1) h
    next h2 _ => exact absurd (.inr h2) h
    next => exact .next
    next => exact s.writeControl_goes ..
    all_goals exact .next

/-- An access of an endpoint that is no commander is a commander's, where its page is exported, or goes on (19 R403). -/
theorem State.strangerAccess_eq_or_goes (s : State) (ep : EndpointId) (a : EpAccess) :
    s.strangerAccess ep a = s.commanderAccess ep a ∨ Goes (s.strangerAccess ep a) := by
  unfold State.strangerAccess
  cases a with
  | read p n =>
    dsimp only
    split
    · exact .inl rfl
    · right
      split
      · contradiction
      · exact .next
  | write p bs =>
    dsimp only
    split
    · exact .inl rfl
    · right
      split
      · exact .ite (execIngressGroup_goes ..) .next
      · exact .next

/-- An access by physical address goes on, or reaches a hole and stops. -/
theorem execFabricEndpointAccess_goes_or (ep : EndpointId) (a : EpAccess) (s : State) :
    Goes (execFabricEndpointAccess ep a s) ∨ reachesHole a ∧ execFabricEndpointAccess ep a s = .fault .physicalHole := by
  have hc : Goes (s.commanderAccess ep a) ∨ reachesHole a ∧ s.commanderAccess ep a = .fault .physicalHole := by
    by_cases h : reachesHole a
    · exact .inr ⟨h, s.commanderAccess_of_reachesHole ep a h⟩
    · exact .inl (s.commanderAccess_goes ep a h)
  unfold execFabricEndpointAccess
  split
  · exact hc
  · obtain h | h := s.strangerAccess_eq_or_goes ep a
    · rwa [h]
    · exact .inl h

/-- Every row goes on, or is an access that reaches a hole and stops. -/
theorem exec_goes_or (i : Instr) (s : State) :
    Goes (exec i s) ∨ exec i s = .fault .physicalHole ∧ ∃ ep a, i = .fabricEndpointAccess ep a ∧ reachesHole a := by
  by_cases h : ∃ ep a, i = .fabricEndpointAccess ep a
  · obtain ⟨ep, a, rfl⟩ := h
    rw [exec_fabricEndpointAccess]
    obtain h | ⟨ha, h⟩ := execFabricEndpointAccess_goes_or ep a s
    · exact .inl h
    · exact .inr ⟨h, ep, a, rfl, ha⟩
  · exact .inl (exec_goes i s fun ep a hi => h ⟨ep, a, hi⟩)

/-- Settles O59: every row goes on but an access by physical address, row by row; and such an access stops only where a
commander's rights, its own or those of an exported page, meet a hole. -/
theorem onlyHolesStop : Obligations.OnlyHolesStop := by
  refine ⟨fun i s r hr => ?_, fun i s f hf => ?_, fun s ep a hep ha => ?_⟩
  · obtain h | ⟨h, -⟩ := exec_goes_or i s
    · exact h.not_refused r hr
    · cases h.symm.trans hr
  · obtain h | ⟨h, hi⟩ := exec_goes_or i s
    · exact absurd hf (h.not_fault f)
    · cases h.symm.trans hf
      exact ⟨rfl, hi⟩
  · rw [exec_fabricEndpointAccess, execFabricEndpointAccess, if_pos hep]
    exact s.commanderAccess_of_reachesHole ep a ha

end Sys2Proof.Machine

/-! ### Memory in ranges: what is read after a range is cleared, taken or copied (02 R52, R57, R60) -/

namespace Sys2Proof.Machine

open Sys2Proof

/-- Memory filtered by address reads as before where the addresses are kept, and 0 elsewhere. -/
theorem Memory.read_filter (m : Memory) {p : Nat × Byte → Bool} (keep : Nat → Bool) (hp : ∀ q, p q = keep q.1) (a : Nat) :
    Memory.read (m.filter p) a = if keep a then m.read a else 0 := by
  induction m with
  | nil => simp [Memory.read]
  | cons q m ih =>
    obtain ⟨k, v⟩ := q
    rw [List.filter_cons, hp, Memory.read]
    by_cases hk : k = a
    · subst hk
      cases hkeep : keep k with
      | true => simp [Memory.read]
      | false => simpa [hkeep] using ih
    · cases keep k <;> simp [Memory.read, hk, ih]

theorem Memory.read_clear (m : Memory) (a n b : Nat) :
    (m.clear a n).read b = if a ≤ b ∧ b < a + n then 0 else m.read b := by
  rw [Memory.clear, Memory.read_filter m (fun k => !(decide (a ≤ k) && decide (k < a + n))) fun _ => rfl]
  by_cases h : a ≤ b ∧ b < a + n <;> simp [h]

theorem Memory.read_range (m : Memory) (a n b : Nat) :
    (m.range a n).read b = if a ≤ b ∧ b < a + n then m.read b else 0 := by
  rw [Memory.range, Memory.read_filter m (fun k => decide (a ≤ k) && decide (k < a + n)) fun _ => rfl]
  by_cases h : a ≤ b ∧ b < a + n <;> simp [h]

/-- Cells from `src` on, written with their distance kept from `dst` on, read there; where none is listed memory is as it was. -/
theorem Memory.read_moved (src dst k : Nat) {xs : Memory} {lo : Nat} (hx : Memory.wfFrom lo xs = true) (hlo : src ≤ lo) {acc : Memory}
    (hacc : acc.wf = true) :
    Memory.read (xs.foldl (fun acc p => acc.write (dst + (p.1 - src)) p.2) acc) (dst + k)
      = if xs.read (src + k) = 0 then acc.read (dst + k) else xs.read (src + k) := by
  induction xs generalizing lo acc with
  | nil => simp [Memory.read]
  | cons q xs ih =>
    obtain ⟨a, v⟩ := q
    simp only [Memory.wfFrom, Bool.and_eq_true, decide_eq_true_eq, bne_iff_ne] at hx
    obtain ⟨⟨ha, hv⟩, hxs⟩ := hx
    rw [List.foldl_cons, ih hxs (by omega) (Memory.write_wf _ _ hacc), Memory.read]
    by_cases hk : a = src + k
    · have hlast : Memory.read xs (src + k) = 0 := Memory.read_below hxs (hk ▸ Nat.lt_succ_self a)
      rw [if_pos hlast, if_pos hk, if_neg hv, show dst + (a - src) = dst + k by omega]
      exact Memory.read_write _ _ hacc
    · rw [if_neg hk, Memory.read_write_ne _ _ (by omega)]

/-- The cells of a range stand from its start on. -/
theorem Memory.range_wfFrom {m : Memory} {lo : Nat} (src n : Nat) (h : Memory.wfFrom lo m = true) : Memory.wfFrom src (m.range src n) = true := by
  induction m generalizing lo with
  | nil => rfl
  | cons q m ih =>
    obtain ⟨a, v⟩ := q
    simp only [Memory.wfFrom, Bool.and_eq_true, decide_eq_true_eq] at h
    obtain ⟨⟨-, hv⟩, hm⟩ := h
    rw [Memory.range, List.filter_cons]
    split
    next hin =>
      simp only [Bool.and_eq_true, decide_eq_true_eq] at hin
      simp only [Memory.wfFrom, Bool.and_eq_true, decide_eq_true_eq]
      exact ⟨⟨hin.1, hv⟩, Memory.filter_wfFrom _ hm⟩
    next => exact ih hm

/-- A copy of a range reads as the range. -/
theorem Memory.read_copy {m : Memory} (src dst : Nat) {n k : Nat} (h : m.wf = true) (hk : k < n) :
    (m.copy src n dst).read (dst + k) = m.read (src + k) := by
  have hsrc : src ≤ src + k ∧ src + k < src + n := by omega
  have hdst : dst ≤ dst + k ∧ dst + k < dst + n := by omega
  rw [Memory.copy, Memory.read_moved src dst k (Memory.range_wfFrom src n h) (Nat.le_refl _) (Memory.clear_wf dst n h), Memory.read_range,
    if_pos hsrc, Memory.read_clear, if_pos hdst]
  split
  next h0 => exact h0.symm
  next => rfl

/-- A byte that is not 0 is listed. -/
theorem Memory.mem_of_read (m : Memory) {a : Nat} (h : m.read a ≠ 0) : (a, m.read a) ∈ m := by
  induction m with
  | nil => exact absurd rfl h
  | cons q m ih =>
    obtain ⟨k, v⟩ := q
    rw [Memory.read] at h ⊢
    split
    next hk => subst hk; exact List.mem_cons_self
    next hk =>
      rw [if_neg hk] at h
      exact List.mem_cons_of_mem _ (ih h)

/-! #### Little-endian numbers (00 R7) -/

@[simp] theorem leBytes_length (n x : Nat) : (leBytes n x).length = n := by
  induction n generalizing x with
  | zero => rfl
  | succ n ih => simp [leBytes, ih]

theorem leNat_leBytes (n x : Nat) : leNat (leBytes n x) = x % 256 ^ n := by
  induction n generalizing x with
  | zero => simp [leBytes, leNat, Nat.mod_one]
  | succ n ih =>
    rw [leBytes, leNat, ih, BitVec.toNat_ofNat, show 2 ^ 8 = 256 from rfl, ← Nat.mod_mul, ← Nat.pow_succ']

/-- A list is its members by place. -/
theorem map_range_getD {α : Type} (xs : List α) (n : Nat) (x : α) (h : xs.length = n) : ((List.range n).map fun i => xs.getD i x) = xs := by
  subst h
  refine List.ext_getElem (by simp) fun i _ hi => ?_
  simp [hi]

end Sys2Proof.Machine

/-! ### Pools and unbacked lines: what an operation on one leaves of the others (02 R41, R42, R46) -/

namespace Sys2Proof.Machine

open Sys2Proof

/-- The first member is found where it was, as it has been changed. -/
theorem find?_modFirst_of_find {α : Type} (p : α → Bool) (f : α → α) (xs : List α) {x : α} (hx : xs.find? p = some x)
    (hy : p (f x) = true) : (modFirst p f xs).find? p = some (f x) := by
  induction xs with
  | nil => cases hx
  | cons z zs ih =>
    unfold modFirst
    by_cases hz : p z = true
    · rw [List.find?_cons_of_pos hz] at hx
      cases hx
      rw [if_pos hz, List.find?_cons_of_pos hy]
    · rw [List.find?_cons_of_neg hz] at hx
      rw [if_neg hz, List.find?_cons_of_neg hz]
      exact ih hx

/-- A search that the changed member satisfies neither before nor after finds what it found. -/
theorem find?_modFirst_other {α : Type} (p q : α → Bool) (f : α → α) (xs : List α) (h : ∀ x, p x = true → q x = false ∧ q (f x) = false) :
    (modFirst p f xs).find? q = xs.find? q := by
  induction xs with
  | nil => rfl
  | cons z zs ih =>
    unfold modFirst
    by_cases hz : p z = true
    · rw [if_pos hz, List.find?_cons_of_neg (by simp [(h z hz).2]), List.find?_cons_of_neg (by simp [(h z hz).1])]
    · rw [if_neg hz, List.find?_cons, List.find?_cons, ih]

theorem Store.pool_key {st : Store} {d : Die} {n : Nat} {p : Pool} (h : st.pool d n = some p) : p.die = d ∧ p.num.toNat = n := by
  simpa using List.find?_some h

/-- The pool that a change names is found changed, if it keeps its die and number. -/
theorem Store.pool_modPool {st : Store} {d : Die} {n : Nat} {f : Pool → Pool} {p : Pool} (h : st.pool d n = some p)
    (hd : (f p).die = p.die) (hn : (f p).num = p.num) : (st.modPool d n f).pool d n = some (f p) :=
  find?_modFirst_of_find _ f st.pools h (by simpa [hd, hn] using Store.pool_key h)

/-- A change of a pool leaves the pools of other dies and numbers. -/
theorem Store.pool_modPool_ne (st : Store) {d d' : Die} {n n' : Nat} {f : Pool → Pool} (hne : ¬(d' = d ∧ n' = n))
    (hf : ∀ p : Pool, p.die = d → p.num.toNat = n → (f p).die = d ∧ (f p).num.toNat = n) :
    (st.modPool d n f).pool d' n' = st.pool d' n' := by
  refine find?_modFirst_other _ _ f st.pools fun p hp => ?_
  simp only [Bool.and_eq_true, beq_iff_eq] at hp
  obtain ⟨hd, hn⟩ := hf p hp.1 hp.2
  rw [hp.1, hp.2, hd, hn]
  have : (d == d' && n == n') = false := by
    refine Bool.eq_false_iff.mpr fun e => hne ?_
    simp only [Bool.and_eq_true, beq_iff_eq] at e
    exact ⟨e.1.symm, e.2.symm⟩
  exact ⟨this, this⟩

/-! #### One line -/

/-- Where no two members have one key, each is found by its own. -/
theorem find?_key {α : Type} {ls : List (Nat × α)} (hnd : (ls.map (·.1)).Nodup) {q : Nat × α} (hq : q ∈ ls) :
    (ls.find? fun p => p.1 == q.1) = some q := by
  induction ls with
  | nil => cases hq
  | cons r rs ih =>
    rw [List.map_cons, List.nodup_cons] at hnd
    by_cases hr : r.1 = q.1
    · obtain rfl | hq := List.mem_cons.mp hq
      · simp
      · exact absurd (hr ▸ List.mem_map_of_mem hq) hnd.1
    · rw [List.find?_cons_of_neg (by simpa using hr)]
      obtain rfl | hq := List.mem_cons.mp hq
      · exact absurd rfl hr
      · exact ih hnd.2 hq

theorem Store.lineSt_of_mem {st : Store} (hnd : (st.lines.map (·.1)).Nodup) {q : Nat × LineSt} (hq : q ∈ st.lines) :
    st.lineSt q.1 = some q.2 := by
  rw [Store.lineSt, find?_key hnd hq]; rfl

theorem Store.lineSt_eq_none {st : Store} {line : Nat} : st.lineSt line = none ↔ ∀ q ∈ st.lines, q.1 ≠ line := by
  simp [Store.lineSt]

/-- The state of a line is kept by a filter of lines that keeps its number. -/
theorem Store.lineSt_filter {st : Store} {keep : Nat → Bool} {ls : List (Nat × LineSt)} (h : ls = st.lines.filter fun q => keep q.1) {line : Nat}
    (hk : keep line = true) : (ls.find? fun p => p.1 == line).map (·.2) = st.lineSt line := by
  rw [h, List.find?_filter, Store.lineSt]
  congr 2
  funext q
  by_cases hq : q.1 = line <;> simp [hq, hk]

@[simp] theorem Store.dropLine_lines (st : Store) (line : Nat) : (st.dropLine line).lines = st.lines.filter fun q => q.1 != line := by
  unfold Store.dropLine
  split
  next h =>
    rw [Store.lineSt_eq_none] at h
    exact (List.filter_eq_self.mpr fun q hq => by simpa using h q hq).symm
  next => simp only []; split <;> rfl

/-- A line that is dropped takes its tag, its bytes, its check bits and its pin with it, and nothing else (02 R57). -/
theorem Store.dropLine_frame (st : Store) (line : Nat) : st.dropLine line = { st with
    lines := (st.dropLine line).lines, mem := (st.dropLine line).mem, ecc := (st.dropLine line).ecc
    tagEcc := (st.dropLine line).tagEcc, pools := (st.dropLine line).pools } := by
  unfold Store.dropLine
  split
  · rfl
  · simp only []; split <;> rfl

theorem Store.read_dropLine (st : Store) {line a : Nat} (h : a / 128 ≠ line) : (st.dropLine line).mem.read a = st.mem.read a := by
  have hclear : (st.mem.clear (line * 128) 128).read a = st.mem.read a := by rw [Memory.read_clear, if_neg (by omega)]
  unfold Store.dropLine
  split
  · rfl
  · simp only []; split <;> exact hclear

theorem Store.ecc_dropLine (st : Store) {line u : Nat} (h : u / 16 ≠ line) :
    (st.dropLine line).ecc.find? (fun p => p.1 == u) = st.ecc.find? fun p => p.1 == u := by
  have hfilter : (st.ecc.filter fun q => q.1 / 16 != line).find? (fun p => p.1 == u) = st.ecc.find? fun p => p.1 == u := by
    rw [List.find?_filter]
    congr 1
    funext q
    by_cases hq : q.1 = u <;> simp [hq, h]
  unfold Store.dropLine
  split
  · rfl
  · simp only []; split <;> exact hfilter

theorem Store.tagEcc_dropLine {st : Store} (line : Nat) (h : st.tagEcc = []) : (st.dropLine line).tagEcc = [] := by
  unfold Store.dropLine
  split
  · exact h
  · simp only []; split <;> simp [Store.modPool, Store.setLine, h]

/-- A pinned line that is dropped counts its pool's P down (02 R57). -/
theorem Store.dropLine_pools (st : Store) (line : Nat) : (st.dropLine line).pools = if st.lineSt line = some .pinned then
    (st.modPool (dieOfLine line) (poolOfLine line) fun p => { p with p := p.p - 1 }).pools else st.pools := by
  unfold Store.dropLine
  cases h : st.lineSt line with
  | none => simp
  | some x => cases x <;> rfl

/-! #### Lines together -/

/-- Lines dropped one after another, as DISCARD and the moves of pages drop them. -/
def Store.dropLines (st : Store) (ls : List (Nat × LineSt)) : Store := ls.foldl (fun st p => st.dropLine p.1) st

theorem Store.dropLines_cons (st : Store) (q : Nat × LineSt) (ls : List (Nat × LineSt)) :
    st.dropLines (q :: ls) = (st.dropLine q.1).dropLines ls := rfl

theorem Store.dropLines_frame (st : Store) (ls : List (Nat × LineSt)) : st.dropLines ls = { st with
    lines := (st.dropLines ls).lines, mem := (st.dropLines ls).mem, ecc := (st.dropLines ls).ecc
    tagEcc := (st.dropLines ls).tagEcc, pools := (st.dropLines ls).pools } := by
  induction ls generalizing st with
  | nil => rfl
  | cons q ls ih =>
    rw [Store.dropLines_cons, ih]
    have h := st.dropLine_frame q.1
    generalize st.dropLine q.1 = s1 at h ⊢
    rw [h]

theorem Store.dropLines_lines (st : Store) (ls : List (Nat × LineSt)) :
    (st.dropLines ls).lines = st.lines.filter fun q => ls.all fun p => q.1 != p.1 := by
  induction ls generalizing st with
  | nil => exact (List.filter_eq_self.mpr fun _ _ => rfl).symm
  | cons r ls ih =>
    rw [Store.dropLines_cons, ih, Store.dropLine_lines, List.filter_filter]
    congr 1
    funext q
    rw [List.all_cons, Bool.and_comm]

theorem Store.read_dropLines (st : Store) {ls : List (Nat × LineSt)} {a : Nat} (h : ∀ q ∈ ls, a / 128 ≠ q.1) :
    (st.dropLines ls).mem.read a = st.mem.read a := by
  induction ls generalizing st with
  | nil => rfl
  | cons q ls ih =>
    rw [Store.dropLines_cons, ih _ fun r hr => h r (List.mem_cons_of_mem _ hr), st.read_dropLine (h q List.mem_cons_self)]

theorem Store.ecc_dropLines (st : Store) {ls : List (Nat × LineSt)} {u : Nat} (h : ∀ q ∈ ls, u / 16 ≠ q.1) :
    (st.dropLines ls).ecc.find? (fun p => p.1 == u) = st.ecc.find? fun p => p.1 == u := by
  induction ls generalizing st with
  | nil => rfl
  | cons q ls ih =>
    rw [Store.dropLines_cons, ih _ fun r hr => h r (List.mem_cons_of_mem _ hr), st.ecc_dropLine (h q List.mem_cons_self)]

theorem Store.tagEcc_dropLines {st : Store} (ls : List (Nat × LineSt)) (h : st.tagEcc = []) : (st.dropLines ls).tagEcc = [] := by
  induction ls generalizing st with
  | nil => exact h
  | cons q ls ih => exact ih (Store.tagEcc_dropLine q.1 h)

/-- Memory stays in the canonical form as lines are dropped. -/
theorem Store.dropLines_wf {st : Store} (ls : List (Nat × LineSt)) (h : st.mem.wf = true) : (st.dropLines ls).mem.wf = true := by
  induction ls generalizing st with
  | nil => exact h
  | cons q ls ih =>
    refine ih (st := st.dropLine q.1) ?_
    unfold Store.dropLine
    split
    · exact h
    · simp only []; split <;> exact Memory.clear_wf _ _ h

/-- Lines of one pool that are dropped count its P down by those of them that are pinned (02 R57, R60). -/
theorem Store.pool_dropLines {st : Store} {d : Die} {n : Nat} {ls : List (Nat × LineSt)} {p : Pool} (hp : st.pool d n = some p)
    (hnd : (ls.map (·.1)).Nodup) (hst : ∀ q ∈ ls, st.lineSt q.1 = some q.2) (hpool : ∀ q ∈ ls, dieOfLine q.1 = d ∧ poolOfLine q.1 = n) :
    (st.dropLines ls).pool d n = some { p with p := p.p - (ls.filter fun q => q.2 == .pinned).length } := by
  induction ls generalizing st p with
  | nil => exact hp
  | cons q ls ih =>
    rw [List.map_cons, List.nodup_cons] at hnd
    obtain ⟨hd, hn⟩ := hpool q List.mem_cons_self
    have hst' : ∀ r ∈ ls, (st.dropLine q.1).lineSt r.1 = some r.2 := by
      intro r hr
      have hrq : r.1 ≠ q.1 := fun e => hnd.1 (e ▸ List.mem_map_of_mem hr)
      rw [← hst r (List.mem_cons_of_mem _ hr)]
      exact Store.lineSt_filter (keep := (· != q.1)) (st.dropLine_lines q.1) (by simpa using hrq)
    have hrest (p' : Pool) (hp' : (st.dropLine q.1).pool d n = some p') :=
      ih hp' hnd.2 hst' fun r hr => hpool r (List.mem_cons_of_mem _ hr)
    have hpools := st.dropLine_pools q.1
    rw [hst q List.mem_cons_self, hd, hn] at hpools
    rw [Store.dropLines_cons, List.filter_cons]
    cases hq : q.2 with
    | pinned =>
      rw [hq, if_pos rfl] at hpools
      have hdown : (st.dropLine q.1).pool d n = some { p with p := p.p - 1 } := by
        rw [Store.pool, hpools]
        exact Store.pool_modPool (f := fun p => { p with p := p.p - 1 }) hp rfl rfl
      rw [hrest _ hdown]
      simp [Nat.sub_sub, Nat.add_comm]
    | lost =>
      rw [hq, if_neg (by simp)] at hpools
      have hsame : (st.dropLine q.1).pool d n = some p := by rw [Store.pool, hpools]; exact hp
      rw [hrest _ hsame]
      simp

/-- And leave the other pools. -/
theorem Store.pool_dropLines_ne (st : Store) {d : Die} {n : Nat} {ls : List (Nat × LineSt)}
    (hpool : ∀ q ∈ ls, ¬(d = dieOfLine q.1 ∧ n = poolOfLine q.1)) : (st.dropLines ls).pool d n = st.pool d n := by
  induction ls generalizing st with
  | nil => rfl
  | cons q ls ih =>
    rw [Store.dropLines_cons, ih _ fun r hr => hpool r (List.mem_cons_of_mem _ hr), Store.pool, st.dropLine_pools q.1]
    split
    · exact st.pool_modPool_ne (hpool q List.mem_cons_self) fun _ hd hn => ⟨hd, hn⟩
    · rfl

/-! #### The lines of a page -/

theorem Store.mem_linesIn {st : Store} {l n : Nat} {q : Nat × LineSt} :
    q ∈ st.linesIn l n ↔ q ∈ st.lines ∧ l / 128 ≤ q.1 ∧ q.1 * 128 < l + n := by
  simp [Store.linesIn]

theorem Store.linesIn_nodup {st : Store} (l n : Nat) (h : (st.lines.map (·.1)).Nodup) : ((st.linesIn l n).map (·.1)).Nodup :=
  h.sublist (List.filter_sublist.map _)

/-- The lines that are left when those of a range have been dropped. -/
theorem Store.dropLines_linesIn (st : Store) (l n : Nat) :
    (st.dropLines (st.linesIn l n)).lines = st.lines.filter fun q => !(decide (l / 128 ≤ q.1) && decide (q.1 * 128 < l + n)) := by
  rw [Store.dropLines_lines]
  refine List.filter_congr fun q hq => ?_
  by_cases hin : l / 128 ≤ q.1 ∧ q.1 * 128 < l + n
  · have hfound : ((st.linesIn l n).all fun p => q.1 != p.1) = false := by
      rw [List.all_eq_false]
      exact ⟨q, Store.mem_linesIn.mpr ⟨hq, hin⟩, by simp⟩
    simpa [hin] using hfound
  · have hnone : ((st.linesIn l n).all fun p => q.1 != p.1) = true := by
      rw [List.all_eq_true]
      intro r hr
      rw [Store.mem_linesIn] at hr
      simpa using fun e : q.1 = r.1 => hin (e ▸ hr.2)
    rw [hnone, ← Bool.decide_and, decide_eq_false hin]
    rfl

/-- No line of a range has a tag once those of the range have been dropped. -/
theorem Store.lineSt_dropLines_inside (st : Store) {l n line : Nat} (h : l / 128 ≤ line) (h' : line * 128 < l + n) :
    (st.dropLines (st.linesIn l n)).lineSt line = none := by
  rw [Store.lineSt_eq_none, st.dropLines_linesIn]
  rintro q hq rfl
  simp [h, h'] at hq

theorem Store.lineSt_dropLines_outside (st : Store) {l n line : Nat} (h : ¬(l / 128 ≤ line ∧ line * 128 < l + n)) :
    (st.dropLines (st.linesIn l n)).lineSt line = st.lineSt line :=
  Store.lineSt_filter (keep := fun k => !(decide (l / 128 ≤ k) && decide (k * 128 < l + n))) (st.dropLines_linesIn l n)
    (by rw [← Bool.decide_and, decide_eq_false h]; rfl)

/-- A line of a range that lies in one pool's locations is of that pool (02 R41). -/
theorem poolOfLine_of_range {l n line : Nat} (hl : 2 ^ 48 ≤ l) (hal : l % 128 = 0) (hend : l % 2 ^ 41 + n ≤ 2 ^ 41) (h : l / 128 ≤ line)
    (h' : line * 128 < l + n) : dieOfLine line = dieOfLoc l ∧ poolOfLine line = poolOfLoc l := by
  have hblock : (line * 128 - 2 ^ 48) / 2 ^ 41 = (l - 2 ^ 48) / 2 ^ 41 := by omega
  have hdie (a : Nat) : a / 2 ^ 49 = a / 2 ^ 41 / 256 := by omega
  constructor
  · rw [dieOfLine, dieOfLoc, hdie, hdie, hblock]
  · rw [poolOfLine, poolOfLoc, hblock]

/-- Dropping the lines of such a range counts the pool's P down by those that are pinned (02 R57, R60). -/
theorem Store.pool_dropRange {st : Store} {l n : Nat} {p : Pool} (hl : 2 ^ 48 ≤ l) (hal : l % 128 = 0) (hend : l % 2 ^ 41 + n ≤ 2 ^ 41)
    (hnd : (st.lines.map (·.1)).Nodup) (hp : st.pool (dieOfLoc l) (poolOfLoc l) = some p) :
    (st.dropLines (st.linesIn l n)).pool (dieOfLoc l) (poolOfLoc l) = some { p with p := p.p - st.pinnedIn l n } :=
  Store.pool_dropLines hp (Store.linesIn_nodup l n hnd) (fun _ hq => Store.lineSt_of_mem hnd (Store.mem_linesIn.mp hq).1) fun _ hq =>
    poolOfLine_of_range hl hal hend (Store.mem_linesIn.mp hq).2.1 (Store.mem_linesIn.mp hq).2.2

end Sys2Proof.Machine

/-! ### The page instructions (02 R55-R61): what they share -/

namespace Sys2Proof.Machine

open Sys2Proof

/-! #### The word in hand -/

@[simp] theorem State.acting_ops (s : State) (i : Instr) : (s.acting i).here.ops = s.here.ops := by rw [State.acting, State.begin_bank]

@[simp] theorem State.acting_gaffer (s : State) (i : Instr) : (s.acting i).gaffer = s.gaffer := by rw [State.acting, State.begin_state]; rfl

@[simp] theorem State.acting_choices (s : State) (i : Instr) : (s.acting i).choices = s.choices := by rw [State.acting, State.begin_state]; rfl

@[simp] theorem State.acting_frames (s : State) (i : Instr) : (s.acting i).frames = s.frames := by rw [State.acting, State.begin_state]; rfl

theorem State.acting_sameRegisters (s : State) (i : Instr) : s.here.sameRegisters (s.acting i).here := by
  rw [State.acting, State.begin_bank]
  exact ⟨rfl, rfl, rfl, rfl, rfl, rfl, rfl, rfl, rfl, rfl, rfl, rfl, rfl, rfl, rfl, rfl, rfl, rfl⟩

theorem State.acting_filtersOff {s : State} (i : Instr) (h : s.filtersOff) : (s.acting i).filtersOff := by
  rw [State.filtersOff, State.acting_gaffer]; exact h

theorem State.acting_nonePends {s : State} (i : Instr) (h : s.nonePends) : (s.acting i).nonePends := by
  intro n o ho
  by_cases hn : n = s.cur
  · subst hn
    have hops := s.acting_ops i
    rw [State.here, State.acting_cur, State.here] at hops
    exact h s.cur o (hops ▸ ho)
  · rw [State.acting, State.begin_state] at ho
    exact h n o (s.bank_setBank_ne _ hn ▸ ho)

/-- Where no access is still to be performed, what comes before a change of a range is nothing but the first reads of waiting requests
(02 R65; log entry 61). -/
theorem State.performFirst_nonePends {s : State} (h : s.nonePends) (l n : Nat) :
    ∃ ws, s.performFirst l n = s.modStore fun st => { st with waits := ws } := by
  have hnil : (s.banks.toList.zipIdx.filter fun p => p.1.ops.any (·.pend)) = [] := by
    refine List.filter_eq_nil_iff.mpr fun p hp hany => ?_
    obtain ⟨o, ho, hpend⟩ := List.any_eq_true.mp hany
    obtain ⟨k, hk, hget⟩ := List.mem_iff_getElem.mp (List.fst_mem_of_mem_zipIdx hp)
    rw [Vector.length_toList] at hk
    have hbank : s.bank ⟨k, hk⟩ = p.1 := by rw [← hget, Vector.getElem_toList]; rfl
    rw [h ⟨k, hk⟩ o (hbank ▸ ho)] at hpend
    cases hpend
  unfold State.performFirst
  simp only [hnil, List.foldl_nil]
  change ∃ ws, ({ s with store := { s.store with waits := _ } } : State) = _
  exact ⟨_, rfl⟩

/-! #### Its access at the home of its page -/

/-- The entry with which a page instruction acts: what it waited for has come. -/
def Entry.atPage (x : Entry) : Entry :=
  let y := { x with full := false }
  if y.alloc = .arrived then { y with alloc := .none } else y

@[simp] theorem Entry.atPage_uid (x : Entry) : x.atPage.uid = x.uid := by unfold Entry.atPage; simp only []; split <;> rfl

@[simp] theorem Entry.atPage_caps (x : Entry) : x.atPage.caps = x.caps := by unfold Entry.atPage; simp only []; split <;> rfl

/-- The state after an access of the word that acted in `a`: it has left the home of its page, unless it is still to be performed (02
R52). -/
def State.leaving (a : State) (uid : Nat) (t : State) : State :=
  if a.store.arrivals.isEmpty || (t.bank a.cur).unperformed uid || t.store.unread a.cur uid then t
  else t.modStore fun st => st.leaveArrival a.cur uid

theorem Store.leaveArrival_eq (st : Store) (b : BankId) (uid : Nat) :
    st.leaveArrival b uid = { st with arrivals := (st.leaveArrival b uid).arrivals } := by
  unfold Store.leaveArrival; split <;> rfl

/-- To leave changes the marks of accesses that wait at homes. -/
theorem State.leaving_eq (a : State) (uid : Nat) (t : State) : ∃ as, a.leaving uid t = t.modStore fun st => { st with arrivals := as } := by
  unfold State.leaving
  split
  · exact ⟨t.store.arrivals, rfl⟩
  · exact ⟨(t.store.leaveArrival a.cur uid).arrivals, congrArg (fun st => { t with store := st }) (Store.leaveArrival_eq ..)⟩

/-- An access that is still to be performed does not leave. -/
theorem State.leaving_unperformed {a : State} {uid : Nat} {t : State} (h : (t.bank a.cur).unperformed uid = true) : a.leaving uid t = t := by
  rw [State.leaving, h, Bool.or_true, Bool.true_or, if_pos rfl]

theorem State.atHome_go {s : State} {e : Engine} {x : Entry} {c : Capture} {l : Nat} (go : State → Entry → State)
    (hlock : s.store.locked l = false) (hbehind : s.store.behindArrival s.cur x.uid l = false) :
    s.atHome e x c l go = s.leaving x.uid (go s (if x.alloc = .arrived then { x with alloc := .none } else x)) := by
  unfold State.atHome
  rw [hlock, hbehind, Bool.or_false, if_neg Bool.false_ne_true]
  rfl

/-- A page instruction that may go on acts, and leaves the home of its page (02 R52, R56). -/
theorem State.pageAccess_go {s : State} {i : Instr} {own : Entry → Capture → Option Nat} {size : Entry → Nat}
    (go : State → Entry → Capture → State) {c : Capture} {o n : Nat} (h : s.pageGo i c o n own)
    (ho : (if (usesOf i).reads.length = 2 then ((s.inHand i).caps.getD 0 0).toNat else 0) = o) (hn : size (s.inHand i) = n)
    (hfull : ∀ x : Entry, own { x with full := false } c = own x c) :
    s.pageAccess i own size go = (s.acting i).leaving (s.inHand i).uid (go (s.acting i) (s.inHand i).atPage c) := by
  obtain ⟨hcap, hgate, hcheck, hown, hlock, hbehind⟩ := h
  have hchecked : (if (s.inHand i).alloc = .none then own { s.inHand i with full := false } c else none) = none := by
    rw [hfull, hown, ite_self]
  rw [← s.acting_store i] at hgate hlock hbehind
  rw [← s.acting_cur i] at hbehind
  subst hn
  have hfst : (s.begin i).1 = s.inHand i := rfl
  have hsnd : (s.begin i).2 = s.acting i := rfl
  unfold State.pageAccess
  simp only [hfst, hsnd, ho]
  split
  next hnone => cases hcap.symm.trans hnone
  next c' hsome =>
    obtain rfl : c = c' := Option.some.inj (hcap.symm.trans hsome)
    rw [if_neg (not_not.mpr hgate)]
    split
    next hwait => cases hcheck.symm.trans hwait
    next hfail => cases hcheck.symm.trans hfail
    next =>
      split
      next hfail => cases hchecked.symm.trans hfail
      next => exact State.atHome_go (x := { s.inHand i with full := false }) _ hlock hbehind

/-- The state after a page instruction that acted, up to the marks of accesses that wait at homes. -/
theorem State.pageAccess_next {s : State} {i : Instr} {own : Entry → Capture → Option Nat} {size : Entry → Nat}
    (go : State → Entry → Capture → State) {c : Capture} {o n : Nat} (h : s.pageGo i c o n own)
    (ho : (if (usesOf i).reads.length = 2 then ((s.inHand i).caps.getD 0 0).toNat else 0) = o) (hn : size (s.inHand i) = n)
    (hfull : ∀ x : Entry, own { x with full := false } c = own x c) :
    ∃ as, s.pageAccess i own size go = (go (s.acting i) (s.inHand i).atPage c).modStore fun st => { st with arrivals := as } := by
  rw [State.pageAccess_go go h ho hn hfull]
  exact State.leaving_eq ..

/-! #### Its issue, or its cause -/

/-- An operation that issues moves tokens and its stream's count, and is the last of the bank (04 R97). -/
theorem Bank.issue_frame (b : Bank) (e : Engine) (u : Uses) (x : Entry) (o : Op) : b.issue e u x o = { b with
    tok := (b.issue e u x o).tok, rsv := (b.issue e u x o).rsv, qiss := (b.issue e u x o).qiss, ops := b.ops ++ [o] } := by
  unfold Bank.issue
  rw [Bank.reserve_frame, Bank.doPops_frame]
  simp only []
  split <;> rfl

theorem Bank.issue_sameRegisters {b c : Bank} (e : Engine) (u : Uses) (x : Entry) (o : Op) (h : b.sameRegisters c) :
    b.sameRegisters (c.issue e u x o) := by
  rw [Bank.issue_frame]; exact h

@[simp] theorem Bank.issue_ops (b : Bank) (e : Engine) (u : Uses) (x : Entry) (o : Op) : (b.issue e u x o).ops = b.ops ++ [o] := by
  rw [Bank.issue_frame]

/-- A page instruction whose operation issues in the bank as the word found it. -/
theorem pageIssued_of_issue {s t : State} {i : Instr} {x y : Entry} {e : Engine} {u : Uses} {o : Op} {loads : List RegW} {waiting : Bool}
    (ht : t.here = (s.acting i).here.issue e u y o) (huid : o.uid = x.uid) (heng : o.eng = .W) (hloads : o.loads = loads)
    (hputs : o.puts = []) (hwait : o.waiting = waiting) : pageIssued s t x loads waiting := by
  refine ⟨?_, o, ?_, huid, heng, hloads, hputs, hwait⟩
  · rw [ht]; exact Bank.issue_sameRegisters _ _ _ _ (s.acting_sameRegisters i)
  · rw [ht, Bank.issue_ops, State.acting_ops]

@[simp] theorem State.here_modStore (s : State) (f : Store → Store) : (s.modStore f).here = s.here := rfl

@[simp] theorem State.here_modBank (s : State) (f : Bank → Bank) : (s.modBank s.cur f).here = f s.here := s.bank_modBank s.cur f

/-- The operation with which a page instruction issues. -/
def pageOp (i : Instr) (x : Entry) (blocks : List Nat) (loads : List RegW) (waiting : Bool) : Op :=
  { opOf .W (usesOf i) x blocks loads [] with waiting := waiting }

theorem State.issuePage_here (s : State) (i : Instr) (x : Entry) (blocks : List Nat) (loads : List RegW) (waiting : Bool) :
    (s.issuePage i x blocks loads waiting).here = s.here.issue .W (usesOf i) x (pageOp i x blocks loads waiting) :=
  s.here_modBank _

/-- A page instruction that issues with its result, whatever it has done to the storage. -/
theorem State.issuePage_issued (s : State) (i : Instr) (f g : Store → Store) (blocks : List Nat) (loads : List RegW) (waiting : Bool) :
    pageIssued s ((((s.acting i).modStore f).issuePage i (s.inHand i).atPage blocks loads waiting).modStore g) (s.inHand i) loads waiting := by
  refine pageIssued_of_issue (i := i) ((State.here_modStore _ _).trans (State.issuePage_here ..)) ?_ rfl rfl rfl rfl
  exact (s.inHand i).atPage_uid

/-- A cut's end of waits takes its TIME, and leaves the operations and the cause (17 R357). -/
theorem State.endWaits_here (s : State) : (s.endWaits s.cur).here.ops = s.here.ops ∧ (s.endWaits s.cur).here.tcause = s.here.tcause
    ∧ (s.endWaits s.cur).here.tval = s.here.tval := by
  have hhere : (s.endWaits s.cur).here = { s.here.endWaits with cutAt := s.time } := State.bank_modBank _ _ _
  rw [hhere]
  unfold Bank.endWaits
  split <;> exact ⟨rfl, rfl, rfl⟩

/-- A cause of an access where no cut stands: TCAUSE and TVAL name it, and the storage and the operations are as before (17 R357). -/
theorem State.raiseMem_taken {s : State} (e : Engine) (kind : Nat) (x : Entry) (o : Nat) (h : s.here.cut = none) :
    let t := s.raiseMem e kind x o
    t.store = s.store ∧ t.cur = s.cur ∧ t.here.ops = s.here.ops ∧ t.here.tcause = tcauseOf { group := 1, kind := kind, engine := e }
      ∧ t.here.tval = BitVec.ofNat 64 o := by
  have hcut : ¬s.here.cut.isSome = true := by rw [h]; exact Bool.false_ne_true
  have hops : (s.here.hold e { x with alloc := .none }).ops = s.here.ops := by cases e <;> rfl
  intro t
  have ht : t = (s.modBank s.cur fun b => b.raise { group := 1, kind := kind, engine := e } { x with alloc := .none } (BitVec.ofNat 64 o)
      true).endWaits s.cur := if_neg hcut
  obtain ⟨ho, hcause, hval⟩ := State.endWaits_here (s.modBank s.cur fun b =>
    b.raise { group := 1, kind := kind, engine := e } { x with alloc := .none } (BitVec.ofNat 64 o) true)
  rw [State.here_modBank] at ho hcause hval
  rw [ht]
  exact ⟨rfl, rfl, ho.trans hops, hcause, hval⟩

end Sys2Proof.Machine

/-! ### PGRSV and PGREL (02 R59) -/

namespace Sys2Proof.Machine

open Sys2Proof

theorem Store.poolCounts_of_pool {st : Store} {l : Nat} {p : Pool} (h : st.pool (dieOfLoc l) (poolOfLoc l) = some p) :
    st.poolCounts l = (p.limit, p.r, p.p) := by
  rw [Store.poolCounts, h]

/-- A page instruction over its pool that takes a cause changes no more of the storage than marks (17 R357). -/
theorem pageRaised {s : State} {i : Instr} (kind : Nat) (g : Store → Store) (hg : ∀ st, (g st).marksAside = st.marksAside)
    (h : (s.acting i).here.cut = none) :
    let t := ((s.acting i).raiseMem .W kind (s.inHand i).atPage 0).modStore g
    t.store.marksAside = s.store.marksAside ∧ t.here.ops = s.here.ops ∧ t.here.tcause = tcauseOf { group := 1, kind := kind, engine := .W } := by
  obtain ⟨hstore, -, hops, hcause, -⟩ := State.raiseMem_taken .W kind (s.inHand i).atPage 0 h
  refine ⟨(hg _).trans ?_, hops.trans (s.acting_ops i), hcause⟩
  rw [hstore, State.acting_store]

section

variable {s : State} {a : PageP} {c : Capture} {p : Pool}

/-- PGRSV of a page that passes its checks (02 R56, R59). -/
theorem execPgrsv_go (hgo : s.pageGo (.pgrsv a) c 0 0 unbackedCheck) (hp : s.store.pool (dieOfLoc c.h.loc) (poolOfLoc c.h.loc) = some p) :
    let i : Instr := .pgrsv a; let n := ((s.inHand i).caps.getD 0 0).toNat; let y := (s.inHand i).atPage
    ∃ as, exec i s = .next ((if p.limit < p.r + n then (s.acting i).raiseMem .W 11 y 0
      else if s.store.capacity (dieOfLoc c.h.loc) < s.store.reservedOn (dieOfLoc c.h.loc) + n then
        (s.acting i).issuePage i y pageBlocks [.s a.res 1] false
      else ((s.acting i).modStore fun st => st.modPool (dieOfLoc c.h.loc) (poolOfLoc c.h.loc) fun p => { p with r := p.r + n }).issuePage i y
        pageBlocks [.s a.res 0] false).modStore fun st => { st with arrivals := as }) := by
  intro i n y
  refine (State.pageAccess_next (size := fun _ => 0) _ hgo rfl rfl fun _ => rfl).imp fun as h => (congrArg Host.Outcome.next h).trans ?_
  simp only [State.acting_store, Store.poolCounts_of_pool hp, Entry.atPage_caps]
  rfl

/-- PGREL of a page that passes its checks (02 R56, R59). -/
theorem execPgrel_go (hgo : s.pageGo (.pgrel a) c 0 0 unbackedCheck) (hp : s.store.pool (dieOfLoc c.h.loc) (poolOfLoc c.h.loc) = some p) :
    let i : Instr := .pgrel a; let n := min ((s.inHand i).caps.getD 0 0).toNat (p.r - p.p)
    ∃ as, exec i s = .next ((((s.acting i).modStore fun st => st.modPool (dieOfLoc c.h.loc) (poolOfLoc c.h.loc) fun p =>
      { p with r := p.r - n }).issuePage i (s.inHand i).atPage pageBlocks [.s a.res (BitVec.ofNat 64 n)] false).modStore
        fun st => { st with arrivals := as }) := by
  refine (State.pageAccess_next (size := fun _ => 0) _ hgo rfl rfl fun _ => rfl).imp fun as h => (congrArg Host.Outcome.next h).trans ?_
  simp only [State.acting_store, Store.poolCounts_of_pool hp, Entry.atPage_caps]

end

/-- 02 R59: PGRSV reserves lines where the pool's LIMIT and the die's capacity hold them, and PGREL gives back what is not pinned. -/
theorem saidReservations_holds : saidReservations := by
  intro s a c p st hp
  refine ⟨?reserve, ?release⟩
  case reserve =>
    intro i x n hgo
    obtain ⟨as, hexec⟩ := execPgrsv_go hgo hp
    refine ⟨fun hlimit hcut => ?past, fun hlimit hcap => ?full, fun hlimit hcap => ?room⟩
    case past =>
      rw [if_pos hlimit] at hexec
      exact ⟨_, hexec, pageRaised 11 _ (fun _ => rfl) hcut⟩
    case full =>
      rw [if_neg (Nat.not_lt.mpr hlimit), if_pos hcap] at hexec
      exact ⟨_, hexec, (congrArg Store.marksAside (s.acting_store i) :), s.issuePage_issued i id _ ..⟩
    case room =>
      rw [if_neg (Nat.not_lt.mpr hlimit), if_neg (Nat.not_lt.mpr hcap)] at hexec
      refine ⟨_, hexec, s.issuePage_issued i _ _ .., ?_⟩
      exact Store.pool_modPool (f := fun p => { p with r := p.r + n }) ((s.acting_store i).symm ▸ hp) rfl rfl
  case release =>
    intro i x n hgo
    obtain ⟨as, hexec⟩ := execPgrel_go hgo hp
    refine ⟨_, hexec, s.issuePage_issued i _ _ .., ?_⟩
    exact Store.pool_modPool (f := fun p => { p with r := p.r - n }) ((s.acting_store i).symm ▸ hp) rfl rfl

end Sys2Proof.Machine

/-! ### Pools as hosts make, limit and withdraw them (02 R46, R47, R50, R429) -/

namespace Sys2Proof.Machine

open Sys2Proof

/-- The only member of its kind is still that when it is changed and keeps its kind. -/
theorem filter_modFirst {α : Type} (p : α → Bool) (f : α → α) (xs : List α) {x : α} (hx : xs.filter p = [x]) (hy : p (f x) = true) :
    (modFirst p f xs).filter p = [f x] := by
  induction xs with
  | nil => cases hx
  | cons z zs ih =>
    unfold modFirst
    by_cases hz : p z = true
    · rw [List.filter_cons_of_pos hz] at hx
      obtain ⟨rfl, hzs⟩ := List.cons.inj hx
      rw [if_pos hz, List.filter_cons_of_pos hy, hzs]
    · rw [List.filter_cons_of_neg hz] at hx
      rw [if_neg hz, List.filter_cons_of_neg hz, ih hx]

/-- The pools of a die and number. -/
def Store.poolsAt (st : Store) (d : Die) (n : Nat) : List Pool := st.pools.filter fun p => p.die == d && p.num.toNat == n

theorem Store.pool_eq_head? (st : Store) (d : Die) (n : Nat) : st.pool d n = (st.poolsAt d n).head? := (List.head?_filter ..).symm

/-- The change of the only pool of a die and number. -/
theorem Store.poolsAt_modPool {st : Store} {d : Die} {n : Nat} {f : Pool → Pool} {p : Pool} (h : st.poolsAt d n = [p])
    (hd : (f p).die = p.die) (hn : (f p).num = p.num) : (st.modPool d n f).poolsAt d n = [f p] := by
  have hp : st.pool d n = some p := by rw [Store.pool_eq_head?, h]; rfl
  exact filter_modFirst _ f st.pools h (by simpa [hd, hn] using Store.pool_key hp)

theorem State.reportPool_of_pool {s : State} {d : Die} {n : Nat} {p : Pool} (h : s.store.pool d n = some p) : s.reportPool d n =
    s.report (.poolState d p.num p.owner [p.limit, p.r, p.p, p.late64.length, p.late256.length, p.nlate.toNat, p.nlost.toNat]) := by
  rw [State.reportPool, h]

@[simp] theorem State.reportPool_store (s : State) (d : Die) (n : Nat) : (s.reportPool d n).store = s.store := by
  unfold State.reportPool; split <;> rfl

@[simp] theorem State.reportPool_xl (s : State) (d : Die) (n : Nat) : (s.reportPool d n).xl = s.xl := by
  unfold State.reportPool; split <;> rfl

/-! #### POOL_CREATE (02 R46, R47) -/

/-- The pool that POOL_CREATE makes. -/
def newPool (d : Die) (n : BitVec 8) (parms : PoolParms) : Pool where
  die := d
  num := n
  owner := parms.owner
  limit := parms.limit
  r := 0
  p := 0
  late64 := parms.late64
  late256 := parms.late256
  nlate := 0
  nlost := 0
  withdrawn := false

/-- What POOL_CREATE refuses: a number in use, a LIMIT past the die's storage, or frames that are none of the die's own. -/
theorem execPoolCreate_refused {s : State} {d : Die} {n : BitVec 8} {parms : PoolParms}
    (h : s.store.pool d n.toNat ≠ none ∨ 589824 < parms.limit ∨ s.reserveOk d false parms.late64 = false
      ∨ s.reserveOk d true parms.late256 = false) : exec (.poolCreate d n parms) s = .next (s.report (.refused refusedCode)) := by
  refine if_pos ?_
  simp only [Bool.or_eq_true, decide_eq_true_eq, Bool.not_eq_true', or_assoc]
  exact h.imp_left Option.isSome_iff_ne_none.mpr

/-- 02 R46, R47: a pool is made under a free number, and its state is reported. -/
theorem execPoolCreate_made {s : State} {d : Die} {n : BitVec 8} {parms : PoolParms} (hfree : s.store.pool d n.toNat = none)
    (hlimit : parms.limit ≤ 589824) (h64 : s.reserveOk d false parms.late64 = true) (h256 : s.reserveOk d true parms.late256 = true) :
    ∃ t, exec (.poolCreate d n parms) s = .next t ∧ t.store.pool d n.toNat = some (newPool d n parms) ∧ t.store.mem = s.store.mem
      ∧ .poolState d n parms.owner [parms.limit, 0, 0, parms.late64.length, parms.late256.length, 0, 0] ∈ t.gaffer.reports := by
  have hgo : ¬((s.store.pool d n.toNat).isSome || decide (589824 < parms.limit) || !s.reserveOk d false parms.late64
      || !s.reserveOk d true parms.late256) = true := by
    simp [hfree, h64, h256, Nat.not_lt.mpr hlimit]
  have hnew : (s.store.pools ++ [newPool d n parms]).find? (fun p => p.die == d && p.num.toNat == n.toNat) = some (newPool d n parms) := by
    rw [List.find?_append, show s.store.pools.find? _ = none from hfree, Option.none_or, List.find?_cons_of_pos (by simp [newPool])]
  let u : State := (s.modGaffer fun g => { g with
    free64 := g.free64.filter fun f => !parms.late64.contains f
    free256 := g.free256.filter fun f => !parms.late256.contains f }).modStore fun st => { st with pools := st.pools ++ [newPool d n parms] }
  have hu : u.store.pool d n.toNat = some (newPool d n parms) := hnew
  refine ⟨u.reportPool d n.toNat, if_neg hgo, ?_, ?_, ?_⟩
  · rw [State.reportPool_store, hu]
  · rw [State.reportPool_store]; rfl
  · rw [State.reportPool_of_pool hu]
    exact List.mem_append_right _ (List.mem_singleton_self _)

/-! #### POOL_SET_LIMIT (02 R46, R47, R50) -/

/-- No page leaves where no more lines are pinned than the limit (02 R50). -/
theorem State.tearDown_within {s : State} {d : Die} {n limit : Nat} {p : Pool} (h : s.store.pool d n = some p) (hp : p.p ≤ limit)
    (us : List Nat) : s.tearDown d n limit us = s := by
  cases us with
  | nil => rfl
  | cons u us => rw [State.tearDown, h]; exact if_pos hp

/-- The storage with a pool's LIMIT set and R held to it. -/
def Store.limited (st : Store) (d : Die) (n limit : Nat) : Store :=
  (st.modPool d n fun p => { p with limit := limit }).modPool d n fun p => { p with r := min p.r limit }

theorem State.setLimit_within {s : State} {d : Die} {n limit : Nat} {p : Pool} (h : s.store.pool d n = some p) (hp : p.p ≤ limit) :
    s.setLimit d n limit = s.modStore fun st => st.limited d n limit := by
  have hset : (s.modStore fun st => st.modPool d n fun p => { p with limit := limit }).store.pool d n = some { p with limit := limit } :=
    Store.pool_modPool (f := fun p => { p with limit := limit }) h rfl rfl
  exact congrArg (fun u : State => u.modStore fun st => st.modPool d n fun p => { p with r := min p.r limit })
    (State.tearDown_within hset hp _)

/-- The only pool of its number, limited. -/
theorem Store.poolsAt_limited {st : Store} {d : Die} {n limit : Nat} {p : Pool} (h : st.poolsAt d n = [p]) :
    (st.limited d n limit).poolsAt d n = [{ p with limit := limit, r := min p.r limit }] :=
  Store.poolsAt_modPool (f := fun p => { p with r := min p.r limit })
    (Store.poolsAt_modPool (f := fun p => { p with limit := limit }) h rfl rfl) rfl rfl

/-- 02 R46, R47: LIMIT is set and R held to it. -/
theorem execPoolSetLimit_within {s : State} {d : Die} {n : BitVec 8} {limit : Nat} {p : Pool} (h : s.store.poolsAt d n.toNat = [p])
    (hlimit : limit ≤ 589824) (hp : p.p ≤ limit) : ∃ t, exec (.poolSetLimit d n limit) s = .next t
      ∧ t.store.pool d n.toNat = some { p with limit := limit, r := min p.r limit } ∧ t.store.mem = s.store.mem
      ∧ t.store.lines = s.store.lines := by
  have hpool : s.store.pool d n.toNat = some p := by rw [Store.pool_eq_head?, h]; rfl
  have hgo : ¬((s.store.pool d n.toNat).isNone || decide (589824 < limit)) = true := by simp [hpool, Nat.not_lt.mpr hlimit]
  refine ⟨_, if_neg hgo, ?_, ?_, ?_⟩
  all_goals rw [State.reportPool_store, State.setLimit_within hpool hp]
  · rw [Store.pool_eq_head?]
    exact congrArg List.head? (Store.poolsAt_limited h)
  · rfl
  · rfl

/-! #### POOL_WITHDRAW and the end of a pool (02 R429) -/

/-- The leaves found in the tables are those of the bytes at their homes. -/
theorem Store.leavesFrom_congr {st st' : Store} (h : ∀ a n, st.homeNat a n = st'.homeNat a n) (asn : BitVec 12) (level table va : Nat) :
    st.leavesFrom asn level table va = st'.leavesFrom asn level table va := by
  induction level generalizing table va with
  | zero => rfl
  | succ level ih =>
    unfold Store.leavesFrom
    simp only [h, ih]

theorem State.leaves_congr {s t : State} (hx : t.xl = s.xl) (h : ∀ a n, t.store.homeNat a n = s.store.homeNat a n) : t.leaves = s.leaves := by
  unfold State.leaves
  rw [hx]
  exact List.flatMap_congr fun r _ => Store.leavesFrom_congr h ..

/-- A leaf names the pool of a die and number, or an invalidation of its owner's address space runs, so that the pool does not end (02 R429;
log entry 65). -/
def State.holdsPool (s : State) (d : Die) (n : Nat) (owner : BitVec 12) : Bool :=
  (s.leaves.any fun r => leafU r.e && leafHome r.e == d.val && leafPool r.e == n) || s.xl.invals.any fun i => i.asn == owner

/-- The only pool of its number ends once it is withdrawn, unless something holds it (02 R429). -/
theorem State.endPools_pool {s : State} {d : Die} {n : Nat} {p : Pool} (h : s.store.poolsAt d n = [p]) (hw : p.withdrawn = true) :
    s.endPools.store.pool d n = if s.holdsPool d n p.owner then some p else none := by
  obtain ⟨hdie, hnum⟩ : p.die = d ∧ p.num.toNat = n := Store.pool_key (by rw [Store.pool_eq_head?, h]; rfl)
  have hmem : p ∈ s.store.pools := List.mem_of_mem_filter (h ▸ List.mem_singleton_self p : p ∈ s.store.poolsAt d n)
  have hall : ¬(s.store.pools.all fun p => !p.withdrawn) = true := by
    simp only [List.all_eq_true, not_forall]
    exact ⟨p, hmem, by simp [hw]⟩
  unfold State.endPools
  rw [if_neg hall]
  simp only [State.store_of_modStore]
  rw [Store.pool_eq_head?, Store.poolsAt, List.filter_comm, show List.filter _ s.store.pools = [p] from h]
  have hgone : (List.filter (fun q => q.withdrawn && !(s.leaves.any fun r => leafU r.e && leafHome r.e == q.die.val && leafPool r.e == q.num.toNat)
      && !s.xl.invals.any fun i => i.asn == q.owner) s.store.pools).contains p = !s.holdsPool d n p.owner := by
    rw [Bool.eq_iff_iff, List.contains_iff_mem, List.mem_filter]
    simp only [hmem, hw, hdie, hnum, State.holdsPool, Bool.true_and, true_and, Bool.not_or]
  rw [List.filter_singleton, hgone, Bool.not_not]
  cases s.holdsPool d n p.owner <;> rfl

theorem State.endPools_mem (s : State) : s.endPools.store.mem = s.store.mem := by
  unfold State.endPools; split <;> rfl

/-- 02 R429: LIMIT becomes 0, and the pool ends unless something holds it. -/
theorem execPoolWithdraw_unpinned {s : State} {d : Die} {n : BitVec 8} {p : Pool} (h : s.store.poolsAt d n.toNat = [p]) (hp : p.p = 0) :
    ∃ t, exec (.poolWithdraw d n) s = .next t ∧ t.store.mem = s.store.mem
      ∧ t.store.pool d n.toNat = if s.holdsPool d n.toNat p.owner then some { p with limit := 0, r := 0, withdrawn := true } else none := by
  have hpool : s.store.pool d n.toNat = some p := by rw [Store.pool_eq_head?, h]; rfl
  have hgo : ¬(s.store.pool d n.toNat).isNone = true := by simp [hpool]
  let st := (s.store.limited d n.toNat 0).modPool d n.toNat fun p => { p with withdrawn := true }
  let u : State := ({ s with store := st } : State).reportPool d n.toNat
  let q : Pool := { p with limit := 0, r := 0, withdrawn := true }
  have hexec : exec (.poolWithdraw d n) s = .next u.endPools := by
    refine (if_neg hgo).trans ?_
    rw [State.setLimit_within hpool (Nat.le_of_eq hp)]
    rfl
  have hu : u.store = st := State.reportPool_store ..
  have hone : u.store.poolsAt d n.toNat = [q] := by
    rw [hu, Store.poolsAt_modPool (f := fun p => { p with withdrawn := true }) (Store.poolsAt_limited (limit := 0) h) rfl rfl, Nat.min_zero]
  have hleaves : u.leaves = s.leaves := State.leaves_congr (State.reportPool_xl ..) fun a k => by rw [hu]; rfl
  have hholds : u.holdsPool d n.toNat q.owner = s.holdsPool d n.toNat p.owner := by
    rw [State.holdsPool, hleaves, (State.reportPool_xl .. : u.xl = s.xl)]
    rfl
  refine ⟨_, hexec, ?_, ?_⟩
  · rw [State.endPools_mem, hu]; rfl
  · rw [State.endPools_pool hone rfl, hholds]

/-- Settles O43: what hosts make of pools, by what each request does with the only pool of its number. -/
theorem pools : Obligations.Pools := by
  intro s d n
  refine ⟨fun parms hfree hlimit h64 h256 => ?create, fun parms hbad => ⟨_, execPoolCreate_refused hbad, rfl⟩, fun p hone => ⟨?limit, ?withdraw⟩⟩
  case create =>
    obtain ⟨t, hexec, hpool, hmem, hreport⟩ := execPoolCreate_made hfree hlimit h64 h256
    exact ⟨t, _, hexec, hpool, rfl, rfl, rfl, rfl, rfl, rfl, hmem, hreport⟩
  case limit => exact fun limit hlimit hp => execPoolSetLimit_within hone hlimit hp
  case withdraw => exact fun hp => execPoolWithdraw_unpinned hone hp

end Sys2Proof.Machine

/-! ### DISCARD and WBACK (02 R57, R58) -/

namespace Sys2Proof.Machine

open Sys2Proof

theorem Store.resolve_plain {st : Store} (h : st.forwards = []) (l : Nat) : st.resolve l = l := by rw [Store.resolve, h]; rfl

/-! #### What they do to the storage -/

/-- Of an unbacked range DISCARD drops the lines, once the copies of them are gone, and waiting requests are tested again (02 R57). -/
theorem Store.discard_unbacked {st : Store} (d : Die) {l : Nat} (n : Nat) (hf : st.forwards = []) (hl : 2 ^ 48 ≤ l) :
    st.discard d l n = ((st.dropCopies d l n).dropLines (st.linesIn l n)).retest l n := by
  unfold Store.discard
  simp only [Store.resolve_plain hf]
  exact if_pos hl

section

variable {st : Store} (d : Die) {l n : Nat} (hf : st.forwards = []) (hl : 2 ^ 48 ≤ l)
include hf hl

theorem Store.discard_lines : (st.discard d l n).lines = st.lines.filter fun q => !(decide (l / 128 ≤ q.1) && decide (q.1 * 128 < l + n)) := by
  rw [Store.discard_unbacked d n hf hl]
  exact Store.dropLines_linesIn (st.dropCopies d l n) l n

theorem Store.discard_forwards : (st.discard d l n).forwards = [] := by
  rw [Store.discard_unbacked d n hf hl, Store.dropLines_frame]
  exact hf

theorem Store.discard_hbm : (st.discard d l n).hbm = st.hbm := by
  rw [Store.discard_unbacked d n hf hl, Store.dropLines_frame]
  rfl

/-- The bytes of the range read as zero. -/
theorem Store.viewByte_discard (hal : l % 128 = 0) (d' : Die) {b : Nat} (hb : l ≤ b) (hb' : b < l + n) : (st.discard d l n).viewByte d' b = 0 := by
  have hline : (st.discard d l n).lineSt (b / 128) = none := by
    rw [Store.discard_unbacked d n hf hl]
    exact Store.lineSt_dropLines_inside (st.dropCopies d l n) (by omega) (by omega)
  unfold Store.viewByte
  simp only [Store.resolve_plain (Store.discard_forwards d hf hl)]
  rw [if_pos (by omega), hline, if_neg (by simp)]

/-- No byte of storage outside the range changes. -/
theorem Store.homeByte_discard (hal : l % 128 = 0) (hn : n % 128 = 0) {b : Nat} (hb : ¬(l ≤ b ∧ b < l + n)) :
    (st.discard d l n).homeByte b = st.homeByte b := by
  have hout : ¬(l / 128 ≤ b / 128 ∧ b / 128 * 128 < l + n) := by omega
  have hline : (st.discard d l n).lineSt (b / 128) = st.lineSt (b / 128) := by
    rw [Store.discard_unbacked d n hf hl]
    exact Store.lineSt_dropLines_outside (st.dropCopies d l n) hout
  have hread : (st.discard d l n).mem.read b = st.mem.read b := by
    rw [Store.discard_unbacked d n hf hl]
    exact Store.read_dropLines (st.dropCopies d l n) fun q hq e => hout (e ▸ (Store.mem_linesIn.mp hq).2)
  unfold Store.homeByte
  simp only [Store.resolve_plain (Store.discard_forwards d hf hl), Store.resolve_plain hf, hline, hread]

/-- P of the pool falls by the lines of the range that were pinned. -/
theorem Store.pool_discard {p : Pool} (hal : l % 128 = 0) (hend : l % 2 ^ 41 + n ≤ 2 ^ 41) (hnd : (st.lines.map (·.1)).Nodup)
    (hp : st.pool (dieOfLoc l) (poolOfLoc l) = some p) :
    (st.discard d l n).pool (dieOfLoc l) (poolOfLoc l) = some { p with p := p.p - st.pinnedIn l n } := by
  rw [Store.discard_unbacked d n hf hl]
  exact Store.pool_dropRange (st := st.dropCopies d l n) hl hal hend hnd hp

end

theorem Store.mem_writeBack_dirty {st : Store} {ls : List Nat} {k : Nat} : k ∈ (st.writeBack ls).dirty ↔ k ∈ st.dirty ∧ k ∉ ls := by
  unfold Store.writeBack
  simp only []
  split
  next h =>
    rw [List.isEmpty_iff, List.filter_eq_nil_iff] at h
    exact ⟨fun hk => ⟨hk, by simpa using h k hk⟩, And.left⟩
  next => simp +contextual

theorem Store.writeBack_hbm (st : Store) (ls : List Nat) : (st.writeBack ls).hbm =
    (st.dirty.filter ls.contains).foldl (fun h x => h.writes (x * 128) (st.mem.reads (x * 128) 128)) st.hbm := by
  unfold Store.writeBack
  simp only []
  split
  next h =>
    rw [List.isEmpty_iff] at h
    rw [h]; rfl
  next => rfl

/-- Lines that are written to HBM change no byte of the others. -/
theorem Memory.read_foldl_lines_outside (src : Memory) {ls : List Nat} (h : Memory) {b : Nat} (hb : b / 128 ∉ ls) :
    (ls.foldl (fun h x => h.writes (x * 128) (src.reads (x * 128) 128)) h).read b = h.read b := by
  induction ls generalizing h with
  | nil => rfl
  | cons x xs ih =>
    rw [List.mem_cons, not_or] at hb
    rw [List.foldl_cons, ih _ hb.2, Memory.read_writes_outside]
    simp only [Memory.reads, List.length_map, List.length_range]
    omega

/-- And bring the bytes that the caches hold. -/
theorem Memory.read_foldl_lines (src : Memory) {ls : List Nat} {h : Memory} (hwf : h.wf = true) {b : Nat} (hb : b / 128 ∈ ls) :
    (ls.foldl (fun h x => h.writes (x * 128) (src.reads (x * 128) 128)) h).read b = src.read b := by
  induction ls generalizing h with
  | nil => cases hb
  | cons x xs ih =>
    rw [List.foldl_cons]
    by_cases hxs : b / 128 ∈ xs
    · exact ih (Memory.writes_wf _ _ hwf) hxs
    · have hx : b / 128 = x := (List.mem_cons.mp hb).resolve_right hxs
      have hbx : b = x * 128 + b % 128 := by omega
      have hlt : b % 128 < (src.reads (x * 128) 128).length := by simp [Memory.reads, Nat.mod_lt]
      rw [Memory.read_foldl_lines_outside _ _ hxs, hbx, Memory.read_writes _ _ _ hwf hlt]
      simp [Memory.reads, Nat.mod_lt]

/-- The dirty lines that WBACK of a range writes to HBM (02 R58). -/
def Store.dirtyIn (st : Store) (l n : Nat) : List Nat := st.dirty.filter fun x => decide (l / 128 ≤ x) && decide (x * 128 < l + n)

theorem Store.mem_dirtyIn {st : Store} {l n k : Nat} : k ∈ st.dirtyIn l n ↔ k ∈ st.dirty ∧ l / 128 ≤ k ∧ k * 128 < l + n := by
  simp [Store.dirtyIn]

theorem Store.wback_eq (st : Store) (d : Die) (l n : Nat) : st.wback d l n = (st.dropCopies d l n).writeBack (st.dirtyIn l n) := rfl

theorem Store.mem_wback_dirty {st : Store} {d : Die} {l n k : Nat} :
    k ∈ (st.wback d l n).dirty ↔ k ∈ st.dirty ∧ ¬(l / 128 ≤ k ∧ k * 128 < l + n) := by
  rw [Store.wback_eq, Store.mem_writeBack_dirty, Store.mem_dirtyIn]
  change k ∈ st.dirty ∧ _ ↔ _
  constructor
  · exact fun ⟨hk, h⟩ => ⟨hk, fun hin => h ⟨hk, hin⟩⟩
  · exact fun ⟨hk, h⟩ => ⟨hk, fun hin => h hin.2⟩

/-- Where WBACK finds a dirty line HBM takes the bytes that the caches hold. -/
theorem Store.wback_hbm_inside {st : Store} (d : Die) {l n k : Nat} (hwf : st.hbm.wf = true) (hk : k ∈ st.dirty) (hl : l / 128 ≤ k)
    (hn : k * 128 < l + n) : (st.wback d l n).hbm.reads (k * 128) 128 = st.mem.reads (k * 128) 128 := by
  rw [Store.wback_eq, Store.writeBack_hbm]
  refine List.map_congr_left fun i hi => ?_
  rw [List.mem_range] at hi
  refine Memory.read_foldl_lines st.mem hwf ?_
  rw [show (k * 128 + i) / 128 = k by omega, List.mem_filter, List.contains_iff_mem]
  exact ⟨hk, Store.mem_dirtyIn.mpr ⟨hk, hl, hn⟩⟩

theorem Store.wback_hbm_outside (st : Store) (d : Die) {l n b : Nat} (hb : ¬(l / 128 ≤ b / 128 ∧ b / 128 * 128 < l + n)) :
    (st.wback d l n).hbm.read b = st.hbm.read b := by
  rw [Store.wback_eq, Store.writeBack_hbm]
  refine Memory.read_foldl_lines_outside _ _ fun hin => hb ?_
  rw [List.mem_filter, List.contains_iff_mem, Store.mem_dirtyIn] at hin
  exact hin.2.2

theorem Store.wback_mem (st : Store) (d : Die) (l n : Nat) : (st.wback d l n).mem = st.mem := by
  rw [Store.wback_eq, Store.writeBack_frame]; rfl

/-! #### The words -/

theorem rangeChecks_whole {u : Bool} {x : Entry} {c : Capture} (h : rangeChecks u x c = none) : (x.caps.getD 1 0).toNat % 128 = 0 := by
  unfold rangeChecks at h
  simp only [] at h
  split at h
  · cases h
  · split at h
    · cases h
    · omega

section

variable {s : State} {i : Instr} {unbacked : Bool} {c : Capture}

/-- The operation with which a word over a range issues. -/
def rangeOp (s : State) (i : Instr) (y : Entry) (l n : Nat) (pend : Bool) : Op :=
  { opOf .W (usesOf i) y (s.store.blocks l n) [] [] with pend := pend }

/-- A word over a range that passes its checks: it is performed as it issues, unless a choice leaves it for its completion (04 R96). -/
theorem State.rangeWord_go (hr : (usesOf i).reads.length = 2)
    (hgo : s.pageGo i c ((s.inHand i).caps.getD 0 0).toNat ((s.inHand i).caps.getD 1 0).toNat (rangeChecks unbacked)) :
    let l := c.h.loc + ((s.inHand i).caps.getD 0 0).toNat; let n := ((s.inHand i).caps.getD 1 0).toNat
    let a := s.acting i; let k := a.choose
    s.rangeWord i unbacked = a.leaving (s.inHand i).uid ((if k.1.testBit 0 then k.2 else k.2.rangeDone a.cur i l n).modBank a.cur fun b =>
      b.issue .W (usesOf i) (s.inHand i).atPage (rangeOp a i (s.inHand i).atPage l n (k.1.testBit 0))) := by
  intro l n a k
  refine (State.pageAccess_go _ hgo (if_pos hr) rfl fun _ => rfl).trans ?_
  simp only [Entry.atPage_caps]
  rfl

/-- A word over a range that a choice leaves for its completion issues with its operation marked, and changes nothing (log entry 61). -/
theorem State.rangeWord_late (hr : (usesOf i).reads.length = 2)
    (hgo : s.pageGo i c ((s.inHand i).caps.getD 0 0).toNat ((s.inHand i).caps.getD 1 0).toNat (rangeChecks unbacked))
    (hlate : (s.choices.headD 0).testBit 0 = true) :
    let t := s.rangeWord i unbacked
    pageIssued s t (s.inHand i) [] false ∧ t.store = s.store ∧ ∃ o ∈ t.here.ops, o.uid = (s.inHand i).uid ∧ o.pend = true := by
  have hbit : (s.acting i).choose.1.testBit 0 = true := by rw [State.choose, State.acting_choices]; exact hlate
  have hword := State.rangeWord_go hr hgo
  simp only [hbit, if_true] at hword
  let o := rangeOp (s.acting i) i (s.inHand i).atPage (c.h.loc + ((s.inHand i).caps.getD 0 0).toNat) ((s.inHand i).caps.getD 1 0).toNat true
  let u := (s.acting i).choose.2.modBank (s.acting i).cur fun b => b.issue .W (usesOf i) (s.inHand i).atPage o
  have hhere : u.here = (s.acting i).here.issue .W (usesOf i) (s.inHand i).atPage o := (s.acting i).choose.2.here_modBank _
  have huid : o.uid = (s.inHand i).uid := (s.inHand i).atPage_uid
  have hmem : o ∈ u.here.ops := by
    rw [hhere, Bank.issue_ops]
    exact List.mem_append_right _ (List.mem_singleton_self o)
  have hpend : (u.bank (s.acting i).cur).unperformed (s.inHand i).uid = true := by
    have hany : (u.here.ops.any fun o => o.uid == (s.inHand i).uid && (o.pend || !o.puts.isEmpty || !o.ent.late.isEmpty)) = true :=
      List.any_eq_true.mpr ⟨o, hmem, by rw [huid, beq_self_eq_true]; rfl⟩
    rw [Bank.unperformed, Bool.or_eq_true, Bool.or_eq_true]
    exact .inl (.inl hany)
  intro t
  have ht : t = u := hword.trans (State.leaving_unperformed hpend)
  rw [ht]
  exact ⟨pageIssued_of_issue hhere huid rfl rfl rfl rfl, s.acting_store i, o, hmem, huid, rfl⟩

/-- A word over a range that is performed as it issues, where that changes the storage alone. -/
theorem State.rangeWord_performed (hr : (usesOf i).reads.length = 2)
    (hgo : s.pageGo i c ((s.inHand i).caps.getD 0 0).toNat ((s.inHand i).caps.getD 1 0).toNat (rangeChecks unbacked))
    (hnow : (s.choices.headD 0).testBit 0 = false) {st : Store}
    (hdone : (s.acting i).choose.2.rangeDone (s.acting i).cur i (c.h.loc + ((s.inHand i).caps.getD 0 0).toNat)
      ((s.inHand i).caps.getD 1 0).toNat = (s.acting i).choose.2.modStore fun _ => st) :
    let t := s.rangeWord i unbacked
    pageIssued s t (s.inHand i) [] false ∧ ∃ as, t.store = { st with arrivals := as } := by
  have hbit : (s.acting i).choose.1.testBit 0 = false := by rw [State.choose, State.acting_choices]; exact hnow
  have hword := State.rangeWord_go hr hgo
  simp only [hbit, hdone, Bool.false_eq_true, if_false] at hword
  let o := rangeOp (s.acting i) i (s.inHand i).atPage (c.h.loc + ((s.inHand i).caps.getD 0 0).toNat) ((s.inHand i).caps.getD 1 0).toNat false
  let u := (s.acting i).choose.2.modStore fun _ => st
  have hhere := u.here_modBank fun b => b.issue .W (usesOf i) (s.inHand i).atPage o
  obtain ⟨as, hleft⟩ := (s.acting i).leaving_eq (s.inHand i).uid (u.modBank u.cur fun b => b.issue .W (usesOf i) (s.inHand i).atPage o)
  intro t
  have ht : t = _ := hword.trans hleft
  rw [ht]
  exact ⟨pageIssued_of_issue (i := i) hhere (s.inHand i).atPage_uid rfl rfl rfl rfl, as, rfl⟩

end

/-- DISCARD performed where nothing is logged and no access is still to be performed. -/
theorem State.rangeDone_discard {s : State} (hoff : s.filtersOff) (hnone : s.nonePends) (b : BankId) (a : PageR) (l n : Nat) :
    ∃ ws, s.rangeDone b (.discard a) l n = s.modStore fun _ => ({ s.store with waits := ws } : Store).discard (dieOf b) l n := by
  obtain ⟨ws, h⟩ := State.performFirst_nonePends hnone (s.store.resolve l) n
  refine ⟨ws, ?_⟩
  rw [State.rangeDone, s.traffic_off _ _ _ _ hoff, h]
  rfl

/-- WBACK performed where nothing is logged and no error is stored. -/
theorem State.rangeDone_wback {s : State} (hoff : s.filtersOff) (hclean : s.store.clean = true) (b : BankId) (a : PageR) (l n : Nat) :
    s.rangeDone b (.wback a) l n = s.modStore fun _ => s.store.wback (dieOf b) l n := by
  have hsense : s.senseDirty l n = s := by
    simp only [Store.clean, Bool.and_eq_true, List.isEmpty_iff] at hclean
    obtain ⟨⟨⟨hecc, -⟩, htag⟩, -⟩ := hclean
    simp [State.senseDirty, hecc, htag]
  rw [State.rangeDone, hsense, s.traffic_off _ _ _ _ hoff]
  rfl

/-- Settles O17: DISCARD drops the lines of its range and WBACK writes its dirty lines back, in the one step of their issue, or by a choice at
their completion. -/
theorem pageRanges : Obligations.PageRanges := by
  intro s a c
  refine ⟨fun i hi => ?late, fun hoff hnone hfwd hnow => ⟨?discard, ?wback⟩⟩
  case late =>
    intro x hgo hlate
    rw [List.mem_cons, List.mem_singleton] at hi
    obtain rfl | rfl := hi
    · rw [beq_self_eq_true] at hgo
      exact ⟨_, rfl, State.rangeWord_late rfl hgo hlate⟩
    · rw [beq_eq_false_iff_ne.mpr (by simp)] at hgo
      exact ⟨_, rfl, State.rangeWord_late rfl hgo hlate⟩
  case discard =>
    intro i x o n l hgo hl hal
    obtain ⟨ws, hdone⟩ := State.rangeDone_discard (s := (s.acting i).choose.2) (s.acting_filtersOff i hoff) (s.acting_nonePends i hnone)
      (s.acting i).cur a l n
    obtain ⟨hissued, as, hstore⟩ := State.rangeWord_performed rfl hgo hnow hdone
    have hwhole : n % 128 = 0 := rangeChecks_whole hgo.2.2.2.1
    have hbase : ({ (s.acting i).choose.2.store with waits := ws } : Store) = { s.store with waits := ws } :=
      congrArg (fun st : Store => { st with waits := ws }) (s.acting_store i)
    rw [hbase] at hstore
    let st : Store := { s.store with waits := ws }
    have hf : st.forwards = [] := hfwd
    refine ⟨_, rfl, hissued, fun q hq => ?_, fun d b hb hb' => ?_, fun b hb => ?_, ?_, fun hend hnd q hq => ?_⟩
    · rw [hstore] at hq
      have hq' : q ∈ (st.discard (dieOf (s.acting i).cur) l n).lines := hq
      rw [Store.discard_lines _ hf hl, List.mem_filter] at hq'
      have hout := hq'.2
      simp only [Bool.not_eq_true', Bool.and_eq_false_iff, decide_eq_false_iff_not] at hout
      omega
    all_goals rw [hstore]
    · exact Store.viewByte_discard (st := st) _ hf hl hal d hb hb'
    · exact Store.homeByte_discard (st := st) _ hf hl hal hwhole hb
    · exact Store.discard_hbm (st := st) _ hf hl
    · exact Store.pool_discard (st := st) _ hf hl hal hend hnd hq
  case wback =>
    intro i x o n l hgo herr
    have hdone := State.rangeDone_wback (s := (s.acting i).choose.2) (s.acting_filtersOff i hoff) ((s.acting_store i).symm ▸ herr.1)
      (s.acting i).cur a l n
    obtain ⟨hissued, as, hstore⟩ := State.rangeWord_performed rfl hgo hnow hdone
    rw [show (s.acting i).choose.2.store = s.store from s.acting_store i] at hstore
    refine ⟨_, rfl, hissued, fun k hk => ?_, fun k hk hout => ?_, fun hwf k hk hl hn => ?_, fun b hb => ?_, ?_⟩
    · rw [hstore] at hk
      exact Store.mem_wback_dirty.mp hk
    all_goals rw [hstore]
    · exact Store.mem_wback_dirty.mpr ⟨hk, hout⟩
    · exact Store.wback_hbm_inside _ hwf hk hl hn
    · exact Store.wback_hbm_outside s.store _ hb
    · exact Store.wback_mem s.store _ l n

end Sys2Proof.Machine

/-! ### The leaf of a page that has moved (01 R33, Table 1.3; 02 R52 step 5, R60 step 4) -/

namespace Sys2Proof.Machine

open Sys2Proof

/-- The fields of an entry, from its low end: R, W, X, U and LF with V and the mark of a leaf, HOME, zeros, POOL, UPN, GEN, zeros (01 Table
1.3). -/
structure LeafFields where
  lo : Nat
  home : Nat
  mid : Nat
  pool : Nat
  upn : Nat
  gen : Nat
  top : Nat

/-- The number that fields make. -/
def LeafFields.num (x : LeafFields) : Nat :=
  x.lo + x.home * 2 ^ 7 + x.mid * 2 ^ 9 + x.pool * 2 ^ 15 + x.upn * 2 ^ 23 + x.gen * 2 ^ 48 + x.top * 2 ^ 56

/-- Each field fits its bits. -/
structure LeafFields.Fit (x : LeafFields) : Prop where
  lo : x.lo < 2 ^ 7
  home : x.home < 2 ^ 2
  mid : x.mid < 2 ^ 6
  pool : x.pool < 2 ^ 8
  upn : x.upn < 2 ^ 25
  gen : x.gen < 2 ^ 8
  top : x.top < 2 ^ 8

/-- The fields of an entry. -/
def leafFields (e : Word) : LeafFields where
  lo := e.toNat % 2 ^ 7
  home := fieldOf e 7 2
  mid := fieldOf e 9 6
  pool := fieldOf e 15 8
  upn := fieldOf e 23 25
  gen := fieldOf e 48 8
  top := fieldOf e 56 8

theorem leafFields_fit (e : Word) : (leafFields e).Fit :=
  ⟨Nat.mod_lt _ (Nat.two_pow_pos _), fieldOf_lt .., fieldOf_lt .., fieldOf_lt .., fieldOf_lt .., fieldOf_lt .., fieldOf_lt ..⟩

theorem leafFields_num (e : Word) : (leafFields e).num = e.toNat := by
  have he := e.isLt
  simp only [LeafFields.num, leafFields, fieldOf]
  omega

/-- An entry that is made of fields has those fields. -/
theorem leafFields_ofNat {x : LeafFields} (h : x.Fit) : leafFields (BitVec.ofNat 64 x.num) = x := by
  obtain ⟨lo, home, mid, pool, upn, gen, top⟩ := x
  obtain ⟨h1, h2, h3, h4, h5, h6, h7⟩ := h
  simp only at h1 h2 h3 h4 h5 h6 h7
  have hlt : (BitVec.ofNat 64 (LeafFields.num ⟨lo, home, mid, pool, upn, gen, top⟩)).toNat
      = lo + home * 2 ^ 7 + mid * 2 ^ 9 + pool * 2 ^ 15 + upn * 2 ^ 23 + gen * 2 ^ 48 + top * 2 ^ 56 := by
    rw [BitVec.toNat_ofNat, LeafFields.num]
    simp only
    omega
  simp only [leafFields, fieldOf, hlt, LeafFields.mk.injEq]
  refine ⟨?_, ?_, ?_, ?_, ?_, ?_, ?_⟩
  all_goals omega

theorem leafU_eq (e : Word) : leafU e = decide ((leafFields e).lo / 2 ^ 5 % 2 = 1) := by
  rw [leafU, BitVec.getLsbD, Nat.testBit_eq_decide_div_mod_eq, leafFields]
  simp only [decide_eq_decide]
  omega

theorem leafLf_eq (e : Word) : leafLf e = decide ((leafFields e).lo / 2 ^ 6 % 2 = 1) := by
  rw [leafLf, BitVec.getLsbD, Nat.testBit_eq_decide_div_mod_eq, leafFields]
  simp only [decide_eq_decide]
  omega

/-- Fields that fit, and whose number is that of an entry, are its fields. -/
theorem leafFields_of_num {e : Word} {x : LeafFields} {k : Nat} (he : e = BitVec.ofNat 64 k) (h : x.Fit) (hk : k = x.num) : leafFields e = x := by
  rw [he, hk]; exact leafFields_ofNat h

theorem leafFields_genUp (e : Word) : leafFields (leafGenUp e) = { leafFields e with gen := ((leafFields e).gen + 1) % 256 } := by
  have hfit := leafFields_fit e
  refine leafFields_of_num rfl ⟨hfit.lo, hfit.home, hfit.mid, hfit.pool, hfit.upn, Nat.mod_lt _ (by decide), hfit.top⟩ ?_
  have hnum := leafFields_num e
  obtain ⟨h1, h2, h3, h4, h5, h6, h7⟩ := hfit
  rw [show fieldOf e 48 8 = (leafFields e).gen from rfl, ← hnum]
  simp only [LeafFields.num]
  generalize leafFields e = x at h1 h2 h3 h4 h5 h6 h7
  omega

/-- The leaf of a page that has moved to another pool: HOME and POOL name it, and GEN has counted up (02 R60 step 4). -/
theorem leafFields_moved (e : Word) {home pool : Nat} (hh : home < 4) (hp : pool < 256) : leafFields (leafMoved e home pool) =
    { leafFields e with home := home, pool := pool, gen := ((leafFields e).gen + 1) % 256 } := by
  have hfit := leafFields_fit (leafGenUp e)
  have hnum := leafFields_num (leafGenUp e)
  have hup := leafFields_genUp e
  have heq : ({ leafFields e with home := home, pool := pool, gen := ((leafFields e).gen + 1) % 256 } : LeafFields)
      = { leafFields (leafGenUp e) with home := home, pool := pool } := by rw [hup]
  rw [heq]
  refine leafFields_of_num rfl ⟨hfit.lo, hh, hfit.mid, hp, hfit.upn, hfit.gen, hfit.top⟩ ?_
  obtain ⟨h1, h2, h3, h4, h5, h6, h7⟩ := hfit
  rw [← hnum]
  simp only [LeafFields.num]
  generalize leafFields (leafGenUp e) = x at h1 h2 h3 h4 h5 h6 h7
  omega

/-- The leaf of a page that has become backed: ADDR names its frame and HOME its die, U and LF are 0, the rights are as they were, and GEN
has counted up (02 R52 step 5). -/
theorem leafFields_backed (e : Word) {f home : Nat} (hf : f < 2 ^ 48) (hal : f % 2 ^ 15 = 0) (hh : home < 4) : leafFields (leafBacked e f home) =
    { leafFields e with
      lo := (leafFields e).lo % 32, home := home, mid := 0, pool := f / 2 ^ 15 % 2 ^ 8, upn := f / 2 ^ 23
      gen := ((leafFields e).gen + 1) % 256 } := by
  have hfit := leafFields_fit e
  have hnum := leafFields_num (leafGenUp e)
  have hlow : e.toNat % 32 = (leafFields e).lo % 32 := by simp only [leafFields]; omega
  rw [leafFields_genUp e] at hnum
  obtain ⟨h1, h2, h3, h4, h5, h6, h7⟩ := hfit
  refine leafFields_of_num rfl ⟨?_, hh, Nat.two_pow_pos 6, Nat.mod_lt _ (Nat.two_pow_pos 8), ?_, Nat.mod_lt _ (by decide), h7⟩ ?_
  · exact Nat.lt_trans (Nat.mod_lt _ (by decide)) (by decide)
  · simp only; omega
  · rw [← hnum, hlow]
    simp only [LeafFields.num]
    generalize leafFields e = x at h1 h2 h3 h4 h5 h6 h7
    omega

end Sys2Proof.Machine

/-! ### The end of a move: its leaf is rewritten, and a forwarding entry and an invalidation stand (02 R52 step 5, R60 step 4) -/

namespace Sys2Proof.Machine

open Sys2Proof

theorem entryPa_eq (e : Word) : entryPa e = ((leafFields e).pool + (leafFields e).upn * 2 ^ 8) * 2 ^ 15 := by
  simp only [entryPa, leafFields, fieldOf]
  omega

/-- The locations of HBM lie below those of the fabric window and of the unbacked pages (01 R13). -/
theorem regionOf_hbm_lt {l : Nat} {d : Die} (h : regionOf l = .hbm d) : l < 0x8000000000 := by
  unfold regionOf at h
  split at h
  · cases h
  · split at h
    · cases h
    · split at h
      · assumption
      · simp only [] at h
        split at h
        · split at h
          · cases h
          · split at h
            · split at h <;> cases h
            · split at h
              · cases h
              · split at h <;> cases h
        · cases h

/-! #### Units that are poison in their L2 -/

/-- The L2 holds a unit as poison. -/
def Store.poisoned (st : Store) (u : Nat) : Prop := (st.ecc.find? fun p => p.1 == u).map (·.2) = some .poison

theorem Store.unitEcc_of_poisoned {st : Store} {u : Nat} (h : st.poisoned u) : st.unitEcc u = some .poison := by
  rw [Store.unitEcc, h]; rfl

/-- Check bits of other units leave it. -/
theorem Store.setEcc_poisoned {st : Store} {u v : Nat} (x : Option Ecc) (hv : v ≠ u) (h : st.poisoned u) : (st.setEcc v x).poisoned u := by
  have hrest : ((st.ecc.filter fun p => p.1 != v).find? fun p => p.1 == u) = st.ecc.find? fun p => p.1 == u := by
    rw [List.find?_filter]
    congr 1
    funext p
    by_cases hp : p.1 = u <;> simp [hp, hv.symm]
  unfold Store.poisoned Store.setEcc
  cases x with
  | none => simp only [hrest]; exact h
  | some y => rw [List.find?_cons_of_neg (by simpa using hv), hrest]; exact h

theorem Store.writeEcc_poisoned {st : Store} {u v : Nat} (l n : Nat) (hv : v ≠ u) (h : st.poisoned u) : (st.writeEcc l n v).poisoned u := by
  unfold Store.writeEcc
  split
  · exact Store.setEcc_poisoned none hv h
  · split
    · exact (Store.setEcc_poisoned (some .poison) hv h :)
    · exact (Store.setEcc_poisoned (some .poison) hv h :)
    · exact Store.setEcc_poisoned none hv h
    · exact h

/-- A line that comes from HBM brings poison and no other check bits. -/
theorem Store.fillLine_poisoned {st : Store} {u : Nat} (line : Nat) (h : st.poisoned u) : (st.fillLine line).poisoned u := by
  unfold Store.fillLine
  split
  · exact h
  · unfold Store.poisoned
    simp only [List.find?_append]
    generalize hnew : List.find? _ (List.map _ _) = new
    cases new with
    | none => exact h
    | some p =>
      obtain ⟨v, -, rfl⟩ := List.mem_map.mp (List.mem_of_find?_eq_some hnew)
      rfl

theorem Store.evict_poisoned {st : Store} {u line : Nat} (hu : u / 16 ≠ line) (h : st.poisoned u) : (st.evict line).poisoned u := by
  have hecc : (st.evict line).ecc = st.ecc.filter fun p => p.1 / 16 != line := by
    unfold Store.evict
    rw [Store.writeBack_frame]
  unfold Store.poisoned
  rw [hecc, List.find?_filter, ← h]
  congr 2
  funext p
  by_cases hp : p.1 = u <;> simp [hp, hu]

/-- A fold of operations on units or lines keeps a unit poisoned where each does. -/
theorem Store.foldl_poisoned {f : Store → Nat → Store} {u : Nat} (xs : List Nat) {st : Store} (h : st.poisoned u)
    (hf : ∀ t, ∀ x ∈ xs, t.poisoned u → (f t x).poisoned u) : (xs.foldl f st).poisoned u := by
  induction xs generalizing st with
  | nil => exact h
  | cons x xs ih => exact ih (hf st x List.mem_cons_self h) fun t y hy => hf t y (List.mem_cons_of_mem _ hy)

/-- A write leaves the poison of the lines that it does not reach. -/
theorem Store.putAt_poisoned {st : Store} (d : Die) {l u : Nat} (bs : List Byte) (hu : ¬(l / 128 ≤ u / 16 ∧ u / 16 * 128 < l + bs.length))
    (h : st.poisoned u) : (st.putAt d l bs).poisoned u := by
  have hunits : ∀ v ∈ unitsOf l bs.length, v ≠ u := by
    intro v hv
    unfold unitsOf at hv
    split at hv
    · cases hv
    · obtain ⟨i, hi, rfl⟩ := List.mem_map.mp hv
      rw [List.mem_range] at hi
      omega
  have hlines : ∀ x ∈ linesOf l bs.length, u / 16 ≠ x := by
    intro x hx
    unfold linesOf at hx
    split at hx
    · cases hx
    · obtain ⟨i, hi, rfl⟩ := List.mem_map.mp hx
      rw [List.mem_range] at hi
      omega
  have hfill : (if st.hbmEcc.isEmpty then st else (linesOf l bs.length).foldl Store.fillLine st).poisoned u := by
    split
    · exact h
    · exact Store.foldl_poisoned _ h fun t x _ ht => Store.fillLine_poisoned x ht
  have hwrite := Store.foldl_poisoned (f := fun st u => st.writeEcc l bs.length u) (unitsOf l bs.length) hfill fun t v hv ht =>
    Store.writeEcc_poisoned l bs.length (hunits v hv) ht
  unfold Store.putAt
  simp only []
  generalize (unitsOf l bs.length).foldl _ _ = st1 at hwrite
  split
  · exact hwrite
  · exact Store.foldl_poisoned (f := Store.evict) _ hwrite fun t x hx ht => Store.evict_poisoned (hlines x (List.mem_of_mem_filter hx)) ht

/-! #### The rewriting of an entry in HBM -/

/-- A state in which an entry in HBM is written by itself: nothing is logged or forwarded, no task is saved, no tag has an error, and HBM
holds no error that a read would change. -/
structure State.still (v : State) : Prop where
  filters : v.filtersOff
  frames : v.frames = []
  forwards : v.store.forwards = []
  tags : v.store.tagEcc = []
  hbm : ∀ p ∈ v.store.hbmEcc, p.2 = .poison

/-- The line of an entry comes into its L2 with poison at most. -/
theorem State.openLine_still {v : State} (h : v.still) (addr : Nat) :
    ∃ e g, v.openLine addr = v.modStore (fun st => { st with ecc := e, hbmEcc := g })
    ∧ ∀ u, v.store.poisoned u → ({ v.store with ecc := e, hbmEcc := g } : Store).poisoned u := by
  have htags : v.senseHomeTagBy State.countQuiet (addr / 128) = v := by rw [State.senseHomeTagBy, h.tags]; rfl
  have hgroup (k : Nat) : v.store.hbmGroup k = none := by
    rw [Store.hbmGroup, Option.map_eq_none_iff, List.find?_eq_none]
    intro p hp
    simp [h.hbm p hp]
  rw [State.openLine, htags, State.senseHbmBy]
  split
  · exact ⟨v.store.ecc, v.store.hbmEcc, rfl, fun _ hu => hu⟩
  · simp only [hgroup]
    refine ⟨(v.store.fillLine (addr / 8 / 16)).ecc, (v.store.fillLine (addr / 8 / 16)).hbmEcc, ?_, fun u hu => Store.fillLine_poisoned _ hu⟩
    exact congrArg (fun st => { v with store := st }) (v.store.fillLine_frame _)

/-- An entry in HBM is written, and its page lies where it lay. -/
theorem State.writeEntry_still {v : State} (h : v.still) {addr : Nat} {d : Die} (hr : regionOf addr = .hbm d) (e : Word) :
    ∃ st, v.writeEntry addr e = v.modStore (fun _ => st) ∧ st.lines = v.store.lines ∧ st.pools = v.store.pools
      ∧ st.mem = v.store.mem.writes addr (leBytes 8 e.toNat) ∧ st.forwards = []
      ∧ ∀ u, ¬(addr / 128 ≤ u / 16 ∧ u / 16 * 128 < addr + 8) → v.store.poisoned u → st.poisoned u := by
  obtain ⟨c, g, hopen, hpoison⟩ := State.openLine_still h addr
  have hlt := regionOf_hbm_lt hr
  let st0 : Store := { v.store with ecc := c, hbmEcc := g }
  have hput : st0.writeEntry addr e = st0.putAt d addr (leBytes 8 e.toNat) := by
    have hres : st0.resolve addr = addr := Store.resolve_plain h.forwards addr
    rw [Store.writeEntry, hr]
    simp only []
    rw [Store.put_whole d addr _ (.inl (by omega)), hres]
  refine ⟨st0.putAt d addr (leBytes 8 e.toNat), ?_, ?_, ?_, ?_, ?_, fun u hu hp => ?_⟩
  · have hoff : (v.modStore fun st => { st with ecc := c, hbmEcc := g }).filtersOff := h.filters
    rw [State.writeEntry, hopen, State.traffic_off _ _ _ _ _ hoff, ← hput]
    rfl
  · rw [Store.putAt_frame]
  · rw [Store.putAt_frame]
  · rw [Store.putAt_frame]
  · rw [Store.putAt_frame]; exact h.forwards
  · exact Store.putAt_poisoned d _ (by rwa [leBytes_length]) (hpoison u hp)

end Sys2Proof.Machine

/-! ### A page found at its new place (02 R52, R60) -/

namespace Sys2Proof.Machine

open Sys2Proof

/-- `st` is `v` with the entry `e` written at `addr`, and the one forwarding entry of it leads from the `n` bytes at `l` to `dst`; poison out of
the entry's line is as it was. -/
structure Store.Forwarded (v st : Store) (l n dst addr : Nat) (e : Word) : Prop where
  lines : st.lines = v.lines
  mem : st.mem = v.mem.writes addr (leBytes 8 e.toNat)
  forwards : ∃ f, st.forwards = [f] ∧ f.src = l ∧ f.len = n ∧ f.dst = dst
  poison : ∀ u, ¬(addr / 128 ≤ u / 16 ∧ u / 16 * 128 < addr + 8) → v.poisoned u → st.poisoned u

section

variable {v st : Store} {l n dst addr : Nat} {e : Word} (h : v.Forwarded st l n dst addr e)
include h

theorem Store.Forwarded.resolve_in {k : Nat} (hk : k < n) : st.resolve (l + k) = dst + k := by
  obtain ⟨f, hf, rfl, rfl, rfl⟩ := h.forwards
  rw [Store.resolve, hf, List.foldl_cons, List.foldl_nil, if_pos (by omega), Nat.add_sub_cancel_left]

theorem Store.Forwarded.resolve_out {a : Nat} (ha : ¬(l ≤ a ∧ a < l + n)) : st.resolve a = a := by
  obtain ⟨f, hf, rfl, rfl, rfl⟩ := h.forwards
  rw [Store.resolve, hf, List.foldl_cons, List.foldl_nil, if_neg ha]

theorem Store.Forwarded.lineSt (line : Nat) : st.lineSt line = v.lineSt line := by rw [Store.lineSt, h.lines]; rfl

theorem Store.Forwarded.read {a : Nat} (ha : a < addr ∨ addr + 8 ≤ a) : st.mem.read a = v.mem.read a := by
  rw [h.mem, Memory.read_writes_outside _ _ _ _ (by rwa [leBytes_length])]

/-- The entry reads as written. -/
theorem Store.Forwarded.entry (hwf : v.mem.wf = true) (hl : 2 ^ 48 ≤ l) (haddr : addr + 8 ≤ 2 ^ 48) :
    BitVec.ofNat 64 (st.homeNat addr 8) = e := by
  have hbyte : ∀ i ∈ List.range 8, st.homeByte (addr + i) = (leBytes 8 e.toNat).getD i 0 := by
    intro i hi
    rw [List.mem_range] at hi
    unfold Store.homeByte
    simp only [h.resolve_out (a := addr + i) (by omega)]
    rw [if_neg (by omega), h.mem]
    exact Memory.read_writes addr i _ hwf (by rwa [leBytes_length])
  rw [Store.homeNat, List.map_congr_left hbyte, map_range_getD _ 8 _ (leBytes_length ..), leNat_leBytes]
  exact BitVec.eq_of_toNat_eq (by simp [Nat.mod_eq_of_lt e.isLt])

end

/-! #### The end of a move whose leaf still names its page -/

/-- The leaf of a VA depends on the roots and on the bytes at their homes. -/
theorem Store.leafAt_congr {st st' : Store} (h : ∀ a n, st.homeNat a n = st'.homeNat a n) (va level table : Nat) :
    st.leafAt va level table = st'.leafAt va level table := by
  induction level generalizing table with
  | zero => rfl
  | succ level ih =>
    unfold Store.leafAt
    simp only [h, ih]

theorem State.leafAt_congr {s t : State} (hx : t.xl = s.xl) (h : ∀ a n, t.store.homeNat a n = s.store.homeNat a n) (asn : BitVec 12) (va : Nat) :
    t.leafAt asn va = s.leafAt asn va := by
  unfold State.leafAt
  rw [hx]
  split
  · exact Store.leafAt_congr h ..
  · rfl

/-- 02 R52 step 5, R60 steps 4 and 5: the leaf is rewritten, the forwarding entry stands, and the invalidation of the page has begun. -/
theorem State.finishMove_still {v : State} (h : v.still) {asn : BitVec 12} {va l addr : Nat} {e : Word} {d : Die}
    (hleaf : v.leafAt asn va = some (addr, e)) (hu : leafU e = true) (hloc : leafLoc e = l) (hr : regionOf addr = .hbm d) (n dst : Nat)
    (pool : Option (Die × Nat)) (new : Word → Word) (pgmig : Option (BankId × Nat)) :
    let u := v.finishMove asn va l n dst pool new pgmig
    v.store.Forwarded u.store l n dst addr (new e) ∧ u.store.pools = v.store.pools ∧ moveInvalidates v u asn va l n dst pgmig
      ∧ u.xl.next = v.xl.next + 1 := by
  obtain ⟨st, hwrite, hlines, hpools, hmem, hfwd, hpoison⟩ := State.writeEntry_still h hr (new e)
  let f : Forward := { src := l, len := n, dst := dst, inval := v.xl.next, orphan := false, pool := pool }
  let w : State := v.modStore fun _ => { st with forwards := st.forwards ++ [f] }
  intro u
  have hnamed : u = w.invalidate asn (va / n * n) n pgmig := by
    have hcond : (leafU e && decide (leafLoc e = l)) = true := by simp [hu, hloc]
    simp only [u, State.finishMove, hleaf]
    rw [if_pos hcond, hwrite]
    rfl
  have hstore : u.store = w.store.dropWaits asn (va / n * n) n := by
    rw [hnamed]; exact State.invalidate_store w _ _ _ _ _ h.frames
  obtain ⟨hinv, hnext, -, -⟩ := w.invalidate_translation asn (va / n * n) n pgmig []
  have hf : u.store.forwards = [f] := by
    rw [hstore]
    change st.forwards ++ [f] = [f]
    rw [hfwd]; rfl
  refine ⟨⟨?_, ?_, ⟨f, hf, rfl, rfl, rfl⟩, fun k hk hp => ?_⟩, ?_, ⟨?_, f, ?_, rfl, rfl, rfl, rfl⟩, ?_⟩
  · rw [hstore]; exact hlines
  · rw [hstore]; exact hmem
  · rw [hstore]; exact hpoison k hk hp
  · rw [hstore]; exact hpools
  · refine ⟨w.newInval asn (va / n * n) n pgmig [], ?_, rfl, rfl, rfl, rfl, rfl, rfl⟩
    rw [hnamed, hinv]
    exact List.mem_append_right _ (List.mem_singleton_self _)
  · rw [hf]; exact List.mem_singleton_self f
  · rw [hnamed]; exact hnext

/-! #### Pages (01 R16, R17; 02 R41) -/

/-- `n` bytes at `l` are a page of one of the two sizes, of unbacked lines. -/
structure isUnbackedPage (l n : Nat) : Prop where
  size : n = 0x10000 ∨ n = 0x10000000
  aligned : l % n = 0
  unbacked : 2 ^ 48 ≤ l

section

variable {l n : Nat} (h : isUnbackedPage l n)
include h

theorem isUnbackedPage.lines : l % 128 = 0 ∧ n % 128 = 0 := by
  obtain ⟨rfl | rfl, hal, -⟩ := h <;> omega

/-- A page lies in the locations of one pool. -/
theorem isUnbackedPage.within : l % 2 ^ 41 + n ≤ 2 ^ 41 := by
  obtain ⟨rfl | rfl, hal, -⟩ := h <;> omega

/-- Two pages of one size and of different pools are apart. -/
theorem isUnbackedPage.apart {k : Nat} (h' : isUnbackedPage k n) (hne : ¬(dieOfLoc l = dieOfLoc k ∧ poolOfLoc l = poolOfLoc k)) :
    l + n ≤ k ∨ k + n ≤ l := by
  by_contra hmeet
  have heq : l = k := by
    obtain ⟨rfl | rfl, hal, -⟩ := h
    · have := h'.aligned; omega
    · have := h'.aligned; omega
  exact hne (heq ▸ ⟨rfl, rfl⟩)

theorem isUnbackedPage.poolOfLine {line : Nat} (hl : l / 128 ≤ line) (hn : line * 128 < l + n) :
    dieOfLine line = dieOfLoc l ∧ Machine.poolOfLine line = poolOfLoc l :=
  poolOfLine_of_range h.unbacked h.lines.1 h.within hl hn

/-- The page with the same number in another pool. -/
theorem isUnbackedPage.elsewhere (d : Die) {p : Nat} (hp : p < 256) :
    isUnbackedPage (unbackedLoc d.val p (upnOfLoc l)) n ∧ dieOfLoc (unbackedLoc d.val p (upnOfLoc l)) = d
      ∧ poolOfLoc (unbackedLoc d.val p (upnOfLoc l)) = p := by
  have hd := d.isLt
  have hupn : upnOfLoc l < 2 ^ 25 := Nat.mod_lt _ (Nat.two_pow_pos 25)
  have hloc : unbackedLoc d.val p (upnOfLoc l) = 2 ^ 48 + ((d.val * 256 + p) * 2 ^ 25 + upnOfLoc l) * 2 ^ 16 := rfl
  have hoff : unbackedLoc d.val p (upnOfLoc l) - 2 ^ 48 = ((d.val * 256 + p) * 2 ^ 25 + upnOfLoc l) * 2 ^ 16 := by
    rw [hloc, Nat.add_sub_cancel_left]
  have hpool : (((d.val * 256 + p) * 2 ^ 25 + upnOfLoc l) * 2 ^ 16) / 2 ^ 41 = d.val * 256 + p := by omega
  have hdie : (((d.val * 256 + p) * 2 ^ 25 + upnOfLoc l) * 2 ^ 16) / 2 ^ 49 = d.val := by omega
  refine ⟨⟨h.size, ?_, ?_⟩, ?_, ?_⟩
  · obtain ⟨rfl | rfl, hal, -⟩ := h
    · rw [hloc]; omega
    · have hpart : upnOfLoc l % 4096 = 0 := by unfold upnOfLoc; omega
      rw [hloc]; omega
  · rw [hloc]; exact Nat.le_add_right ..
  · rw [dieOfLoc, hoff, hdie]; exact Fin.ext (Nat.mod_eq_of_lt hd)
  · rw [poolOfLoc, hoff, hpool]; omega

end

end Sys2Proof.Machine

/-! ### The lines of a page under another die and pool (02 R60 step 2) -/

namespace Sys2Proof.Machine

open Sys2Proof

/-- The bytes of a page written at its new place, and its lines dropped at the old one. -/
def Store.copiedTo (st : Store) (l n dst : Nat) : Store :=
  ({ st with mem := st.mem.copy l n dst, ecc := copyEcc st.ecc l n dst } : Store).dropLines (st.linesIn l n)

/-- Where no line has the new numbers, the lines of the page stand under them. -/
theorem Store.toUnbacked_eq {st : Store} {l n dst : Nat} (h : st.linesIn dst n = []) : st.toUnbacked l n dst =
    ({ st.copiedTo l n dst with
      lines := (st.linesIn l n).map (fun q => (q.1 - l / 128 + dst / 128, q.2)) ++ (st.copiedTo l n dst).lines } : Store).modPool
        (dieOfLoc dst) (poolOfLoc dst) fun p => { p with p := p.p + st.pinnedIn l n } := by
  unfold Store.toUnbacked
  rw [h]
  rfl

theorem Store.toUnbacked_wf {st : Store} {l n dst : Nat} (hfree : st.linesIn dst n = []) (hwf : st.mem.wf = true) :
    (st.toUnbacked l n dst).mem.wf = true := by
  rw [Store.toUnbacked_eq hfree]
  exact Store.dropLines_wf _ (Memory.copy_wf l n dst hwf)

/-- P of the target pool grows by the pinned lines. -/
theorem Store.pool_toUnbacked_target {st : Store} {l n dst : Nat} (hfree : st.linesIn dst n = []) (hl : isUnbackedPage l n)
    (hne : ¬(dieOfLoc l = dieOfLoc dst ∧ poolOfLoc l = poolOfLoc dst)) {p : Pool}
    (hp : st.pool (dieOfLoc dst) (poolOfLoc dst) = some p) :
    (st.toUnbacked l n dst).pool (dieOfLoc dst) (poolOfLoc dst) = some { p with p := p.p + st.pinnedIn l n } := by
  rw [Store.toUnbacked_eq hfree]
  refine Store.pool_modPool (f := fun p => { p with p := p.p + st.pinnedIn l n }) ?_ rfl rfl
  refine (Store.pool_dropLines_ne ({ st with mem := st.mem.copy l n dst, ecc := copyEcc st.ecc l n dst } : Store) fun q hq hkey => hne ?_).trans hp
  obtain ⟨-, hq, hq'⟩ := Store.mem_linesIn.mp hq
  obtain ⟨hdie, hpool⟩ := hl.poolOfLine hq hq'
  exact ⟨hdie.symm.trans hkey.1.symm, hpool.symm.trans hkey.2.symm⟩

/-- P of the source pool falls by them. -/
theorem Store.pool_toUnbacked_source {st : Store} {l n dst : Nat} (hfree : st.linesIn dst n = []) (hl : isUnbackedPage l n)
    (hne : ¬(dieOfLoc l = dieOfLoc dst ∧ poolOfLoc l = poolOfLoc dst)) (hnd : (st.lines.map (·.1)).Nodup)
    {p : Pool} (hp : st.pool (dieOfLoc l) (poolOfLoc l) = some p) :
    (st.toUnbacked l n dst).pool (dieOfLoc l) (poolOfLoc l) = some { p with p := p.p - st.pinnedIn l n } := by
  rw [Store.toUnbacked_eq hfree, Store.pool_modPool_ne _ (f := fun p => { p with p := p.p + st.pinnedIn l n }) hne fun _ hd hn => ⟨hd, hn⟩]
  exact Store.pool_dropRange (st := { st with mem := st.mem.copy l n dst, ecc := copyEcc st.ecc l n dst }) hl.unbacked hl.lines.1 hl.within hnd hp

section

variable {st : Store} {l n dst : Nat} (hfree : st.linesIn dst n = []) (hl : isUnbackedPage l n) (hd : isUnbackedPage dst n)
  (happart : l + n ≤ dst ∨ dst + n ≤ l)
include hfree hl hd happart

/-- No line of the old place has a tag. -/
theorem Store.lineSt_toUnbacked_source {line : Nat} (h : l / 128 ≤ line) (h' : line * 128 < l + n) :
    (st.toUnbacked l n dst).lineSt line = none := by
  have hold : (st.copiedTo l n dst).lineSt line = none :=
    Store.lineSt_dropLines_inside ({ st with mem := st.mem.copy l n dst, ecc := copyEcc st.ecc l n dst } : Store) h h'
  rw [Store.lineSt_eq_none] at hold ⊢
  rw [Store.toUnbacked_eq hfree]
  intro q hq
  obtain hq | hq := List.mem_append.mp hq
  · obtain ⟨r, hr, rfl⟩ := List.mem_map.mp hq
    obtain ⟨-, hr, hr'⟩ := Store.mem_linesIn.mp hr
    have := hl.lines
    have := hd.lines
    simp only
    omega
  · exact hold q hq

/-- The lines of the new place are in the states of those of the old. -/
theorem Store.lineSt_toUnbacked_target {i : Nat} (hi : i < n / 128) : (st.toUnbacked l n dst).lineSt (dst / 128 + i) = st.lineSt (l / 128 + i) := by
  have hlal := hl.lines
  have hdal := hd.lines
  have hnone : (st.copiedTo l n dst).lineSt (dst / 128 + i) = none := by
    have hout : ¬(l / 128 ≤ dst / 128 + i ∧ (dst / 128 + i) * 128 < l + n) := by omega
    rw [Store.copiedTo, show (st.linesIn l n) = Store.linesIn { st with mem := st.mem.copy l n dst, ecc := copyEcc st.ecc l n dst } l n from rfl,
      Store.lineSt_dropLines_outside _ hout, Store.lineSt_eq_none]
    intro q hq hline
    have hin : q ∈ st.linesIn dst n := Store.mem_linesIn.mpr ⟨hq, by omega, by omega⟩
    rw [hfree] at hin
    cases hin
  have hmoved : (((st.linesIn l n).map fun q => (q.1 - l / 128 + dst / 128, q.2)).find? fun p => p.1 == dst / 128 + i).map (·.2)
      = st.lineSt (l / 128 + i) := by
    rw [List.find?_map, Option.map_map, Store.linesIn, List.find?_filter, Store.lineSt]
    refine congrArg₂ Option.map rfl (List.find?_congr fun q _ => ?_)
    rw [Bool.eq_iff_iff]
    simp only [Function.comp_apply, decide_eq_true_eq, Bool.and_eq_true, beq_iff_eq]
    omega
  rw [Store.lineSt, Store.toUnbacked_eq hfree]
  change Option.map _ (List.find? _ (_ ++ _)) = _
  rw [List.find?_append, Option.map_or, hmoved]
  exact (congrArg (Option.or _) hnone).trans (Option.or_none ..)

/-- The bytes of the new place are those of the old. -/
theorem Store.read_toUnbacked {k : Nat} (hwf : st.mem.wf = true) (hk : k < n) : (st.toUnbacked l n dst).mem.read (dst + k) = st.mem.read (l + k) := by
  have hlal := hl.lines
  have hdal := hd.lines
  rw [Store.toUnbacked_eq hfree, ← Memory.read_copy l dst hwf hk]
  refine Store.read_dropLines ({ st with mem := st.mem.copy l n dst, ecc := copyEcc st.ecc l n dst } : Store) fun q hq hline => ?_
  obtain ⟨-, hq, hq'⟩ := Store.mem_linesIn.mp hq
  omega

end

/-! ### The lines of a page in a frame (02 R52 steps 3, 4) -/

/-- The units of the lost lines of a page, as poison in its frame. -/
def Store.lostUnits (st : Store) (l n f : Nat) : List (Nat × Ecc) :=
  ((st.linesIn l n).filter fun p => p.2 == .lost).flatMap fun p => (List.range 16).map fun k => ((f + (p.1 * 128 - l)) / 8 + k, Ecc.poison)

/-- The frame written as a copy of the page. -/
def Store.framed (st : Store) (l n f : Nat) : Store :=
  { st.copyFrame l n f with
    ecc := st.lostUnits l n f ++ (st.copyFrame l n f).ecc
    hbmEcc := st.lostUnits l n f ++ (st.copyFrame l n f).hbmEcc }

theorem Store.toFrame_eq (st : Store) (l n f : Nat) : st.toFrame l n f = (st.framed l n f).dropLines ((st.framed l n f).linesIn l n) := rfl

section

variable {st : Store} {l n f : Nat}

theorem Store.toFrame_lines : (st.toFrame l n f).lines = st.lines.filter fun q => !(decide (l / 128 ≤ q.1) && decide (q.1 * 128 < l + n)) :=
  Store.dropLines_linesIn (st.framed l n f) l n

theorem Store.lineSt_toFrame {line : Nat} (h : l / 128 ≤ line) (h' : line * 128 < l + n) : (st.toFrame l n f).lineSt line = none :=
  Store.lineSt_dropLines_inside (st.framed l n f) h h'

theorem Store.toFrame_forwards : (st.toFrame l n f).forwards = st.forwards := by rw [Store.toFrame_eq, Store.dropLines_frame]; rfl

theorem Store.toFrame_wf (hwf : st.mem.wf = true) : (st.toFrame l n f).mem.wf = true :=
  Store.dropLines_wf _ (Memory.copy_wf l n f hwf)

theorem Store.toFrame_tagEcc (h : st.tagEcc = []) : (st.toFrame l n f).tagEcc = [] := Store.tagEcc_dropLines _ h

/-- HBM holds poison of the frame, and no other error. -/
theorem Store.toFrame_hbmEcc (h : st.hbmEcc = []) : ∀ p ∈ (st.toFrame l n f).hbmEcc, p.2 = .poison := by
  have hecc : (st.toFrame l n f).hbmEcc = st.lostUnits l n f ++ ((st.badIn l n).map (fun u => (f / 8 + (u - l / 8), Ecc.poison))
      ++ st.hbmEcc.filter fun p => !(decide (f / 8 ≤ p.1) && decide (p.1 < (f + n) / 8))) := by
    rw [Store.toFrame_eq, Store.dropLines_frame]; rfl
  intro p hp
  rw [hecc, h, List.filter_nil, List.append_nil, List.mem_append] at hp
  obtain hp | hp := hp
  · obtain ⟨q, -, hq⟩ := List.mem_flatMap.mp hp
    obtain ⟨k, -, rfl⟩ := List.mem_map.mp hq
    rfl
  · obtain ⟨u, -, rfl⟩ := List.mem_map.mp hp
    rfl

section

variable (hl : 2 ^ 48 ≤ l) (hf : f + n ≤ 2 ^ 48)
include hl hf

/-- The frame holds the bytes that memory lists of the page. -/
theorem Store.read_toFrame {k : Nat} (hwf : st.mem.wf = true) (hk : k < n) : (st.toFrame l n f).mem.read (f + k) = st.mem.read (l + k) := by
  rw [← Memory.read_copy l f hwf hk, Store.toFrame_eq]
  refine Store.read_dropLines (st.framed l n f) fun q hq hline => ?_
  obtain ⟨-, hq, -⟩ := Store.mem_linesIn.mp hq
  omega

/-- The units of a lost line are poison in the frame. -/
theorem Store.toFrame_poisoned {q : Nat × LineSt} (hq : q ∈ st.linesIn l n) (hlost : q.2 = .lost) {k : Nat} (hk : k < 16) (hln : l % 128 = 0)
    (hn : n % 128 = 0) : (st.toFrame l n f).poisoned ((f + (q.1 * 128 - l)) / 8 + k) := by
  obtain ⟨-, hq1, hq2⟩ := Store.mem_linesIn.mp hq
  have hbelow : ∀ r ∈ (st.framed l n f).linesIn l n, ((f + (q.1 * 128 - l)) / 8 + k) / 16 ≠ r.1 := by
    intro r hr hline
    obtain ⟨-, hr, -⟩ := Store.mem_linesIn.mp hr
    omega
  have hmem : ((f + (q.1 * 128 - l)) / 8 + k, Ecc.poison) ∈ st.lostUnits l n f :=
    List.mem_flatMap.mpr ⟨q, List.mem_filter.mpr ⟨hq, by simp [hlost]⟩, List.mem_map.mpr ⟨k, List.mem_range.mpr hk, rfl⟩⟩
  rw [Store.toFrame_eq, Store.poisoned, Store.ecc_dropLines _ hbelow]
  change Option.map _ (List.find? _ (st.lostUnits l n f ++ _)) = _
  rw [List.find?_append]
  cases hfound : (st.lostUnits l n f).find? fun p => p.1 == (f + (q.1 * 128 - l)) / 8 + k with
  | none => exact absurd hfound (by simpa using ⟨_, hmem⟩)
  | some p =>
    obtain ⟨r, -, hr⟩ := List.mem_flatMap.mp (List.mem_of_find?_eq_some hfound)
    obtain ⟨j, -, rfl⟩ := List.mem_map.mp hr
    rfl

end

/-- P of the page's pool falls by the pinned lines. -/
theorem Store.pool_toFrame (hl : isUnbackedPage l n) (hnd : (st.lines.map (·.1)).Nodup) {p : Pool}
    (hp : st.pool (dieOfLoc l) (poolOfLoc l) = some p) :
    (st.toFrame l n f).pool (dieOfLoc l) (poolOfLoc l) = some { p with p := p.p - st.pinnedIn l n } :=
  Store.pool_dropRange (st := st.framed l n f) hl.unbacked hl.lines.1 hl.within hnd hp

/-- And the other pools stay. -/
theorem Store.pool_toFrame_ne (hl : isUnbackedPage l n) {d : Die} {k : Nat} (hne : ¬(dieOfLoc l = d ∧ poolOfLoc l = k)) :
    (st.toFrame l n f).pool d k = st.pool d k := by
  refine Store.pool_dropLines_ne (st.framed l n f) fun q hq hkey => hne ?_
  obtain ⟨-, hq, hq'⟩ := Store.mem_linesIn.mp hq
  obtain ⟨hdie, hpool⟩ := hl.poolOfLine hq hq'
  exact ⟨hdie.symm.trans hkey.1.symm, hpool.symm.trans hkey.2.symm⟩

end

end Sys2Proof.Machine

/-! ### A move in a plain state (02 R52, R60) -/

namespace Sys2Proof.Machine

open Sys2Proof

section

variable {s : State} {l n : Nat} (h : s.plainMove l n)
include h

theorem State.plainMove.page (hl : 2 ^ 48 ≤ l) : isUnbackedPage l n := ⟨h.size, h.aligned, hl⟩

/-- No unit and no tag has an error. -/
theorem State.plainMove.correct : s.store.hbmEcc = [] ∧ s.store.tagEcc = [] := by
  have hclean := h.clean
  simp only [Store.clean, Bool.and_eq_true, List.isEmpty_iff] at hclean
  obtain ⟨⟨⟨-, hhbm⟩, htags⟩, -⟩ := hclean
  exact ⟨hhbm, htags⟩

/-- The bytes of the page are those that memory lists. -/
theorem State.plainMove.homeByte {k : Nat} (hk : k < n) : s.store.homeByte (l + k) = s.store.mem.read (l + k) := by
  unfold Store.homeByte
  simp only [Store.resolve_plain h.forwards]
  split
  next hnot =>
    by_contra hne
    exact hnot.2 (h.pinned _ (Memory.mem_of_read _ (Ne.symm hne)) (Nat.le_add_right ..) (Nat.add_lt_add_left hk l))
  next => rfl

/-- A state of the same filters and saved frames whose lines have been moved. -/
theorem State.plainMove.still {v : State} (hg : v.gaffer = s.gaffer) (hfr : v.frames = s.frames) (hf : v.store.forwards = s.store.forwards)
    (ht : v.store.tagEcc = []) (hh : ∀ p ∈ v.store.hbmEcc, p.2 = .poison) : v.still where
  filters := by rw [State.filtersOff, hg]; exact h.filters
  frames := hfr.trans h.frames
  forwards := hf.trans h.forwards
  tags := ht
  hbm := hh

end

/-- The entry in the HBM is no byte of an unbacked page. -/
theorem State.leafStays.below {s : State} {st : Store} {asn : BitVec 12} {va l addr : Nat} {e : Word} (h : s.leafStays st asn va l addr e) :
    addr + 8 ≤ 2 ^ 48 := by
  obtain ⟨-, -, -, -, d, hd⟩ := h
  have := regionOf_hbm_lt hd
  omega

theorem State.leafStays.aligned {s : State} {st : Store} {asn : BitVec 12} {va l addr : Nat} {e : Word} (h : s.leafStays st asn va l addr e) :
    addr % 8 = 0 := by
  obtain ⟨-, -, -, haddr, -⟩ := h
  exact haddr

theorem State.leafStays.unbacked {s : State} {st : Store} {asn : BitVec 12} {va l addr : Nat} {e : Word} (h : s.leafStays st asn va l addr e) :
    leafU e = true := by
  obtain ⟨-, hu, -⟩ := h
  exact hu

/-! #### A page that has become backed (02 R52) -/

section

variable {s : State} {st : Store} {l n f : Nat} {e : Word}

/-- A forwarded page of a store that differs from its lines' copy in the locks of pages. -/
theorem Store.Forwarded.of_unlock {v : Store} {dst addr k : Nat} (h : (v.unlock k).Forwarded st l n dst addr e) : v.Forwarded st l n dst addr e :=
  ⟨h.lines, h.mem, h.forwards, h.poison⟩

/-- The leaf of a backed page. -/
theorem leafBacked_fields {home : Nat} (hf : f < 2 ^ 48) (hal : f % 2 ^ 15 = 0) (hh : home < 4) : let e' := leafBacked e f home
    leafU e' = false ∧ leafLf e' = false ∧ entryPa e' = f ∧ leafHome e' = home ∧ e'.toNat % 32 = e.toNat % 32
      ∧ fieldOf e' 48 8 = (fieldOf e 48 8 + 1) % 256 := by
  intro e'
  have hfields : leafFields e' = _ := leafFields_backed e hf hal hh
  refine ⟨?_, ?_, ?_, congrArg LeafFields.home hfields, ?_, congrArg LeafFields.gen hfields⟩
  · rw [leafU_eq, hfields]; simp only [decide_eq_false_iff_not]; omega
  · rw [leafLf_eq, hfields]; simp only [decide_eq_false_iff_not]; omega
  · rw [entryPa_eq, hfields]; simp only; omega
  · have hlo : e'.toNat % 2 ^ 7 = e.toNat % 2 ^ 7 % 32 := congrArg LeafFields.lo hfields
    omega

/-- The leaf of a page that has moved. -/
theorem leafMoved_fields {home pool : Nat} (hh : home < 4) (hp : pool < 256) (hu : leafU e = true) : let e' := leafMoved e home pool
    leafU e' = true ∧ leafHome e' = home ∧ leafPool e' = pool ∧ leafUpn e' = leafUpn e ∧ e'.toNat % 2 ^ 7 = e.toNat % 2 ^ 7
      ∧ fieldOf e' 48 8 = (fieldOf e 48 8 + 1) % 256 := by
  intro e'
  have hfields : leafFields e' = _ := leafFields_moved e hh hp
  refine ⟨?_, congrArg LeafFields.home hfields, congrArg LeafFields.pool hfields, congrArg LeafFields.upn hfields, congrArg LeafFields.lo hfields,
    congrArg LeafFields.gen hfields⟩
  rw [leafU_eq, hfields]
  exact (leafU_eq e).symm.trans hu

/-- The page on its frame, once the leaf names it and its locations are forwarded there. -/
theorem Store.Forwarded.movedToFrame {t : State} {addr home k : Nat} {d : Die} {g : Pool → Pool} (h : s.plainMove l n) (hl : 2 ^ 48 ≤ l)
    (hfwd : ((s.store.modPool d k g).toFrame l n f).Forwarded t.store l n f addr (leafBacked e f home)) (hal : f % n = 0) (hf : f + n ≤ 2 ^ 48)
    (hout : addr + 8 ≤ f ∨ f + n ≤ addr) (haddr : addr % 8 = 0) (hbelow : addr + 8 ≤ 2 ^ 48) (hh : home < 4) :
    movedToFrame s t l n f addr home e := by
  have hpage := h.page hl
  have hlines := hpage.lines
  have hsize : 0 < n ∧ f % 2 ^ 16 = 0 := by obtain rfl | rfl := h.size <;> omega
  have hwf : ((s.store.modPool d k g).toFrame l n f).mem.wf = true := Store.toFrame_wf (st := s.store.modPool d k g) h.mem
  refine ⟨fun i hi => ⟨hfwd.resolve_in hi, ?_⟩, fun q hq hq1 hq2 => ⟨?_, fun hlost i hi => ?_⟩, ?_⟩
  · have hres : t.store.resolve (f + i) = f + i := hfwd.resolve_out (by omega)
    rw [h.homeByte hi, Store.homeByte]
    simp only [hres]
    rw [if_neg (by omega), hfwd.read (by omega)]
    exact Store.read_toFrame (st := s.store.modPool d k g) hl hf h.mem hi
  · rw [hfwd.lineSt]
    exact Store.lineSt_toFrame (st := s.store.modPool d k g) hq1 hq2
  · have hin : q ∈ (s.store.modPool d k g).linesIn l n := Store.mem_linesIn.mpr ⟨hq, hq1, hq2⟩
    refine Store.unitEcc_of_poisoned (hfwd.poison _ (by omega) ?_)
    exact Store.toFrame_poisoned (st := s.store.modPool d k g) hl hf hin hlost hi hlines.1 hlines.2
  · rw [hfwd.entry hwf hl hbelow]
    exact leafBacked_fields (by omega) (by omega) hh

end

end Sys2Proof.Machine

/-! ### PGMIG (02 R60) -/

namespace Sys2Proof.Machine

open Sys2Proof

/-! #### A page under its new die and pool -/

section

variable {s : State} {l n dst : Nat}

theorem Store.toUnbacked_frame {st : Store} (hfree : st.linesIn dst n = []) : (st.toUnbacked l n dst).forwards = st.forwards
    ∧ (st.toUnbacked l n dst).hbmEcc = st.hbmEcc ∧ (st.tagEcc = [] → (st.toUnbacked l n dst).tagEcc = []) := by
  have hdrop := Store.dropLines_frame ({ st with mem := st.mem.copy l n dst, ecc := copyEcc st.ecc l n dst } : Store) (st.linesIn l n)
  rw [Store.toUnbacked_eq hfree]
  refine ⟨(congrArg Store.forwards hdrop :), (congrArg Store.hbmEcc hdrop :), fun htags => ?_⟩
  exact Store.tagEcc_dropLines (st := { st with mem := st.mem.copy l n dst, ecc := copyEcc st.ecc l n dst }) (st.linesIn l n) htags

section

variable {st : Store} {addr : Nat} {e : Word} (h : s.plainMove l n) (hpage : isUnbackedPage l n) (hdst : isUnbackedPage dst n)
  (happart : l + n ≤ dst ∨ dst + n ≤ l) (hfree : s.store.linesIn dst n = []) (hfwd : (s.store.toUnbacked l n dst).Forwarded st l n dst addr e)
include h hpage hdst happart hfree hfwd

/-- Each line of the page stands in its state under the new number, and none under the old. -/
theorem Store.Forwarded.movedLines {q : Nat × LineSt} (hq : q ∈ s.store.lines) (hq1 : l / 128 ≤ q.1) (hq2 : q.1 * 128 < l + n) :
    st.lineSt q.1 = none ∧ st.lineSt (q.1 - l / 128 + dst / 128) = some q.2 := by
  have hlines := hpage.lines
  have hsource := Store.lineSt_toUnbacked_target (i := q.1 - l / 128) hfree hpage hdst happart (by omega)
  rw [hfwd.lineSt, hfwd.lineSt, Nat.add_comm _ (dst / 128), hsource, Nat.add_sub_cancel' hq1]
  exact ⟨Store.lineSt_toUnbacked_source hfree hpage hdst happart hq1 hq2, Store.lineSt_of_mem h.lines hq⟩

/-- A location of the page is found at its new place, with the byte that it had. -/
theorem Store.Forwarded.movedByte (hbelow : addr + 8 ≤ 2 ^ 48) {k : Nat} (hk : k < n) :
    st.resolve (l + k) = dst + k ∧ st.homeByte (dst + k) = s.store.homeByte (l + k) := by
  have hlal := hpage.lines
  have hdal := hdst.lines
  have hl := hpage.unbacked
  have hd := hdst.unbacked
  have hres : st.resolve (dst + k) = dst + k := hfwd.resolve_out (by omega)
  have hline : st.lineSt ((dst + k) / 128) = s.store.lineSt ((l + k) / 128) := by
    have hto := Store.lineSt_toUnbacked_target (i := k / 128) hfree hpage hdst happart (by omega)
    rw [hfwd.lineSt, show (dst + k) / 128 = dst / 128 + k / 128 by omega, hto, show (l + k) / 128 = l / 128 + k / 128 by omega]
  have hread : st.mem.read (dst + k) = s.store.mem.read (l + k) := by
    rw [hfwd.read (by omega)]
    exact Store.read_toUnbacked hfree hpage hdst happart h.mem hk
  refine ⟨hfwd.resolve_in hk, ?_⟩
  unfold Store.homeByte
  simp only [hres, Store.resolve_plain h.forwards]
  rw [hline, hread]
  simp only [show 2 ^ 48 ≤ dst + k by omega, show 2 ^ 48 ≤ l + k by omega]

end

end

/-! #### The two moves -/

/-- The state in which PGMIG has moved a page to another pool (02 R60 steps 2 to 5). -/
def State.pageMoved (a : State) (asn : BitVec 12) (va l n dst : Nat) (td : Die) (tp : Nat) (pgmig : BankId × Nat) : State :=
  ((a.senseRange l n).modStore fun st => st.toUnbacked l n dst).finishMove asn va l n dst none (fun e => leafMoved e td.val tp) (some pgmig)

/-- The state in which PGMIG has moved a page to a frame of the target's late reserve (02 R60, R52). -/
def State.pageFramed (a : State) (asn : BitVec 12) (va l n f : Nat) (td : Die) (tp : Nat) (p' : Pool) (pgmig : BankId × Nat) : State :=
  (((a.senseRange l n).modStore fun st => (st.modPool td tp fun _ => p').toFrame l n f).frameTraffic f n).finishMove asn va l n f (some (td, tp))
    (fun e => leafBacked e f td.val) (some pgmig)

/-- An invalidation and a forwarding entry are those of a state with the same invalidations and entries. -/
theorem moveInvalidates.of_eq {s v t u : State} {asn : BitVec 12} {va l n dst : Nat} {pgmig : Option (BankId × Nat)}
    (h : moveInvalidates v u asn va l n dst pgmig) (hnext : v.xl.next = s.xl.next) (hxl : t.xl = u.xl)
    (hforwards : t.store.forwards = u.store.forwards) : moveInvalidates s t asn va l n dst pgmig := by
  unfold moveInvalidates at h ⊢
  rwa [← hnext, hxl, hforwards]

theorem Store.pool_congr {st st' : Store} (h : st.pools = st'.pools) (d : Die) (k : Nat) : st.pool d k = st'.pool d k := by
  rw [Store.pool, h]; rfl

/-- The end of the move of a page whose leaf has stayed: `v` holds the page's lines at their new place, and reads its tables as `st`. -/
theorem State.plainMove.finishMove {s v : State} {st : Store} {l n : Nat} (h : s.plainMove l n) (hxl : v.xl = s.xl) (hg : v.gaffer = s.gaffer)
    (hfr : v.frames = s.frames) (hf : v.store.forwards = s.store.forwards) (ht : v.store.tagEcc = []) (hh : ∀ p ∈ v.store.hbmEcc, p.2 = .poison)
    {asn : BitVec 12} {va addr : Nat} {e : Word} (hstays : s.leafStays st asn va l addr e) (hhome : ∀ b k, v.store.homeNat b k = st.homeNat b k)
    (dst : Nat) (pool : Option (Die × Nat)) (new : Word → Word) (pgmig : Option (BankId × Nat)) :
    let u := v.finishMove asn va l n dst pool new pgmig
    v.store.Forwarded u.store l n dst addr (new e) ∧ u.store.pools = v.store.pools ∧ moveInvalidates s u asn va l n dst pgmig
      ∧ u.xl.next = v.xl.next + 1 := by
  obtain ⟨hleaf, hu, hloc, -, d, hd⟩ := hstays
  have hleafv : v.leafAt asn va = some (addr, e) := (State.leafAt_congr (s := { s with store := st }) hxl hhome asn va).trans hleaf
  obtain ⟨hfwd, hpools, hinval, hnext⟩ := State.finishMove_still (h.still hg hfr hf ht hh) hleafv hu hloc hd n dst pool new pgmig
  exact ⟨hfwd, hpools, hinval.of_eq (congrArg Xl.next hxl) rfl rfl, hnext⟩

section

variable {s a : State} {l n : Nat} (h : s.plainMove l n) (hstore : a.store = s.store) (hxl : a.xl = s.xl) (hg : a.gaffer = s.gaffer)
  (hfr : a.frames = s.frames)
include h hstore hxl hg hfr

theorem State.pageMoved_plain {asn : BitVec 12} {va dst addr : Nat} {e : Word} (td : Die) (tp : Nat) (pgmig : BankId × Nat)
    (hfree : s.store.linesIn dst n = []) (hstays : s.leafStays (s.store.toUnbacked l n dst) asn va l addr e) :
    let u := a.pageMoved asn va l n dst td tp pgmig
    (s.store.toUnbacked l n dst).Forwarded u.store l n dst addr (leafMoved e td.val tp) ∧ u.store.pools = (s.store.toUnbacked l n dst).pools
      ∧ moveInvalidates s u asn va l n dst (some pgmig) := by
  obtain ⟨hforwards, hhbm, htags⟩ := Store.toUnbacked_frame (l := l) hfree
  have hpoison : ∀ p ∈ (s.store.toUnbacked l n dst).hbmEcc, p.2 = .poison := by rw [hhbm, h.correct.1]; simp
  obtain ⟨hfwd, hpools, hinval, -⟩ := h.finishMove (v := a.modStore fun _ => s.store.toUnbacked l n dst) hxl hg hfr hforwards (htags h.correct.2) hpoison hstays
    (fun _ _ => rfl) dst none (fun e => leafMoved e td.val tp) (some pgmig)
  intro u
  have hu : u = (a.modStore fun _ => s.store.toUnbacked l n dst).finishMove asn va l n dst none (fun e => leafMoved e td.val tp) (some pgmig) := by
    simp only [u]
    rw [State.pageMoved, State.senseRange_clean a l n (hstore ▸ h.clean), State.modStore, hstore]
    rfl
  rw [hu]
  exact ⟨hfwd, hpools, hinval⟩

theorem State.pageFramed_plain {asn : BitVec 12} {va f addr : Nat} {e : Word} (td : Die) (tp : Nat) (p' : Pool) (pgmig : BankId × Nat)
    (hstays : s.leafStays ((s.store.modPool td tp fun _ => p').toFrame l n f) asn va l addr e) :
    let u := a.pageFramed asn va l n f td tp p' pgmig; let st := (s.store.modPool td tp fun _ => p').toFrame l n f
    st.Forwarded u.store l n f addr (leafBacked e f td.val) ∧ u.store.pools = st.pools ∧ moveInvalidates s u asn va l n f (some pgmig) := by
  intro u st
  obtain ⟨hfwd, hpools, hinval, -⟩ := h.finishMove (v := a.modStore fun _ => st) hxl hg hfr Store.toFrame_forwards
    (Store.toFrame_tagEcc (st := s.store.modPool td tp fun _ => p') h.correct.2)
    (Store.toFrame_hbmEcc (st := s.store.modPool td tp fun _ => p') h.correct.1) hstays (fun _ _ => rfl) f (some (td, tp))
    (fun e => leafBacked e f td.val) (some pgmig)
  have hu : u = (a.modStore fun _ => st).finishMove asn va l n f (some (td, tp)) (fun e => leafBacked e f td.val) (some pgmig) := by
    have hoff : (a.modStore fun _ => st).filtersOff := by rw [State.filtersOff, State.modStore, hg]; exact h.filters
    simp only [u]
    rw [State.pageFramed, State.senseRange_clean a l n (hstore ▸ h.clean), State.modStore, hstore]
    exact congrArg (fun v : State => v.finishMove asn va l n f (some (td, tp)) (fun e => leafBacked e f td.val) (some pgmig))
      (State.frameTraffic_off (a.modStore fun _ => st) f n hoff)
  rw [hu]
  exact ⟨hfwd, hpools, hinval⟩

end

end Sys2Proof.Machine

/-! ### PGMIG's word (02 R60) -/

namespace Sys2Proof.Machine

open Sys2Proof

theorem Pool.takeFrame_key {p p' : Pool} {n f : Nat} (h : p.takeFrame n = some (f, p')) : p'.die = p.die ∧ p'.num = p.num ∧ p'.p = p.p := by
  unfold Pool.takeFrame at h
  split at h
  · split at h
    · cases h; exact ⟨rfl, rfl, rfl⟩
    · cases h
  · split at h
    · cases h; exact ⟨rfl, rfl, rfl⟩
    · cases h

/-- The operation is the last of the bank's, and waits for the invalidation. -/
theorem State.issuePage_waits (s : State) (i : Instr) (x : Entry) (blocks : List Nat) (loads : List RegW) (g : Store → Store) :
    ∃ o ∈ ((s.issuePage i x.atPage blocks loads true).modStore g).here.ops, o.uid = x.uid ∧ o.loads = loads ∧ o.waiting = true := by
  refine ⟨pageOp i x.atPage blocks loads true, ?_, x.atPage_uid, rfl, rfl⟩
  rw [State.here_modStore, State.issuePage_here, Bank.issue_ops]
  exact List.mem_append_right _ (List.mem_singleton_self _)

section

variable {s : State} {a : PageP} {c : Capture} (hgo : s.pageGo (.pgmig a) c 0 0 unbackedCheck)
include hgo

/-- A target that is no pool of the task's is cause 1.11.W. -/
theorem execPgmig_foreign (hforeign : ∀ p, s.store.pool (Fin.ofNat 4 (((s.inHand (.pgmig a)).caps.getD 0 0).toNat % 4))
      (((s.inHand (.pgmig a)).caps.getD 0 0).toNat / 256 % 256) = some p → p.owner ≠ s.here.asn) :
    ∃ as, exec (.pgmig a) s = .next (((s.acting (.pgmig a)).raiseMem .W 11 (s.inHand (.pgmig a)).atPage 0).modStore
      fun st => { st with arrivals := as }) := by
  refine (State.pageAccess_next (size := fun _ => 0) _ hgo rfl rfl fun _ => rfl).imp fun as h => (congrArg Host.Outcome.next h).trans ?_
  simp only [State.acting_store, State.acting_asn, Entry.atPage_caps]
  refine congrArg (fun t : State => Host.Outcome.next (t.modStore _)) (if_pos (.inr (.inr ?_)))
  cases hpool : s.store.pool (Fin.ofNat 4 (((s.inHand (.pgmig a)).caps.getD 0 0).toNat % 4))
      (((s.inHand (.pgmig a)).caps.getD 0 0).toNat / 256 % 256) with
  | none => rfl
  | some p => simp [hforeign p hpool]

/-- PGMIG to a pool of the task's: the answer that the page's place and the pool's room give (02 Table 2.5). -/
theorem execPgmig_owned {w : Nat} (hw : ((s.inHand (.pgmig a)).caps.getD 0 0).toNat = w) (hfields : w % 256 / 4 = 0) (hsmall : w < 2 ^ 16)
    {p : Pool} (hp : s.store.pool (Fin.ofNat 4 (w % 4)) (w / 256 % 256) = some p) (howner : p.owner = s.here.asn) :
    let i : Instr := .pgmig a; let t := s.acting i; let y := (s.inHand i).atPage; let td : Die := Fin.ofNat 4 (w % 4); let tp := w / 256 % 256
    let l := s.store.resolve c.h.loc; let n := c.h.extent.toNat; let va := c.h.base.toNat; let mover := (s.cur, (s.inHand i).uid)
    ∃ as, exec i s = .next ((if l < 2 ^ 48 then t.issuePage i y pageBlocks [.s a.res 3] false
      else if dieOfLoc l = td ∧ poolOfLoc l = tp then t.issuePage i y pageBlocks [.s a.res 1] false
      else if p.p + s.store.pinnedIn l n ≤ p.r then
        (t.pageMoved s.here.asn va l n (unbackedLoc td.val tp (upnOfLoc l)) td tp mover).issuePage i y pageBlocks [.s a.res 0] true
      else if !c.h.lf then t.raiseMem .W 10 y 0
      else (p.takeFrame n).elim (t.raiseMem .W 14 y 0) fun q =>
        (t.pageFramed s.here.asn va l n q.1 td tp q.2 mover).issuePage i y pageBlocks [.s a.res 2] true).modStore
          fun st => { st with arrivals := as }) := by
  subst hw
  intro i t y td tp l n va mover
  refine (State.pageAccess_next (size := fun _ => 0) _ hgo rfl rfl fun _ => rfl).imp fun as h => (congrArg Host.Outcome.next h).trans ?_
  have howned : (p.owner == s.here.asn) = true := beq_iff_eq.mpr howner
  simp only [State.acting_store, State.acting_asn, State.acting_cur, Entry.atPage_caps, Entry.atPage_uid, hp, howned, Option.bind_some]
  refine congrArg (fun t : State => Host.Outcome.next (t.modStore _)) ((if_neg ?_).trans ?_)
  · exact not_or.mpr ⟨not_not.mpr hfields, not_or.mpr ⟨Nat.not_le.mpr hsmall, Bool.false_ne_true⟩⟩
  · simp only [decide_eq_true_eq]
    cases p.takeFrame n <;> rfl

end

end Sys2Proof.Machine

/-! ### PGMIG's answers (02 R60, Table 2.5) -/

namespace Sys2Proof.Machine

open Sys2Proof

/-- A page instruction that answers with nothing moved. -/
theorem State.issuePage_unmoved (s : State) (i : Instr) (blocks : List Nat) (loads : List RegW) (as : List Arrival) :
    let t := ((s.acting i).issuePage i (s.inHand i).atPage blocks loads false).modStore fun st => { st with arrivals := as }
    t.store.marksAside = s.store.marksAside ∧ pageIssued s t (s.inHand i) loads false :=
  ⟨(congrArg Store.marksAside (s.acting_store i) :), s.issuePage_issued i id _ blocks loads false⟩

theorem Store.Forwarded.of_arrivals {v st : Store} {l n dst addr : Nat} {e : Word} (h : v.Forwarded st l n dst addr e) (as : List Arrival) :
    v.Forwarded { st with arrivals := as } l n dst addr e :=
  ⟨h.lines, h.mem, h.forwards, h.poison⟩

section

variable {s u : State} {l n : Nat} {asn : BitVec 12} {va addr : Nat} {e : Word} {td : Die} {tp : Nat} {p : Pool} {pgmig : BankId × Nat}
  (h : s.plainMove l n) (hl : 2 ^ 48 ≤ l) (hne : ¬(dieOfLoc l = td ∧ poolOfLoc l = tp)) (hp : s.store.pool td tp = some p)
include h hl hne hp

/-- The store of a move to another pool, once the leaf names the page there (02 R60 steps 2 to 4). -/
theorem Store.Forwarded.toUnbacked {t : Store} (htp : tp < 256) (hfree : s.store.linesIn (unbackedLoc td.val tp (upnOfLoc l)) n = [])
    (hstays : s.leafStays (s.store.toUnbacked l n (unbackedLoc td.val tp (upnOfLoc l))) asn va l addr e)
    (hfwd : (s.store.toUnbacked l n (unbackedLoc td.val tp (upnOfLoc l))).Forwarded t l n (unbackedLoc td.val tp (upnOfLoc l)) addr
      (leafMoved e td.val tp)) (hpools : t.pools = (s.store.toUnbacked l n (unbackedLoc td.val tp (upnOfLoc l))).pools) :
    let dst := unbackedLoc td.val tp (upnOfLoc l)
    (∀ q ∈ s.store.lines, l / 128 ≤ q.1 → q.1 * 128 < l + n → t.lineSt q.1 = none ∧ t.lineSt (q.1 - l / 128 + dst / 128) = some q.2)
      ∧ (∀ k, k < n → t.resolve (l + k) = dst + k ∧ t.homeByte (dst + k) = s.store.homeByte (l + k))
      ∧ t.pool td tp = some { p with p := p.p + s.store.pinnedIn l n }
      ∧ (∀ q, s.store.pool (dieOfLoc l) (poolOfLoc l) = some q →
          t.pool (dieOfLoc l) (poolOfLoc l) = some { q with p := q.p - s.store.pinnedIn l n })
      ∧ let e' : Word := BitVec.ofNat 64 (t.homeNat addr 8)
        leafU e' = true ∧ leafHome e' = td.val ∧ leafPool e' = tp ∧ leafUpn e' = leafUpn e ∧ e'.toNat % 2 ^ 7 = e.toNat % 2 ^ 7
          ∧ fieldOf e' 48 8 = (fieldOf e 48 8 + 1) % 256 := by
  intro dst
  have hpage := h.page hl
  obtain ⟨hdst, hdie, hpool⟩ := hpage.elsewhere td htp
  have hne' : ¬(dieOfLoc l = dieOfLoc dst ∧ poolOfLoc l = poolOfLoc dst) := by rwa [hdie, hpool]
  have happart : l + n ≤ dst ∨ dst + n ≤ l := hpage.apart hdst hne'
  refine ⟨fun q hq hq1 hq2 => ?_, fun k hk => ?_, ?_, fun q hq => ?_, ?_⟩
  · exact hfwd.movedLines h hpage hdst happart hfree hq hq1 hq2
  · exact hfwd.movedByte h hpage hdst happart hfree hstays.below hk
  · have htarget := Store.pool_toUnbacked_target (p := p) hfree hpage hne' (by rwa [hdie, hpool])
    rw [hdie, hpool] at htarget
    exact (Store.pool_congr hpools td tp).trans htarget
  · exact (Store.pool_congr hpools _ _).trans (Store.pool_toUnbacked_source hfree hpage hne' h.lines hq)
  · rw [hfwd.entry (Store.toUnbacked_wf hfree h.mem) hl hstays.below]
    exact leafMoved_fields td.isLt htp hstays.unbacked

/-- The pools when the page has moved to a frame of the target's. -/
theorem Store.framedPools {t : Store} {f : Nat} {p' : Pool} (hframe : p.takeFrame n = some (f, p'))
    (hpools : t.pools = ((s.store.modPool td tp fun _ => p').toFrame l n f).pools) : t.pool td tp = some p'
      ∧ ∀ q, s.store.pool (dieOfLoc l) (poolOfLoc l) = some q →
          t.pool (dieOfLoc l) (poolOfLoc l) = some { q with p := q.p - s.store.pinnedIn l n } := by
  obtain ⟨hdie, hnum, -⟩ := Pool.takeFrame_key hframe
  obtain ⟨hpd, hpn⟩ := Store.pool_key hp
  have hpage := h.page hl
  refine ⟨?_, fun q hq => ?_⟩
  · rw [Store.pool_congr hpools, Store.pool_toFrame_ne hpage hne]
    exact Store.pool_modPool hp hdie hnum
  · have hsource : (s.store.modPool td tp fun _ => p').pool (dieOfLoc l) (poolOfLoc l) = some q := by
      rw [Store.pool_modPool_ne _ hne fun _ _ _ => ⟨hdie.trans hpd, (congrArg BitVec.toNat hnum).trans hpn⟩]
      exact hq
    rw [Store.pool_congr hpools]
    exact Store.pool_toFrame (st := s.store.modPool td tp fun _ => p') hpage h.lines hsource

end

/-- 02 R60: PGMIG answers as its page, its target and the room there are. -/
theorem saidPageMigration_holds : saidPageMigration := by
  intro s a c i x w td tp l st hgo
  have htp : tp < 256 := Nat.mod_lt _ (by decide)
  refine ⟨fun hforeign hcut => ?foreign, fun p hfields hsmall hp howner => ?owned⟩
  case foreign =>
    obtain ⟨as, hexec⟩ := execPgmig_foreign hgo hforeign
    exact ⟨_, hexec, pageRaised 11 _ (fun _ => rfl) hcut⟩
  case owned =>
    obtain ⟨as, hexec⟩ := execPgmig_owned hgo rfl hfields hsmall hp howner
    refine ⟨fun hbacked => ?backed, fun hl hsame => ?same, fun hl hne => ?other⟩
    case backed =>
      rw [if_pos hbacked] at hexec
      exact ⟨_, hexec, s.issuePage_unmoved i ..⟩
    case same =>
      rw [if_neg (Nat.not_lt.mpr hl), if_pos hsame] at hexec
      exact ⟨_, hexec, s.issuePage_unmoved i ..⟩
    case other =>
      intro n m va dst
      rw [if_neg (Nat.not_lt.mpr hl), if_neg hne] at hexec
      refine ⟨fun hroom => ?moved, ?full⟩
      case moved =>
        rw [if_pos hroom] at hexec
        refine ⟨_, hexec, State.issuePage_waits .., fun addr e hplain hfree hstays => ?_⟩
        obtain ⟨hfwd, hpools, hinval⟩ := State.pageMoved_plain hplain (s.acting_store i) (s.acting_xl i) (s.acting_gaffer i) (s.acting_frames i)
          td tp (s.cur, x.uid) hfree hstays
        obtain ⟨hlines, hbytes, htarget, hsource, hleaf⟩ := (hfwd.of_arrivals as).toUnbacked hplain hl hne hp htp hfree hstays hpools
        exact ⟨hlines, hbytes, htarget, hsource, hleaf, hinval.of_eq rfl rfl rfl⟩
      case full =>
        refine ⟨fun hroom hlf hcut => ?refused, fun hroom hlf hnone hcut => ?empty, fun f p' hroom hlf hframe => ?framed⟩
        all_goals rw [if_neg (Nat.not_le.mpr hroom)] at hexec
        case refused =>
          rw [if_pos (by rw [hlf]; rfl)] at hexec
          exact ⟨_, hexec, pageRaised 10 _ (fun _ => rfl) hcut⟩
        case empty =>
          rw [if_neg (by rw [hlf]; exact Bool.false_ne_true), hnone, Option.elim_none] at hexec
          exact ⟨_, hexec, pageRaised 14 _ (fun _ => rfl) hcut⟩
        case framed =>
          rw [if_neg (by rw [hlf]; exact Bool.false_ne_true), hframe] at hexec
          simp only [Option.elim_some] at hexec
          refine ⟨_, hexec, State.issuePage_waits .., fun addr e hplain hal hend hout hstays => ?_⟩
          obtain ⟨hfwd, hpools, hinval⟩ := State.pageFramed_plain hplain (s.acting_store i) (s.acting_xl i) (s.acting_gaffer i) (s.acting_frames i)
            td tp p' (s.cur, x.uid) hstays
          generalize (s.acting i).pageFramed s.here.asn va l n f td tp p' (s.cur, x.uid) = u at hfwd hpools hinval ⊢
          obtain ⟨htarget, hsource⟩ := Store.framedPools (t := { u.store with arrivals := as }) hplain hl hne hp hframe hpools
          refine ⟨?_, htarget, hsource, hinval.of_eq rfl rfl rfl⟩
          exact Store.Forwarded.movedToFrame hplain hl (hfwd.of_arrivals as) hal hend hout hstays.aligned hstays.below td.isLt

/-- Settles O18, from the answers of PGRSV and PGREL and from those of PGMIG. -/
theorem reservedPages : Obligations.ReservedPages := ⟨saidReservations_holds, saidPageMigration_holds⟩

end Sys2Proof.Machine

/-! ### What reads that find errors, traffic filters and table writes leave of banks, lines and locks (02 R44, R52; 03 R85; 20 R423) -/

namespace Sys2Proof.Machine

open Sys2Proof

/-- The tags of unbacked lines, and the locks of pages. -/
def Store.tags (st : Store) : List (Nat × LineSt) × List (Nat × Nat) := (st.lines, st.locks)

theorem Store.fillLine_tags (st : Store) (line : Nat) : (st.fillLine line).tags = st.tags := by rw [Store.fillLine_frame]; rfl

theorem Store.putAt_tags (st : Store) (d : Die) (l : Nat) (bs : List Byte) : (st.putAt d l bs).tags = st.tags := by rw [Store.putAt_frame]; rfl

theorem Store.put_tags (st : Store) (d : Die) (l : Nat) (bs : List Byte) : (st.put d l bs).tags = st.tags := by
  unfold Store.put
  simp only []
  split
  · exact st.putAt_tags ..
  · refine foldl_keeps Store.tags (fun t x => ?_) _ st
    split
    · exact t.putAt_tags ..
    · rfl

theorem Store.writeEntry_tags (st : Store) (addr : Nat) (e : Word) : (st.writeEntry addr e).tags = st.tags := by
  unfold Store.writeEntry
  split
  · exact st.put_tags ..
  all_goals rfl

/-- The bank that acts, the banks, and the tags and locks. -/
def State.standing (s : State) : BankId × Vector Bank 576 × List (Nat × LineSt) × List (Nat × Nat) := (s.cur, s.banks, s.store.tags)

theorem State.standing_of_tags {s t : State} (hc : t.cur = s.cur) (hb : t.banks = s.banks) (h : t.store.tags = s.store.tags) :
    t.standing = s.standing := by
  rw [State.standing, hc, hb, h]; rfl

theorem State.senseHbm_standing (s : State) (u : Nat) : (s.senseHbmBy State.countQuiet u).standing = s.standing := by
  unfold State.senseHbmBy
  split
  · rfl
  · refine (foldl_keeps State.standing (fun t k => ?_) _ _).trans (State.standing_of_tags rfl rfl (s.store.fillLine_tags _))
    split <;> rfl

theorem State.senseTag_standing (s : State) (d : Die) (line : Nat) : (s.senseTagBy State.countQuiet d line).standing = s.standing := by
  unfold State.senseTagBy
  split
  · rfl
  · simp only []
    split
    · rfl
    · refine State.standing_of_tags rfl rfl ?_
      split
      · rfl
      · exact foldl_keeps Store.tags (f := fun st u => st.setEcc u (some .poison)) (fun t u => rfl) _ _

theorem State.senseHomeTag_standing (s : State) (line : Nat) : (s.senseHomeTagBy State.countQuiet line).standing = s.standing := by
  unfold State.senseHomeTagBy
  split
  · rfl
  · split
    · exact s.senseTag_standing ..
    · rfl

theorem State.senseUnit_standing (s : State) (u : Nat) : (s.senseUnitBy State.countQuiet u).standing = s.standing := by
  unfold State.senseUnitBy
  simp only []
  refine Eq.trans ?_ (s.senseHomeTag_standing (s.store.resolve (u * 8) / 8 / 16))
  generalize s.senseHomeTagBy State.countQuiet (s.store.resolve (u * 8) / 8 / 16) = t
  split
  · exact t.senseHbm_standing _
  · rfl
  · split <;> split <;> rfl
  · split
    · split <;> split <;> rfl
    · split <;> rfl

theorem State.senseRange_standing (s : State) (l n : Nat) : (s.senseRange l n).standing = s.standing := by
  unfold State.senseRange
  split
  · rfl
  · exact (foldl_keeps State.standing State.senseHbm_standing _ _).trans
      ((foldl_keeps State.standing State.senseUnit_standing _ _).trans
        (foldl_keeps State.standing (fun t u => t.senseHomeTag_standing (u / 16)) _ s))

theorem State.openLine_standing (s : State) (l : Nat) : (s.openLine l).standing = s.standing :=
  (State.senseHbm_standing _ _).trans (s.senseHomeTag_standing _)

theorem State.logLine_standing (s : State) (h : Die) (req op : Nat) (known : Option Bool) (line : Nat) :
    (s.logLine h req op known line).standing = s.standing := by
  unfold State.logLine
  simp only []
  have hopen := s.openLine_standing ((s.gaffer.rings.get h).pa + 16 * (s.gaffer.rings.get h).next)
  generalize s.openLine ((s.gaffer.rings.get h).pa + 16 * (s.gaffer.rings.get h).next) = t at hopen
  split
  · refine Eq.trans ?_ hopen
    refine State.standing_of_tags rfl rfl ?_
    simp only []
    split
    · exact Store.put_tags ..
    · rfl
  · rfl

theorem State.traffic_standing (s : State) (req : Die → Nat) (op l n : Nat) : (s.traffic req op l n).standing = s.standing := by
  unfold State.traffic
  simp only []
  split
  · rfl
  · split
    · exact foldl_keeps State.standing (fun t x => t.logLine_standing ..) _ s
    · rfl

theorem State.frameTraffic_standing (s : State) (f n : Nat) : (s.frameTraffic f n).standing = s.standing := by
  unfold State.frameTraffic
  split
  · exact State.traffic_standing ..
  · rfl

theorem State.writeEntry_standing (s : State) (addr : Nat) (e : Word) : (s.writeEntry addr e).standing = s.standing := by
  have hstore (t : State) : (t.modStore fun st => st.writeEntry addr e).standing = t.standing :=
    State.standing_of_tags rfl rfl (t.store.writeEntry_tags addr e)
  exact (hstore _).trans ((State.traffic_standing ..).trans (s.openLine_standing addr))

theorem State.invalidateSaved_standing (s : State) (p : Nat × Bank) (base len : Nat) : (s.invalidateSaved p base len).standing = s.standing := by
  unfold State.invalidateSaved
  simp only []
  split
  · rfl
  · exact State.standing_of_tags rfl rfl ((Store.put_tags ..).trans (foldl_keeps Store.tags (fun t k => t.put_tags ..) _ s.store))

/-! #### An invalidation and the end of a move: what they leave of the words of a bank -/

/-- The words of a queue keep their numbers as their captures become stale (01 R35 step 5). -/
theorem Bank.invalidated_uids (b : Bank) (base len : Nat) : (b.invalidated base len).qW.map (·.uid) = b.qW.map (·.uid) := by
  have hqueue : (b.invalidated base len).qW = b.qW.map (Entry.mapCap fun c => if c.h.inRange base len then { c with stale := true } else c) := rfl
  rw [hqueue, List.map_map]
  refine List.map_congr_left fun x _ => ?_
  cases x with | mk => rfl

/-- The words that wait at the W engine of a bank; the acting bank; the tags and locks. -/
def State.waitingAt (s : State) (n : BankId) : List Nat × BankId × List (Nat × LineSt) × List (Nat × Nat) :=
  ((s.bank n).qW.map (·.uid), s.cur, s.store.tags)

theorem State.waitingAt_of_standing {s t : State} (n : BankId) (h : t.standing = s.standing) : t.waitingAt n = s.waitingAt n := by
  have hcur : t.cur = s.cur := congrArg Prod.fst h
  have hbanks : t.banks = s.banks := congrArg (·.2.1) h
  have htags : t.store.tags = s.store.tags := congrArg (·.2.2) h
  rw [State.waitingAt, State.bank, hbanks, hcur, htags]
  rfl

theorem State.invalidate_waitingAt (s : State) (asn : BitVec 12) (base len : Nat) (pgmig : Option (BankId × Nat)) (old : List Nat) (n : BankId) :
    (s.invalidate asn base len pgmig old).waitingAt n = s.waitingAt n := by
  unfold State.invalidate
  simp only []
  refine (foldl_keeps (State.waitingAt · n) (fun t p => ?_) _ _).trans ?_
  · split
    · exact State.waitingAt_of_standing n (t.invalidateSaved_standing ..)
    · rfl
  · rw [State.waitingAt, State.bank_mapBanks]
    refine Prod.ext ?_ rfl
    simp only []
    split
    · exact Bank.invalidated_uids _ base len
    · rfl

/-- The end of a move leaves the words that wait, and the tags and locks (02 R52, R60). -/
theorem State.finishMove_waitingAt (s : State) (asn : BitVec 12) (va l n dst : Nat) (pool : Option (Die × Nat)) (new : Word → Word)
    (pgmig : Option (BankId × Nat)) (b : BankId) : (s.finishMove asn va l n dst pool new pgmig).waitingAt b = s.waitingAt b := by
  unfold State.finishMove
  split
  · split
    · exact (State.invalidate_waitingAt ..).trans (State.waitingAt_of_standing b (s.writeEntry_standing ..))
    · rfl
  · rfl

end Sys2Proof.Machine

/-! ### Lines pinned together, and the answer to an allocation request (02 R48-R51) -/

namespace Sys2Proof.Machine

open Sys2Proof

/-- One line pinned, with zeros where it was not (02 R44, R48). -/
def Store.pinLine (st : Store) (x : Nat) : Store := st.pin [x]

theorem Store.pin_cons (st : Store) (x : Nat) (xs : List Nat) : st.pin (x :: xs) = (st.pinLine x).pin xs := rfl

theorem Store.pinLine_pinned {st : Store} {x : Nat} (h : st.lineSt x = some .pinned) : st.pinLine x = st := if_pos h

theorem Store.pinLine_lines {st : Store} {x : Nat} (h : st.lineSt x ≠ some .pinned) :
    (st.pinLine x).lines = (x, .pinned) :: st.lines.filter fun p => p.1 != x := congrArg Store.lines (if_neg h)

theorem Store.pinLine_pools {st : Store} {x : Nat} (h : st.lineSt x ≠ some .pinned) :
    (st.pinLine x).pools = (st.modPool (dieOfLine x) (poolOfLine x) fun p => { p with p := p.p + 1 }).pools :=
  (congrArg Store.pools (if_neg h) :)

theorem Store.lineSt_pinLine_same (st : Store) (x : Nat) : (st.pinLine x).lineSt x = some .pinned := by
  by_cases h : st.lineSt x = some .pinned
  · rw [Store.pinLine_pinned h, h]
  · rw [Store.lineSt, Store.pinLine_lines h, List.find?_cons_of_pos (by simp)]
    rfl

theorem Store.lineSt_pinLine_ne (st : Store) {x k : Nat} (hk : k ≠ x) : (st.pinLine x).lineSt k = st.lineSt k := by
  by_cases h : st.lineSt x = some .pinned
  · rw [Store.pinLine_pinned h]
  · rw [Store.lineSt, Store.pinLine_lines h, List.find?_cons_of_neg (by simpa using hk.symm)]
    exact Store.lineSt_filter (st := st) (keep := (· != x)) rfl (by simpa using hk)

/-- A pinned line stays so as others are pinned. -/
theorem Store.lineSt_pin_of_pinned {st : Store} {k : Nat} (h : st.lineSt k = some .pinned) (xs : List Nat) : (st.pin xs).lineSt k = some .pinned := by
  induction xs generalizing st with
  | nil => exact h
  | cons x xs ih =>
    refine ih (st := st.pinLine x) ?_
    by_cases hk : k = x
    · exact hk ▸ st.lineSt_pinLine_same x
    · rw [st.lineSt_pinLine_ne hk, h]

/-- Each line of a request is pinned. -/
theorem Store.lineSt_pin {st : Store} {k : Nat} {xs : List Nat} (hk : k ∈ xs) : (st.pin xs).lineSt k = some .pinned := by
  induction xs generalizing st with
  | nil => cases hk
  | cons x xs ih =>
    obtain rfl | hk := List.mem_cons.mp hk
    · exact Store.lineSt_pin_of_pinned (st.lineSt_pinLine_same k) xs
    · exact ih (st := st.pinLine x) hk

/-- The lines of a request that are not pinned. -/
def Store.unpinned (st : Store) (xs : List Nat) : List Nat := xs.filter fun k => st.lineSt k != some .pinned

/-- P of their pool grows by those that were not pinned (02 R48). -/
theorem Store.pool_pin {st : Store} {d : Die} {n : Nat} {xs : List Nat} {p : Pool} (hp : st.pool d n = some p) (hnd : xs.Nodup)
    (hpool : ∀ k ∈ xs, dieOfLine k = d ∧ poolOfLine k = n) : (st.pin xs).pool d n = some { p with p := p.p + (st.unpinned xs).length } := by
  induction xs generalizing st p with
  | nil => exact hp
  | cons x xs ih =>
    rw [List.nodup_cons] at hnd
    obtain ⟨hd, hn⟩ := hpool x List.mem_cons_self
    have hrest : (st.pinLine x).unpinned xs = st.unpinned xs :=
      List.filter_congr fun k hk => by rw [st.lineSt_pinLine_ne (ne_of_mem_of_not_mem hk hnd.1)]
    have hpin (q : Pool) (hq : (st.pinLine x).pool d n = some q) := ih hq hnd.2 fun k hk => hpool k (List.mem_cons_of_mem _ hk)
    rw [Store.pin_cons]
    by_cases h : st.lineSt x = some .pinned
    · have hskip : st.unpinned (x :: xs) = st.unpinned xs := List.filter_cons_of_neg (by simp [h])
      rw [hskip, ← hrest]
      exact hpin p (by rwa [Store.pinLine_pinned h])
    · have htake : st.unpinned (x :: xs) = x :: st.unpinned xs := List.filter_cons_of_pos (by simpa using h)
      have hup : (st.pinLine x).pool d n = some { p with p := p.p + 1 } := by
        rw [Store.pool, Store.pinLine_pools h, hd, hn]
        exact Store.pool_modPool (f := fun p => { p with p := p.p + 1 }) hp rfl rfl
      rw [htake, ← hrest, hpin _ hup, List.length_cons, Nat.add_assoc, Nat.add_comm 1]

/-! #### The W head of a bank, taken from its queue -/

/-- The state in which bank `n` acts, with `rest` at its W engine. -/
def State.taken (s : State) (n : BankId) (rest : List Entry) : State := { s.setBank n { s.bank n with qW := rest } with cur := n }

theorem State.takeW_cons {s : State} {n : BankId} {x : Entry} {rest : List Entry} (h : (s.bank n).qW = x :: rest) :
    s.takeW n = some (x, s.taken n rest) := by
  unfold State.takeW
  simp only [h]
  rfl

@[simp] theorem State.taken_bank (s : State) (n : BankId) (rest : List Entry) : (s.taken n rest).bank n = { s.bank n with qW := rest } :=
  s.bank_setBank n _

theorem State.taken_qW (s : State) (n : BankId) (rest : List Entry) : ((s.taken n rest).bank n).qW = rest := by rw [State.taken_bank]

/-- A word that is held stands before the others at the W engine of the acting bank. -/
theorem State.hold_qW {s : State} {n : BankId} {rest : List Entry} (h : s.cur = n) (hrest : (s.bank n).qW = rest) (x : Entry) :
    ((s.hold .W x).bank n).qW = x :: rest := by
  subst h hrest
  exact congrArg Bank.qW (s.bank_modBank s.cur fun b => b.hold .W x)

/-- A refused access of a bank without a cut takes its cause, and leaves the home of its page (02 R51, R53). -/
theorem State.refuse_taken {s : State} {n : BankId} (hcur : s.cur = n) (x : Entry) (kind o : Nat) (h : (s.bank n).cut = none) :
    let t := s.refuse x kind o
    t.store = s.store.leaveArrival n x.uid ∧ (t.bank n).tcause = tcauseOf { group := 1, kind := kind, engine := .W }
      ∧ (t.bank n).tval = BitVec.ofNat 64 o := by
  subst hcur
  let s1 := s.modStore fun st => st.leaveArrival s.cur x.uid
  have hcut : s1.here.cut = none := h
  intro t
  have ht : t = s1.raiseMem .W kind { x with alloc := .none } o := by
    simp only [t, State.refuse]
    exact if_neg (by rw [show (s.modStore fun st => st.leaveArrival s.cur x.uid).here.cut = none from h]; exact Bool.false_ne_true)
  obtain ⟨hstore, hcur, -, hcause, hval⟩ := State.raiseMem_taken (s := s1) .W kind { x with alloc := .none } o hcut
  have hhere : t.bank s.cur = t.here := by rw [ht, State.here, hcur]; rfl
  rw [hhere, ht]
  exact ⟨hstore, hcause, hval⟩

/-- A page that is locked is found locked (02 R52 step 1). -/
theorem State.lockPage_locked (s : State) (n : BankId) (uid : Nat) {loc len : Nat} (h : 0 < len) :
    (s.lockPage n uid loc len).store.locked loc = true := by
  have hlocks : (s.lockPage n uid loc len).store.locks = (s.store.leaveArrival n uid).locks ++ [(loc, len)] := rfl
  rw [Store.locked, hlocks, List.any_append]
  simp [h]

/-! #### ALLOCATION_ANSWER -/

section

variable {s : State} {n : BankId} {x : Entry} {rest : List Entry} {c : Capture} {o : Nat} {lines : List Nat} {p : Pool}

/-- The answer to the request of a W head, whose page is not locked and stands where it stood (02 R48-R51). -/
theorem execAllocationAnswer_go (hq : (s.bank n).qW = x :: rest) (hcap : x.cap = some c) (hask : x.alloc = .asked o lines)
    (hfwd : s.store.forwards = []) (hl : 2 ^ 48 ≤ c.h.loc) (hbehind : s.store.behindArrival n x.uid (c.h.loc + o) = false)
    (hlock : s.store.locked c.h.loc = false) (hhead : lines.headD 0 = (c.h.loc + o) / 128)
    (hp : s.store.pool (dieOfLoc (c.h.loc + o)) (poolOfLoc (c.h.loc + o)) = some p) {need : Nat} (hneed : (s.store.unpinned lines).length = need) :
    exec (.allocationAnswer n) s = .next (if p.p + need ≤ p.r ∨ need = 0 then
        ((s.taken n rest).modStore fun st => st.pin lines).hold .W { x with alloc := .granted }
      else if c.h.lf then ((s.taken n rest).lockPage n x.uid c.h.loc c.h.extent.toNat).hold .W { x with alloc := .late o }
      else (s.taken n rest).refuse x 10 o) := by
  subst hneed
  have hres : s.store.resolve (c.h.loc + o) = c.h.loc + o := Store.resolve_plain hfwd _
  have hshift : lines.map (fun k => k + (c.h.loc + o) / 128 - lines.headD 0) = lines := by
    rw [hhead]
    simp
  rw [exec_allocationAnswer, execAllocationAnswer, State.takeW_cons hq]
  simp only [hask, hcap, hlock, hres, hshift, hbehind, Bool.false_eq_true, if_false]
  rw [if_neg (by omega), Store.poolCounts_of_pool hp]
  simp only []
  change (if p.p + (s.store.unpinned lines).length ≤ p.r ∨ (s.store.unpinned lines).length = 0 then _ else _) = _
  split
  · rfl
  · split <;> rfl

end

end Sys2Proof.Machine

/-! ### LATE_FRAME_CONVERSION (02 R52, R53) -/

namespace Sys2Proof.Machine

open Sys2Proof

/-- The state in which a page of `n` bytes at `l` has been written to the frame at `f`, and is unlocked (02 R52 steps 3, 4). -/
def State.pageCopied (t : State) (l n f : Nat) (d : Die) (k : Nat) (p' : Pool) : State :=
  ((t.senseRange l n).modStore fun st => ((st.modPool d k fun _ => p').toFrame l n f).unlock l).frameTraffic f n

/-- The state in which its leaf is that of a backed page (02 R52 step 5). -/
def State.pageConverted (t : State) (asn : BitVec 12) (va l n f : Nat) (d : Die) (k : Nat) (p' : Pool) : State :=
  (t.pageCopied l n f d k p').finishMove asn va l n f (some (d, k)) (fun e => leafBacked e f (leafHome e)) none

/-- NLATE counts up where the leaf named the page, and the refused access is the last of those that wait for the page (02 R52 steps 4, 6). -/
def Store.converted (st : Store) (d : Die) (k : Nat) (named : Bool) (b : BankId) (uid l n : Nat) : Store :=
  (st.modPool d k fun p => if named then { p with nlate := p.nlate + 1 } else p).lastArrival b uid l n

section

variable {s : State} {n : BankId} {x : Entry} {rest : List Entry} {c : Capture} {o : Nat} (hq : (s.bank n).qW = x :: rest)
  (hcap : x.cap = some c) (hlate : x.alloc = .late o) (hfwd : s.store.forwards = []) (hl : 2 ^ 48 ≤ c.h.loc)
include hq hcap hlate hfwd hl

/-- Where the late reserve of its pool holds no frame, the page of a W head is unlocked and the access refused (02 R53). -/
theorem execLateFrameConversion_empty
    (hnone : ((s.store.pool (dieOfLoc c.h.loc) (poolOfLoc c.h.loc)).bind fun p => p.takeFrame c.h.extent.toNat) = none) :
    exec (.lateFrameConversion n) s = .next (((s.taken n rest).modStore fun st => st.unlock c.h.loc).refuse x 14 o) := by
  have hres : s.store.resolve c.h.loc = c.h.loc := Store.resolve_plain hfwd _
  rw [exec_lateFrameConversion, execLateFrameConversion, State.takeW_cons hq]
  simp only [hlate, hcap, hres, hnone]
  rw [if_neg (Nat.not_lt.mpr hl)]

/-- Else the page is converted, and the access may issue (02 R52). -/
theorem execLateFrameConversion_frame {f : Nat} {p' : Pool} {v u : State}
    (hframe : ((s.store.pool (dieOfLoc c.h.loc) (poolOfLoc c.h.loc)).bind fun p => p.takeFrame c.h.extent.toNat) = some (f, p'))
    (hv : (s.taken n rest).pageCopied c.h.loc c.h.extent.toNat f (dieOfLoc c.h.loc) (poolOfLoc c.h.loc) p' = v)
    (hu : (s.taken n rest).pageConverted (s.bank n).asn c.h.base.toNat c.h.loc c.h.extent.toNat f (dieOfLoc c.h.loc) (poolOfLoc c.h.loc) p' = u) :
    exec (.lateFrameConversion n) s = .next ((u.modStore fun st => st.converted (dieOfLoc c.h.loc) (poolOfLoc c.h.loc) (v.xl.next != u.xl.next) n
      x.uid c.h.loc c.h.extent.toNat).hold .W { x with alloc := .granted }) := by
  subst hv hu
  have hres : s.store.resolve c.h.loc = c.h.loc := Store.resolve_plain hfwd _
  rw [exec_lateFrameConversion, execLateFrameConversion, State.takeW_cons hq]
  simp only [hlate, hcap, hres, hframe, State.taken_bank]
  rw [if_neg (Nat.not_lt.mpr hl)]
  rfl

end

/-! #### What every conversion does -/

section

variable (t : State) (asn : BitVec 12) (va l n f : Nat) (d : Die) (k : Nat) (p' : Pool)

theorem State.pageCopied_waitingAt (b : BankId) : let st := (((t.senseRange l n).store.modPool d k fun _ => p').toFrame l n f).unlock l
    (t.pageCopied l n f d k p').waitingAt b = ((t.bank b).qW.map (·.uid), t.cur, st.tags) := by
  intro st
  refine (State.waitingAt_of_standing b (State.frameTraffic_standing ..)).trans ?_
  have hsense := State.waitingAt_of_standing b (t.senseRange_standing l n)
  have huids : ((t.senseRange l n).bank b).qW.map (·.uid) = (t.bank b).qW.map (·.uid) := congrArg Prod.fst hsense
  have hcur : (t.senseRange l n).cur = t.cur := congrArg (·.2.1) hsense
  rw [← huids, ← hcur]
  rfl

/-- The words that wait keep their order; no line of the page has a tag, and the page is not locked. -/
theorem State.pageConverted_leaves (b : BankId) : let u := t.pageConverted asn va l n f d k p'
    (u.bank b).qW.map (·.uid) = (t.bank b).qW.map (·.uid) ∧ u.cur = t.cur
      ∧ (∀ q ∈ u.store.lines, ¬(l / 128 ≤ q.1 ∧ q.1 * 128 < l + n)) ∧ ∀ q ∈ u.store.locks, q.1 ≠ l := by
  intro u
  have hu : u.waitingAt b = _ := (State.finishMove_waitingAt ..).trans (t.pageCopied_waitingAt l n f d k p' b)
  have hlines : u.store.lines = (((t.senseRange l n).store.modPool d k fun _ => p').toFrame l n f).lines := congrArg (·.2.2.1) hu
  have hlocks : u.store.locks = ((((t.senseRange l n).store.modPool d k fun _ => p').toFrame l n f).unlock l).locks := congrArg (·.2.2.2) hu
  refine ⟨congrArg Prod.fst hu, congrArg (·.2.1) hu, fun q hq => ?_, fun q hq => ?_⟩
  · rw [hlines, Store.toFrame_lines, List.mem_filter] at hq
    have hout := hq.2
    simp only [Bool.not_eq_true', Bool.and_eq_false_iff, decide_eq_false_iff_not] at hout
    omega
  · rw [hlocks, Store.unlock, List.mem_filter] at hq
    simpa using hq.2

end

/-! #### A conversion in a plain state -/

section

variable {s t : State} {l n f : Nat} {asn : BitVec 12} {va addr : Nat} {e : Word} {p p' : Pool}

/-- The leaf names the page on its frame, and the invalidation has begun. -/
theorem State.pageConverted_plain (h : s.plainMove l n) (hstore : t.store = s.store) (hxl : t.xl = s.xl) (hg : t.gaffer = s.gaffer)
    (hfr : t.frames = s.frames) (d : Die) (k : Nat) (p' : Pool)
    (hstays : s.leafStays ((s.store.modPool d k fun _ => p').toFrame l n f) asn va l addr e) :
    let v := t.pageCopied l n f d k p'; let u := t.pageConverted asn va l n f d k p'; let st := (s.store.modPool d k fun _ => p').toFrame l n f
    st.Forwarded u.store l n f addr (leafBacked e f (leafHome e)) ∧ u.store.pools = st.pools ∧ moveInvalidates s u asn va l n f none
      ∧ u.xl.next = v.xl.next + 1 := by
  intro v u st
  have hoff : (t.modStore fun _ => st.unlock l).filtersOff := by rw [State.filtersOff, State.modStore, hg]; exact h.filters
  have hv : v = t.modStore fun _ => st.unlock l := by
    simp only [v]
    rw [State.pageCopied, State.senseRange_clean t l n (hstore ▸ h.clean), State.modStore, hstore]
    exact State.frameTraffic_off (t.modStore fun _ => st.unlock l) f n hoff
  obtain ⟨hfwd, hpools, hinval, hnext⟩ := h.finishMove (v := t.modStore fun _ => st.unlock l) hxl hg hfr Store.toFrame_forwards
    (Store.toFrame_tagEcc (st := s.store.modPool d k fun _ => p') h.correct.2)
    (Store.toFrame_hbmEcc (st := s.store.modPool d k fun _ => p') h.correct.1) hstays (fun _ _ => rfl) f (some (d, k))
    (fun e => leafBacked e f (leafHome e)) none
  have hu : u = (t.modStore fun _ => st.unlock l).finishMove asn va l n f (some (d, k)) (fun e => leafBacked e f (leafHome e)) none :=
    congrArg (fun v : State => v.finishMove asn va l n f (some (d, k)) (fun e => leafBacked e f (leafHome e)) none) hv
  rw [hu, hv]
  exact ⟨hfwd.of_unlock, hpools, hinval, hnext⟩

theorem Store.Forwarded.of_converted {v st : Store} {dst addr : Nat} (h : v.Forwarded st l n dst addr e) (d : Die) (k : Nat) (named : Bool)
    (b : BankId) (uid l' n' : Nat) : v.Forwarded (st.converted d k named b uid l' n') l n dst addr e :=
  ⟨h.lines, h.mem, h.forwards, h.poison⟩

/-- P of the pool falls by the pinned lines of the page, and NLATE counts (02 R52 step 4). -/
theorem Store.pool_converted {st : Store} (h : s.plainMove l n) (hl : 2 ^ 48 ≤ l) (hp : s.store.pool (dieOfLoc l) (poolOfLoc l) = some p)
    (hframe : p.takeFrame n = some (f, p')) (hpools : st.pools = ((s.store.modPool (dieOfLoc l) (poolOfLoc l) fun _ => p').toFrame l n f).pools)
    (b : BankId) (uid l' n' : Nat) : (st.converted (dieOfLoc l) (poolOfLoc l) true b uid l' n').pool (dieOfLoc l) (poolOfLoc l)
      = some { p' with p := p'.p - s.store.pinnedIn l n, nlate := p'.nlate + 1 } := by
  obtain ⟨hdie, hnum, -⟩ := Pool.takeFrame_key hframe
  have hleft : (s.store.modPool (dieOfLoc l) (poolOfLoc l) fun _ => p').pool (dieOfLoc l) (poolOfLoc l) = some p' := Store.pool_modPool hp hdie hnum
  have hfell := Store.pool_toFrame (st := s.store.modPool (dieOfLoc l) (poolOfLoc l) fun _ => p') (f := f) (h.page hl) h.lines hleft
  exact Store.pool_modPool (f := fun p => if true then { p with nlate := p.nlate + 1 } else p) ((Store.pool_congr hpools _ _).trans hfell) rfl rfl

end

/-- Settles O35: the answer pins the lines, refuses or locks, and the conversion moves the locked page to a frame. -/
theorem allocationEvents : Obligations.AllocationEvents := by
  intro s n x rest c hq hcap hcut hfwd hl
  refine ⟨fun o lines p hbehind hask hlock hhead hp => ?answer, fun o hlate => ?conversion⟩
  case answer =>
    intro need
    have hexec := execAllocationAnswer_go (need := need) hq hcap hask hfwd hl hbehind hlock hhead hp rfl
    refine ⟨fun hroom => ?grant, fun hneed hfull hlf => ?refuse, fun hneed hfull hlf hextent => ?lock⟩
    case grant =>
      rw [if_pos hroom.symm] at hexec
      refine ⟨_, { x with alloc := .granted }, hexec, ?_, rfl, rfl, fun k hk => Store.lineSt_pin hk, fun hnd hpool => Store.pool_pin hp hnd hpool⟩
      exact State.hold_qW rfl (s.taken_qW n rest) _
    all_goals rw [if_neg (not_or.mpr ⟨Nat.not_le.mpr hfull, hneed⟩)] at hexec
    case refuse =>
      rw [if_neg (by rw [hlf]; exact Bool.false_ne_true)] at hexec
      exact ⟨_, hexec, State.refuse_taken (s := s.taken n rest) (n := n) rfl x 10 o (by rw [State.taken_bank]; exact hcut)⟩
    case lock =>
      rw [if_pos hlf] at hexec
      refine ⟨_, { x with alloc := .late o }, hexec, ?_, rfl, State.lockPage_locked _ n x.uid hextent⟩
      exact State.hold_qW rfl (s.taken_qW n rest) _
  case conversion =>
    intro l sz d k pn
    refine ⟨fun hnone => ?empty, fun hsome => ?frame⟩
    case empty =>
      obtain ⟨hstore, hcause, hval⟩ := State.refuse_taken (s := (s.taken n rest).modStore fun st => st.unlock c.h.loc) (n := n) rfl x 14 o
        (by rw [State.bank_modStore, State.taken_bank]; exact hcut)
      refine ⟨_, execLateFrameConversion_empty hq hcap hlate hfwd hl hnone, hcause, hval, fun q hq => ?_⟩
      rw [hstore, Store.leaveArrival_eq] at hq
      have hq' : q ∈ (s.store.unlock c.h.loc).locks := hq
      rw [Store.unlock, List.mem_filter] at hq'
      simpa using hq'.2
    case frame =>
      obtain ⟨⟨f, p'⟩, hframe⟩ := Option.isSome_iff_exists.mp hsome
      have hleaves := (s.taken n rest).pageConverted_leaves (s.bank n).asn c.h.base.toNat l sz f d k p' n
      have hplain {addr : Nat} {e : Word} (h : s.plainMove l sz) :=
        State.pageConverted_plain (t := s.taken n rest) (asn := (s.bank n).asn) (va := c.h.base.toNat) (f := f) (addr := addr) (e := e) h rfl rfl
          rfl rfl d k p'
      generalize hv : (s.taken n rest).pageCopied l sz f d k p' = v at hplain
      generalize hu : (s.taken n rest).pageConverted (s.bank n).asn c.h.base.toNat l sz f d k p' = u at hleaves hplain
      obtain ⟨huids, hcur, hlines, hlocks⟩ := hleaves
      rw [State.taken_bank] at huids
      refine ⟨_, { x with alloc := .granted }, _, execLateFrameConversion_frame hq hcap hlate hfwd hl hframe hv hu, State.hold_qW hcur rfl _, rfl, rfl,
        huids, ?_, hlocks, hlines, ?_⟩
      · exact ⟨_, List.mem_append_right _ (List.mem_singleton_self _), rfl, rfl, rfl⟩
      · intro f1 p1 addr e hframe1 hmove hal hend hout hstays
        obtain ⟨rfl, rfl⟩ : f = f1 ∧ p' = p1 := by simpa using hframe.symm.trans hframe1
        obtain ⟨p, hp, htake⟩ := Option.bind_eq_some_iff.mp hframe
        obtain ⟨hforwarded, hpools, hinval, hnext⟩ := hplain hmove hstays
        have hnamed : (v.xl.next != u.xl.next) = true := by rw [hnext]; simp
        refine ⟨?_, ?_, hinval.of_eq rfl rfl rfl⟩
        · exact Store.Forwarded.movedToFrame hmove hl (hforwarded.of_converted d k _ n x.uid l sz) hal hend hout hstays.aligned hstays.below
            (fieldOf_lt ..)
        · rw [hnamed]
          exact Store.pool_converted hmove hl hp htake hpools n x.uid l sz

end Sys2Proof.Machine

/-! ### A write reads back (03 R66, R67, R79, R80) -/

namespace Sys2Proof.Machine

open Sys2Proof

/-- A write updates the copies of its own die and no other (03 R80). -/
theorem Store.putAt_remote (st : Store) (d : Die) (l : Nat) (bs : List Byte) :
    (st.putAt d l bs).remote = st.remote.map fun r => if r.die = d then r.update l bs else r := by
  obtain ⟨e, f, h⟩ := st.filled_frame l bs.length
  unfold Store.putAt
  simp only []
  rw [h, Store.foldl_writeEcc_frame]
  split
  · rfl
  · rw [Store.foldl_evict_frame]; rfl

/-- A write moves no name. -/
theorem Store.putAt_resolve (st : Store) (d : Die) (l : Nat) (bs : List Byte) (a : Nat) : (st.putAt d l bs).resolve a = st.resolve a := by
  rw [Store.putAt_frame]; rfl

theorem Store.putAt_lineSt (st : Store) (d : Die) (l : Nat) (bs : List Byte) (line : Nat) : (st.putAt d l bs).lineSt line = st.lineSt line := by
  rw [Store.putAt_frame]; rfl

theorem Store.putAt_mem (st : Store) (d : Die) (l : Nat) (bs : List Byte) : (st.putAt d l bs).mem = st.mem.writes l bs := by
  rw [Store.putAt_frame]

theorem Store.putAt_epoch (st : Store) (d : Die) (l : Nat) (bs : List Byte) : (st.putAt d l bs).epoch = st.epoch := by rw [Store.putAt_frame]

/-- A search by what a change of the members leaves as it is finds the changed member. -/
theorem find?_map_of_keys {α : Type} {p : α → Bool} {f : α → α} (hf : ∀ x, p (f x) = p x) (xs : List α) :
    (xs.map f).find? p = (xs.find? p).map f := by
  rw [List.find?_map]
  congr 2
  exact funext hf

/-- The valid copies after a write: those of the writer's die are updated (03 R80). -/
theorem Store.copyOf_putAt (st : Store) (d : Die) (l : Nat) (bs : List Byte) (e : Die) (line : Nat) :
    (st.putAt d l bs).copyOf e line = (st.copyOf e line).map fun r => if r.die = d then r.update l bs else r := by
  rw [Store.copyOf, Store.putAt_remote, Store.putAt_epoch]
  refine find?_map_of_keys (fun r => ?_) _
  split <;> rfl

theorem Store.copyOf_die {st : Store} {e : Die} {line : Nat} {r : RLine} (h : st.copyOf e line = some r) : r.die = e ∧ r.line = line := by
  have hp := List.find?_some h
  simp only [Bool.and_eq_true, beq_iff_eq] at hp
  exact hp.1

theorem Store.copyOf_putAt_same (st : Store) (d : Die) (l : Nat) (bs : List Byte) (line : Nat) :
    (st.putAt d l bs).copyOf d line = (st.copyOf d line).map (·.update l bs) := by
  rw [Store.copyOf_putAt]
  refine Option.map_congr fun r hr => ?_
  rw [if_pos (Store.copyOf_die hr).1]

theorem Store.copyOf_putAt_ne (st : Store) {d e : Die} (h : e ≠ d) (l : Nat) (bs : List Byte) (line : Nat) :
    (st.putAt d l bs).copyOf e line = st.copyOf e line := by
  rw [Store.copyOf_putAt]
  refine (Option.map_congr fun r hr => ?_).trans (congrFun Option.map_id _)
  rw [if_neg ((Store.copyOf_die hr).1 ▸ h), id]

/-- A byte of a copy after a write of its die (03 R80). -/
theorem RLine.update_byte (r : RLine) (l : Nat) (bs : List Byte) {a : Nat} (ha : r.line = a / 128) :
    (r.update l bs).bytes.getD (a % 128) 0 = if l ≤ a ∧ a < l + bs.length then bs.getD (a - l) 0 else r.bytes.getD (a % 128) 0 := by
  have hk : a % 128 < 128 := Nat.mod_lt _ (by decide)
  have hline : r.line * 128 + a % 128 = a := by rw [ha]; exact Nat.div_add_mod' a 128
  simp [RLine.update, List.getD_eq_getElem?_getD, List.getElem?_range hk, hline]

/-- A write to writable places is one write at the place that its location resolves to. -/
theorem Store.put_writable {st : Store} {l : Nat} {bs : List Byte} (h : st.writable l bs.length) (d : Die) :
    st.put d l bs = st.putAt d (st.resolve l) bs := by
  obtain ⟨-, hplace⟩ := h
  refine Store.put_whole d l bs ?_
  rcases hplace with hbelow | ⟨-, hpinned⟩
  · by_cases hn : bs.length = 0
    · exact .inr (by rw [hn]; rfl)
    · exact .inl (by omega)
  · exact .inr (List.all_eq_true.mpr fun x hx => beq_iff_eq.mpr (hpinned x hx))

/-- A place is readable: no unbacked line, or one that is pinned (02 R43). -/
def Store.readable (st : Store) (r : Nat) : Prop := r < 2 ^ 48 ∨ st.lineSt (r / 128) = some .pinned

theorem mem_linesOf {l n a : Nat} (h : l ≤ a) (h' : a < l + n) : a / 128 ∈ linesOf l n := by
  rw [linesOf, if_neg (by omega), List.mem_map]
  exact ⟨a / 128 - l / 128, List.mem_range.mpr (by omega), by omega⟩

theorem Store.writable_readable {st : Store} {l n i : Nat} (h : st.writable l n) (hi : i < n) : st.readable (st.resolve l + i) := by
  obtain ⟨-, hbelow | ⟨-, hpinned⟩⟩ := h
  · exact .inl (by omega)
  · exact .inr (hpinned _ (mem_linesOf (by omega) (by omega)))

theorem Store.homeByte_readable {st : Store} {a : Nat} (h : st.readable (st.resolve a)) : st.homeByte a = st.mem.read (st.resolve a) := by
  refine if_neg fun hc => ?_
  rcases h with hlow | hpin
  · exact absurd hc.1 (Nat.not_le.mpr hlow)
  · exact hc.2 hpin

theorem remoteHomed_backed {d : Die} {r : Nat} (h : remoteHomed d r = true) : r < 2 ^ 48 := by
  refine Nat.not_le.mp fun hr => ?_
  rw [remoteHomed, regionOf, if_pos hr] at h
  exact Bool.noConfusion h

/-- A die reads a line of another die in its valid copy (03 R79). -/
theorem Store.viewByte_copy {st : Store} {d : Die} {a : Nat} {r : RLine} (hr : remoteHomed d (st.resolve a) = true)
    (hc : st.copyOf d (st.resolve a / 128) = some r) : st.viewByte d a = r.bytes.getD (st.resolve a % 128) 0 := by
  simp only [Store.viewByte, if_neg (Nat.not_le.mpr (remoteHomed_backed hr)), if_pos hr, hc]

/-- A die reads any other byte at its home (03 R67, R79). -/
theorem Store.viewByte_home {st : Store} {d : Die} {a : Nat} (h : st.readable (st.resolve a))
    (hc : remoteHomed d (st.resolve a) = true → st.copyOf d (st.resolve a / 128) = none) : st.viewByte d a = st.mem.read (st.resolve a) := by
  simp only [Store.viewByte]
  split
  next hhigh =>
    have hpinned := Or.resolve_left h (Nat.not_lt.mpr hhigh)
    rw [if_pos hpinned]
  next =>
    split
    next hr => rw [hc hr]
    next => rfl

/-- A byte as a die reads it, at a place that is not readable, is zero (02 R43). -/
theorem Store.viewByte_unreadable {st : Store} {a : Nat} (h : ¬ st.readable (st.resolve a)) (d : Die) : st.viewByte d a = 0 := by
  rw [Store.readable, not_or, Nat.not_lt] at h
  simp only [Store.viewByte, if_pos h.1, if_neg h.2]

theorem Store.readable_putAt (st : Store) (d : Die) (l : Nat) (bs : List Byte) (r : Nat) : (st.putAt d l bs).readable r ↔ st.readable r := by
  rw [Store.readable, Store.putAt_lineSt]; rfl

/-- After a write, a byte of it reads back for an agent of the writer's die (03 R80). -/
theorem Store.viewByte_putAt_inside {st : Store} {d : Die} {l : Nat} {bs : List Byte} (hwf : st.mem.wf = true) {a i : Nat}
    (ha : st.resolve a = l + i) (hi : i < bs.length) (h : st.readable (l + i)) : (st.putAt d l bs).viewByte d a = bs.getD i 0 := by
  have hres : (st.putAt d l bs).resolve a = l + i := (st.putAt_resolve d l bs a).trans ha
  have hcopies := st.copyOf_putAt_same d l bs ((l + i) / 128)
  by_cases hc : remoteHomed d (l + i) = true ∧ (st.copyOf d ((l + i) / 128)).isSome = true
  · obtain ⟨hr, hsome⟩ := hc
    obtain ⟨c, hc⟩ := Option.isSome_iff_exists.mp hsome
    rw [hc] at hcopies
    rw [Store.viewByte_copy (by rw [hres]; exact hr) (by rw [hres]; exact hcopies), hres, RLine.update_byte _ _ _ (Store.copyOf_die hc).2,
      if_pos ⟨by omega, by omega⟩, Nat.add_sub_cancel_left]
  · rw [Store.viewByte_home (by rw [hres]; exact (st.readable_putAt ..).mpr h), hres, Store.putAt_mem, Memory.read_writes _ _ _ hwf hi]
    intro hr
    rw [hres] at hr ⊢
    rw [hcopies, Option.not_isSome_iff_eq_none.mp fun hsome => hc ⟨hr, hsome⟩]; rfl

theorem Store.homeByte_putAt_inside {st : Store} {d : Die} {l : Nat} {bs : List Byte} (hwf : st.mem.wf = true) {a i : Nat}
    (ha : st.resolve a = l + i) (hi : i < bs.length) (h : st.readable (l + i)) : (st.putAt d l bs).homeByte a = bs.getD i 0 := by
  have hres : (st.putAt d l bs).resolve a = l + i := (st.putAt_resolve d l bs a).trans ha
  rw [Store.homeByte_readable (by rw [hres]; exact (st.readable_putAt ..).mpr h), hres, Store.putAt_mem, Memory.read_writes _ _ _ hwf hi]

/-- A byte outside a write is as before at its home. -/
theorem Store.homeByte_putAt_outside (st : Store) (d : Die) (l : Nat) (bs : List Byte) {a : Nat}
    (ha : st.resolve a < l ∨ l + bs.length ≤ st.resolve a) : (st.putAt d l bs).homeByte a = st.homeByte a := by
  simp only [Store.homeByte, Store.putAt_resolve, Store.putAt_lineSt, Store.putAt_mem, Memory.read_writes_outside _ _ _ _ ha]

/-- The valid copy of a line after a write holds the bytes outside the write as before. -/
theorem Store.copyOf_putAt_byte (st : Store) (d : Die) (l : Nat) (bs : List Byte) {e : Die} {r : Nat}
    (h : e ≠ d ∨ r < l ∨ l + bs.length ≤ r) : ((st.putAt d l bs).copyOf e (r / 128)).map (·.bytes.getD (r % 128) 0)
      = (st.copyOf e (r / 128)).map (·.bytes.getD (r % 128) 0) := by
  by_cases he : e = d
  · subst he
    have hr := h.resolve_left fun hne => hne rfl
    rw [Store.copyOf_putAt_same, Option.map_map]
    refine Option.map_congr fun c hc => ?_
    rw [Function.comp_apply, RLine.update_byte _ _ _ (Store.copyOf_die hc).2, if_neg (by omega)]
  · rw [Store.copyOf_putAt_ne _ he]

/-- What a die reads of a place goes by the place's line, its valid copy there and its byte at home (03 R79). -/
theorem Store.viewByte_congr {st t : Store} {e : Die} {a : Nat} (hres : t.resolve a = st.resolve a)
    (hline : ∀ k, t.lineSt k = st.lineSt k) (hmem : remoteHomed e (st.resolve a) = false ∨ (st.copyOf e (st.resolve a / 128)).isSome = false →
      t.mem.read (st.resolve a) = st.mem.read (st.resolve a))
    (hcopy : (t.copyOf e (st.resolve a / 128)).map (·.bytes.getD (st.resolve a % 128) 0)
      = (st.copyOf e (st.resolve a / 128)).map (·.bytes.getD (st.resolve a % 128) 0)) : t.viewByte e a = st.viewByte e a := by
  by_cases h : st.readable (st.resolve a)
  case neg =>
    have h' : ¬ t.readable (t.resolve a) := by rw [hres, Store.readable, hline]; exact h
    rw [Store.viewByte_unreadable h, Store.viewByte_unreadable h']
  have h' : t.readable (t.resolve a) := by rw [hres, Store.readable, hline]; exact h
  cases hr : remoteHomed e (st.resolve a) with
  | false =>
    have hhome : remoteHomed e (st.resolve a) ≠ true := by rw [hr]; exact Bool.false_ne_true
    rw [Store.viewByte_home h' fun hc => absurd (hres ▸ hc) hhome, Store.viewByte_home h fun hc => absurd hc hhome, hres, hmem (.inl hr)]
  | true =>
    cases hc : st.copyOf e (st.resolve a / 128) with
    | none =>
      rw [hc, Option.map_none, Option.map_eq_none_iff] at hcopy
      rw [Store.viewByte_home h' fun _ => by rw [hres]; exact hcopy, Store.viewByte_home h fun _ => hc, hres, hmem (.inr (by rw [hc]; rfl))]
    | some c =>
      rw [hc, Option.map_some] at hcopy
      obtain ⟨c', hc', hbyte⟩ := Option.map_eq_some_iff.mp hcopy
      rw [Store.viewByte_copy (by rw [hres]; exact hr) (by rw [hres]; exact hc'), Store.viewByte_copy hr hc, hres, hbyte]

/-- A byte outside a write reads as before, for every die. -/
theorem Store.viewByte_putAt_outside (st : Store) (d : Die) (l : Nat) (bs : List Byte) {a : Nat}
    (ha : st.resolve a < l ∨ l + bs.length ≤ st.resolve a) (e : Die) : (st.putAt d l bs).viewByte e a = st.viewByte e a :=
  Store.viewByte_congr (st.putAt_resolve d l bs a) (st.putAt_lineSt d l bs)
    (fun _ => by rw [Store.putAt_mem, Memory.read_writes_outside _ _ _ _ ha]) (st.copyOf_putAt_byte d l bs (.inr ha))

/-- What another die holds valid reads as before (03 R79). -/
theorem Store.viewByte_putAt_held (st : Store) {d e : Die} (l : Nat) (bs : List Byte) {a : Nat} (he : e ≠ d)
    (hr : remoteHomed e (st.resolve a) = true) (hheld : (st.copyOf e (st.resolve a / 128)).isSome = true) :
    (st.putAt d l bs).viewByte e a = st.viewByte e a :=
  Store.viewByte_congr (st.putAt_resolve d l bs a) (st.putAt_lineSt d l bs)
    (fun hc => hc.elim (fun hf => absurd (hf.symm.trans hr) Bool.false_ne_true) fun hf => absurd (hf.symm.trans hheld) Bool.false_ne_true)
    (st.copyOf_putAt_byte d l bs (.inl he))

/-- Settles O53: a write that is performed at consecutive places is one write there, which the home and the copies of the
writer's die take, and no other byte or copy. -/
theorem memoryReadsBack : Obligations.MemoryReadsBack := by
  intro st d l bs hwf hw t
  have ht : t = st.putAt d (st.resolve l) bs := Store.put_writable hw d
  rw [ht]
  obtain ⟨hconsecutive, -⟩ := id hw
  refine ⟨fun i hi => ?inside, fun a ha => ?outside, fun e a he hr hheld => st.viewByte_putAt_held _ bs he hr hheld⟩
  case inside =>
    exact ⟨Store.viewByte_putAt_inside hwf (hconsecutive i hi) hi (Store.writable_readable hw hi),
      Store.homeByte_putAt_inside hwf (hconsecutive i hi) hi (Store.writable_readable hw hi)⟩
  case outside => exact ⟨st.homeByte_putAt_outside d _ bs ha, st.viewByte_putAt_outside d _ bs ha⟩

end Sys2Proof.Machine

/-! ### The scrubber, and records that expire (03 R84, R85; 18 R394; 20 R414, R415) -/

namespace Sys2Proof.Machine

open Sys2Proof

/-! #### Counting below a lasting fault -/

/-- No record of a location is near a lasting fault: one more error of any weight does not make it one (20 R415). -/
def State.lightAt (s : State) (loc : ErrLoc) : Prop := ∀ r ∈ s.gaffer.records, r.loc = loc → r.count + 2 < 4 ∧ r.lasting = false

theorem mem_of_mem_takeFirst {α : Type} {p : α → Bool} {xs rest : List α} {x y : α} (h : takeFirst p xs = some (x, rest)) (hy : y ∈ rest) :
    y ∈ xs := by
  induction xs generalizing rest with
  | nil => cases h
  | cons z zs ih =>
    rw [takeFirst] at h
    split at h
    · cases h
      exact List.mem_cons_of_mem _ hy
    · obtain ⟨⟨a, ys⟩, hys, heq⟩ := Option.map_eq_some_iff.mp h
      cases heq
      rcases List.mem_cons.mp hy with rfl | hmem
      · exact List.mem_cons_self
      · exact List.mem_cons_of_mem _ (ih hys hmem)

theorem mem_modFirst {α : Type} {p : α → Bool} {f : α → α} {xs : List α} {y : α} (h : y ∈ modFirst p f xs) :
    y ∈ xs ∨ ∃ x ∈ xs, y = f x := by
  induction xs with
  | nil => cases h
  | cons z zs ih =>
    rw [modFirst] at h
    split at h
    · rcases List.mem_cons.mp h with rfl | hmem
      · exact .inr ⟨z, List.mem_cons_self, rfl⟩
      · exact .inl (List.mem_cons_of_mem _ hmem)
    · rcases List.mem_cons.mp h with rfl | hmem
      · exact .inl List.mem_cons_self
      · rcases ih hmem with hold | ⟨x, hx, rfl⟩
        · exact .inl (List.mem_cons_of_mem _ hold)
        · exact .inr ⟨x, List.mem_cons_of_mem _ hx, rfl⟩

theorem mem_modFirst_of_find {α : Type} {p : α → Bool} (f : α → α) {xs : List α} {x : α} (h : xs.find? p = some x) :
    f x ∈ modFirst p f xs := by
  induction xs with
  | nil => cases h
  | cons z zs ih =>
    rw [List.find?_cons] at h
    rw [modFirst]
    cases hz : p z <;> simp only [hz, Bool.false_eq_true, if_true, if_false] at h ⊢
    · exact List.mem_cons_of_mem _ (ih h)
    · cases h
      exact List.mem_cons_self

/-- A record after an error was there before, or is new, or is one of the location that counts more (20 R415). -/
theorem mem_countRecord {rs : List ErrRec} {loc : ErrLoc} {w time : Nat} {q : ErrRec} (h : q ∈ countRecord rs loc w time) :
    q ∈ rs ∨ q = { loc := loc, count := w, first := time, lasting := false }
      ∨ ∃ r ∈ rs, r.loc = q.loc ∧ q = { r with count := r.count + w, lasting := r.lasting || decide (4 ≤ r.count + w) } := by
  unfold countRecord at h
  split at h
  next =>
    split at h
    · dsimp only at h
      split at h
      · exact .inl (List.mem_filter.mp h).1
      · rcases List.mem_append.mp h with hold | hnew
        · exact .inl (List.mem_filter.mp hold).1
        · exact .inr (.inl (List.mem_singleton.mp hnew))
    · rcases mem_modFirst h with hold | ⟨r, hr, rfl⟩
      · exact .inl hold
      · exact .inr (.inr ⟨r, hr, rfl, rfl⟩)
  next =>
    dsimp only at h
    split at h
    · exact .inl h
    · split at h
      · rcases List.mem_append.mp h with hold | hnew
        · exact .inl hold
        · exact .inr (.inl (List.mem_singleton.mp hnew))
      · split at h
        next hrest =>
          rcases List.mem_append.mp h with hold | hnew
          · exact .inl (mem_of_mem_takeFirst hrest hold)
          · exact .inr (.inl (List.mem_singleton.mp hnew))
        next => exact .inl h

/-- Below a lasting fault an error is counted and has no other consequence (20 R415). -/
theorem State.countError_light {s : State} {loc : ErrLoc} {w : Nat} (h : s.lightAt loc) (hw : w ≤ 2) : s.countError loc w = s.countQuiet loc w := by
  refine if_neg fun hc => ?_
  simp only [Bool.and_eq_true, List.any_eq_true, beq_iff_eq] at hc
  obtain ⟨-, q, hq, hloc, hlasting⟩ := hc
  rcases mem_countRecord hq with hold | rfl | ⟨r, hr, hrloc, rfl⟩
  · exact absurd ((h q hold hloc).2.symm.trans hlasting) Bool.false_ne_true
  · exact absurd hlasting Bool.false_ne_true
  · obtain ⟨hcount, hlight⟩ := h r hr (hrloc.trans hloc)
    have h4 : ¬ 4 ≤ r.count + w := by omega
    simp only [hlight, h4, decide_false, Bool.or_false, Bool.false_eq_true] at hlasting

/-- A record whose 24 hours have not ended counts more (20 R415). -/
theorem countRecord_counts {rs : List ErrRec} {loc : ErrLoc} {w time : Nat} {r : ErrRec} (hr : rs.find? (fun r => r.loc == loc) = some r)
    (hlight : r.count + 2 < 4 ∧ r.lasting = false) (hw : w ≤ 2) (htime : time - r.first < errWindow) :
    { r with count := r.count + w } ∈ countRecord rs loc w time := by
  obtain ⟨hcount, hlasting⟩ := hlight
  have h4 : ¬ 4 ≤ r.count + w := by omega
  have hmem := mem_modFirst_of_find (fun r => { r with count := r.count + w, lasting := r.lasting || decide (4 ≤ r.count + w) }) hr
  rw [countRecord, hr]
  simp only [decide_eq_false (Nat.not_le.mpr htime), Bool.and_false, Bool.false_eq_true, if_false]
  simpa only [hlasting, h4, decide_false, Bool.or_false] using hmem

/-- An error at a location without a record begins one (20 R415). -/
theorem countRecord_begins {rs : List ErrRec} {loc : ErrLoc} {w time : Nat} (hr : rs.find? (fun r => r.loc == loc) = none) (hw : w ≠ 0)
    (hroom : (rs.filter fun r => dieOfErr r.loc == dieOfErr loc).length < 4096) :
    { loc := loc, count := w, first := time, lasting := false } ∈ countRecord rs loc w time := by
  rw [countRecord, hr]
  simp only [if_neg hw, if_pos hroom]
  exact List.mem_append_right _ (List.mem_singleton_self _)

/-! #### What a read of a unit does where no tag has an error -/

/-- What a level or an L2 holds against a unit. -/
def Store.ownEcc (st : Store) (u : Nat) : Option Ecc := (st.ecc.find? fun p => p.1 == u).map (·.2)

/-- The storage after a read of a unit: corrected, or poison where it cannot be, or filled from HBM (03 R85). -/
def Store.scrubbed (st : Store) (u : Nat) : Store :=
  match st.ownEcc u with
  | none => if st.hbmEcc.isEmpty || st.dirty.contains (u / 16) then st else st.fillLine (u / 16)
  | some .poison => st
  | some .single => st.setEcc u none
  | some .uncorrectable => st.setEcc u (some .poison)

/-- The rail of the marver slice that holds a unit is undervolted (18 R394). -/
def State.undervolted (s : State) (u : Nat) : Bool := (sliceDie u).any fun d => decide ((s.power.dies.get d).vmrv < 150)

/-- The location at which a read of a unit counts, with the weight (20 R415, Table 20.1). -/
def State.scrubCounts (s : State) (u : Nat) : Option (ErrLoc × Nat) :=
  match s.store.ownEcc u with
  | none =>
    if s.store.hbmEcc.isEmpty || s.store.dirty.contains (u / 16) then none
    else match s.store.hbmGroup (u / 4) with
      | some .single => some (.frame (u * 8 / 0x10000), 1)
      | some .uncorrectable => some (.frame (u * 8 / 0x10000), 2)
      | some .poison | none => none
  | some .poison => none
  | some .single => (errLocOf u).map fun loc => (loc, 1)
  | some .uncorrectable => (errLocOf u).map fun loc => (loc, if s.undervolted u then 0 else 2)

/-- The records after what a read counts. -/
def countAll (rs : List ErrRec) (time : Nat) : Option (ErrLoc × Nat) → List ErrRec
  | some (loc, w) => countRecord rs loc w time
  | none => rs

/-- A read of a unit leaves the storage as `st` and counts `c`, and the banks are as before. -/
structure State.ScrubsTo (s t : State) (st : Store) (c : Option (ErrLoc × Nat)) : Prop where
  store : t.store = st
  banks : t.banks = s.banks
  records : t.gaffer.records = countAll s.gaffer.records s.time c

/-- A read that counts an error counts it below a lasting fault. -/
theorem State.ScrubsTo.counted {s t : State} {loc : ErrLoc} {w : Nat} (hlight : s.lightAt loc) (hw : w ≤ 2) (hbanks : t.banks = s.banks)
    (hrecords : t.gaffer.records = s.gaffer.records) (htime : t.time = s.time) : s.ScrubsTo (t.countError loc w) t.store (some (loc, w)) := by
  have ht : t.lightAt loc := by rw [State.lightAt, hrecords]; exact hlight
  rw [State.countError_light ht hw]
  refine ⟨rfl, hbanks, ?_⟩
  show countRecord t.gaffer.records loc w t.time = countRecord s.gaffer.records loc w s.time
  rw [hrecords, htime]

/-- The same where the location may be none that counts. -/
theorem State.ScrubsTo.countedAt {s t : State} {w : Nat} (hw : w ≤ 2) (hbanks : t.banks = s.banks)
    (hrecords : t.gaffer.records = s.gaffer.records) (htime : t.time = s.time) (oloc : Option ErrLoc) :
    (∀ loc, oloc = some loc → s.lightAt loc) → s.ScrubsTo (match oloc with | some loc => t.countError loc w | none => t) t.store (oloc.map fun loc => (loc, w)) := by
  intro hlight
  cases oloc with
  | none => exact ⟨rfl, hbanks, hrecords⟩
  | some loc => exact .counted (hlight loc rfl) hw hbanks hrecords htime

/-- A fold of which one member alone does something does that. -/
theorem foldl_single {σ α : Type} {f : σ → α → σ} {xs : List α} {a : α} (hnd : xs.Nodup) (ha : a ∈ xs)
    (h : ∀ x ∈ xs, x ≠ a → ∀ t, f t x = t) (t : σ) : xs.foldl f t = f t a := by
  have rest : ∀ (ys : List α), (∀ y ∈ ys, y ∈ xs ∧ y ≠ a) → ∀ t, ys.foldl f t = t := by
    intro ys
    induction ys with
    | nil => exact fun _ _ => rfl
    | cons y ys ih =>
      intro hys t
      obtain ⟨hy, hne⟩ := hys y List.mem_cons_self
      rw [List.foldl_cons, h y hy hne, ih fun z hz => hys z (List.mem_cons_of_mem _ hz)]
  obtain ⟨before, after, rfl⟩ := List.append_of_mem ha
  have hsplit := List.nodup_middle.mp hnd
  rw [List.nodup_cons, List.mem_append, not_or] at hsplit
  obtain ⟨⟨hb, haf⟩, -⟩ := hsplit
  have hbefore := rest before fun y hy => ⟨List.mem_append_left _ hy, fun e => hb (e ▸ hy)⟩
  have hafter := rest after fun y hy => ⟨List.mem_append_right _ (List.mem_cons_of_mem _ hy), fun e => haf (e ▸ hy)⟩
  rw [List.foldl_append, List.foldl_cons, hbefore, hafter]

section
variable {s : State} {u : Nat} (hgroup : ∀ p ∈ s.store.hbmEcc, p.1 / 16 = u / 16 → p.2 ≠ .poison → p.1 / 4 = u / 4)
include hgroup

/-- HBM holds an error against no other 32-byte unit of the line. -/
theorem State.hbmGroup_other {k : Nat} (hk : k < 4) (hne : u / 16 * 4 + k ≠ u / 4) : s.store.hbmGroup (u / 16 * 4 + k) = none := by
  rw [Store.hbmGroup, Option.map_eq_none_iff, List.find?_eq_none]
  intro p hp hc
  simp only [Bool.and_eq_true, beq_iff_eq, bne_iff_ne] at hc
  obtain ⟨hkey, hbad⟩ := hc
  exact hne (hkey.symm.trans (hgroup p hp (by omega) hbad))

/-- A read of a unit of which HBM alone may hold an error (03 R85). -/
theorem State.senseHbm_scrubsTo (hlight : s.lightAt (.frame (u * 8 / 0x10000))) (hown : s.store.ownEcc u = none) :
    s.ScrubsTo (s.senseHbm u) (s.store.scrubbed u) (s.scrubCounts u) := by
  rw [State.senseHbm, State.senseHbmBy, Store.scrubbed, State.scrubCounts, hown]
  split
  next => exact ⟨rfl, rfl, rfl⟩
  next =>
    have hmem : u / 4 % 4 ∈ List.range 4 := List.mem_range.mpr (Nat.mod_lt _ (by decide))
    have hat : u / 16 * 4 + u / 4 % 4 = u / 4 := by omega
    dsimp only
    rw [foldl_single List.nodup_range hmem (fun k hk hne t => ?other), hat]
    case other =>
      have hk' : k < 4 := List.mem_range.mp hk
      rw [State.hbmGroup_other hgroup hk' (by omega)]
    rcases s.store.hbmGroup (u / 4) with _ | _ | _ | _
    · exact ⟨rfl, rfl, rfl⟩
    · exact .counted hlight (by decide) rfl rfl rfl
    · exact .counted (t := (s.modStore fun st => st.fillLine (u / 16)).report _) hlight (by decide) rfl rfl rfl
    · exact ⟨rfl, rfl, rfl⟩

/-- A read of a unit where no name is moved and no tag has an error (03 R85; 18 R394; 20 R415). -/
theorem State.senseUnit_scrubsTo (hfwd : s.store.forwards = []) (htag : s.store.tagEcc = [])
    (hlight : ∀ loc, errLocOf u = some loc ∨ loc = .frame (u * 8 / 0x10000) → s.lightAt loc) :
    s.ScrubsTo (s.senseUnit u) (s.store.scrubbed u) (s.scrubCounts u) := by
  have hu : s.store.resolve (u * 8) / 8 = u := by rw [Store.resolve_plain hfwd, Nat.mul_div_cancel _ (by decide)]
  have hhome : s.senseHomeTagBy State.countError (u / 16) = s := by rw [State.senseHomeTagBy, htag]; rfl
  have hown (loc : ErrLoc) (h : errLocOf u = some loc) : s.lightAt loc := hlight loc (.inl h)
  rw [State.senseUnit, State.senseUnitBy, hu]
  dsimp only
  rw [hhome, ← Store.ownEcc]
  split
  next hnone => exact State.senseHbm_scrubsTo hgroup (hlight _ (.inr rfl)) hnone
  next hpoison => rw [Store.scrubbed, State.scrubCounts, hpoison]; exact ⟨rfl, rfl, rfl⟩
  next hsingle =>
    rw [Store.scrubbed, State.scrubCounts, hsingle]
    cases sliceDie u with
    | none => exact .countedAt (s := s) (t := s.modStore fun st => st.setEcc u none) (by decide : 1 ≤ 2) rfl rfl rfl _ hown
    | some d =>
      exact .countedAt (s := s) (t := (s.modStore fun st => st.setEcc u none).modDie d fun p => { p with corrected := p.corrected + 1 })
        (by decide : 1 ≤ 2) rfl rfl rfl _ hown
  next huncorrectable =>
    rw [Store.scrubbed, State.scrubCounts, State.undervolted, huncorrectable]
    cases sliceDie u with
    | none =>
      exact .countedAt (s := s) (t := (s.modStore fun st => st.setEcc u (some .poison)).report (.uncorrectable u false))
        (by decide : 2 ≤ 2) rfl rfl rfl _ hown
    | some d =>
      dsimp only
      split
      next hlow =>
        have hlow' : (s.power.dies.get d).vmrv < 150 := hlow
        simp only [Option.any_some, decide_eq_true hlow', if_true]
        exact .countedAt (s := s) (t := ((s.modStore fun st => st.setEcc u (some .poison)).report (.uncorrectable u true)).modDie d fun p =>
          { p with railUp := p.railUp + 2, sp := max 1 (p.sp / 2), hold := true, holdFrom := s.time, corrected := 0 })
          (by decide : 0 ≤ 2) rfl rfl rfl _ hown
      next hok =>
        have hok' : ¬ (s.power.dies.get d).vmrv < 150 := hok
        simp only [Option.any_some, decide_eq_false hok', Bool.false_eq_true, if_false]
        exact .countedAt (s := s) (t := ((s.modStore fun st => st.setEcc u (some .poison)).report (.uncorrectable u false)).modDie d fun p =>
          { p with calmFrom := s.time }) (by decide : 2 ≤ 2) rfl rfl rfl _ hown

end

/-! #### What the unit holds after it was read -/

/-- A read changes check bits and nothing else. -/
theorem Store.scrubbed_frame (st : Store) (u : Nat) :
    st.scrubbed u = { st with ecc := (st.scrubbed u).ecc, hbmEcc := (st.scrubbed u).hbmEcc } := by
  unfold Store.scrubbed
  split
  · split
    · rfl
    · exact st.fillLine_frame _
  all_goals rfl

theorem Store.unitEcc_eq (st : Store) (u : Nat) : st.unitEcc u = (st.ownEcc u).or (st.hbmUnit u) := rfl

theorem Store.ownEcc_setEcc_same (st : Store) (u : Nat) (x : Option Ecc) : (st.setEcc u x).ownEcc u = x := by
  cases x with
  | none => simp [Store.setEcc, Store.ownEcc, List.find?_filter]
  | some e => simp [Store.setEcc, Store.ownEcc]

theorem Store.ownEcc_setEcc_ne (st : Store) {u k : Nat} (h : k ≠ u) (x : Option Ecc) : (st.setEcc u x).ownEcc k = st.ownEcc k := by
  have hrest : ((st.ecc.filter fun p => p.1 != u).find? fun p => p.1 == k) = st.ecc.find? fun p => p.1 == k := by
    rw [List.find?_filter]
    congr 1
    funext p
    by_cases hp : p.1 = k <;> simp [hp, h]
  cases x with
  | none => exact congrArg (Option.map _) hrest
  | some e => exact congrArg (Option.map _) ((List.find?_cons_of_neg (by simpa using Ne.symm h)).trans hrest)

/-- Where HBM holds no error, a read of a unit leaves every other unit as it is. -/
theorem Store.unitEcc_scrubbed_ne {st : Store} {u k : Nat} (hh : st.hbmEcc = []) (hk : k ≠ u) : (st.scrubbed u).unitEcc k = st.unitEcc k := by
  have hset (x : Option Ecc) : (st.setEcc u x).unitEcc k = st.unitEcc k := by
    rw [Store.unitEcc_eq, Store.ownEcc_setEcc_ne _ hk]; rfl
  unfold Store.scrubbed
  split
  · rw [hh]; rfl
  · rfl
  · exact hset none
  · exact hset (some .poison)

/-- A unit that HBM holds as bad comes into its L2 as poison (03 R85). -/
def Store.fillsBad (st : Store) (u : Nat) : Bool :=
  match st.hbmUnit u with
  | some .poison | some .uncorrectable => true
  | some .single | none => false

/-- The bad units of a line in HBM. -/
def Store.badOfLine (st : Store) (line : Nat) : List Nat := ((List.range 16).map (line * 16 + ·)).filter st.fillsBad

theorem Store.mem_badOfLine {st : Store} {u : Nat} : u ∈ st.badOfLine (u / 16) ↔ st.fillsBad u = true := by
  have hmem : u ∈ (List.range 16).map (u / 16 * 16 + ·) :=
    List.mem_map.mpr ⟨u % 16, List.mem_range.mpr (Nat.mod_lt _ (by decide)), Nat.div_add_mod' u 16⟩
  rw [Store.badOfLine, List.mem_filter, and_iff_right hmem]

/-- A line that comes from HBM brings its bad units as poison. -/
theorem Store.fillLine_eq {st : Store} {line : Nat} (h : (st.hbmEcc.isEmpty || st.dirty.contains line) = false) : st.fillLine line = { st with
    ecc := ((st.badOfLine line).filter fun u => !st.ecc.any fun p => p.1 == u).map (fun u => (u, Ecc.poison)) ++ st.ecc
    hbmEcc := (st.badOfLine line).map (fun u => (u, Ecc.poison)) ++ st.hbmEcc.filter fun p => p.1 / 16 != line } :=
  if_neg (by rw [h]; exact Bool.false_ne_true)

/-- What is found of a unit behind a list of poisoned ones. -/
theorem find?_poison_append (us : List Nat) (es : List (Nat × Ecc)) (u : Nat) :
    ((us.map (fun v => (v, Ecc.poison)) ++ es).find? fun p => p.1 == u).map (·.2)
      = if u ∈ us then some .poison else (es.find? fun p => p.1 == u).map (·.2) := by
  induction us with
  | nil => rfl
  | cons v vs ih =>
    rw [List.map_cons, List.cons_append]
    by_cases hv : v = u
    · simp [hv]
    · have hmem : u ∈ v :: vs ↔ u ∈ vs := by simp [Ne.symm hv]
      rw [List.find?_cons_of_neg (by simpa using hv), ih]
      simp only [hmem]

theorem Store.ownEcc_eq_none {st : Store} {u : Nat} (h : st.ownEcc u = none) : (st.ecc.any fun p => p.1 == u) = false := by
  rw [Store.ownEcc, Option.map_eq_none_iff, List.find?_eq_none] at h
  simpa using h

/-- After its line has come from HBM, HBM holds nothing against a unit that was not bad. -/
theorem Store.hbmUnit_fillLine {st : Store} {u : Nat} (h : (st.hbmEcc.isEmpty || st.dirty.contains (u / 16)) = false) (hbad : st.fillsBad u = false) :
    (st.fillLine (u / 16)).hbmUnit u = none := by
  have hecc : (st.fillLine (u / 16)).hbmEcc
      = (st.badOfLine (u / 16)).map (fun u => (u, Ecc.poison)) ++ st.hbmEcc.filter fun p => p.1 / 16 != u / 16 := by
    rw [Store.fillLine_eq h]
  have hcases : ∀ p ∈ (st.fillLine (u / 16)).hbmEcc, (p.2 = .poison ∧ p.1 ≠ u) ∨ p.1 / 16 ≠ u / 16 := by
    intro p hp
    rw [hecc, List.mem_append] at hp
    rcases hp with hnew | hold
    · obtain ⟨v, hv, rfl⟩ := List.mem_map.mp hnew
      exact .inl ⟨rfl, fun e => Bool.false_ne_true (hbad.symm.trans (Store.mem_badOfLine.mp (e ▸ hv)))⟩
    · exact .inr (by simpa using (List.mem_filter.mp hold).2)
  have hany : ((st.fillLine (u / 16)).hbmEcc.any fun p => p.1 == u && p.2 == .poison) = false := by
    refine List.any_eq_false.mpr fun p hp hc => ?_
    simp only [Bool.and_eq_true, beq_iff_eq] at hc
    rcases hcases p hp with ⟨-, hne⟩ | hline
    · exact hne hc.1
    · exact hline (by rw [hc.1])
  have hfind : ((st.fillLine (u / 16)).hbmEcc.find? fun p => p.1 / 4 == u / 4 && p.2 != .poison) = none := by
    refine List.find?_eq_none.mpr fun p hp hc => ?_
    simp only [Bool.and_eq_true, beq_iff_eq, bne_iff_ne] at hc
    rcases hcases p hp with ⟨hpoison, -⟩ | hline
    · exact hc.2 hpoison
    · exact hline (by omega)
  rw [Store.hbmUnit]
  split
  · rfl
  · rw [hany, hfind]; rfl

/-- What is stored of a unit that was read: correct where it could be corrected, else poison (03 R85). -/
def readEcc : Option Ecc → Option Ecc
  | some .uncorrectable | some .poison => some .poison
  | some .single | none => none

/-- A unit that comes from HBM is correct, or poison where it could not be corrected (03 R84, R85). -/
theorem Store.unitEcc_fillLine {st : Store} {u : Nat} (hown : st.ownEcc u = none) (h : (st.hbmEcc.isEmpty || st.dirty.contains (u / 16)) = false) :
    (st.fillLine (u / 16)).unitEcc u = readEcc (st.hbmUnit u) := by
  have hread : readEcc (st.hbmUnit u) = if st.fillsBad u = true then some .poison else none := by
    unfold readEcc Store.fillsBad
    rcases st.hbmUnit u with _ | _ | _ | _ <;> rfl
  have hfilled : (st.fillLine (u / 16)).ownEcc u = if st.fillsBad u = true then some .poison else none := by
    rw [Store.ownEcc, Store.fillLine_eq h, find?_poison_append, ← Store.ownEcc, hown]
    simp only [List.mem_filter, Store.mem_badOfLine, Store.ownEcc_eq_none hown, Bool.not_false, and_true]
  rw [Store.unitEcc_eq, hfilled, hread]
  cases hbad : st.fillsBad u with
  | true => rfl
  | false => exact Store.hbmUnit_fillLine h hbad

/-- A unit after it was read (03 R84, R85). HBM holds nothing against it where its level or L2 does. -/
theorem Store.unitEcc_scrubbed {st : Store} {u : Nat} (h : st.hbmUnit u = none ∨ st.ownEcc u = none) :
    (st.scrubbed u).unitEcc u = readEcc (st.unitEcc u) := by
  have hset (x : Option Ecc) (hx : st.hbmUnit u = none) : (st.setEcc u x).unitEcc u = x := by
    have hhbm : (st.setEcc u x).hbmUnit u = none := hx
    rw [Store.unitEcc_eq, Store.ownEcc_setEcc_same, hhbm, Option.or_none]
  rw [Store.scrubbed, st.unitEcc_eq u]
  cases hown : st.ownEcc u with
  | none =>
    rw [Option.none_or]
    dsimp only
    split
    next hc =>
      have hhbm : st.hbmUnit u = none := if_pos hc
      rw [Store.unitEcc_eq, hown, hhbm]; rfl
    next hc => exact Store.unitEcc_fillLine hown (Bool.eq_false_iff.mpr hc)
  | some e =>
    have hhbm := h.resolve_right (by rw [hown]; exact Option.some_ne_none e)
    cases e with
    | poison => rw [Store.unitEcc_eq, hown]; rfl
    | single => exact hset none hhbm
    | uncorrectable => exact hset (some .poison) hhbm

/-! #### The dies' copies -/

/-- A read of a copy in which no unit has an error leaves the state. -/
theorem State.senseCopy_correct {s : State} (d : Die) (u : Nat) (htag : s.store.tagEcc = []) (hremote : ∀ r ∈ s.store.remote, r.ecc = []) :
    s.senseCopy d u = s := by
  have hnone : ((s.store.copyOf d (u / 16)).bind fun (r : RLine) => (r.ecc.find? fun p => p.1 == u).map (·.2)) = none := by
    cases hc : s.store.copyOf d (u / 16) with
    | none => rfl
    | some r => rw [Option.bind_some, hremote r (List.mem_of_find?_eq_some hc)]; rfl
  simp only [State.senseCopy, State.senseCopyBy, htag, List.isEmpty_nil, if_true, hnone]

theorem execPatrolScrub_correct {s : State} {u : Nat} (htag : (s.senseUnit u).store.tagEcc = [])
    (hremote : ∀ r ∈ (s.senseUnit u).store.remote, r.ecc = []) :
    exec (.patrolScrub u) s = .next (s.senseUnit u) := by
  refine congrArg Host.Outcome.next (?_ : List.foldl _ _ _ = _)
  have hstep (d : Die) : (if (s.senseUnit u).store.clean then s.senseUnit u else (s.senseUnit u).senseCopy d u) = s.senseUnit u := by
    rw [State.senseCopy_correct d u htag hremote, ite_self]
  generalize List.finRange 4 = ds
  induction ds with
  | nil => rfl
  | cons d ds ih => rw [List.foldl_cons, hstep]; exact ih

/-! #### What the scrubber counts -/

/-- A single-bit error weighs 1, an uncorrectable one 2 (20 R415). -/
def weighs (e : Option Ecc) (w : Nat) : Prop := (e = some .single ∧ w = 1) ∨ (e = some .uncorrectable ∧ w = 2)

/-- An error of a level or an L2 counts at its location, but one that an undervolted rail explains (18 R394). -/
theorem State.scrubCounts_own {s : State} {u w : Nat} {loc : ErrLoc} (hloc : errLocOf u = some loc) (hw : weighs (s.store.ownEcc u) w)
    (hrail : w = 2 → ∀ d, sliceDie u = some d → 150 ≤ (s.power.dies.get d).vmrv) : s.scrubCounts u = some (loc, w) := by
  rcases hw with ⟨hown, rfl⟩ | ⟨hown, rfl⟩
  · rw [State.scrubCounts, hown, hloc]; rfl
  · have hvolt : s.undervolted u = false := by
      refine Bool.eq_false_iff.mpr fun hc => ?_
      obtain ⟨d, hd, hlow⟩ := (Option.any_eq_true ..).mp hc
      exact absurd (of_decide_eq_true hlow) (Nat.not_lt.mpr (hrail rfl d hd))
    rw [State.scrubCounts, hown, hloc, hvolt]; rfl

/-- An error of HBM counts at its frame (20 Table 20.1). -/
theorem State.scrubCounts_hbm {s : State} {u w : Nat} (hown : s.store.ownEcc u = none) (hdirty : s.store.dirty.contains (u / 16) = false)
    (hw : weighs (s.store.hbmGroup (u / 4)) w) : s.scrubCounts u = some (.frame (u * 8 / 0x10000), w) := by
  have hheld : s.store.hbmEcc.isEmpty = false := by
    refine Bool.eq_false_iff.mpr fun hc => ?_
    rw [Store.hbmGroup, List.isEmpty_iff.mp hc] at hw
    exact hw.elim (fun h => nomatch h.1) fun h => nomatch h.1
  rw [State.scrubCounts, hown]
  dsimp only
  rw [hheld, hdirty]
  rcases hw with ⟨hgroup, rfl⟩ | ⟨hgroup, rfl⟩ <;> rw [hgroup] <;> rfl

/-- A scrub's count raises a record below a lasting fault by its weight, or begins one (20 R415). -/
theorem countAll_counts {rs : List ErrRec} {loc : ErrLoc} {w time : Nat} (hlight : ∀ r ∈ rs, r.loc = loc → r.count + 2 < 4 ∧ r.lasting = false)
    (hw : w = 1 ∨ w = 2) :
    (∀ r, (rs.find? fun r => r.loc == loc) = some r → time - r.first < errWindow → { r with count := r.count + w } ∈ countAll rs time (some (loc, w)))
      ∧ ((rs.find? fun r => r.loc == loc) = none → (rs.filter fun r => dieOfErr r.loc == dieOfErr loc).length < 4096 →
        { loc := loc, count := w, first := time, lasting := false } ∈ countAll rs time (some (loc, w))) := by
  refine ⟨fun r hr htime => ?_, fun hr hroom => countRecord_begins hr (by omega) hroom⟩
  have hkey := List.find?_some hr
  exact countRecord_counts hr (hlight r (List.mem_of_find?_eq_some hr) (by simpa using hkey)) (by omega) htime

/-- 20 R415: a record whose 24 hours end without a lasting fault is dropped, and every other one stays. -/
theorem errorWindowExpiry_drops (s : State) (loc : ErrLoc) : ∃ t, exec (.errorWindowExpiry loc) s = .next t ∧ t.store = s.store
    ∧ ∀ r, r ∈ t.gaffer.records ↔ r ∈ s.gaffer.records ∧ ¬ (r.loc = loc ∧ r.lasting = false ∧ 86400000000000 ≤ s.time - r.first) := by
  refine ⟨_, rfl, rfl, fun r => ?_⟩
  refine List.mem_filter.trans (and_congr_right fun _ => ?_)
  rw [Bool.not_eq_true', ← Bool.not_eq_true]
  simp only [Bool.and_eq_true, beq_iff_eq, Bool.not_eq_true', decide_eq_true_eq, and_assoc]
  rfl

/-- Settles O38: the scrubber's read of the unit, as far as its check bits, its count and the banks go. -/
theorem errorEvents : Obligations.ErrorEvents := by
  refine fun s => ⟨fun u hfwd hremote htag hgroup hrecords => ?scrub, errorWindowExpiry_drops s⟩
  case scrub =>
    have hlight (loc : ErrLoc) (hloc : errLocOf u = some loc ∨ loc = .frame (u * 8 / 0x10000)) : s.lightAt loc :=
      fun r hr hrloc => hrecords loc r hloc hr hrloc
    obtain ⟨hstore, hbanks, hcounted⟩ := State.senseUnit_scrubsTo hgroup hfwd htag hlight
    have hframe := hstore.trans (s.store.scrubbed_frame u)
    refine ⟨s.senseUnit u, execPatrolScrub_correct (by rw [hframe]; exact htag) (by rw [hframe]; exact hremote), by rw [hframe],
      fun n => by rw [State.bank, hbanks]; rfl, fun hh k hk => by rw [hstore]; exact Store.unitEcc_scrubbed_ne hh hk, fun hone => ?unit, ?records⟩
    case unit =>
      have hown : s.store.hbmUnit u = none ∨ s.store.ownEcc u = none :=
        hone.imp_right fun hall => by simpa [Store.ownEcc] using hall
      rw [hstore, Store.unitEcc_scrubbed hown]; rfl
    case records =>
      intro loc w own weight hcase
      rcases hcase with ⟨hloc, hw, hrail⟩ | ⟨rfl, hown, hdirty, hw⟩
      · rw [hcounted, State.scrubCounts_own hloc hw hrail]
        exact countAll_counts (hlight loc (.inl hloc)) (hw.imp And.right And.right)
      · rw [hcounted, State.scrubCounts_hbm hown hdirty hw]
        exact countAll_counts (hlight _ (.inr rfl)) (hw.imp And.right And.right)

end Sys2Proof.Machine

/-! ### Canonical memory: meanings that keep it, and what passes it on (log entry 2) -/

namespace Sys2Proof.Machine

open Sys2Proof

/-! Of each operation of the model one lemma: `Store.Canonical.f` says that `State.f`, and `Store.f_canonical` that `Store.f`, leaves the
memory in the canonical form where it found it so; `execF_keeps` says it of a meaning. A proof names what the operation does in its branches,
in the order of the definition. An operation without a lemma here leaves the memory as it is by definition. -/

/-- A meaning keeps the canonical form: the state that it passes on, where it passes one on, has it. -/
def Keeps (o : Out) : Prop := ∀ t, o = .next t → t.store.Canonical

theorem Keeps.next {t : State} (h : t.store.Canonical) : Keeps (.next t) := fun _ e => by cases e; exact h

theorem Store.Canonical.foldl {α : Type} {s : State} {xs : List α} {f : State → α → State} (h : s.store.Canonical)
    (hf : ∀ {t x}, t.store.Canonical → (f t x).store.Canonical) : (xs.foldl f s).store.Canonical := by
  induction xs generalizing s with
  | nil => exact h
  | cons x xs ih => exact ih (hf h)

theorem Store.Canonical.ite {c : Prop} [Decidable c] {a b : State} (ha : a.store.Canonical) (hb : b.store.Canonical) :
    (if c then a else b).store.Canonical := by
  split
  · exact ha
  · exact hb

theorem Store.Canonical.ite_fst {c : Prop} [Decidable c] {α : Type} {a b : State × α} (ha : a.1.store.Canonical) (hb : b.1.store.Canonical) :
    (if c then a else b).1.store.Canonical := by
  split
  · exact ha
  · exact hb

theorem Store.ite_canonical {c : Prop} [Decidable c] {a b : Store} (ha : a.Canonical) (hb : b.Canonical) :
    (if c then a else b).Canonical := by
  split
  · exact ha
  · exact hb

theorem Store.ite_fst_canonical {c : Prop} [Decidable c] {α : Type} {a b : Store × α} (ha : a.1.Canonical) (hb : b.1.Canonical) :
    (if c then a else b).1.Canonical := by
  split
  · exact ha
  · exact hb

theorem Keeps.ite {c : Prop} [Decidable c] {a b : Out} (ha : Keeps a) (hb : Keeps b) : Keeps (if c then a else b) := by
  split
  · exact ha
  · exact hb

theorem Store.Canonical.fst {α : Type} {p : State × α} {t : State} {a : α} (h : p.1.store.Canonical) (e : p = (t, a)) :
    t.store.Canonical := by
  subst e; exact h

theorem Store.Canonical.snd {α : Type} {p : α × State} {t : State} {a : α} (h : p.2.store.Canonical) (e : p = (a, t)) :
    t.store.Canonical := by
  subst e; exact h

theorem Keeps.fault {f : Fault} : Keeps (.fault f) := fun _ e => nomatch e

theorem Store.Canonical.foldl_fst {α β : Type} {xs : List α} {f : State × β → α → State × β} {p : State × β} (h : p.1.store.Canonical)
    (hf : ∀ {q x}, q.1.store.Canonical → (f q x).1.store.Canonical) : (xs.foldl f p).1.store.Canonical := by
  induction xs generalizing p with
  | nil => exact h
  | cons x xs ih => exact ih (hf h)

theorem Store.Canonical.of_canonical {s : State} (h : s.canonical) : s.store.Canonical := h

theorem State.canonical_ite {c : Prop} [Decidable c] {a b : State} (ha : a.store.Canonical) (hb : b.store.Canonical) :
    (if c then a else b).canonical := Store.Canonical.ite ha hb

theorem Store.Canonical.withStore {t : State} {st : Store} (h : st.Canonical) : ({ t with store := st } : State).store.Canonical := h

theorem Store.Canonical.withCur {t : State} {n : BankId} (h : t.store.Canonical) : ({ t with cur := n } : State).store.Canonical := h

theorem Store.Canonical.withSaves {t : State} {l : List (Nat × Bank)} (h : t.store.Canonical) :
    ({ t with saves := l } : State).store.Canonical := h

theorem Store.Canonical.withLehr {t : State} {l : Lehr} (h : t.store.Canonical) : ({ t with lehr := l } : State).store.Canonical := h

theorem Store.Canonical.withFree {t : State} {n : Nat} (h : t.store.Canonical) : ({ t with free := n } : State).store.Canonical := h

@[simp] theorem State.modGaffer_store (s : State) (f : Gaffer → Gaffer) : (s.modGaffer f).store = s.store := rfl

@[simp] theorem State.report_store (s : State) (r : Report) : (s.report r).store = s.store := rfl

end Sys2Proof.Machine

/-! ### Canonical memory: the levels, traps, traffic, accesses, scalar words and objects (02, 03, 07, 10) -/

namespace Sys2Proof.Machine

open Sys2Proof

theorem Store.fillLine_canonical {st : Store} (line : Nat) (h : st.Canonical) : (st.fillLine line).Canonical := Store.ite_canonical h h

theorem Store.writeEcc_canonical {st : Store} (l n u : Nat) (h : st.Canonical) : (st.writeEcc l n u).Canonical := by
  unfold Store.writeEcc
  refine Store.ite_canonical h ?_
  split <;> exact h

theorem Store.perform_canonical {st : Store} (d : Die) (p : Put) (h : st.Canonical) : (st.perform d p).Canonical :=
  Store.foldl_canonical _ _ h fun _ _ ht => Store.put_canonical _ _ _ ht

theorem Store.poisonUnit_canonical {st : Store} (d : Die) (u : Nat) (h : st.Canonical) : (st.poisonUnit d u).Canonical :=
  Store.ite_canonical h (Store.ite_canonical h h)

theorem Store.Canonical.raise {s : State} {c : Cause} {x : Entry} {tval : Word} (h : s.store.Canonical) :
    (s.raise c x tval).store.Canonical :=
  .ite h h

theorem Store.Canonical.raiseMem {s : State} {e : Engine} {kind : Nat} {x : Entry} {o : Nat} (h : s.store.Canonical) :
    (s.raiseMem e kind x o).store.Canonical :=
  .raise h

theorem Store.Canonical.senseHbmBy {s : State} {count : State → ErrLoc → Nat → State} {u : Nat} (h : s.store.Canonical)
    (hcount : ∀ {t loc n}, t.store.Canonical → (count t loc n).store.Canonical) : (State.senseHbmBy count s u).store.Canonical := by
  unfold State.senseHbmBy
  refine .ite h (.foldl (Store.fillLine_canonical _ h) ?_)
  intro t x ht
  split
  · exact hcount ht
  · exact hcount ht
  · exact ht
  · exact ht

theorem Store.Canonical.senseTagBy {s : State} {count : State → ErrLoc → Nat → State} {d : Die} {line : Nat} (h : s.store.Canonical)
    (hcount : ∀ {t loc n}, t.store.Canonical → (count t loc n).store.Canonical) : (State.senseTagBy count s d line).store.Canonical := by
  unfold State.senseTagBy
  split
  · exact h
  · exact .ite (hcount h) (hcount (Store.ite_canonical h (Store.foldl_canonical _ _ h fun _ _ ht => ht)))

theorem Store.Canonical.senseHomeTagBy {s : State} {count : State → ErrLoc → Nat → State} {line : Nat} (h : s.store.Canonical)
    (hcount : ∀ {t loc n}, t.store.Canonical → (count t loc n).store.Canonical) : (State.senseHomeTagBy count s line).store.Canonical := by
  unfold State.senseHomeTagBy
  refine .ite h ?_
  split
  · exact .senseTagBy h hcount
  · exact h

theorem Store.Canonical.openLine {s : State} {l : Nat} (h : s.store.Canonical) : (s.openLine l).store.Canonical :=
  .senseHbmBy (.senseHomeTagBy h (fun ht => ht)) (fun ht => ht)

theorem Store.Canonical.logLine {s0 : State} {h : Die} {req op : Nat} {known : Option Bool} {line : Nat} (hs : s0.store.Canonical) :
    (s0.logLine h req op known line).store.Canonical :=
  .ite (Store.ite_canonical (Store.put_canonical _ _ _ (.openLine hs)) (.openLine hs)) hs

theorem Store.Canonical.traffic {s : State} {req : Die → Nat} {op l n : Nat} (h : s.store.Canonical) :
    (s.traffic req op l n).store.Canonical := by
  unfold State.traffic
  dsimp only
  split
  · exact h
  · exact .ite (.foldl h .logLine) h

theorem Store.Canonical.trafficRead {s : State} {d : Die} {req : Die → Nat} {l n : Nat} (h : s.store.Canonical) :
    (s.trafficRead d req l n).store.Canonical :=
  .ite (.foldl h (fun ht => .ite (.ite (.logLine ht) ht) (.traffic ht))) (.traffic h)

theorem Store.Canonical.trafficStore {s : State} {d : Die} {req : Die → Nat} {l n : Nat} (h : s.store.Canonical) :
    (s.trafficStore d req l n).store.Canonical :=
  .traffic (.ite (.foldl h (fun ht => .ite (.logLine ht) ht)) h)

theorem Store.Canonical.begin {s : State} {i : Instr} (h : s.store.Canonical) : (s.begin i).2.store.Canonical := by
  unfold State.begin
  split <;> exact h

theorem Store.Canonical.sWord {s : State} {i : Instr} {eff : Entry → Bank → Bank} (h : s.store.Canonical) :
    (s.sWord i eff).store.Canonical :=
  .ite (.begin h) (.begin h)

theorem Store.Canonical.sResult {s : State} {i : Instr} {rd : BitVec 5} {val : Bank → Word} (h : s.store.Canonical) :
    (s.sResult i rd val).store.Canonical :=
  .sWord h

theorem Store.Canonical.sControl {s : State} {i : Instr} {eff : Entry → Bank → Bank} {next : Entry → Bank → Word} (h : s.store.Canonical) :
    (s.sControl i eff next).store.Canonical :=
  .sWord h

theorem Store.leaveArrival_canonical {st : Store} (b : BankId) (uid : Nat) (h : st.Canonical) : (st.leaveArrival b uid).Canonical :=
  Store.ite_canonical h h

theorem Store.Canonical.atHome {s : State} {e : Engine} {x : Entry} {c : Capture} {l : Nat} {go : State → Entry → State}
    (h : s.store.Canonical) (hgo : ∀ {t x}, t.store.Canonical → (go t x).store.Canonical) : (s.atHome e x c l go).store.Canonical :=
  .ite (.ite (Store.ite_canonical h h) h) (.ite (hgo h) (Store.leaveArrival_canonical _ _ (hgo h)))

theorem Store.Canonical.access {s : State} {e : Engine} {i : Instr} {acc : Entry → Access} {last : Entry → Bool}
    {go : State → Entry → Nat → State} (h : s.store.Canonical) (hgo : ∀ {t x n}, t.store.Canonical → (go t x n).store.Canonical) :
    (s.access e i acc last go).store.Canonical := by
  unfold State.access
  dsimp only
  split
  · exact .begin h
  · refine .ite (.begin h) ?_
    split
    · exact .begin h
    · exact .raiseMem (.begin h)
    · exact .atHome (.begin h) (fun ht => hgo ht)

theorem Store.Canonical.allocGate {s : State} {x : Entry} {l z : Nat} {go : State → Entry → State} (h : s.store.Canonical)
    (hgo : ∀ {t x}, t.store.Canonical → (go t x).store.Canonical) : (s.allocGate x l z go).store.Canonical := by
  unfold State.allocGate
  refine .ite ?_ (hgo h)
  split
  · exact h
  · exact h
  · exact h
  · exact h
  · exact hgo h

theorem Store.Canonical.trafficPuts {s : State} {b : BankId} {ps : List Put} (h : s.store.Canonical) :
    (s.trafficPuts b ps).store.Canonical :=
  .foldl h (fun ht => .foldl ht .trafficStore)

theorem Store.Canonical.complete {s : State} {b : BankId} {o : Op} (h : s.store.Canonical) : (s.complete b o).store.Canonical := by
  have hput : (o.puts.foldl (fun st p => st.perform (dieOf b) p) (s.trafficPuts b o.puts).store).Canonical :=
    Store.foldl_canonical _ _ (.trafficPuts h) fun _ _ ht => Store.perform_canonical _ _ ht
  unfold State.complete
  refine Store.leaveArrival_canonical _ _ ?_
  split
  · exact Store.ite_canonical hput hput
  · exact hput

theorem Store.rmw_canonical {st : Store} (d : Die) (j : AtomJob) (x : Entry) (l : Nat) (h : st.Canonical) :
    (st.rmw d j x l).1.Canonical := by
  unfold Store.rmw
  dsimp only
  split
  · exact Store.put_canonical _ _ _ h
  · exact h

theorem Store.setWaiting_canonical {st : Store} (d : Die) (l w : Nat) (done : Bool) (h : st.Canonical) :
    (st.setWaiting d l w done).Canonical :=
  Store.put_canonical _ _ _ h

theorem Store.lessWaiting_canonical {st : Store} (d : Die) (l : Nat) (h : st.Canonical) : (st.lessWaiting d l).Canonical :=
  Store.setWaiting_canonical _ _ _ _ h

theorem Store.takeItem_canonical {st : Store} (d : Die) (l k : Nat) (h : st.Canonical) : (st.takeItem d l k).2.Canonical := by
  unfold Store.takeItem
  dsimp only
  exact Store.put_canonical _ _ _ h

theorem Store.addItem_canonical {st : Store} (d : Die) (l k : Nat) (x : Word) (h : st.Canonical) : (st.addItem d l k x).Canonical :=
  Store.put_canonical _ _ _ (Store.put_canonical _ _ _ h)

theorem Store.serveWaiters_canonical (d : Die) (l k n : Nat) {st : Store} (h : st.Canonical) :
    (Store.serveWaiters d l k n st).Canonical := by
  induction n generalizing st with
  | zero => exact h
  | succ n ih =>
    have htaken : (st.takeItem d l k).2.Canonical := Store.takeItem_canonical d l k h
    unfold Store.serveWaiters
    dsimp only
    refine Store.ite_canonical h (Store.ite_canonical (Store.lessWaiting_canonical d l h) (ih ?_))
    exact (Store.lessWaiting_canonical d l htaken :)

theorem Store.detectDone_canonical {st : Store} (d : Die) (l : Nat) (h : st.Canonical) : (st.detectDone d l).Canonical :=
  Store.ite_canonical (Store.setWaiting_canonical _ _ _ _ h) h

theorem Store.registerWl_canonical {st : Store} (d : Die) (w : WlWait) (h : st.Canonical) : (st.registerWl d w).Canonical :=
  Store.detectDone_canonical _ _ (Store.setWaiting_canonical _ _ _ _ h)

theorem Store.dropWl_canonical {st : Store} (d : Die) (b : BankId) (h : st.Canonical) : (st.dropWl d b).Canonical := by
  unfold Store.dropWl
  split
  · exact h
  · exact Store.ite_canonical h (Store.put_canonical _ _ _ h)

theorem Store.append_canonical {st : Store} (d : Die) (l k : Nat) (item : Word) (h : st.Canonical) :
    (st.append d l k item).1.Canonical := by
  unfold Store.append
  refine Store.ite_fst_canonical h (Store.ite_fst_canonical h (Store.ite_fst_canonical h ?_))
  dsimp only
  exact Store.serveWaiters_canonical _ _ _ _ (Store.addItem_canonical _ _ _ _ h)

theorem Store.performObject_canonical {st st' : Store} {d : Die} {o q : Op} (h : st.Canonical) (e : st.performObject d o = some (st', q)) :
    st'.Canonical := by
  unfold Store.performObject at e
  split at e
  · split at e
    · cases e
      exact Store.rmw_canonical _ _ _ _ h
    · cases e
      exact Store.append_canonical _ _ _ _ h
    · cases e
  all_goals cases e

theorem Store.Canonical.performFirst {s : State} {l n : Nat} (h : s.store.Canonical) : (s.performFirst l n).store.Canonical := by
  unfold State.performFirst
  refine Store.Canonical.foldl h fun ht => .foldl ht fun {t o} ht => ?_
  split
  next st q heq => exact Store.performObject_canonical ht heq
  next => exact ht

theorem Store.seal_canonical {st : Store} (n : BankId) (ranges : List (Nat × Nat)) (h : st.Canonical) : (st.seal n ranges).Canonical :=
  Store.put_canonical _ _ _ h

theorem Store.Canonical.invalidateSaved {s : State} {p : Nat × Bank} {base len : Nat} (h : s.store.Canonical) :
    (s.invalidateSaved p base len).store.Canonical :=
  .ite h (Store.seal_canonical _ _ (Store.foldl_canonical _ _ h fun _ _ ht => Store.put_canonical _ _ _ ht))

theorem Store.Canonical.invalidate {s : State} {asn : BitVec 12} {base len : Nat} {pgmig : Option (BankId × Nat)}
    {old : List Nat} (h : s.store.Canonical) : (s.invalidate asn base len pgmig old).store.Canonical :=
  .foldl h (fun ht => .ite (.invalidateSaved ht) ht)

theorem Store.Canonical.senseUnitBy {s0 : State} {count : State → ErrLoc → Nat → State} {u0 : Nat} (h : s0.store.Canonical)
    (hcount : ∀ {t loc n}, t.store.Canonical → (count t loc n).store.Canonical) : (State.senseUnitBy count s0 u0).store.Canonical := by
  have hhome : (s0.senseHomeTagBy count (s0.store.resolve (u0 * 8) / 8 / 16)).store.Canonical := .senseHomeTagBy h hcount
  unfold State.senseUnitBy
  dsimp only
  generalize s0.senseHomeTagBy count (s0.store.resolve (u0 * 8) / 8 / 16) = s at hhome
  split
  · exact .senseHbmBy hhome hcount
  · exact hhome
  · split
    · split <;> exact hcount hhome
    · split <;> exact hhome
  · split
    · split <;> split
      · exact hcount hhome
      · exact hhome
      · exact hcount hhome
      · exact hhome
    · split
      · exact hcount hhome
      · exact hhome

end Sys2Proof.Machine

/-! ### Canonical memory: errors, page moves and retirement (02, 03, 20) -/

namespace Sys2Proof.Machine

open Sys2Proof

theorem Store.Canonical.senseRange {s0 : State} {l n : Nat} (h : s0.store.Canonical) :
    (s0.senseRange l n).store.Canonical :=
  .ite h (.foldl (.foldl (.foldl h fun ht => .senseHomeTagBy ht fun ht => ht) fun ht => .senseUnitBy ht fun ht => ht)
    fun ht => .senseHbmBy ht fun ht => ht)

theorem Store.Canonical.senseCopyBy {s0 : State} {count : State → ErrLoc → Nat → State} {d : Die} {u : Nat} (h : s0.store.Canonical)
    (hcount : ∀ {t loc n}, t.store.Canonical → (count t loc n).store.Canonical) : (State.senseCopyBy count s0 d u).store.Canonical := by
  unfold State.senseCopyBy
  split
  · dsimp only
    split
    · exact h
    · exact h
    · exact hcount h
    · exact hcount h
  · dsimp only
    split
    · exact .senseTagBy h hcount
    · exact .senseTagBy h hcount
    · exact hcount (.senseTagBy h hcount)
    · exact hcount (.senseTagBy h hcount)

theorem Store.Canonical.senseMergeBy {s : State} {count : State → ErrLoc → Nat → State} {d : Die} {l0 n : Nat} (h : s.store.Canonical)
    (hcount : ∀ {t loc n}, t.store.Canonical → (count t loc n).store.Canonical) :
    (State.senseMergeBy count s d l0 n).store.Canonical :=
  .ite h (.ite
    (.foldl (.foldl (.foldl h fun ht => .senseHbmBy (.senseHomeTagBy ht hcount) hcount) fun ht => .senseUnitBy ht hcount)
      fun ht => .ite (.senseCopyBy ht hcount) ht)
    (.foldl (.foldl h fun ht => .senseHbmBy (.senseHomeTagBy ht hcount) hcount) fun ht => .senseUnitBy ht hcount))

theorem Store.writeEntry_canonical {st : Store} (addr : Nat) (e : Word) (h : st.Canonical) : (st.writeEntry addr e).Canonical := by
  unfold Store.writeEntry
  split
  · exact Store.put_canonical _ _ _ h
  all_goals exact h

theorem Store.Canonical.evictLine {s : State} {line : Nat} (h : s.store.Canonical) : (s.evictLine line).store.Canonical := by
  unfold State.evictLine
  split
  · exact Store.evict_canonical _ (.ite (.traffic (.senseRange h)) h)
  all_goals exact h

theorem Store.Canonical.loseLine {s : State} {line : Nat} {f : Store → Nat → Store} (h : s.store.Canonical)
    (hf : ∀ {st : Store} {n : Nat}, st.Canonical → (f st n).Canonical) : (s.loseLine line f).store.Canonical :=
  .ite (hf h.performFirst) (hf h)

theorem Store.Canonical.dropFrame {s : State} {pa : Nat} (h : s.store.Canonical) : (s.dropFrame pa).store.Canonical := by
  unfold State.dropFrame
  dsimp only
  split
  · split <;> exact h
  · split
    · split <;> exact h
    · exact h

theorem Store.Canonical.writeEntry {s : State} {addr : Nat} {e : Word} (h : s.store.Canonical) : (s.writeEntry addr e).store.Canonical :=
  Store.writeEntry_canonical _ _ (.traffic (.openLine h))

theorem Store.Canonical.movePage {s : State} {pa : Nat} {big : Bool} {ls : List LeafRef} (h : s.store.Canonical) :
    (s.movePage pa big ls).store.Canonical := by
  unfold State.movePage
  split
  · exact h
  · exact .ite h (.foldl (.foldl (Store.copyFrame_canonical _ _ _ (.traffic (.traffic (.senseRange h)))) .writeEntry) .invalidate)

theorem Store.Canonical.retireFrame {s : State} {pa : Nat} (h : s.store.Canonical) : (s.retireFrame pa).store.Canonical :=
  .foldl (.dropFrame h) .movePage

theorem Store.Canonical.retryMoves {s : State} (h : s.store.Canonical) : (s.retryMoves).store.Canonical := by
  unfold State.retryMoves
  refine .foldl h ?_
  intro t x ht
  split
  · exact .retireFrame ht
  all_goals exact ht

theorem Store.Canonical.endPools {s : State} (h : s.store.Canonical) : (s.endPools).store.Canonical := .ite h h

theorem Store.Canonical.finishMove {s : State} {asn : BitVec 12} {va l n dst : Nat} {pool : Option (Die × Nat)} {new : Word → Word}
    {pgmig : Option (BankId × Nat)} (h : s.store.Canonical) : (s.finishMove asn va l n dst pool new pgmig).store.Canonical := by
  unfold State.finishMove
  split
  · exact .ite (.invalidate (.writeEntry h)) h
  · exact h

theorem Store.Canonical.frameTraffic {s : State} {frame n : Nat} (h : s.store.Canonical) : (s.frameTraffic frame n).store.Canonical :=
  .ite (.traffic h) h

theorem Store.Canonical.convertLate {s t : State} {r : LeafRef} (h : s.store.Canonical) (e : s.convertLate r = some t) :
    t.store.Canonical := by
  unfold State.convertLate at e
  dsimp only at e
  split at e
  · obtain ⟨⟨f, p⟩, -, rfl⟩ := Option.map_eq_some_iff.mp e
    exact .finishMove (.frameTraffic (Store.toFrame_canonical _ _ _ (.senseRange h)))
  · cases e

theorem Store.Canonical.leaveLines {s : State} {ks : List Nat} (h : s.store.Canonical) : (s.leaveLines ks).store.Canonical := by
  refine .foldl h fun {t k} ht => .ite ?_ ht
  cases hconv : (t.leafNaming (k * 128)).bind t.convertLate with
  | none => exact .loseLine ht (Store.lose_canonical _)
  | some u =>
    obtain ⟨r, -, hr⟩ := Option.bind_eq_some_iff.mp hconv
    exact .convertLate ht hr

theorem Store.trimReserves_canonical {st : Store} (d : Die) (h : st.Canonical) : (st.trimReserves d).Canonical := h

theorem Store.Canonical.retireSet {s : State} {d : Die} {n : Nat} (h : s.store.Canonical) : (s.retireSet d n).store.Canonical := by
  unfold State.retireSet
  dsimp only
  split
  · exact h
  · split
    · exact h
    · exact Store.trimReserves_canonical _ (.leaveLines (.leaveLines h))

theorem Store.leaveSet_canonical {st : Store} (loc : ErrLoc) (h : st.Canonical) : (st.leaveSet loc).Canonical := by
  cases loc with
  | storageSet d n => exact Store.ite_canonical (Store.foldl_canonical _ _ h fun _ _ ht => Store.evict_canonical _ ht) h
  | _ => exact h

theorem Store.Canonical.emptySet {s : State} {loc : ErrLoc} (h : s.store.Canonical) : (s.emptySet loc).store.Canonical := by
  unfold State.emptySet
  split
  · exact .ite (.foldl h .evictLine) h
  all_goals exact h

theorem Store.Canonical.recordRetired {s0 : State} {loc : ErrLoc} (h : s0.store.Canonical) : (s0.recordRetired loc).store.Canonical :=
  Store.leaveSet_canonical _ (.emptySet h)

theorem Store.Canonical.retireLoc {s : State} {loc : ErrLoc} (h : s.store.Canonical) : (s.retireLoc loc).store.Canonical := by
  have hrecorded : (s.recordRetired loc).store.Canonical := .recordRetired h
  unfold State.retireLoc
  dsimp only
  generalize s.recordRetired loc = t at hrecorded
  cases loc with
  | frame n => exact .retireFrame hrecorded
  | storageSet d n => exact .retireSet hrecorded
  | core c =>
    have hshut {t : State} {b : BankId} {x : Bank} (ht : t.store.Canonical) :
        (if (t.bank b).status = .shadow then t.setBank b x else t).store.Canonical := .ite ht ht
    exact (hshut (hshut hrecorded) :)
  | _ => exact hrecorded

theorem Store.Canonical.madeLasting {s : State} {loc : ErrLoc} (h : s.store.Canonical) : (s.madeLasting loc).store.Canonical :=
  .ite (.retireLoc h) (.retireLoc h)

theorem Store.Canonical.countError {s : State} {loc : ErrLoc} {w : Nat} (h : s.store.Canonical) : (s.countError loc w).store.Canonical :=
  .ite (.madeLasting h) h

theorem Store.Canonical.senseHbm {s : State} {u : Nat} (h : s.store.Canonical) : (s.senseHbm u).store.Canonical := .senseHbmBy h .countError

theorem Store.Canonical.senseUnit {s : State} {u : Nat} (h : s.store.Canonical) : (s.senseUnit u).store.Canonical :=
  .senseUnitBy h .countError

theorem Store.Canonical.senseDirty {s0 : State} {l n : Nat} (h : s0.store.Canonical) : (s0.senseDirty l n).store.Canonical :=
  .foldl (.foldl h (fun ht => .senseHomeTagBy ht .countError)) .senseUnit

theorem Store.Canonical.sense {s : State} {l n : Nat} (h : s.store.Canonical) : (s.sense l n).store.Canonical :=
  .ite h (.foldl h .senseUnit)

theorem Store.Canonical.senseCopy {s : State} {d : Die} {u : Nat} (h : s.store.Canonical) : (s.senseCopy d u).store.Canonical :=
  .senseCopyBy h .countError

theorem Store.Canonical.senseFor {s : State} {d : Die} {l n : Nat} (h : s.store.Canonical) : (s.senseFor d l n).store.Canonical :=
  .ite h (.foldl h (fun ht => .ite (.senseCopy ht) (.senseUnit ht)))

theorem Store.Canonical.senseMerge {s : State} {d : Die} {l n : Nat} (h : s.store.Canonical) : (s.senseMerge d l n).store.Canonical :=
  .senseMergeBy h .countError

end Sys2Proof.Machine

/-! ### Canonical memory: loads, atomics, start, power loss and the dispatcher (07, 10, 20) -/

namespace Sys2Proof.Machine

open Sys2Proof

theorem Store.Canonical.readFor {s : State} {x : Entry} {o l z : Nat} {go : State → List Byte → Nat → State} (h : s.store.Canonical)
    (hgo : ∀ {t bs n}, t.store.Canonical → (go t bs n).store.Canonical) : (s.readFor x o l z go).store.Canonical :=
  .ite (.raiseMem (.senseFor h)) (hgo (.trafficRead (.senseFor h)))

theorem Store.Canonical.loadScalar {s : State} {i : Instr} {a : MemS} {z : Nat} {form : LoadForm} (h : s.store.Canonical) :
    (s.loadScalar i a z form).store.Canonical :=
  .access h (fun ht => .readFor ht (fun ht => .ite ht ht))

theorem Store.Canonical.passedSeg {s : State} {e : Engine} {i : Instr} {x : Entry} {last : Bool} {blocks : List Nat} (h : s.store.Canonical) :
    (s.passedSeg e i x last blocks).store.Canonical :=
  .ite h h

theorem Store.Canonical.readLate {s : State} {d : Die} {ts : List Late} {ws : List RegW} (h : s.store.Canonical) :
    (s.readLate d ts ws).1.store.Canonical :=
  Store.foldl_canonical _ _ (.foldl h .senseFor) fun _ _ ht => ht

theorem Store.Canonical.loadPart {s : State} {n : BankId} {uid k : Nat} (h : s.store.Canonical) : (s.loadPart n uid k).store.Canonical := by
  unfold State.loadPart
  dsimp only
  split
  next x _ _ _ => exact .ite h (.readLate (ws := x.got) h)
  next o _ => exact .readLate (ws := o.loads) h
  · exact h

theorem Store.Canonical.atomic {s : State} {i : Instr} {j : AtomJob} (h : s.store.Canonical) :
    (s.atomic i j).store.Canonical :=
  .access h fun ht => .ite (.raiseMem (.sense ht)) (.allocGate (.sense ht) fun hu =>
    .ite (.ite (.traffic hu) (.traffic (Store.rmw_canonical _ _ _ _ hu))) hu)

theorem Store.Canonical.rmwWord {s : State} {i : Instr} (h : s.store.Canonical) : (s.rmwWord i).store.Canonical := by
  unfold State.rmwWord
  split
  · exact .atomic h
  · exact h

theorem execAfadd_keeps {s : State} {a : Atom} (h : s.store.Canonical) : Keeps (execAfadd a s) :=
  .ite (.next (.raise (.begin h))) (.next (.rmwWord h))

theorem Store.Canonical.syncWait {s : State} {i : Instr} {a : Atom} {isBar : Bool} (h : s.store.Canonical) :
    (s.syncWait i a isBar).store.Canonical := by
  unfold State.syncWait
  dsimp only
  generalize (if isBar = true then 16 else 8) = z
  refine .access h fun {t x l} ht => ?_
  have hread : ((t.sense l z).traffic (reqOf t.cur) 8 l z).store.Canonical := .traffic (.sense ht)
  generalize (t.sense l z).traffic (reqOf t.cur) 8 l z = t1 at hread ⊢
  refine .ite (.raiseMem hread) ?_
  split
  · exact .ite hread hread
  · exact hread

theorem Store.Canonical.leaveOut {s : State} {loc : ErrLoc} (h : s.store.Canonical) : (s.leaveOut loc).store.Canonical := by
  unfold State.leaveOut
  split
  · exact .dropFrame (Store.leaveSet_canonical _ h)
  · exact .ite (Store.leaveSet_canonical _ h) (Store.leaveSet_canonical _ h)
  all_goals exact Store.leaveSet_canonical _ h

theorem Store.Canonical.failStart {s : State} {mode : BootMode} {r : Nat} (h : s.store.Canonical) : (s.failStart mode r).store.Canonical :=
  .ite h h

theorem Store.Canonical.runStart {s : State} {env : StartEnv} {failed : BootMode} (h : s.store.Canonical) :
    (s.runStart env failed).store.Canonical := by
  unfold State.runStart
  split
  · exact .foldl h .leaveOut
  · exact .failStart h
  · exact h

theorem execDeviceStart_keeps {s : State} {env : StartEnv} (h : s.store.Canonical) : Keeps (execDeviceStart env s) := by
  unfold execDeviceStart
  split
  · exact .ite (.next (.failStart h)) (.next (.runStart h))
  · exact .next (.runStart h)
  · exact .next h
  · exact .next h

theorem execStartWatchdog_keeps {s : State} (h : s.store.Canonical) : Keeps (execStartWatchdog s) := by
  unfold execStartWatchdog
  split
  · exact .next h
  · exact .next (.failStart h)
  · exact .next h
  · exact .next h

theorem execWriteImage_keeps {s : State} {img : SignedImage} (h : s.store.Canonical) : Keeps (execWriteImage img s) :=
  .ite (.next h) (.next h)

theorem execFullStart_keeps {s : State} (h : s.store.Canonical) : Keeps (execFullStart s) := .ite (.next h) (.next h)

theorem execAttest_keeps {s : State} {host : EndpointId} {nonce : BitVec 256} (h : s.store.Canonical) :
    Keeps (execAttest host nonce s) := by
  unfold execAttest
  split <;> exact .next h

theorem execCommanderSignature_keeps {s : State} {host : EndpointId} {sig : BitVec 512} (h : s.store.Canonical) :
    Keeps (execCommanderSignature host sig s) := by
  unfold execCommanderSignature
  split
  · exact .ite (.next h) (.next h)
  · exact .next h

theorem State.powerLost_canonical {s : State} : s.powerLost.store.Canonical := ⟨rfl, rfl⟩

theorem execPowerLoss_keeps {s : State} : Keeps (execPowerLoss s) := .next State.powerLost_canonical

theorem Store.Canonical.startLost {s : State} (h : s.store.Canonical) : s.startLost.store.Canonical := by
  unfold State.startLost
  split
  · exact State.powerLost_canonical
  · exact State.powerLost_canonical
  · exact h
  · exact h

theorem Store.Canonical.cregSet {s : State} {b : BankId} {uid : Nat} {w : CregW} (h : s.store.Canonical) :
    (s.cregSet b uid w).store.Canonical := by
  unfold State.cregSet
  split <;> exact h

theorem Store.Canonical.fetched {s : State} {b : BankId} (h : s.store.Canonical) : (s.fetched b).store.Canonical := by
  unfold State.fetched
  refine .foldl h ?_
  intro t x ht
  split
  · exact Store.ite_canonical (.senseFor (.ite (.trafficRead ht) ht)) (.senseFor (.ite (.trafficRead ht) ht))
  · exact ht

theorem Store.Canonical.dispatchOne {s t : State} {b : BankId} (h : s.store.Canonical) (e : s.dispatchOne b = some t) :
    t.store.Canonical := by
  unfold State.dispatchOne at e
  repeat' split at e
  · cases e
    exact (Store.Canonical.fetched h :)
  all_goals cases e

theorem execWordDispatch_keeps {n : BankId} {s : State} (h : s.store.Canonical) : Keeps (execWordDispatch n s) := by
  unfold execWordDispatch
  split
  · exact .next h
  next t ht =>
    split
    · exact .next (.dispatchOne h ht)
    next u hu => exact .next (.dispatchOne (.dispatchOne h ht) hu)

theorem execIllegalWord_keeps {s : State} {n : BankId} {e : Engine} (h : s.store.Canonical) : Keeps (execIllegalWord n e s) := by
  unfold execIllegalWord
  dsimp only
  split
  · split
    · exact .ite (.next h) (.next h)
    all_goals exact .next h
  · exact .next h

theorem execFetchFault_keeps {s : State} {n : BankId} (h : s.store.Canonical) : Keeps (execFetchFault n s) := by
  unfold execFetchFault
  dsimp only
  split
  · split
    · exact .ite (.next h) (.next h)
    all_goals exact .next h
  · exact .next h

end Sys2Proof.Machine

/-! ### Canonical memory: the C engine, its local loads and stores, and the frames of a bank (08, 12, 13, 17) -/

namespace Sys2Proof.Machine

open Sys2Proof

theorem Store.Canonical.relookAll {s : State} {n : BankId} (h : s.store.Canonical) : (s.relookAll n).store.Canonical := .ite h h

theorem Store.Canonical.relook {s : State} {n : BankId} (h : s.store.Canonical) : (s.relook n).store.Canonical := .ite (.relookAll h) h

theorem Store.Canonical.landDue {s0 : State} {n : BankId} (h : s0.store.Canonical) : (s0.landDue n).1.store.Canonical := by
  unfold State.landDue
  dsimp only
  split <;> exact .relook h

theorem Store.Canonical.cIssue {s : State} {i : Instr} {x : Entry} {last : Bool} {e : CEff} (h : e.st.store.Canonical) :
    (s.cIssue i x last e).store.Canonical := .ite (.relookAll h) h

theorem Store.Canonical.cWord {s : State} {i : Instr} {j : CJob} (h : s.store.Canonical)
    (heff : ∀ {t x}, t.store.Canonical → (j.eff t x).st.store.Canonical) : (s.cWord i j).store.Canonical := by
  have hbegun : (s.begin i).2.store.Canonical := .begin h
  have hlooked : ((s.begin i).2.relook (s.begin i).2.cur).store.Canonical := .relook hbegun
  unfold State.cWord
  dsimp only
  generalize (s.begin i).2.relook (s.begin i).2.cur = t at hlooked ⊢
  refine .ite hbegun ?_
  split
  · exact hlooked
  · refine .ite hlooked ?_
    split
    · exact .raise hlooked
    · split
      · exact .raise hlooked
      · exact .cIssue (heff hlooked)

theorem Store.Canonical.cPlain {s : State} {i : Instr} {f : Bank → Bank} (h : s.store.Canonical) : (s.cPlain i f).store.Canonical :=
  .cWord h fun ht => ht

theorem Store.Canonical.localLoad {s : State} {i : Instr} {a : CLocal} {window : BitVec 2} {lat : Nat} (h : s.store.Canonical) :
    (s.localLoad i a window lat).store.Canonical := .cWord h .sense

theorem Store.Canonical.localStore {s : State} {i : Instr} {a : CLocal} {window : BitVec 2} {lat : Nat} (h : s.store.Canonical) :
    (s.localStore i a window lat).store.Canonical := .cWord h fun ht => Store.put_canonical _ _ _ ht

theorem Store.Canonical.testDeadlock {s : State} {n : BankId} (h : s.store.Canonical) : (s.testDeadlock n).store.Canonical := .ite h h

theorem execCWriteLand_keeps {s : State} {n : BankId} (h : s.store.Canonical) : Keeps (execCWriteLand n s) :=
  .ite (.next (.testDeadlock (.landDue h))) (.next h)

theorem execLateLoadArrival_keeps {s : State} {n : BankId} (h : s.store.Canonical) : Keeps (execLateLoadArrival n s) :=
  .ite (.next (.landDue h)) (.next h)

theorem Store.Canonical.idleCycle {s : State} {n : BankId} (h : s.store.Canonical) : (s.idleCycle n).store.Canonical :=
  .ite (.landDue h) (.landDue h)

theorem execRotateEntry_keeps {s : State} {n : BankId} (h : s.store.Canonical) : Keeps (execRotateEntry n s) := by
  unfold execRotateEntry
  dsimp only
  split
  · split
    · exact .ite (.next h) (.next h)
    all_goals exact .next h
  · exact .next h

theorem Store.Canonical.writeFrame {s : State} {n : BankId} {kind : Nat} (h : s.store.Canonical) : (s.writeFrame n kind).store.Canonical :=
  Store.seal_canonical _ _ (Store.foldl_canonical _ _ h fun _ _ ht => Store.put_canonical _ _ _ ht)

theorem Store.Canonical.saveBank {s : State} {n : BankId} (h : s.store.Canonical) : (s.saveBank n).store.Canonical := .writeFrame h

theorem Store.Canonical.clearKind {s : State} {n : BankId} (h : s.store.Canonical) : (s.clearKind n).store.Canonical :=
  Store.put_canonical _ _ _ h

theorem Store.Canonical.takeMiss {s : State} {n : BankId} (h : s.store.Canonical) : (s.takeMiss n).store.Canonical := by
  unfold State.takeMiss
  dsimp only
  split
  · exact .ite h h
  · exact h

theorem Store.Canonical.startMma {s0 : State} {n : BankId} (h : s0.store.Canonical) : (s0.startMma n).store.Canonical := by
  unfold State.startMma
  dsimp only
  split
  · exact h
  · exact .ite h (.sense (.sense (.relookAll h)))

theorem Store.Canonical.runBank {s : State} {n : BankId} (h : s.store.Canonical) : (s.runBank n).store.Canonical := .takeMiss (.startMma h)

theorem Store.Canonical.pickBank {s : State} {c : CoreId} (h : s.store.Canonical) : (s.pickBank c).store.Canonical := by
  unfold State.pickBank
  refine .ite h ?_
  dsimp only
  split
  · exact .ite (.runBank h) (.runBank h)
  · exact .runBank h
  · exact .runBank h
  · exact h

theorem Store.Canonical.stopRun {s : State} {n : BankId} (h : s.store.Canonical) : (s.stopRun n).store.Canonical := .ite h h

theorem Store.Canonical.makeReady {s : State} {n : BankId} (h : s.store.Canonical) : (s.makeReady n).store.Canonical := .pickBank h

theorem Store.Canonical.switchIn {s : State} {n : BankId} (h : s.store.Canonical) : (s.switchIn n).store.Canonical :=
  .ite (.makeReady h) (.makeReady h)

theorem Store.Canonical.switchBack {s : State} {n : BankId} (h : s.store.Canonical) : (s.switchBack n).store.Canonical :=
  .switchIn (.clearKind h)

theorem Store.Canonical.pushFormat {s : State} {i : Instr} {sy : Sync} {w : Bank → BitVec 32} (h : s.store.Canonical) :
    (s.pushFormat i sy w).store.Canonical :=
  .ite (.begin h) (.begin h)

end Sys2Proof.Machine

/-! ### Canonical memory: stores and the rows of a copy word (10) -/

namespace Sys2Proof.Machine

open Sys2Proof

theorem Store.Canonical.storeScalar {s : State} {i : Instr} {a : MemS} {z : Nat} (h : s.store.Canonical) :
    (s.storeScalar i a z).store.Canonical :=
  .access h (fun ht => .allocGate ht (fun ht => ht))

theorem Store.Canonical.putPart {s : State} {n : BankId} {bad : List Nat} {ps : List Put} {k : Nat} (h : s.store.Canonical) :
    (s.putPart n bad ps k).1.store.Canonical := by
  unfold State.putPart
  split
  · dsimp only
    split
    · exact h
    · exact .ite_fst h (Store.put_canonical _ _ _ (.trafficStore (.senseMerge h)))
  · dsimp only
    split
    · exact h
    · exact .ite_fst h (Store.putBad_canonical _ _ _ (.trafficStore (.senseMerge h)))

theorem Store.Canonical.storePart {s : State} {n : BankId} {uid k : Nat} (h : s.store.Canonical) :
    (s.storePart n uid k).store.Canonical := by
  unfold State.storePart
  split
  · exact .ite h (.putPart h)
  · exact .putPart h
  · exact h

theorem Store.Canonical.readRow {s : State} {parts : List (Nat × Nat × Nat)} (h : s.store.Canonical) :
    (s.readRow parts).1.store.Canonical :=
  .foldl h (fun ht => .trafficRead (.senseFor ht))

theorem Store.Canonical.freeBytes {s : State} {d : RowData} (h : s.store.Canonical) : (s.freeBytes d).1.store.Canonical := .ite_fst h h

theorem Store.Canonical.foldWith {s : State} {c : CopyOp} {d : RowData} (h : s.store.Canonical) : (s.foldWith c d).1.store.Canonical :=
  .freeBytes (.freeBytes (.readRow h))

theorem Store.Canonical.arrive {s : State} {n : BankId} {c : CopyOp} (h : s.store.Canonical) : (s.arrive n c).store.Canonical :=
  .ite (.sense h) (Store.put_canonical _ _ _ (.sense h))

end Sys2Proof.Machine

/-! ### Canonical memory: copies, page words, pools and page tables (01, 02, 10) -/

namespace Sys2Proof.Machine

open Sys2Proof

theorem Store.Canonical.arrivals {s : State} {n : BankId} {c : CopyOp} {ds : List Nat} (h : s.store.Canonical) :
    (ds.foldl (fun (t : State) _ => t.arrive n c) s).store.Canonical := by
  induction ds generalizing s with
  | nil => exact h
  | cons d ds ih =>
    rw [List.foldl_cons]
    exact ih (.arrive h)

theorem Store.Canonical.settleCopy {s : State} {n : BankId} {uid : Nat} (h : s.store.Canonical) : (s.settleCopy n uid).store.Canonical := by
  unfold State.settleCopy
  split
  · exact h
  next c _ =>
    refine .ite h ?_
    extract_lets due s1
    have harrived : s1.store.Canonical := .arrivals h
    exact harrived

theorem Store.Canonical.rowIssued {s : State} {w : CopyWord} {x : Entry} {c : CopyOp} {first : Bool} {fs : List RowFlight} {o : Nat}
    (h : s.store.Canonical) : (s.rowIssued w x c first fs o).store.Canonical := by
  unfold State.rowIssued
  dsimp only
  generalize (fun b : Bank => Bank.setCopy _ _) = f
  have hissued : (s.modBank s.cur f).store.Canonical := h
  exact .ite (.ite hissued (.raiseMem hissued)) (.ite (.settleCopy hissued) hissued)

theorem Store.Canonical.sendRow {s : State} {w : CopyWord} {x : Entry} {c : CopyOp} {first : Bool} (h : s.store.Canonical) :
    (s.sendRow w x c first).store.Canonical := by
  unfold State.sendRow
  refine .ite (.rowIssued (.ite_fst (.foldWith ?_) ?_)) (.rowIssued ?_)
  · exact .readRow h
  · exact .readRow h
  · exact .readRow h

theorem Store.Canonical.copyRow {s : State} {w : CopyWord} {x : Entry} {c : CopyOp} {first : Bool} (h : s.store.Canonical) :
    (s.copyRow w x c first).store.Canonical := by
  unfold State.copyRow
  dsimp only
  split
  · exact .ite (.sendRow h) (.ite (.raiseMem h) (.ite (.raiseMem h) (.sendRow h)))
  · refine .ite (.raiseMem h) (.ite (.raiseMem h) ?_)
    split
    · exact h
    · exact .raiseMem h
    · refine .atHome h fun {t y} ht => .ite (.raiseMem ht) (.ite ?_ (.sendRow ht))
      split
      · exact ht
      · exact ht
      · exact ht
      · exact ht
      · exact .sendRow ht

theorem Store.Canonical.copyStep {s : State} {w : CopyWord} (h : s.store.Canonical) : (s.copyStep w).store.Canonical := by
  have hbegun : (s.begin w.i).2.store.Canonical := .begin h
  unfold State.copyStep
  dsimp only
  generalize (s.begin w.i).2 = t at hbegun ⊢
  split
  · split
    · exact .ite hbegun (.ite (.raiseMem hbegun) (.ite (.settleCopy hbegun) (.ite hbegun (.copyRow hbegun))))
    · split
      · exact hbegun
      · exact hbegun
      · refine .ite hbegun ?_
        split
        · exact .raise hbegun
        · exact .ite (.copyRow hbegun) hbegun
  · exact hbegun

theorem execCopyRowIssue_keeps {s : State} {n : BankId} {e : Engine} (h : s.store.Canonical) : Keeps (execCopyRowIssue n e s) := by
  unfold execCopyRowIssue
  split
  · exact .next h
  next w x rest _ =>
    have htaken : ({ s.modBank n fun b => b.setQueue e rest with cur := n, active := some x } : State).store.Canonical := h
    exact .ite (.next (.copyStep htaken)) (.next h)

theorem Store.landRow_canonical {st : Store} (d : Die) (f : RowFlight) (h : st.Canonical) : (st.landRow d f).Canonical :=
  Store.ite_canonical (Store.foldl_canonical _ _ h fun _ _ ht => Store.perform_canonical _ _ ht) (Store.putBad_canonical _ _ _ h)

theorem Store.Canonical.beforePoison {s : State} {us : List Nat} (h : s.store.Canonical) : (s.beforePoison us).store.Canonical :=
  .foldl h .performFirst

theorem Store.Canonical.landRow {s0 : State} {n : BankId} {uid : Nat} {p : RowFlight → Bool} (h : s0.store.Canonical) :
    (s0.landRow n uid p).store.Canonical := by
  unfold State.landRow
  split
  · exact h
  · dsimp only
    split
    · exact h
    · split
      · exact h
      · refine .settleCopy (Store.landRow_canonical _ _
          (Store.ite_canonical (Store.leaveArrival_canonical _ _ (.beforePoison ?_)) (.beforePoison ?_)))
        all_goals
          refine .foldl (.ite h (Store.foldl_canonical _ _ h fun _ _ ht => ht)) fun ht => ?_
          exact .foldl ht fun hu => .trafficStore (.senseMerge hu)

theorem Store.Canonical.rowPart {s : State} {n : BankId} {uid k : Nat} (h : s.store.Canonical) : (s.rowPart n uid k).store.Canonical := by
  unfold State.rowPart
  split
  · exact h
  · split
    · exact h
    · exact .ite h (.putPart (.ite (.beforePoison h) h))

theorem Store.Canonical.pageAccess {s : State} {i : Instr} {own : Entry → Capture → Option Nat} {n : Entry → Nat}
    {go : State → Entry → Capture → State} (h : s.store.Canonical) (hgo : ∀ {t x c}, t.store.Canonical → (go t x c).store.Canonical) :
    (s.pageAccess i own n go).store.Canonical := by
  have hbegun : (s.begin i).2.store.Canonical := .begin h
  unfold State.pageAccess
  extract_lets p x t
  split
  · exact hbegun
  · refine .ite hbegun ?_
    split
    · exact hbegun
    · exact .raiseMem hbegun
    · split
      · exact .raiseMem hbegun
      · exact .atHome hbegun fun ht => hgo ht

theorem Store.Canonical.rangeDone {s : State} {b : BankId} {i : Instr} {l n : Nat} (h : s.store.Canonical) :
    (s.rangeDone b i l n).store.Canonical := by
  unfold State.rangeDone
  split
  · exact Store.discard_canonical _ _ _ (.performFirst (.traffic h))
  · exact Store.wback_canonical _ _ _ (.traffic (.senseDirty h))
  · exact h

theorem Store.Canonical.rangeWord {s : State} {i : Instr} {unbacked : Bool} (h : s.store.Canonical) :
    (s.rangeWord i unbacked).store.Canonical :=
  .pageAccess h (fun ht => .ite ht (.rangeDone ht))

theorem execPgmig_keeps {s : State} {a : PageP} (h : s.store.Canonical) : Keeps (execPgmig a s) := by
  unfold execPgmig
  refine .next (.pageAccess h ?_)
  intro t x c ht
  refine .ite (.raiseMem ht) (.ite ht (.ite ht (.ite ?_ (.ite (.raiseMem ht) ?_))))
  · exact .finishMove (Store.toUnbacked_canonical _ _ _ (.senseRange ht))
  split
  · exact .raiseMem ht
  · exact .finishMove (.frameTraffic (Store.toFrame_canonical _ _ _ (.senseRange ht)))

theorem Store.Canonical.takeW {s t : State} {b : BankId} {x : Entry} (h : s.store.Canonical) (e : s.takeW b = some (x, t)) :
    t.store.Canonical := by
  unfold State.takeW at e
  dsimp only at e
  split at e
  · cases e
    exact h
  · cases e

theorem Store.Canonical.refuse {s0 : State} {x : Entry} {kind o : Nat} (h : s0.store.Canonical) : (s0.refuse x kind o).store.Canonical :=
  .ite (Store.leaveArrival_canonical _ _ h) (.raiseMem (Store.leaveArrival_canonical _ _ h))

theorem Store.Canonical.lockPage {s : State} {b : BankId} {uid loc n : Nat} (h : s.store.Canonical) :
    (s.lockPage b uid loc n).store.Canonical :=
  Store.leaveArrival_canonical _ _ h

theorem execAllocationAnswer_keeps {s : State} {b : BankId} (h : s.store.Canonical) : Keeps (execAllocationAnswer b s) := by
  unfold execAllocationAnswer
  split
  · exact .next h
  next x t htake =>
    have ht : t.store.Canonical := .takeW h htake
    dsimp only
    split
    · have hpinned : ∀ ls, (t.store.pin ls).Canonical := fun ls => Store.pin_canonical _ ht
      exact .ite (.next h) (.ite (.next ht) (.ite (.next h) (.ite (.next (hpinned _))
        (.ite (.next (.lockPage ht)) (.next (.refuse ht))))))
    · exact .next h

theorem execLateFrameConversion_keeps {s : State} {b : BankId} (h : s.store.Canonical) : Keeps (execLateFrameConversion b s) := by
  unfold execLateFrameConversion
  split
  · exact .next h
  next x t htake =>
    have ht : t.store.Canonical := .takeW h htake
    split
    · extract_lets n l d pn
      refine .ite (.next ht) ?_
      split
      · exact .next (.refuse (s0 := t.modStore _) ht)
      · extract_lets t1 t2
        have hframed : t1.store.Canonical := .frameTraffic (Store.toFrame_canonical _ _ _ (.senseRange ht))
        have hmoved : t2.store.Canonical := .finishMove hframed
        clear_value t2
        exact .next (hmoved :)
    · exact .next h

theorem Store.Canonical.tearPage {s : State} {d : Die} {pool upn : Nat} (h : s.store.Canonical) :
    (s.tearPage d pool upn).store.Canonical := by
  have hlost {l n : Nat} : ((s.store.linesIn l n).foldl (fun (t : State) p => t.loseLine p.1 Store.lose) s).store.Canonical :=
    .foldl h fun ht => .loseLine ht (Store.lose_canonical _)
  unfold State.tearPage
  extract_lets l lose
  split
  · exact hlost
  next r _ =>
    cases hconv : s.convertLate r with
    | none => exact hlost
    | some t => exact .convertLate h hconv

theorem Store.Canonical.tearDown {d : Die} {pool limit : Nat} {us : List Nat} {s : State} (h : s.store.Canonical) :
    (s.tearDown d pool limit us).store.Canonical := by
  induction us generalizing s with
  | nil => exact h
  | cons u us ih =>
    unfold State.tearDown
    split
    · exact h
    · exact .ite h (ih (.tearPage h))

theorem Store.Canonical.setLimit {s : State} {d : Die} {pool limit : Nat} (h : s.store.Canonical) :
    (s.setLimit d pool limit).store.Canonical := by
  unfold State.setLimit
  extract_lets s1 s2
  have hlimited : s1.store.Canonical := h
  have htorn : s2.store.Canonical := .tearDown hlimited
  exact htorn

theorem Store.Canonical.reportPool {s : State} {d : Die} {n : Nat} (h : s.store.Canonical) : (s.reportPool d n).store.Canonical := by
  unfold State.reportPool
  split <;> exact h

theorem execPoolCreate_keeps {s : State} {d : Die} {pool : BitVec 8} {parms : PoolParms} (h : s.store.Canonical) :
    Keeps (execPoolCreate d pool parms s) :=
  .ite (.next h) (.next (.reportPool h))

theorem execPoolSetLimit_keeps {s : State} {d : Die} {pool : BitVec 8} {limit : Nat} (h : s.store.Canonical) :
    Keeps (execPoolSetLimit d pool limit s) :=
  .ite (.next h) (.next (.reportPool (.setLimit h)))

theorem execPoolWithdraw_keeps {s : State} {d : Die} {pool : BitVec 8} (h : s.store.Canonical) : Keeps (execPoolWithdraw d pool s) := by
  unfold execPoolWithdraw
  extract_lets s1
  have hwithdrawn : s1.store.Canonical := (Store.Canonical.setLimit h :)
  exact .ite (.next h) (.next (.endPools (.reportPool hwithdrawn)))

theorem Store.Canonical.firstValid {s : State} {ls : List LeafRef} (h : s.store.Canonical) : (s.firstValid ls).store.Canonical :=
  .ite h (.foldl h (fun ht => Store.foldl_canonical _ _ ht fun _ _ ht => Store.dropLine_canonical _ ht))

theorem Store.Canonical.endOwned {s : State} {asn : BitVec 12} (h : s.store.Canonical) : (s.endOwned asn).store.Canonical :=
  Store.foldl_canonical _ _ (.foldl h .performFirst) fun _ _ ht => Store.dropLine_canonical _ ht

theorem Store.Canonical.setRoot {s : State} {asn : BitVec 12} {entry : Word} (h : s.store.Canonical) :
    (s.setRoot asn entry).store.Canonical :=
  .endPools (.ite (.endOwned (.ite (.invalidate (.firstValid h)) (.firstValid h))) (.ite (.invalidate (.firstValid h)) (.firstValid h)))

theorem execPageTableChange_keeps {s : State} {asn : BitVec 12} {va : Word} {level : BitVec 2} {entry : Word} (h : s.store.Canonical) :
    Keeps (execPageTableChange asn va level entry s) := by
  unfold execPageTableChange
  refine .ite (.ite (.next h) (.ite (.next h) (.next (.setRoot h)))) ?_
  split
  · exact .next h
  · refine .ite (.next h) (.ite (.next h) (.next (.endPools ?_)))
    exact .ite (.invalidate (.writeEntry (.firstValid h))) (.writeEntry (.firstValid h))

end Sys2Proof.Machine

/-! ### Canonical memory: clocks and caps (18) -/

namespace Sys2Proof.Machine

open Sys2Proof

theorem Store.Canonical.resolveCluster {s : State} {c : ClusterId} (h : s.store.Canonical) : (s.resolveCluster c).store.Canonical := by
  unfold State.resolveCluster
  refine .ite h (.foldl h ?_)
  intro t x ht
  split <;> exact ht

theorem Store.Canonical.setClock {s : State} {c : ClusterId} {cls : Nat} (h : s.store.Canonical) : (s.setClock c cls).store.Canonical :=
  .foldl h (fun ht => ht)

theorem Store.Canonical.startChange {s : State} {d : Die} (h : s.store.Canonical) : (s.startChange d).store.Canonical := by
  unfold State.startChange
  split
  · exact h
  · split
    · exact h
    · exact .ite h (.ite h (.setClock h))

theorem Store.Canonical.retarget {s : State} {c : ClusterId} (h : s.store.Canonical) : (s.retarget c).store.Canonical :=
  .resolveCluster (.startChange (.ite h h))

theorem Store.Canonical.endChange {s : State} {d : Die} {c : ClusterId} (h : s.store.Canonical) : (s.endChange d c).store.Canonical := by
  unfold State.endChange
  refine .retarget (.resolveCluster ?_)
  exact h

theorem execFreqRequestTakeup_keeps {s : State} {n : BankId} (h : s.store.Canonical) : Keeps (execFreqRequestTakeup n s) := by
  unfold execFreqRequestTakeup
  refine .ite (.next h) ?_
  split
  · exact .next (.retarget h)
  · exact .next (.ite (.startChange h) (.retarget h))
  · exact .next (.ite (.startChange h) (.retarget h))
  · exact .next (.ite (.startChange h) (.retarget h))
  · exact .next (.startChange h)
  · exact .next (.startChange h)

theorem execRailStep_keeps {s : State} {d : Die} (h : s.store.Canonical) : Keeps (execRailStep d s) := by
  unfold execRailStep
  dsimp only
  split
  · exact .next h
  · exact .ite (.ite (.next h) (.ite (.next h) (.next h))) (.ite (.next (.ite (.endChange h) h)) (.next h))

theorem execClockSwitchEnd_keeps {s : State} {d : Die} (h : s.store.Canonical) : Keeps (execClockSwitchEnd d s) := by
  unfold execClockSwitchEnd
  dsimp only
  split
  · exact .next h
  · exact .ite (.next h) (.next (.ite (.endChange (.ite (.setClock h) h)) (.ite (.setClock h) h)))

theorem Store.Canonical.setCap {s : State} {d : Die} {cap : Nat} (h : s.store.Canonical) : (s.setCap d cap).store.Canonical := by
  unfold State.setCap
  extract_lets s1 denied s2 s3
  have hlimited : s1.store.Canonical := h
  have hdenied : denied.store.Canonical := .foldl hlimited fun hu => hu
  have hsaved : s2.store.Canonical := .withSaves hdenied
  have hchanged : s3.store.Canonical := by
    unfold s3
    clear_value s2
    split
    · refine .ite (.ite (.ite (.endChange ?_) ?_) ?_) hsaved
      all_goals exact hsaved
    · exact hsaved
  clear_value s3
  exact .foldl hchanged .retarget

end Sys2Proof.Machine

/-! ### Canonical memory: budget, sensors and the places of tasks (14, 18) -/

namespace Sys2Proof.Machine

open Sys2Proof

theorem Store.Canonical.readSensors {s : State} {d : Die} {rs : List Reading} (h : s.store.Canonical) :
    (s.readSensors d rs).store.Canonical :=
  .foldl h (fun ht => ht)

theorem execBoardCapChange_keeps {s : State} {d : Die} {cap : Nat} (h : s.store.Canonical) : Keeps (execBoardCapChange d cap s) :=
  .ite (.next (.setCap h)) (.next h)

theorem Store.Canonical.grant {s : State} {d : Die} {h : HeadReq} (hs : s.store.Canonical) : (s.grant d h).store.Canonical :=
  .ite (.makeReady hs) hs

theorem execBudgetGrant_keeps {s : State} {d : Die} (h : s.store.Canonical) : Keeps (execBudgetGrant d s) := by
  unfold execBudgetGrant
  split
  · exact .next (.grant h)
  · exact .next h

theorem Store.Canonical.setClass {s : State} {i : Instr} {x : Entry} {cls : Nat} {fin : Bank → Bank} (h : s.store.Canonical) :
    (s.setClass i x cls fin).store.Canonical := by
  unfold State.setClass
  split
  · exact h
  · refine .ite h ?_
    split <;> exact h

theorem execPwracq_keeps {s : State} {a : SRr} (h : s.store.Canonical) : Keeps (execPwracq a s) :=
  .ite (.ite (.next (.begin h)) (.next (.setClass (.begin h)))) (.next (.begin h))

theorem execPwrrel_keeps {s : State} {a : S0} (h : s.store.Canonical) : Keeps (execPwrrel a s) :=
  .ite (.next (.setClass (.begin h))) (.next (.begin h))

theorem Store.Canonical.setTherm {s old : State} {d : Die} (h : s.store.Canonical) : (s.setTherm old d).store.Canonical := by
  unfold State.setTherm
  extract_lets place crossed t
  have hmarked : t.store.Canonical := .foldl h fun ht => .ite ht ht
  exact .withSaves hmarked

theorem execSensorRefresh_keeps {s0 : State} {d : Die} {rs : List Reading} (h : s0.store.Canonical) :
    Keeps (execSensorRefresh d rs s0) := by
  have htaken : (s0.modGaffer fun g => g.take 6 (criticalMsg d)).store.Canonical := h
  unfold execSensorRefresh
  dsimp only
  generalize s0.modGaffer (fun g => g.take 6 (criticalMsg d)) = s at htaken ⊢
  have hread : ((s.readSensors d rs).setTherm s d).store.Canonical := .setTherm (.readSensors htaken)
  generalize (s.readSensors d rs).setTherm s d = t at hread ⊢
  have hcapped {cap : Nat} : (t.setCap d cap).store.Canonical := .setCap hread
  refine .ite (.next ?_) (.ite (.next hcapped) (.ite (.next (.ite hcapped hread)) (.next hread)))
  rw [State.modGaffer_store, State.report_store]
  exact hcapped

theorem Store.Canonical.putTask {s : State} {n : BankId} {b : Bank} (h : s.store.Canonical) : (s.putTask n b).store.Canonical := .retarget h

theorem Store.Canonical.dropShadow {s : State} {c : CoreId} {n : BankId} {sp mv : Span} (h : s.store.Canonical) :
    (s.dropShadow c n sp mv).store.Canonical :=
  .foldl h (fun ht => .ite ht ht)

theorem Store.Canonical.placeOne {s : State} {id : Nat} {d : Die} {wait : Bool} {sp : Spot} (h : s.store.Canonical) :
    (s.placeOne id d wait sp).store.Canonical := by
  unfold State.placeOne
  split
  · exact h
  next l _ =>
    have hdropped : (s.dropShadow (coreOf sp.bank) sp.bank (sp.sp, recSpres l.raw) (sp.mv, recMres l.raw)).store.Canonical :=
      .dropShadow h
    dsimp only
    generalize s.dropShadow (coreOf sp.bank) sp.bank (sp.sp, recSpres l.raw) (sp.mv, recMres l.raw) = t at hdropped ⊢
    refine .ite ?_ (.putTask ?_)
    · exact hdropped
    · exact hdropped

theorem Store.Canonical.endTask {s0 : State} {n : BankId} (h : s0.store.Canonical) : (s0.endTask n).store.Canonical := by
  have hcleared : (if (s0.bank n).kind = 0 then s0 else s0.clearKind n).store.Canonical := .ite h (.clearKind h)
  unfold State.endTask
  dsimp only
  generalize (if (s0.bank n).kind = 0 then s0 else s0.clearKind n) = s at hcleared ⊢
  refine .pickBank (.retarget (.stopRun ?_))
  cases s.ordinalOf n with
  | none => exact hcleared
  | some _ => exact hcleared

end Sys2Proof.Machine

/-! ### Canonical memory: agents of a die, conversations and boundaries (02, 14, 16) -/

namespace Sys2Proof.Machine

open Sys2Proof

theorem Store.Canonical.agentPut {s t : State} {d : Die} {l who op : Nat} {bs : List Byte} (h : s.store.Canonical)
    (e : s.agentPut d l bs who op = some t) : t.store.Canonical := by
  unfold State.agentPut at e
  extract_lets r need k s1 u at e
  have hsensed : s1.store.Canonical := .senseMerge h
  have hcounted : u.store.Canonical := .ite (.trafficStore hsensed) (.traffic hsensed)
  clear_value u
  split at e
  · cases e
    exact Store.put_canonical _ _ _ hcounted
  · split at e
    · cases e
      exact Store.put_canonical _ _ _ (Store.pin_canonical _ hcounted)
    · obtain ⟨v, hv, rfl⟩ := Option.map_eq_some_iff.mp e
      obtain ⟨leaf, -, hconv⟩ := Option.bind_eq_some_iff.mp hv
      exact Store.put_canonical _ _ _ (.convertLate hcounted hconv)

theorem Store.Canonical.agentRead {s : State} {d : Die} {asn : BitVec 12} {va n who : Nat} (h : s.store.Canonical) :
    (s.agentRead d asn va n who).1.store.Canonical := by
  have hread {ps : List (Nat × Nat)} :
      (ps.foldl (fun (t : State) p => (t.traffic (reqFor who d) 0 p.1 p.2).sense p.1 p.2) s).store.Canonical :=
    .foldl h fun ht => .sense (.traffic ht)
  unfold State.agentRead
  split
  · exact h
  next ps _ => exact .ite_fst (hread (ps := ps)) (hread (ps := ps))

theorem Store.Canonical.agentPieces {d : Die} {who : Nat} {ps : List (Nat × Nat)} {p : Option State × List Byte} {t : State}
    (h : ∀ s, p.1 = some s → s.store.Canonical)
    (e : (ps.foldl (fun (p : Option State × List Byte) q =>
      (p.1.bind fun (t : State) => t.agentPut d q.1 (p.2.take q.2) who, p.2.drop q.2)) p).1 = some t) : t.store.Canonical := by
  induction ps generalizing p with
  | nil => exact h t e
  | cons q ps ih =>
    refine ih (fun u hu => ?_) e
    obtain ⟨s, hs, hput⟩ := Option.bind_eq_some_iff.mp hu
    exact .agentPut (h s hs) hput

theorem Store.Canonical.agentWrite {s t : State} {d : Die} {asn : BitVec 12} {va who : Nat} {bs : List Byte} (h : s.store.Canonical)
    (e : s.agentWrite d asn va bs who = some t) : t.store.Canonical := by
  unfold State.agentWrite at e
  split at e
  · cases e
  next ps _ =>
    refine agentPieces (p := (some s, bs)) ?_ e
    rintro u ⟨⟩
    exact h

theorem Store.Canonical.semSignal {s t : State} {d : Die} {asn : BitVec 12} {va : Nat} (h : s.store.Canonical)
    (e : s.semSignal d asn va = some t) : t.store.Canonical := by
  unfold State.semSignal at e
  split at e
  · cases e
  next l _ =>
    have hsensed : (s.sense l 8).store.Canonical := .sense h
    dsimp only at e
    generalize s.sense l 8 = u at hsensed e
    split at e
    · cases e
    · split at e
      · cases e
      next v hput =>
        cases e
        have hdropped : ({ u with store := u.store.dropCopies d l 8 } : State).store.Canonical := hsensed
        have hv : v.store.Canonical := .agentPut hdropped hput
        exact hv

theorem Store.Canonical.lehrSense {s : State} {d : Die} {l n : Nat} (h : s.store.Canonical) : (s.lehrSense d l n).store.Canonical :=
  .sense (.traffic h)

theorem Store.Canonical.lehrPut {s : State} {d : Die} {l : Nat} {bs : List Byte} (h : s.store.Canonical) :
    (s.lehrPut d l bs).store.Canonical :=
  Store.put_canonical _ _ _ (.traffic (.senseMerge h))

theorem Store.Canonical.withdraw {s : State} {c : Conv} {i cause : Nat} (h : s.store.Canonical) :
    (s.withdraw c i cause).1.store.Canonical := by
  unfold State.withdraw
  refine .ite_fst ?_ ?_
  · split
    · exact .lehrSense h
    · exact h
  · split
    · split
      · exact .lehrSense h
      · exact h
    · split
      · split
        · exact .lehrPut (.lehrSense h)
        · exact .lehrPut (.lehrPut (.lehrSense h))
      · split
        · exact .lehrPut h
        · exact .lehrPut (.lehrPut h)

theorem Store.Canonical.shut {s : State} {c : Conv} {why : Nat} (h : s.store.Canonical) : (s.shut c why).1.store.Canonical :=
  .foldl_fst h fun ht => .ite_fst (.withdraw ht) ht

theorem Store.Canonical.keepConv {s : State} {c : Conv} (h : s.store.Canonical) : (s.keepConv c).store.Canonical := by
  unfold State.keepConv
  split
  next l _ =>
    have hput : (s.lehrPut (homeOf c.m) (l + 120) c.live).store.Canonical := .lehrPut h
    exact hput
  · have hshut : (s.shut c 2).1.store.Canonical := .shut h
    exact .ite hshut h

theorem Store.Canonical.failConv {s : State} {c : Conv} (h : s.store.Canonical) : (s.failConv c).store.Canonical := .keepConv (.shut h)

theorem Store.Canonical.batchWrites {d : Die} {asn : BitVec 12} {va : Nat} {bs : List Byte} {ks : List Nat} {o : Option State} {t : State}
    (h : ∀ s, o = some s → s.store.Canonical)
    (e : ks.foldl (fun (t : Option State) k =>
      t.bind fun (u : State) => u.agentWrite d asn (va + 64 * k) ((bs.drop (64 * k)).take 64) 72) o = some t) : t.store.Canonical := by
  induction ks generalizing o with
  | nil => exact h t e
  | cons k ks ih =>
    refine ih (fun u hu => ?_) e
    obtain ⟨s, hs, hwrite⟩ := Option.bind_eq_some_iff.mp hu
    exact .agentWrite (h s hs) hwrite

theorem Store.Canonical.writeBatch {s t : State} {d : Die} {asn : BitVec 12} {va : Nat} {bs : List Byte} (h : s.store.Canonical)
    (e : s.writeBatch d asn va bs = some t) : t.store.Canonical := by
  refine .batchWrites ?_ e
  rintro u ⟨⟩
  exact h

theorem Store.Canonical.slotLaunch {s : State} {g : GridId} {d : Die} {missed : Bool} {trap : Option Word} (h : s.store.Canonical) :
    (s.slotLaunch g d missed trap).store.Canonical := by
  unfold State.slotLaunch
  dsimp only
  split
  · refine .ite h ?_
    split
    · exact h
    next s1 hbatch =>
      have hwritten : s1.store.Canonical := .writeBatch h hbatch
      split
      next s2 _ hread =>
        have hs2 : s2.store.Canonical := .fst (.agentRead hwritten) hread
        exact hs2
      next s2 bs hread =>
        have hs2 : s2.store.Canonical := .fst (.agentRead hwritten) hread
        exact .ite hs2 hs2
  · exact h

theorem Store.Canonical.postMiss {s : State} {id : Nat} {trap : Option Word} (h : s.store.Canonical) :
    (s.postMiss id trap).store.Canonical :=
  .foldl h (fun ht => .ite (.takeMiss ht) ht)

theorem Store.Canonical.reportStopped {s : State} {g : GridId} (h : s.store.Canonical) : (s.reportStopped g).store.Canonical := .ite h h

theorem Store.Canonical.slotRetired {s : State} {id : Nat} {d : Die} (h : s.store.Canonical) : (s.slotRetired id d).store.Canonical := by
  unfold State.slotRetired
  split
  · exact h
  next g _ =>
    dsimp only
    have hended {f : Grid → Grid} : (s.modGrid g f).store.Canonical := h
    refine .ite (.slotLaunch hended) (.reportStopped ?_)
    exact hended

theorem Store.Canonical.closeListen {s t : State} {c c1 : Conv} {n : Nat} (h : s.store.Canonical) (e : s.closeListen c n = some (t, c1)) :
    t.store.Canonical := by
  unfold State.closeListen at e
  split at e
  · cases e
  · cases e
    exact .lehrPut h

theorem Store.Canonical.romWithdraw {s : State} {c : Conv} (h : s.store.Canonical) : (s.romWithdraw c).1.store.Canonical :=
  .foldl_fst h fun ht => .ite_fst (.withdraw ht) ht

theorem Store.Canonical.play {s : State} {c : Conv} {t : GridDesc} {n : Nat} (h : s.store.Canonical) :
    (s.play c t n).1.store.Canonical := by
  unfold State.play
  split
  · exact h
  · extract_lets d com wd s1 bad miss fill ts s2 lehr s3 c1
    have hsensed : s1.store.Canonical := .ite (.lehrSense h) h
    have hplayed : s2.store.Canonical := .lehrPut hsensed
    have hsent : s3.store.Canonical := .withLehr hplayed
    exact .ite_fst (.romWithdraw hsent) hsent

theorem Store.Canonical.turnConv {g : GridId} {t : GridDesc} {n : Nat} {stop : Bool} {p : State × Option ConvId} {m : ConvId}
    (h : p.1.store.Canonical) : (State.turnConv g t n stop p m).1.store.Canonical := by
  unfold State.turnConv
  split
  · exact h
  next c _ =>
    split
    · exact .failConv h
    next s1 c1 hclose =>
      have hs1 : s1.store.Canonical := .closeListen h hclose
      exact .ite_fst (.keepConv (.shut hs1)) (.ite_fst (.failConv (.play hs1)) (.keepConv (.play hs1)))

theorem Store.Canonical.openPending {s : State} {g : GridId} {d : Die} {asn : BitVec 12} {n : Nat} (h : s.store.Canonical) :
    (s.openPending g d asn n).store.Canonical := .foldl h fun ht => .keepConv (.withLehr ht)

theorem Store.Canonical.answerSlot {s : State} {g : GridId} {d : Die} {v : Word} (h : s.store.Canonical) :
    (s.answerSlot g d v).store.Canonical :=
  .foldl h (fun ht => .ite ht ht)

theorem Store.Canonical.boundaryLaunch {s : State} {g : GridId} {d : Die} {t : GridDesc} {n : Nat} {low : Option ConvId} (h : s.store.Canonical) :
    (s.boundaryLaunch g d t n low).store.Canonical := by
  unfold State.boundaryLaunch
  extract_lets trap
  split
  · exact .ite (.postMiss h) h
  · exact .ite h (.slotLaunch h)

theorem execSlotBoundary_keeps {s : State} {d : Die} {g : GridId} (h : s.store.Canonical) : Keeps (execSlotBoundary d g s) := by
  unfold execSlotBoundary
  dsimp only
  split
  · exact .next h
  next t _ =>
    refine .ite (.next h) ?_
    have hturned := Store.Canonical.foldl_fst (xs := s.openConvs g d) (p := (s, none))
      (f := State.turnConv g t ((s.grid g).next.get d) ((s.grid g).stopping == some ((s.grid g).next.get d))) h .turnConv
    generalize (s.openConvs g d).foldl _ (s, none) = p at hturned ⊢
    have hmoved {f : Grid → Grid} : (p.1.modGrid g f).store.Canonical := hturned
    refine .ite (.ite (.next (.reportStopped ?_)) (.next (.answerSlot hmoved))) (.next (.answerSlot ?_))
    · exact .withLehr (.answerSlot hmoved)
    · exact .boundaryLaunch (.openPending hmoved)

end Sys2Proof.Machine

/-! ### Canonical memory: grids, slot operations, completion, launches and queues (10, 14, 16, 19) -/

namespace Sys2Proof.Machine

open Sys2Proof

theorem execGridConfigure_keeps {s : State} {g : GridId} {t : GridDesc} (h : s.store.Canonical) : Keeps (execGridConfigure g t s) :=
  .ite (.next h) (.next h)

theorem Store.Canonical.clearSeqs {s : State} {t : GridDesc} (h : s.store.Canonical) : (s.clearSeqs t).store.Canonical := by
  unfold State.clearSeqs
  refine .foldl h ?_
  intro t x ht
  refine .ite ht ?_
  split
  next _ _ heq => exact .agentWrite ht heq
  · exact ht

theorem execGridStart_keeps {s : State} {g : GridId} (h : s.store.Canonical) : Keeps (execGridStart g s) := by
  unfold execGridStart
  dsimp only
  split
  · exact .next h
  · refine .ite (.next h) ?_
    split
    next s1 _ hread =>
      have hs1 : s1.store.Canonical := .fst (.agentRead h) hread
      exact .next hs1
    next s1 _ hread =>
      have hs1 : s1.store.Canonical := .fst (.agentRead h) hread
      exact .ite (.next hs1) (.next (.withLehr (.clearSeqs hs1)))

theorem execGridStop_keeps {s : State} {g : GridId} (h : s.store.Canonical) : Keeps (execGridStop g s) := by
  unfold execGridStop
  dsimp only
  split
  · exact .next h
  · exact .ite (.next h) (.next h)

theorem execConvOpen_keeps {s : State} {m : ConvId} {recVa : Word} (h : s.store.Canonical) : Keeps (execConvOpen m recVa s) := by
  unfold execConvOpen
  split
  · exact .next h
  · exact .ite (.next (.sense h)) (.next (.sense h))

theorem execConvClose_keeps {s : State} {m : ConvId} (h : s.store.Canonical) : Keeps (execConvClose m s) := by
  unfold execConvClose
  split
  · exact .next h
  · split
    · exact .next h
    · exact .ite (.next h) (.ite (.next h) (.next (.keepConv (.shut h))))

theorem execIngressGroup_keeps {s : State} {d : Die} {grp : Ingress} (h : s.store.Canonical) : Keeps (execIngressGroup d grp s) := by
  unfold execIngressGroup
  dsimp only
  split
  · exact .next h
  · exact .ite (.next h) (.ite (.next h) (.ite (.next (.keepConv h)) (.ite (.next (.keepConv h)) (.next (.keepConv h)))))

theorem Store.Canonical.commitAt {s : State} {m : ConvId} {k : Nat} (h : s.store.Canonical) : (s.commitAt m k).1.store.Canonical := by
  unfold State.commitAt
  split
  · exact h
  · exact .ite_fst h (.ite_fst (.keepConv h) (.ite_fst (.keepConv h) (.ite_fst (.keepConv h) (.ite_fst (.keepConv h) (.keepConv h)))))

theorem Store.Canonical.retractAt {s : State} {m : ConvId} {k : Nat} (h : s.store.Canonical) : (s.retractAt m k).1.store.Canonical := by
  have hwithdrawn {f : Nat} {is : List Nat} {p : (State × Conv × Bool) × Nat} (hp : p.1.1.store.Canonical) :
      ((is.foldl (fun (p : (State × Conv × Bool) × Nat) i =>
        if p.1.2.2 && decide (k ≤ f + 1 + i) && p.1.2.1.isCommitted i then
          (p.1.1.withdraw p.1.2.1 i 0, p.2 + if (p.1.1.withdraw p.1.2.1 i 0).2.2 then 1 else 0)
        else p) p).1).1.store.Canonical := by
    induction is generalizing p with
    | nil => exact hp
    | cons i is ih =>
      refine ih ?_
      dsimp only
      split
      · exact .withdraw hp
      · exact hp
  unfold State.retractAt
  split
  · exact h
  next c _ =>
    refine .ite_fst h (.ite_fst (.keepConv h) (.ite_fst (.keepConv ?_) (.failConv ?_)))
    · exact hwithdrawn (f := c.frontier) h
    · exact hwithdrawn (f := c.frontier) h

theorem Store.Canonical.slotOp {s : State} {i : Instr} {a : SlotOp} {act : State → ConvId → Nat → State × Word} (h : s.store.Canonical)
    (hact : ∀ {t m k}, t.store.Canonical → (act t m k).1.store.Canonical) : (s.slotOp i a act).store.Canonical := by
  have hbegun : (s.begin i).2.store.Canonical := .begin h
  unfold State.slotOp
  dsimp only
  generalize (s.begin i).2 = t at hbegun ⊢
  have hchosen : t.choose.2.store.Canonical := hbegun
  generalize t.choose = k at hchosen ⊢
  split
  · exact hbegun
  · refine .ite hbegun ?_
    split
    · exact hbegun
    · exact .raiseMem hbegun
    · refine .ite (.raiseMem hbegun) (.ite (.raiseMem hbegun) (.ite (.raiseMem hbegun) (.ite hbegun ?_)))
      split
      · exact .raise hbegun
      next m _ =>
        have hacted {n : Nat} : (act k.2 m n).1.store.Canonical := hact hchosen
        refine .ite hchosen ?_
        exact hacted (n := ((s.begin i).1.caps.getD 1 0).toNat)

theorem execCommit_keeps {s : State} {a : SlotOp} (h : s.store.Canonical) : Keeps (execCommit a s) := .next (.slotOp h .commitAt)

theorem execRetract_keeps {s : State} {a : SlotOp} (h : s.store.Canonical) : Keeps (execRetract a s) := .next (.slotOp h .retractAt)

theorem execSlotwait_keeps {s : State} {a : SRr} (h : s.store.Canonical) : Keeps (execSlotwait a s) := by
  unfold execSlotwait
  refine .ite ?_ (.next (.begin h))
  split
  · exact .next (.begin h)
  · exact .ite (.next (.begin h)) (.next (.begin h))
  all_goals exact .next (.begin h)

theorem execCtxq_keeps {s : State} {a : SRrr} (h : s.store.Canonical) : Keeps (execCtxq a s) := by
  unfold execCtxq
  refine .ite ?_ (.next (.begin h))
  split <;> exact .next (.begin h)

theorem execCtxqAnswer_keeps {s : State} {n : BankId} (h : s.store.Canonical) : Keeps (execCtxqAnswer n s) := by
  unfold execCtxqAnswer
  dsimp only
  split <;> exact .next h

theorem Store.Canonical.performSlot {s : State} {o : Op} {res : BitVec 5} {act : State → ConvId → Nat → State × Word} (h : s.store.Canonical)
    (hact : ∀ {t m k}, t.store.Canonical → (act t m k).1.store.Canonical) : (s.performSlot o res act).1.store.Canonical := by
  unfold State.performSlot
  split
  · exact hact h
  · exact h

theorem Store.Canonical.performPend {s : State} {b : BankId} {o : Op} (h : s.store.Canonical) : (s.performPend b o).1.store.Canonical := by
  unfold State.performPend
  dsimp only
  have hsensed : (s.sense o.loc (s.store.objectSize o)).store.Canonical := .sense h
  split
  next st _ hperf =>
    have hst : st.Canonical := Store.performObject_canonical hsensed hperf
    exact hst
  · split
    · exact .performSlot h .commitAt
    · exact .performSlot h .retractAt
    · exact .rangeDone h
    · exact h
    · exact h
    · exact h

theorem Store.Canonical.perform {s : State} {b : BankId} {o : Op} (h : s.store.Canonical) : (s.perform b o).1.store.Canonical := by
  unfold State.perform
  dsimp only
  exact .foldl (.readLate (.ite_fst (.performPend h) h)) fun ht => .foldl ht .senseMerge

theorem Store.Canonical.settleOp {b : BankId} {s : State} {uid : Nat} (h : s.store.Canonical) :
    (State.settleOp b s uid).store.Canonical := by
  unfold State.settleOp
  split
  · exact h
  · refine .ite h ?_
    exact Store.foldl_canonical _ _ (.trafficPuts (.perform h)) fun _ _ ht => Store.perform_canonical _ _ ht

theorem Store.Canonical.settlePreds {s : State} {b : BankId} {o : Op} (h : s.store.Canonical) : (s.settlePreds b o).store.Canonical :=
  .ite h (.foldl h .settleOp)

theorem Store.Canonical.part {s : State} {b : BankId} {uid k : Nat} (h : s.store.Canonical) : (s.part b uid k).store.Canonical :=
  .ite (.storePart h) (.loadPart h)

theorem execOperationComplete_keeps {s : State} {b : BankId} {uid : Nat} (h : s.store.Canonical) :
    Keeps (execOperationComplete b uid s) := by
  unfold execOperationComplete
  split
  · exact .next h
  · split
    · exact .next h
    · exact .ite (.next (.testDeadlock (.complete (.perform (.settlePreds h))))) (.next h)

theorem execRemoteFill_keeps {s : State} {d : Die} {line : Nat} (h : s.store.Canonical) : Keeps (execRemoteFill d line s) := by
  unfold execRemoteFill
  split
  · exact .next h
  · exact .next (.ite (.logLine h) h)

theorem execXlate_keeps {s : State} {a : SXlate} (h : s.store.Canonical) : Keeps (execXlate a s) :=
  .ite (.next (.begin h)) (.next (.begin h))

theorem execHlocal_keeps {s : State} {a : SHlocal} (h : s.store.Canonical) : Keeps (execHlocal a s) :=
  .ite (.next (.begin h)) (.next (.begin h))

theorem execHinv_keeps {s : State} {a : SHinv} (h : s.store.Canonical) : Keeps (execHinv a s) := .ite (.next (.begin h)) (.next (.begin h))

theorem execHandleLand_keeps {s : State} {n : BankId} (h : s.store.Canonical) : Keeps (execHandleLand n s) := by
  unfold execHandleLand
  dsimp only
  split <;> exact .next h

theorem Store.Canonical.readWalk {s : State} {d : Die} {asn : BitVec 12} {va : Nat} (h : s.store.Canonical) :
    (s.readWalk d asn va).store.Canonical :=
  .foldl (.ite h h) (fun ht => .traffic (.sense ht))

theorem execWalkComplete_keeps {s0 : State} {tag : Nat} (h : s0.store.Canonical) : Keeps (execWalkComplete tag s0) := by
  unfold execWalkComplete
  split
  · exact .next h
  · exact .ite (.next h) (.next (.readWalk h))

theorem Store.giveBack_canonical {st : Store} (f : Forward) (h : st.Canonical) : (st.giveBack f).Canonical := by
  unfold Store.giveBack
  split
  · exact h
  · exact Store.foldl_canonical _ _ h fun _ _ ht => Store.dropLine_canonical _ ht

theorem Store.Canonical.invalDone {s : State} {i : Inval} (h : s.store.Canonical) : (s.invalDone i).store.Canonical := by
  unfold State.invalDone
  refine .endPools (.retryMoves ?_)
  split <;> exact Store.foldl_canonical _ _ h fun _ _ ht => Store.giveBack_canonical _ ht

theorem execInvalidationRelease_keeps {s : State} {d : Die} {id : Nat} (h : s.store.Canonical) :
    Keeps (execInvalidationRelease d id s) := by
  unfold execInvalidationRelease
  split
  · exact .next h
  · exact .ite (.next h) (.ite (.next (.invalDone h)) (.next h))

theorem execEndt_keeps {s : State} {a : S0} (h : s.store.Canonical) : Keeps (execEndt a s) :=
  .ite (.next (.endTask (.begin h))) (.next (.begin h))

theorem Store.Canonical.retireOn {s : State} {l : Launch} {d : Die} (h : s.store.Canonical) : (s.retireOn l d).store.Canonical := by
  unfold State.retireOn
  extract_lets s1 s2
  have hdone : s1.store.Canonical := by
    refine .ite h ?_
    split
    next t hsignal => exact .semSignal h hsignal
    · exact h
  clear_value s1
  exact .ite (.slotRetired hdone) hdone

theorem Store.Canonical.testWait {s : State} {l : Launch} {d : Die} {k : Nat} {w : Nat × Nat} (h : s.store.Canonical) :
    (s.testWait l d k w).1.store.Canonical := by
  have htested : ∀ a, ((s.traffic (reqFor 73 d) 8 a 8).sense a 8).store.Canonical := fun _ => .sense (.traffic h)
  unfold State.testWait
  dsimp only
  split
  · exact h
  · exact h
  all_goals
    refine .ite_fst h ?_
    split
    · exact h
    next a _ => exact .ite_fst (htested a) (.ite_fst (htested a) (htested a))

theorem Store.Canonical.testWaits {l : Launch} {d : Die} {k : Nat} {ws : List (Nat × Nat)} {s : State} (h : s.store.Canonical) :
    (State.testWaits l d k ws s).1.store.Canonical := by
  induction ws generalizing k s with
  | nil => exact h
  | cons w ws ih =>
    unfold State.testWaits
    split
    next t htest => exact .fst (.testWait h) htest
    next t _ htest =>
      have ht : t.store.Canonical := .fst (.testWait h) htest
      split
      next u _ hrest => exact .fst (ih ht) hrest
      next u hrest => exact .fst (ih ht) hrest

theorem Store.Canonical.testLaunch {s : State} {d : Die} {id : Nat} (h : s.store.Canonical) : (s.testLaunch d id).store.Canonical := by
  unfold State.testLaunch
  split
  · exact h
  · refine .ite h ?_
    split
    next t htest =>
      have ht : t.store.Canonical := .fst (.testWaits h) htest
      have hdropped {r : Report} : ((t.modStore fun st => st.dropLwaits id d).report r).store.Canonical := ht
      exact .ite ht (.retireOn hdropped)
    next t _ htest =>
      have ht : t.store.Canonical := .fst (.testWaits h) htest
      have hreleased {f g : LDie → LDie} :
          (((t.modStore fun st => st.dropLwaits id d).modLDie id d f).modLDie id d g).store.Canonical := ht
      exact .ite ht (.ite ht (.foldl hreleased .retarget))

theorem Store.Canonical.ageDie {d : Die} {n : Nat} {s : State} (h : s.store.Canonical) : (State.ageDie d n s).store.Canonical := by
  induction n generalizing s with
  | zero => exact h
  | succ n ih =>
    unfold State.ageDie
    split
    next l _ =>
      have haged : (s.ageLaunch d l).store.Canonical := h
      exact ih haged
    · exact h

theorem execYield_keeps {s : State} {a : S0} (h : s.store.Canonical) : Keeps (execYield a s) := by
  unfold execYield
  refine .ite (.ite (.next (.begin h)) ?_) (.next (.begin h))
  dsimp only
  split
  · exact .next (.foldl (.ageDie (.begin h)) .testLaunch)
  · exact .next (.foldl (.foldl (.ageDie (.begin h)) .testLaunch) .placeOne)

theorem execFhintHoldExpiry_keeps {s : State} {d : Die} {id : Nat} (h : s.store.Canonical) : Keeps (execFhintHoldExpiry d id s) := by
  unfold execFhintHoldExpiry
  split
  · exact .next h
  · exact .ite (.next (.foldl h .retarget)) (.next h)

theorem execLaunchAgeing_keeps {s : State} {d : Die} {id : Nat} (h : s.store.Canonical) : Keeps (execLaunchAgeing d id s) := by
  unfold execLaunchAgeing
  split
  · exact .next h
  · exact .ite (.next h) (.next h)

theorem Store.Canonical.preempt {s : State} {n : BankId} (h : s.store.Canonical) : (s.preempt n).store.Canonical :=
  .ite h (.saveBank (.ite h h))

theorem Store.Canonical.placeNext {s t : State} {l : Launch} {d : Die} (h : s.store.Canonical) (e : s.placeNext l d = some t) :
    t.store.Canonical := by
  unfold State.placeNext at e
  split at e
  · cases e
  · split at e
    · cases e
      exact .foldl h .placeOne
    · cases e
    · split at e
      · cases e
      · obtain ⟨ps, -, rfl⟩ := Option.map_eq_some_iff.mp e
        exact .foldl h fun ht => .ite (.preempt (.placeOne ht)) (.placeOne ht)

theorem Store.Canonical.noteHot {s : State} {l : Launch} {d : Die} (h : s.store.Canonical) : (s.noteHot l d).store.Canonical := by
  unfold State.noteHot
  split <;> exact h

theorem Store.Canonical.expandShadow {s t : State} {l : Launch} {d : Die} (h : s.store.Canonical) (e : s.expandShadow l d = some t) :
    t.store.Canonical := by
  unfold State.expandShadow at e
  dsimp only at e
  split at e
  · cases e
  · split at e
    · cases e
    · obtain ⟨c, -, hc⟩ := List.exists_of_findSome?_eq_some e
      split at hc
      · cases hc
      · split at hc
        · cases hc
          exact h
        · cases hc

theorem execTaskPlacement_keeps {s : State} {d : Die} (h : s.store.Canonical) : Keeps (execTaskPlacement d s) := by
  unfold execTaskPlacement
  dsimp only
  have hnoted : ((s.fifoOrder d).foldl (fun (t : State) l => t.noteHot l d) s).store.Canonical := .foldl h .noteHot
  generalize (s.fifoOrder d).foldl (fun (t : State) l => t.noteHot l d) s = t at hnoted ⊢
  split
  next u hplace =>
    obtain ⟨l, -, hl⟩ := List.exists_of_findSome?_eq_some hplace
    exact .next (.placeNext hnoted hl)
  · split
    next u hexpand =>
      obtain ⟨l, -, hl⟩ := List.exists_of_findSome?_eq_some hexpand
      exact .next (.expandShadow hnoted hl)
    · exact .next hnoted

theorem execPlacementThermalTimeout_keeps {s : State} {d : Die} {id : Nat} (h : s.store.Canonical) :
    Keeps (execPlacementThermalTimeout d id s) := by
  unfold execPlacementThermalTimeout
  split
  · exact .next h
  · split
    · exact .ite (.next h) (.next h)
    · exact .next h

theorem execShadowStart_keeps {s : State} {n : BankId} (h : s.store.Canonical) : Keeps (execShadowStart n s) := by
  unfold execShadowStart
  split
  · dsimp only
    split <;> exact .next h
  · dsimp only
    split
    · exact .ite (.next (.putTask h)) (.next h)
    · exact .next h

theorem execLaunchRetire_keeps {s : State} {d : Die} {id : Nat} (h : s.store.Canonical) : Keeps (execLaunchRetire d id s) := by
  unfold execLaunchRetire
  split
  · exact .next h
  · exact .ite (.next (.retireOn h)) (.next h)

theorem Store.Canonical.modQueue {s : State} {q : QueueId} {f : Qcb → Qcb} (h : s.store.Canonical) : (s.modQueue q f).store.Canonical := by
  unfold State.modQueue
  split
  · exact h
  next c _ =>
    extract_lets t put
    have hqueued : t.store.Canonical := h
    refine .ite hqueued (.withFree ?_)
    unfold put
    cases hput : t.agentPut 0 (s.gaffer.qcbPa + 128 * q.val) ((f c).bytes s.free) with
    | none => exact hqueued
    | some u => exact .agentPut hqueued hput

theorem Store.Canonical.rejectOn {s : State} {q : Option QueueId} {head : BitVec 32} {reason : Nat} {r : Report} (h : s.store.Canonical) :
    (s.rejectOn q head reason r).store.Canonical := by
  have hreported : (s.report r).store.Canonical := h
  unfold State.rejectOn
  dsimp only
  split
  · exact h
  · exact .modQueue hreported

theorem execChainFetch_keeps {s : State} {id : Nat} (h : s.store.Canonical) : Keeps (execChainFetch id s) := by
  unfold execChainFetch
  split
  · exact .next h
  · refine .ite (.next h) ?_
    extract_lets s1
    have hfollowed : s1.store.Canonical := h
    split
    next s2 _ hread =>
      have hs2 : s2.nextFree.2.store.Canonical := (Store.Canonical.fst (.agentRead hfollowed) hread :)
      exact .next (.rejectOn hs2)
    next s2 bs hread =>
      have hs2 : s2.store.Canonical := .fst (.agentRead hfollowed) hread
      dsimp only
      split
      · exact .next (.rejectOn hs2)
      · split
        · exact .next hs2
        · refine .next (.modQueue ?_)
          exact hs2

end Sys2Proof.Machine

/-! ### Canonical memory: the C engine's words, K-steps and worklists (10, 12, 13) -/

namespace Sys2Proof.Machine

open Sys2Proof

theorem Store.Canonical.vWord {s : State} {i : Instr} {vd : BitVec 6} {rep : BitVec 5} {lat charge : Nat} {sr : Bool}
    {reads : Bank → Entry → List CReg} {f : Bank → Entry → VOut} (h : s.store.Canonical) :
    (s.vWord i vd rep lat charge sr reads f).store.Canonical := by
  unfold State.vWord
  refine .cWord h ?_
  intro t x ht
  dsimp only
  exact ht

theorem Store.Canonical.pWord {s : State} {i : Instr} {pd : BitVec 4} {rep : BitVec 5} {reads : Bank → Entry → List CReg}
    {f : Bank → Entry → Pred × Pred} (h : s.store.Canonical) : (s.pWord i pd rep reads f).store.Canonical := by
  unfold State.pWord
  exact .cWord h fun ht => ht

theorem Store.Canonical.vBin {s : State} {i : Instr} {a : CBin} {lat charge : Nat} {third : Bool} {fl : Num → Num → Num → Num}
    {z : Int → Int → Int → Int} (h : s.store.Canonical) : (s.vBin i a lat charge third fl z).store.Canonical :=
  .vWord h

theorem Store.Canonical.vUn {s : State} {i : Instr} {a : CUn} {lat charge : Nat} {f : Nat → Nat → Nat} (h : s.store.Canonical) :
    (s.vUn i a lat charge f).store.Canonical :=
  .vWord h

theorem Store.Canonical.vTri {s : State} {i : Instr} {a : CTri} {lat : Nat} {f : Nat → Nat → Nat} (h : s.store.Canonical) :
    (s.vTri i a lat f).store.Canonical :=
  .vWord h

theorem Store.Canonical.vBits {s : State} {i : Instr} {a : CTri} {f : Vec → Vec → Vec} (h : s.store.Canonical) :
    (s.vBits i a f).store.Canonical :=
  .vWord h

theorem execVtos_keeps {s : State} {a : CTos} (h : s.store.Canonical) : Keeps (execVtos a s) := by
  unfold execVtos
  refine .next (.cWord h ?_)
  intro t x ht
  exact ht

theorem Store.Canonical.vRed {s : State} {i : Instr} {vd va : BitVec 6} {pr : BitVec 4} {ty : VTy} {rep : BitVec 5}
    {f : (Nat → Bool) → (Nat → Nat) → Nat} (h : s.store.Canonical) : (s.vRed i vd va pr ty rep f).store.Canonical :=
  .vWord h

theorem Store.Canonical.pBits {s : State} {i : Instr} {a : PBin} {f : Pred → Pred → Pred} (h : s.store.Canonical) :
    (s.pBits i a f).store.Canonical :=
  .pWord h

theorem Store.Canonical.kstep {s0 : State} {n : BankId} (h : s0.store.Canonical) : (s0.kstep n).store.Canonical := by
  unfold State.kstep
  dsimp only
  split
  · exact .startMma (.relookAll h)
  · exact .ite (.foldl (.foldl (.startMma (.relookAll h)) .sense) .sense) (.foldl (.foldl (.startMma (.relookAll h)) .sense) .sense)

theorem execKstepWrite_keeps {s : State} {n : BankId} (h : s.store.Canonical) : Keeps (execKstepWrite n s) :=
  .ite (.next (.testDeadlock (.startMma (.kstep h)))) (.next h)

theorem Store.Canonical.mmaWord {s0 : State} {i : Instr} {a : MmaW} {transposed : Bool} (h : s0.store.Canonical) :
    (s0.mmaWord i a transposed).store.Canonical := by
  have hbegun : (s0.begin i).2.store.Canonical := .begin h
  have hlooked : ((s0.begin i).2.relook (s0.begin i).2.cur).store.Canonical := .relook hbegun
  unfold State.mmaWord
  dsimp only
  generalize (s0.begin i).2.relook (s0.begin i).2.cur = t at hlooked ⊢
  refine .ite hbegun ?_
  split
  · exact hlooked
  next b1 _ =>
    have hset {b : Bank} : (t.setBank t.cur b).store.Canonical := hlooked
    split
    · exact hlooked
    · exact .raise hset
    · refine .ite hlooked (.ite hlooked (.ite hlooked ?_))
      split
      · exact .raise hset
      · refine .startMma ?_
        exact hlooked

theorem execAclr_keeps {s : State} {a : AclrW} (h : s.store.Canonical) : Keeps (execAclr a s) := by
  unfold execAclr
  refine .next (.cWord h ?_)
  intro t x ht
  exact ht

theorem execArd_keeps {s : State} {a : ArdW} (h : s.store.Canonical) : Keeps (execArd a s) := by
  unfold execArd
  refine .next (.cWord h ?_)
  intro t x ht
  dsimp only
  exact ht

theorem execAwr_keeps {s : State} {a : AwrW} (h : s.store.Canonical) : Keeps (execAwr a s) := by
  unfold execAwr
  refine .next (.cWord h ?_)
  intro t x ht
  exact ht

theorem execAsts_keeps {s : State} {a : AstsW} (h : s.store.Canonical) : Keeps (execAsts a s) := by
  unfold execAsts
  refine .next (.cWord h ?_)
  intro t x ht
  dsimp only
  exact Store.put_canonical _ _ _ ht

theorem Store.Canonical.groupAccess {s : State} {e : Engine} {i : Instr} {needW : Bool} {list : Entry → Nat}
    {go : State → Entry → Nat → State} (h : s.store.Canonical) (hgo : ∀ {t x n}, t.store.Canonical → (go t x n).store.Canonical) :
    (s.groupAccess e i needW list go).store.Canonical := by
  have hbegun : (s.begin i).2.store.Canonical := .begin h
  unfold State.groupAccess
  dsimp only
  generalize (s.begin i).2 = t at hbegun ⊢
  split
  · exact hbegun
  next c _ =>
    refine .ite hbegun ?_
    split
    · exact hbegun
    · exact .raiseMem hbegun
    · have hsensed : (t.sense (c.h.loc + ((s.begin i).1.caps.getD 0 0).toNat) 64).store.Canonical := .sense hbegun
      generalize t.sense (c.h.loc + ((s.begin i).1.caps.getD 0 0).toNat) 64 = u at hsensed ⊢
      refine .ite (.raiseMem hbegun) (.ite (.raiseMem hbegun) (.ite (.raiseMem hbegun) ?_))
      refine .ite (.raiseMem hsensed) (.ite (.raiseMem hsensed) (.ite (.raiseMem (.ite (.sense hsensed) hsensed)) ?_))
      split
      · exact .raise (.ite (.sense hsensed) hsensed)
      · exact hgo (.ite (.sense hsensed) hsensed)

theorem Store.Canonical.wlAnswered {s : State} {a : Atom} {x : Entry} {l : Nat} {v : Word} (h : s.store.Canonical) :
    (s.wlAnswered a x l v).store.Canonical := h

theorem execWltake_keeps {s : State} {a : Atom} (h : s.store.Canonical) : Keeps (execWltake a s) := by
  unfold execWltake
  extract_lets p
  have hbegun : p.2.store.Canonical := .begin h
  clear_value p
  split
  · split
    · exact .ite (.next hbegun) (.ite (.next hbegun) (.next hbegun))
    · exact .next hbegun
  · refine .next (.groupAccess h fun {t x l} ht => .of_canonical ?_)
    extract_lets k d o u q v
    refine State.canonical_ite ?_ (.ite (.wlAnswered ht) ?_)
    · have hsensed : u.store.Canonical := .sense ht
      clear_value u
      exact .ite (.raiseMem hsensed) (.wlAnswered (.withStore (Store.takeItem_canonical _ _ _ hsensed)))
    · have hsensed : v.store.Canonical := .ite (.sense ht) ht
      clear_value v
      refine .ite (.raiseMem hsensed) ?_
      rw [State.hold_store]
      exact .withStore (Store.registerWl_canonical _ _ hsensed)

end Sys2Proof.Machine

/-! ### Canonical memory: drains, answers, restores and debugging (17, 20) -/

namespace Sys2Proof.Machine

open Sys2Proof

theorem Store.Canonical.drainWl {s : State} {n : BankId} (h : s.store.Canonical) : (s.drainWl n).store.Canonical := by
  unfold State.drainWl
  split
  · exact h
  next x rest _ =>
    split
    · split
      · have hpopped : (s.modBank n fun b => { b with qL := rest }).store.Canonical := h
        exact .withCur (.wlAnswered (.withCur hpopped))
      · exact Store.dropWl_canonical _ _ h
    · exact h

theorem Store.Canonical.landEntry {s : State} {n : BankId} {x : Entry} (h : s.store.Canonical) : (s.landEntry n x).1.store.Canonical := by
  unfold State.landEntry
  extract_lets p b stays made
  have hread : p.1.store.Canonical := .readLate h
  clear_value p
  exact .ite_fst h hread

theorem Store.Canonical.landPartial {s : State} {n : BankId} (h : s.store.Canonical) : (s.landPartial n).store.Canonical := by
  unfold State.landPartial
  extract_lets p
  have hlanded : p.1.store.Canonical := .foldl_fst h .landEntry
  exact hlanded

theorem Store.Canonical.storePartial {s : State} {n : BankId} (h : s.store.Canonical) : (s.storePartial n).store.Canonical := by
  unfold State.storePartial
  split
  · exact h
  · extract_lets t
    have hstored : t.store.Canonical := .foldl h fun ht => .withStore (Store.put_canonical _ _ _ (.trafficStore (.senseMerge ht)))
    clear_value t
    exact hstored

theorem Store.Canonical.landRows {s : State} {n : BankId} (h : s.store.Canonical) : (s.landRows n).store.Canonical :=
  .foldl h (fun ht => .foldl ht .landRow)

theorem Store.Canonical.drainOp {s : State} {n : BankId} {uid : Nat} (h : s.store.Canonical) : (State.drainOp n s uid).store.Canonical := by
  unfold State.drainOp
  split
  · exact h
  · split
    · exact h
    · exact .ite (.complete (.perform (.settlePreds h))) (.complete (.perform (.settlePreds h)))

theorem Store.Canonical.endKsteps {n : BankId} {mhz k : Nat} {s : State} (h : s.store.Canonical) :
    (State.endKsteps n mhz k s).store.Canonical := by
  induction k generalizing s with
  | zero => exact h
  | succ k ih =>
    unfold State.endKsteps
    split
    · exact .ite (ih (.kstep h)) h
    · exact h

theorem Store.Canonical.withdrawWaits {s : State} {n : BankId} (h : s.store.Canonical) : (s.withdrawWaits n).store.Canonical := h

theorem Store.Canonical.drain {s : State} {n : BankId} (h : s.store.Canonical) : (s.drain n).store.Canonical := by
  unfold State.drain
  extract_lets s1 s2 s3 s4
  have hhandles : (s.modBank n Bank.landHandles).store.Canonical := h
  have hwaits : s1.store.Canonical := .withdrawWaits (.drainWl (.landPartial hhandles))
  have hrows : s2.store.Canonical := .landRows (.storePartial hwaits)
  have hops : s3.store.Canonical := .landPartial (.foldl hrows .drainOp)
  have hksteps : s4.store.Canonical := .endKsteps hops
  clear_value s4
  exact hksteps

theorem Store.Canonical.toGaffer {s : State} {n : BankId} (h : s.store.Canonical) : (s.toGaffer n).store.Canonical :=
  .pickBank (.stopRun (.writeFrame h))

theorem Store.Canonical.toTask {s : State} {n : BankId} (h : s.store.Canonical) : (s.toTask n).store.Canonical := by
  unfold State.toTask
  extract_lets t
  have hframed : t.store.Canonical := (Store.Canonical.writeFrame h :)
  clear_value t
  refine .ite (.pickBank (.stopRun ?_)) hframed
  exact hframed

theorem execDrainComplete_keeps {s : State} {n : BankId} (h : s.store.Canonical) : Keeps (execDrainComplete n s) := by
  unfold execDrainComplete
  extract_lets t
  have hdrained : t.store.Canonical := .drain h
  clear_value t
  refine .ite (.next h) ?_
  split
  · exact .next h
  · exact .ite (.next (.toTask hdrained)) (.ite (.next (.saveBank (.toGaffer hdrained))) (.next (.toGaffer hdrained)))
  · refine .next (.pickBank (.stopRun ?_))
    exact hdrained
  · exact .next (.pickBank (.stopRun (.saveBank hdrained)))

theorem Store.Canonical.refreshEntry {n : BankId} {p : List Entry × State} {x : Entry} (h : p.2.store.Canonical) :
    (State.refreshEntry n p x).2.store.Canonical := by
  unfold State.refreshEntry
  split
  · exact h
  · dsimp only
    repeat' split
    all_goals exact h

theorem Store.Canonical.refreshEntries {n : BankId} {xs : List Entry} {p : List Entry × State} (h : p.2.store.Canonical) :
    (xs.foldl (State.refreshEntry n) p).2.store.Canonical := by
  induction xs generalizing p with
  | nil => exact h
  | cons x xs ih => exact ih (.refreshEntry h)

theorem Store.Canonical.refreshBank {s : State} {n : BankId} (h : s.store.Canonical) : (s.refreshBank n).store.Canonical := by
  unfold State.refreshBank
  extract_lets l w
  have hloads : l.2.store.Canonical := .refreshEntries h
  have hstores : w.2.store.Canonical := .refreshEntries hloads
  exact hstores

theorem Store.Canonical.answerNow {s : State} {n : BankId} {a0 : Answer} (h : s.store.Canonical) : (s.answerNow n a0).store.Canonical := by
  unfold State.answerNow
  extract_lets b a t
  have htaken : t.store.Canonical := h
  clear_value a t
  split
  · exact .switchBack htaken
  · exact .switchBack (.refreshBank htaken)
  · refine .endTask ?_
    exact htaken

theorem Store.Canonical.answerCause {s : State} {n : BankId} {a : Answer} (h : s.store.Canonical) :
    (s.answerCause n a).store.Canonical := by
  unfold State.answerCause
  extract_lets b t
  have ht : t.store.Canonical := h
  clear_value t
  refine .ite ?_ (.ite (.answerNow h) (.ite h h))
  split
  · exact .switchIn ht
  · exact .switchIn (.refreshBank ht)
  · refine .endTask ?_
    exact ht

theorem Store.Canonical.startIncoming {s : State} {id : Nat} {n : BankId} (h : s.store.Canonical) :
    (s.startIncoming id n).store.Canonical :=
  .ite (.foldl h .putTask) h

theorem execPreemptionSaveEnd_keeps {s : State} {n : BankId} (h : s.store.Canonical) : Keeps (execPreemptionSaveEnd n s) := by
  unfold execPreemptionSaveEnd
  refine .ite (.next h) ?_
  split
  · split
    · exact .next (.retarget h)
    · exact .next (.startIncoming (.retarget h))
  · split
    · exact .next (.retarget h)
    · exact .next (.startIncoming (.retarget h))

theorem Store.Canonical.failRestore {s : State} {n : BankId} {c : Cause} {tval : Word} (h : s.store.Canonical) :
    (s.failRestore n c tval).store.Canonical :=
  .toGaffer h

theorem Store.Canonical.requeueFreq {s : State} {n : BankId} (h : s.store.Canonical) : (s.requeueFreq n).store.Canonical := by
  unfold State.requeueFreq
  split
  · exact .ite h h
  · exact h

theorem Store.Canonical.readArea {s : State} {n : BankId} {ranges : List (Nat × Nat)} (h : s.store.Canonical) :
    (s.readArea n ranges).1.store.Canonical :=
  .ite_fst h (.foldl h .sense)

theorem execRestore_keeps {s : State} {n : BankId} (h : s.store.Canonical) : Keeps (execRestore n s) := by
  unfold execRestore
  split
  next b _ was _ _ =>
    refine .ite (.next h) ?_
    extract_lets s1 old s2
    have hs1 : s1.store.Canonical := h
    have hset : (s1.setBank n { b with stopSeq := old.stopSeq, brk := old.brk }).store.Canonical := hs1
    have hs2 : s2.store.Canonical := .requeueFreq (.retarget hset)
    clear_value s2
    split
    next s3 _ hread =>
      have hs3 : s3.store.Canonical := .fst (.readArea hs2) hread
      exact .next (.failRestore hs3)
    next s3 hread =>
      have hs3 : s3.store.Canonical := .fst (.readArea hs2) hread
      refine .ite (.next (.failRestore hs3)) (.ite ?_ (.ite (.next ?_) (.next (.testDeadlock (.switchBack hs3)))))
      · have hput : ({ s3.modBank n fun x => { x with status := .switchedOut, kind := 1 } with
            store := s3.store.put (dieOf n) (saveBase n + 0x3FC00) (le8 1) } : State).store.Canonical :=
          .withStore (Store.put_canonical _ _ _ hs3)
        dsimp only
        split
        · exact .next (.answerNow hput)
        · exact .next hput
      · exact (Store.Canonical.clearKind hs3 :)
  · exact .next h

theorem execEret_keeps {s : State} {a : S0} (h : s.store.Canonical) : Keeps (execEret a s) := by
  unfold execEret
  extract_lets p b
  have hbegun : p.2.store.Canonical := .begin h
  clear_value p
  split
  · exact .next (.raise hbegun)
  next g _ =>
    refine .ite ?_ (.next hbegun)
    split
    next t _ hread =>
      have ht : t.store.Canonical := .fst (.readArea hbegun) hread
      exact .next (.raise ht)
    next t hread =>
      have ht : t.store.Canonical := .fst (.readArea hbegun) hread
      refine .next (.takeMiss (.clearKind (.startMma ?_)))
      exact ht

theorem Store.Canonical.rewriteFrame {s : State} {n : BankId} {b : Bank} (h : s.store.Canonical) : (s.rewriteFrame n b).store.Canonical :=
  Store.seal_canonical _ _ (Store.foldl_canonical _ _ h fun _ _ ht => Store.put_canonical _ _ _ ht)

theorem Store.Canonical.modSaved {s : State} {n : BankId} {f : Bank → Bank} (h : s.store.Canonical) : (s.modSaved n f).store.Canonical := by
  unfold State.modSaved
  refine .ite (.rewriteFrame h) ?_
  split
  · exact h
  · exact .rewriteFrame h

theorem Store.Canonical.tellStop {s : State} {n : BankId} {old : Bank} (h : s.store.Canonical) : (s.tellStop n old).store.Canonical :=
  .ite h h

theorem execHalt_keeps {s : State} {n : BankId} (h : s.store.Canonical) : Keeps (execHalt n s) := by
  have hsaved {f : Bank → Bank} {x : Bank} : ((s.modSaved n f).tellStop n x).store.Canonical := .tellStop (.modSaved h)
  unfold execHalt
  extract_lets b
  split
  · exact .next h
  · exact .next h
  · exact .next h
  · exact .next (.tellStop h)
  · exact .next (.toGaffer h)
  · exact .next (.tellStop h)
  · exact .next hsaved
  · split
    · exact .next hsaved
    · exact .next h
  · split
    · exact .next hsaved
    · exact .next h
  · exact .next h

theorem execDebugStopMatch_keeps {s : State} {n : BankId} (h : s.store.Canonical) : Keeps (execDebugStopMatch n s) := by
  unfold execDebugStopMatch
  refine .ite (.next h) (.ite (.next h) ?_)
  split <;> exact .next h

theorem execStatus_keeps {s : State} {n : BankId} (h : s.store.Canonical) : Keeps (execStatus n s) := by
  unfold execStatus
  refine .next ?_
  rw [State.modGaffer_store]
  exact h

theorem Store.Canonical.debugRead {s : State} {ep : EndpointId} {n : BankId} {item : DebugItem} (h : s.store.Canonical) :
    (s.debugRead ep n item).store.Canonical :=
  .ite h (.ite h h)

theorem Store.Canonical.modDebugged {s : State} {n : BankId} {f : Bank → Bank} (h : s.store.Canonical) :
    (s.modDebugged n f).store.Canonical :=
  .ite h (.modSaved h)

theorem execDebugWrite_keeps {s : State} {n : BankId} {tgt : DebugTarget} (h : s.store.Canonical) : Keeps (execDebugWrite n tgt s) := by
  unfold execDebugWrite
  refine .ite (.next h) ?_
  split
  · split
    · exact .next h
    · exact .next (.modDebugged h)
    · exact .ite (.next (.cregSet h)) (.next (.modDebugged h))
  all_goals exact .next (.modDebugged h)

theorem Store.Canonical.failAccess {s : State} {n : BankId} {e : Engine} {x : Entry} {tval : Word} {keep : Bool} (h : s.store.Canonical) :
    (s.failAccess n e x tval keep).store.Canonical := by
  unfold State.failAccess
  split <;> exact h

theorem Store.Canonical.failOp {s : State} {n : BankId} {o : Op} {c reason : Nat} (h : s.store.Canonical) :
    (s.failOp n o c reason).store.Canonical := by
  unfold State.failOp
  refine .ite ?_ (.ite h (.failAccess (.complete (.ite_fst (.performPend h) h))))
  split
  · exact h
  · exact .failAccess h

theorem Store.Canonical.failHead {s : State} {n : BankId} {e : Engine} {x : Entry} {c reason : Nat} (h : s.store.Canonical) :
    (s.failHead n e x c reason).store.Canonical := by
  unfold State.failHead
  dsimp only
  split
  · exact h
  · exact .failAccess h

theorem Store.Canonical.failCopyRow {s : State} {n : BankId} {o : Op} {c : CopyOp} {f : RowFlight} {reason : Nat} (h : s.store.Canonical) :
    (s.failCopyRow n o c f reason).store.Canonical :=
  .failAccess h

theorem execFabricCompletionError_keeps {s : State} {n : BankId} {uid reason : Nat} (h : s.store.Canonical) :
    Keeps (execFabricCompletionError n uid reason s) := by
  unfold execFabricCompletionError
  split
  · refine .ite ?_ (.next (.failOp h))
    split
    · exact .next h
    · dsimp only
      split
      · exact .next h
      · exact .next (.failCopyRow h)
  · split
    · exact .next (.failHead h)
    · exact .next h

end Sys2Proof.Machine

/-! ### Canonical memory: queues, rings, hosts and the S engine's words (09, 19, 20) -/

namespace Sys2Proof.Machine

open Sys2Proof

theorem execTimeSyncLoss_keeps {s : State} (h : s.store.Canonical) : Keeps (execTimeSyncLoss s) := .ite (.next h) (.next h)

theorem Store.Canonical.queueError {s : State} {q : QueueId} {err : Nat} (h : s.store.Canonical) : (s.queueError q err).store.Canonical :=
  .modQueue h

theorem Store.Canonical.mapQueue {s : State} {q : QueueId} {k : Fin 32} (h : s.store.Canonical) : (s.mapQueue q k).store.Canonical :=
  .modQueue h

theorem Store.Canonical.unmapQueue {s : State} {q : QueueId} (h : s.store.Canonical) : (s.unmapQueue q).store.Canonical := .modQueue h

theorem Store.Canonical.mapStep {s t : State} (h : s.store.Canonical) (e : s.mapStep = some t) : t.store.Canonical := by
  unfold State.mapStep at e
  split at e
  · cases e
  · split at e
    · cases e
      exact .mapQueue h
    · split at e
      · cases e
        exact .unmapQueue h
      · obtain ⟨p, -, rfl⟩ := Option.map_eq_some_iff.mp e
        exact .unmapQueue h

theorem Store.Canonical.mapSteps {n : Nat} {s : State} (h : s.store.Canonical) : (State.mapSteps n s).store.Canonical := by
  induction n generalizing s with
  | zero => exact h
  | succ n ih =>
    unfold State.mapSteps
    split
    next t hstep => exact ih (.mapStep h hstep)
    · exact h

theorem Store.Canonical.mapQueues {s : State} (h : s.store.Canonical) : (s.mapQueues).store.Canonical := .mapSteps h

theorem Store.Canonical.takeBell {s : State} {q : QueueId} {tail : BitVec 32} (h : s.store.Canonical) :
    (s.takeBell q tail).store.Canonical := by
  unfold State.takeBell
  split
  · exact h
  · exact .mapQueues (.ite (.queueError h) (.modQueue h))

theorem execDoorbell_keeps {s : State} {q : QueueId} {tail : BitVec 32} (h : s.store.Canonical) : Keeps (execDoorbell q tail s) :=
  .ite (.next h) (.next (.takeBell h))

theorem Store.Canonical.takeBells {s : State} (h : s.store.Canonical) : (s.takeBells).store.Canonical := .foldl h .takeBell

theorem Store.Canonical.ringEntry {s : State} {c : Qcb} (h : s.store.Canonical) : (s.ringEntry c).1.store.Canonical := by
  unfold State.ringEntry
  refine .ite_fst h ?_
  split
  next _ _ _ heq => exact .fst (.agentRead h) heq
  next _ _ _ heq => exact .fst (.agentRead h) heq

theorem Store.Canonical.consume {s : State} {q : QueueId} (h : s.store.Canonical) : (s.consume q).store.Canonical :=
  .ite (.mapQueues (.modQueue h)) (.modQueue h)

theorem State.onEntry_keeps {s : State} {q : QueueId} {f : State → Qcb → RingEntry → State} (h : s.store.Canonical)
    (hf : ∀ {t c e}, t.store.Canonical → (f t c e).store.Canonical) : Keeps (s.onEntry q f) := by
  unfold State.onEntry
  split
  · exact .next h
  · exact .next (hf (.ringEntry h))

theorem execRingNop_keeps {s : State} {q : QueueId} (h : s.store.Canonical) : Keeps (execRingNop q s) := by
  unfold execRingNop
  refine State.onEntry_keeps h ?_
  intro t c e ht
  split
  · exact .consume ht
  all_goals exact ht

theorem execLaunch_keeps {s : State} {q : QueueId} (h : s.store.Canonical) : Keeps (execLaunch q s) := by
  refine State.onEntry_keeps h fun {t c e} ht => ?_
  split
  next va =>
    refine .ite h ?_
    split
    next u _ hread => exact .queueError (.fst (.agentRead ht) hread)
    next u bs hread =>
      have hu : u.store.Canonical := .fst (.agentRead ht) hread
      dsimp only
      split
      · exact .consume (.rejectOn hu)
      · refine .consume (.modQueue ?_)
        exact hu
  all_goals exact ht

theorem execRingSignal_keeps {s : State} {q : QueueId} (h : s.store.Canonical) : Keeps (execRingSignal q s) := by
  unfold execRingSignal
  split
  · refine .next (.modQueue ?_)
    split
    next _ _ heq1 => exact .semSignal h heq1
    · exact h
  · refine State.onEntry_keeps h ?_
    intro t c e ht
    split
    · exact .consume (.modQueue ht)
    all_goals exact ht

theorem execRingUnknownType_keeps {s : State} {q : QueueId} (h : s.store.Canonical) : Keeps (execRingUnknownType q s) := by
  unfold execRingUnknownType
  refine State.onEntry_keeps h ?_
  intro t c e ht
  split
  · exact .ite (.queueError ht) ht
  · exact ht
  · exact ht

theorem execRingFetchFault_keeps {s : State} {q : QueueId} (h : s.store.Canonical) : Keeps (execRingFetchFault q s) := by
  unfold execRingFetchFault
  refine State.onEntry_keeps h ?_
  intro t c e ht
  split
  · exact .queueError ht
  · exact ht
  · exact ht

theorem execQueueCreate_keeps {s : State} {q : QueueId} {parms : QueueParms} (h : s.store.Canonical) :
    Keeps (execQueueCreate q parms s) := by
  unfold execQueueCreate
  refine .ite (.next (.takeBells h)) ?_
  split
  · exact .next (.takeBells (.modQueue h))
  · exact .ite (.next (.takeBells (.modQueue h))) (.next (.takeBells h))

theorem Store.Canonical.submitRequest {s : State} {ep : EndpointId} {seq : Word} {i : Option Instr} (h : s.store.Canonical) :
    (s.submitRequest ep seq i).store.Canonical := by
  unfold State.submitRequest
  refine .ite h ?_
  split
  · exact .ite h h
  · exact h

theorem Store.Canonical.writeMailbox {s : State} {ep : EndpointId} {off : Nat} {bytes : List Byte} (h : s.store.Canonical) :
    (s.writeMailbox ep off bytes).store.Canonical :=
  .ite h (.submitRequest h)

theorem State.writeControl_keeps {s : State} {ep : EndpointId} {d : Die} {off : Nat} {bytes : List Byte} (h : s.store.Canonical) :
    Keeps (s.writeControl ep d off bytes) :=
  .ite (.ite (execDoorbell_keeps h) (.next h)) (.ite (execIngressGroup_keeps h) (.ite (.next (.writeMailbox h)) (.next h)))

theorem Store.hostPut_canonical {st : Store} (d : Die) (l : Nat) (bs : List Byte) (h : st.Canonical) : (st.hostPut d l bs).Canonical := by
  unfold Store.hostPut
  refine Store.foldl_canonical _ _ h fun t x ht => ?_
  refine Store.ite_canonical ?_ (Store.writeBack_canonical _ (Store.put_canonical _ _ _ ht))
  exact ⟨ht.1, Memory.writes_wf _ _ ht.2⟩

theorem State.commanderAccess_keeps {s : State} {ep : EndpointId} {a : EpAccess} (h : s.store.Canonical) :
    Keeps (s.commanderAccess ep a) := by
  have hread {us : List Nat} : (us.foldl State.senseHbm s).store.Canonical := .foldl h .senseHbm
  unfold State.commanderAccess
  extract_lets pa n
  split
  · exact .fault
  · exact .fault
  · split
    · exact .next (hread (us := unitsOf pa n))
    · exact .next (Store.hostPut_canonical _ _ _ h)
  · dsimp only
    split
    · exact .next h
    · exact State.writeControl_keeps h
  all_goals exact .next h

theorem State.strangerAccess_keeps {s : State} {ep : EndpointId} {a : EpAccess} (h : s.store.Canonical) :
    Keeps (s.strangerAccess ep a) := by
  unfold State.strangerAccess
  refine .ite (State.commanderAccess_keeps h) ?_
  split
  · exact .ite (execIngressGroup_keeps h) (.next h)
  · exact .next h

theorem execFabricEndpointAccess_keeps {s : State} {ep : EndpointId} {acc : EpAccess} (h : s.store.Canonical) :
    Keeps (execFabricEndpointAccess ep acc s) :=
  .ite (State.commanderAccess_keeps h) (State.strangerAccess_keeps h)

theorem execSetTrafficFilter_keeps {s : State} {d : Die} {parms : FilterParms} (h : s.store.Canonical) :
    Keeps (execSetTrafficFilter d parms s) :=
  .ite (.next h) (.next h)

theorem Store.Canonical.branch {s : State} {i : Instr} {cond : Bank → Bool} {off : BitVec 25} (h : s.store.Canonical) :
    (s.branch i cond off).store.Canonical :=
  .sControl h

theorem execLoopb_keeps {s : State} {a : SLoop} (h : s.store.Canonical) : Keeps (execLoopb a s) :=
  .ite (.next (.ite (.begin h) (.begin h))) (.next (.begin h))

theorem Store.Canonical.badCreg {s : State} {i : Instr} {x : Entry} (h : s.store.Canonical) : (s.badCreg i x).store.Canonical := .raise h

theorem execCrd_keeps {s : State} {a : SCrd} (h : s.store.Canonical) : Keeps (execCrd a s) := by
  unfold execCrd
  dsimp only
  split
  · exact .next (.badCreg (.begin h))
  · exact .ite (.next (.begin h)) (.next (.begin h))

theorem Store.Canonical.cregWord {s : State} {i : Instr} {a : SCwr} {f : Word → Word → Word} (h : s.store.Canonical) :
    (s.cregWord i a f).store.Canonical := by
  unfold State.cregWord
  dsimp only
  split
  · exact .badCreg (.begin h)
  · exact .ite (.cregSet (.begin h)) (.begin h)

theorem execTrap_keeps {s : State} {a : STrap} (h : s.store.Canonical) : Keeps (execTrap a s) := .ite (.next (.begin h)) (.next (.begin h))

theorem execWaitev_keeps {s : State} {a : SWait} (h : s.store.Canonical) : Keeps (execWaitev a s) :=
  .ite (.next (.begin h)) (.next (.begin h))

theorem execWaitevDeadline_keeps {s : State} {n : BankId} (h : s.store.Canonical) : Keeps (execWaitevDeadline n s) := by
  unfold execWaitevDeadline
  dsimp only
  split
  · split
    · exact .ite (execWaitev_keeps h) (.next h)
    · exact .next h
  · exact .next h

end Sys2Proof.Machine

/-! ### Canonical memory: errors from outside and the schedule (03, 20; log entry 3) -/

namespace Sys2Proof.Machine

open Sys2Proof

theorem Store.Canonical.unitError {s : State} {u : Nat} {x : Ecc} (h : s.store.Canonical) : (s.unitError u x).store.Canonical :=
  .ite h (.ite h (.performFirst h))

theorem Store.Canonical.hbmError {s : State} {u : Nat} {x : Ecc} (h : s.store.Canonical) : (s.hbmError u x).store.Canonical :=
  .ite h (.performFirst h)

theorem Store.Canonical.tagError {s : State} {d : Die} {line : Nat} {single : Bool} (h : s.store.Canonical) :
    (s.tagError d line single).store.Canonical :=
  .ite (.ite h (.performFirst h)) h

theorem Store.Canonical.request {s : State} {ep : EndpointId} {seq : Word} {i : Instr} (h : s.store.Canonical) :
    (s.request ep seq i).store.Canonical :=
  .ite (.ite h h) (.ite (.submitRequest h) h)

theorem Store.Canonical.lend {s : State} {giver ep : EndpointId} {pa len : Nat} (h : s.store.Canonical) :
    (s.lend giver ep pa len).store.Canonical :=
  .ite h h

theorem Store.Canonical.requestDue {s t : State} {i : Instr} (h : s.store.Canonical) (e : s.requestDue = some (i, t)) :
    t.store.Canonical := by
  unfold State.requestDue at e
  split at e
  · split at e
    · cases e
      exact h
    · cases e
  · cases e

theorem Store.Canonical.happens {s : State} {act : Act} (h : s.store.Canonical) : (s.happens act).store.Canonical := by
  cases act with
  | evict _ => exact .evictLine h
  | unitError _ _ => exact .unitError h
  | hbmError _ _ => exact .hbmError h
  | tagError _ _ _ => exact .tagError h
  | part _ _ _ => exact .part h
  | rowPart _ _ _ => exact .rowPart h
  | gafferError _ => exact .ite (.countError h) h
  | laneLimit _ => exact .ite h h
  | request _ _ _ => exact .request h
  | lend _ _ _ _ => exact .ite (.lend h) h
  | debugRead _ _ _ => exact .ite (.debugRead h) h
  | startLost => exact .startLost h
  | freeFrame _ _ => exact .ite h h
  | _ => exact h

theorem Store.Canonical.correctUpsets {s : State} {b : BankId} {e : Engine} (h : s.store.Canonical) :
    (s.correctUpsets b e).store.Canonical :=
  .foldl (.ite h h) .countError

theorem Store.Canonical.meetUpset {s : State} {b : BankId} {u : Engine × Word × Bool} {y : Entry} (h : s.store.Canonical) :
    (s.meetUpset b u y).store.Canonical :=
  .countError h

theorem Store.Canonical.raiseFailed {s t : State} {b : BankId} (h : s.store.Canonical) (e : s.raiseFailed b = some t) :
    t.store.Canonical := by
  unfold State.raiseFailed at e
  split at e
  · split at e
    · cases e
      exact h
    · cases e
  · cases e

theorem Store.Canonical.takeHead {s0 : State} {b : BankId} {e : Engine} (h : s0.store.Canonical) : (s0.takeHead b e).2.store.Canonical := by
  unfold State.takeHead
  extract_lets s x
  have hcorrected : s.store.Canonical := .ite (.correctUpsets h) h
  clear_value s
  split
  · exact hcorrected
  · split
    · exact hcorrected
    · split
      · exact hcorrected
      · split
        · exact .meetUpset hcorrected
        · split <;> exact hcorrected

theorem Store.Canonical.dispatchPlan {s : State} {b : BankId} {p : Plan} (h : s.store.Canonical) (e : s.dispatchPlan b = some p) :
    p.2.store.Canonical := by
  unfold State.dispatchPlan at e
  split at e
  · split at e
    · cases e
    · split at e
      · split at e
        · split at e
          · cases e
            exact (Store.Canonical.fetched h :)
          · cases e
            exact h
        all_goals
          cases e
          exact h
      · cases e
  · cases e

theorem Store.Canonical.slotPlan {s : State} {b : BankId} {k : Slot} {p : Plan} (h : s.store.Canonical) (e : s.slotPlan b k = some p) :
    p.2.store.Canonical := by
  have hhead {c : Bool} {g : Engine} (e : (if c then none else some (s.takeHead b g)) = some p) : p.2.store.Canonical := by
    split at e
    · cases e
    · cases e
      exact .takeHead h
  cases k with
  | dispatch => exact .dispatchPlan h e
  | S => exact hhead e
  | L => exact hhead e
  | C => exact hhead e
  | W => exact hhead e
  | events =>
    simp only [State.slotPlan] at e
    split at e
    · cases e
      exact .loadPart h
    · cases e
      exact .storePart h
    · obtain ⟨i, -, rfl⟩ := Option.map_eq_some_iff.mp e
      exact h

theorem Store.Canonical.bankPlan {s : State} {b : BankId} {ks : List Slot} (h : s.store.Canonical) :
    (s.bankPlan b ks).2.store.Canonical := by
  induction ks with
  | nil => exact h
  | cons k ks ih =>
    unfold State.bankPlan
    split
    next p hplan =>
      have hmoved : (s.modBank b fun x => { x with slot := k.next }).store.Canonical := h
      exact .slotPlan hmoved hplan
    · exact ih

theorem Store.Canonical.due {s t : State} {i : Instr} (h : s.store.Canonical) (e : s.due = some (i, t)) : t.store.Canonical := by
  have hhere {o : Option Instr} (e : (o.map fun i => (i, s)) = some (i, t)) : t.store.Canonical := by
    obtain ⟨_, -, hp⟩ := Option.map_eq_some_iff.mp e
    cases hp
    exact h
  have hwhen {c : Bool} {o : Option (Instr × State)} (ho : o = some (i, t) → t.store.Canonical)
      (e : (if c then o else none) = some (i, t)) : t.store.Canonical := by
    split at e
    · exact ho e
    · cases e
  unfold State.due at e
  dsimp only at e
  simp only [Option.or_eq_some_iff] at e
  rcases e with e | ⟨-, e | ⟨-, e | ⟨-, e | ⟨-, e⟩⟩⟩⟩
  · exact hwhen hhere e
  · exact hwhen hhere e
  · exact hwhen (.requestDue h) e
  · exact hwhen hhere e
  · exact hwhen hhere e

theorem Store.Canonical.corePlan {s : State} {c : CoreId} (h : s.store.Canonical) : (s.corePlan c).2.store.Canonical := by
  unfold State.corePlan
  split
  · exact h
  · split
    · split
      next t hfailed => exact .raiseFailed h hfailed
      · exact .bankPlan h
    · exact h

theorem Store.Canonical.devicePlan {s : State} (h : s.store.Canonical) : s.devicePlan.2.store.Canonical := by
  unfold State.devicePlan
  split
  · exact .madeLasting h
  next p _ hdue => exact .due h hdue
  · exact h

theorem Store.Canonical.ownPlan {s : State} (h : s.store.Canonical) : s.ownPlan.2.store.Canonical := by
  unfold State.ownPlan
  split
  · exact h
  next k _ =>
    extract_lets t
    have hturned : t.store.Canonical := h
    split
    · exact .corePlan hturned
    · exact .devicePlan hturned

theorem Store.Canonical.plan {s : State} (h : s.store.Canonical) : s.plan.2.store.Canonical := by
  have hticked : (s.tick s.pace).store.Canonical := h
  unfold State.plan
  split
  next u act rest _ =>
    split
    · extract_lets t
      have hpopped : t.store.Canonical := h
      split
      · exact hpopped
      · exact .takeHead hpopped
      · exact .happens hpopped
    · exact .ownPlan hticked
  · exact .ownPlan hticked

end Sys2Proof.Machine

/-! ### Canonical memory: every step keeps it -/

namespace Sys2Proof.Machine

open Sys2Proof

/-- Every meaning of `exec` keeps the canonical form: one case per event and word, each by the lemma about its meaning. -/

theorem exec_keeps {s : State} (i : Instr) (h : s.store.Canonical) : Keeps (exec i s) := by
  cases i with
  | nop _ => exact .next (.sWord h)
  | add _ => exact .next (.sResult h)
  | sub _ => exact .next (.sResult h)
  | mul _ => exact .next (.sResult h)
  | mulh _ => exact .next (.sResult h)
  | mulhu _ => exact .next (.sResult h)
  | div _ => exact .next (.sResult h)
  | divu _ => exact .next (.sResult h)
  | rem _ => exact .next (.sResult h)
  | remu _ => exact .next (.sResult h)
  | and _ => exact .next (.sResult h)
  | or _ => exact .next (.sResult h)
  | xor _ => exact .next (.sResult h)
  | sll _ => exact .next (.sResult h)
  | srl _ => exact .next (.sResult h)
  | sra _ => exact .next (.sResult h)
  | slt _ => exact .next (.sResult h)
  | sltu _ => exact .next (.sResult h)
  | min _ => exact .next (.sResult h)
  | max _ => exact .next (.sResult h)
  | addi _ => exact .next (.sResult h)
  | andi _ => exact .next (.sResult h)
  | ori _ => exact .next (.sResult h)
  | xori _ => exact .next (.sResult h)
  | slli _ => exact .next (.sResult h)
  | srli _ => exact .next (.sResult h)
  | srai _ => exact .next (.sResult h)
  | slti _ => exact .next (.sResult h)
  | li _ => exact .next (.sResult h)
  | lih _ => exact .next (.sResult h)
  | beq _ => exact .next (.branch h)
  | bne _ => exact .next (.branch h)
  | blt _ => exact .next (.branch h)
  | bge _ => exact .next (.branch h)
  | bltu _ => exact .next (.branch h)
  | bgeu _ => exact .next (.branch h)
  | jal _ => exact .next (.sControl h)
  | jalr _ => exact .next (.sControl h)
  | loopb _ => exact execLoopb_keeps h
  | endt _ => exact execEndt_keeps h
  | crd _ => exact execCrd_keeps h
  | cwr _ => exact .next (.cregWord h)
  | cset _ => exact .next (.cregWord h)
  | cclr _ => exact .next (.cregWord h)
  | trap _ => exact execTrap_keeps h
  | eret _ => exact execEret_keeps h
  | waitev _ => exact execWaitev_keeps h
  | xlate _ => exact execXlate_keeps h
  | hlocal _ => exact execHlocal_keeps h
  | hinv _ => exact execHinv_keeps h
  | hget _ => exact .next (.sResult h)
  | yset _ => exact .next (.sWord h)
  | yget _ => exact .next (.sResult h)
  | yclr _ => exact .next (.sWord h)
  | fpush _ => exact .next (.pushFormat h)
  | fpushi _ => exact .next (.pushFormat h)
  | pwracq _ => exact execPwracq_keeps h
  | pwrrel _ => exact execPwrrel_keeps h
  | slotwait _ => exact execSlotwait_keeps h
  | ctxq _ => exact execCtxq_keeps h
  | yield _ => exact execYield_keeps h
  | ldb _ => exact .next (.loadScalar h)
  | ldbu _ => exact .next (.loadScalar h)
  | ldh _ => exact .next (.loadScalar h)
  | ldhu _ => exact .next (.loadScalar h)
  | ldw _ => exact .next (.loadScalar h)
  | ldwu _ => exact .next (.loadScalar h)
  | ldd _ => exact .next (.loadScalar h)
  | vld _ => exact .next (.access h (fun ht => .readFor ht (fun ht => ht)))
  | vlds _ => exact .next (.access h (fun ht => .readFor ht .passedSeg))
  | vldb _ => exact .next (.access h (fun ht => .readFor ht (fun ht => ht)))
  | cpin _ => exact .next (.copyStep h)
  | cpgather _ => exact .next (.copyStep h)
  | semwait _ => exact .next (.syncWait h)
  | barwait _ => exact .next (.syncWait h)
  | wltake _ => exact execWltake_keeps h
  | vldl _ => exact .next (.localLoad h)
  | vstl _ => exact .next (.localStore h)
  | vldm _ => exact .next (.localLoad h)
  | vstm _ => exact .next (.localStore h)
  | vadd _ => exact .next (.vBin h)
  | vsub _ => exact .next (.vBin h)
  | vmul _ => exact .next (.vBin h)
  | vfma _ => exact .next (.vBin h)
  | vmin _ => exact .next (.vTri h)
  | vmax _ => exact .next (.vTri h)
  | vabs _ => exact .next (.vUn h)
  | vdiv _ => exact .next (.vBin h)
  | vrcp _ => exact .next (.vUn h)
  | vrsq _ => exact .next (.vUn h)
  | vexp2 _ => exact .next (.vUn h)
  | vlog2 _ => exact .next (.vUn h)
  | vsqrt _ => exact .next (.vUn h)
  | vcvt _ => exact .next (.vWord h)
  | vqnt _ => exact .next (.vWord h)
  | vdqnt _ => exact .next (.vWord h)
  | vcmp _ => exact .next (.pWord h)
  | vsel _ => exact .next (.vWord h)
  | vand _ => exact .next (.vBits h)
  | vor _ => exact .next (.vBits h)
  | vxor _ => exact .next (.vBits h)
  | vshl _ => exact .next (.vWord h)
  | vshr _ => exact .next (.vTri h)
  | vshra _ => exact .next (.vTri h)
  | vmov _ => exact .next (.vWord h)
  | vmovi _ => exact .next (.vWord h)
  | vfroms _ => exact .next (.vWord h)
  | vtos _ => exact execVtos_keeps h
  | vredadd _ => exact .next (.vRed h)
  | vredmax _ => exact .next (.vRed h)
  | vredmin _ => exact .next (.vRed h)
  | vargmax _ => exact .next (.vRed h)
  | vperm _ => exact .next (.vWord h)
  | vslide _ => exact .next (.vWord h)
  | vbcast _ => exact .next (.vWord h)
  | viota _ => exact .next (.vWord h)
  | pand _ => exact .next (.pBits h)
  | por _ => exact .next (.pBits h)
  | pxor _ => exact .next (.pBits h)
  | pnot _ => exact .next (.pWord h)
  | pset _ => exact .next (.pWord h)
  | rbset _ => exact .next (.cPlain h)
  | slack _ => exact .next (.cPlain h)
  | mma _ => exact .next (.mmaWord h)
  | mmat _ => exact .next (.mmaWord h)
  | aclr _ => exact execAclr_keeps h
  | ard _ => exact execArd_keeps h
  | awr _ => exact execAwr_keeps h
  | asts _ => exact execAsts_keeps h
  | stb _ => exact .next (.storeScalar h)
  | sth _ => exact .next (.storeScalar h)
  | stw _ => exact .next (.storeScalar h)
  | std _ => exact .next (.storeScalar h)
  | vst _ => exact .next (.access h (fun ht => .allocGate ht (fun ht => ht)))
  | vsts _ => exact .next (.access h (fun ht => .allocGate ht .passedSeg))
  | aadd _ => exact .next (.rmwWord h)
  | amin _ => exact .next (.rmwWord h)
  | amax _ => exact .next (.rmwWord h)
  | aand _ => exact .next (.rmwWord h)
  | aor _ => exact .next (.rmwWord h)
  | axor _ => exact .next (.rmwWord h)
  | aswap _ => exact .next (.rmwWord h)
  | acas _ => exact .next (.rmwWord h)
  | afadd _ => exact execAfadd_keeps h
  | semsig _ => exact .next (.rmwWord h)
  | bararv _ => exact .next (.rmwWord h)
  | cpout _ => exact .next (.copyStep h)
  | cpscatter _ => exact .next (.copyStep h)
  | discard _ => exact .next (.rangeWord h)
  | wback _ => exact .next (.rangeWord h)
  | pgrsv _ => exact .next (.pageAccess h (fun ht => .ite (.raiseMem ht) (.ite ht ht)))
  | pgrel _ => exact .next (.pageAccess h (fun ht => ht))
  | pgmig _ => exact execPgmig_keeps h
  | wlappend _ => exact .next (.groupAccess h (fun ht => .ite ht (Store.append_canonical _ _ _ _ ht)))
  | commit _ => exact execCommit_keeps h
  | retract _ => exact execRetract_keeps h
  | wordDispatch _ => exact execWordDispatch_keeps h
  | illegalWord _ _ => exact execIllegalWord_keeps h
  | fetchFault _ => exact execFetchFault_keeps h
  | handleLand _ => exact execHandleLand_keeps h
  | walkComplete _ => exact execWalkComplete_keeps h
  | invalidationRelease _ _ => exact execInvalidationRelease_keeps h
  | allocationAnswer _ => exact execAllocationAnswer_keeps h
  | lateFrameConversion _ => exact execLateFrameConversion_keeps h
  | remoteFill _ _ => exact execRemoteFill_keeps h
  | operationComplete _ _ => exact execOperationComplete_keeps h
  | fabricWaitPoll _ _ => exact .next h
  | patrolScrub _ => exact .next (.foldl (.senseUnit h) (fun ht => .ite ht (.senseCopy ht)))
  | copyRowIssue _ _ => exact execCopyRowIssue_keeps h
  | copyRowLand _ _ _ => exact .next (.landRow h)
  | cWriteLand _ => exact execCWriteLand_keeps h
  | lateLoadArrival _ => exact execLateLoadArrival_keeps h
  | slackExpiry _ => exact .next h
  | idleEngineCycle _ => exact .next (.ite (.idleCycle h) h)
  | rotateEntry _ => exact execRotateEntry_keeps h
  | kstepWrite _ => exact execKstepWrite_keeps h
  | drainComplete b =>
    rw [exec_drainComplete]
    exact execDrainComplete_keeps h
  | resume _ => exact .next (.answerCause h)
  | refresh _ => exact .next (.answerCause h)
  | answerEnd _ => exact .next (.answerCause h)
  | preemptionSaveEnd _ => exact execPreemptionSaveEnd_keeps h
  | restore _ => exact execRestore_keeps h
  | launch _ => exact execLaunch_keeps h
  | launchEligible _ _ => exact .next (.testLaunch h)
  | launchAgeing _ _ => exact execLaunchAgeing_keeps h
  | taskPlacement _ => exact execTaskPlacement_keeps h
  | placementThermalTimeout _ _ => exact execPlacementThermalTimeout_keeps h
  | launchRetire _ _ => exact execLaunchRetire_keeps h
  | chainFetch _ => exact execChainFetch_keeps h
  | shadowStart _ => exact execShadowStart_keeps h
  | fhintHoldExpiry _ _ => exact execFhintHoldExpiry_keeps h
  | gridConfigure _ _ => exact execGridConfigure_keeps h
  | gridStart _ => exact execGridStart_keeps h
  | gridStop _ => exact execGridStop_keeps h
  | convOpen _ _ => exact execConvOpen_keeps h
  | convClose _ => exact execConvClose_keeps h
  | slotBoundary _ _ => exact execSlotBoundary_keeps h
  | ingressGroup _ _ => exact execIngressGroup_keeps h
  | freqRequestTakeup _ => exact execFreqRequestTakeup_keeps h
  | railStep _ => exact execRailStep_keeps h
  | clockSwitchEnd _ => exact execClockSwitchEnd_keeps h
  | stallratioSample _ _ _ => exact .next (.retarget h)
  | budgetGrant _ => exact execBudgetGrant_keeps h
  | sensorRefresh _ _ =>
    rw [exec_sensorRefresh]
    exact execSensorRefresh_keeps h
  | marverRailWindow _ => exact .next h
  | undervoltHoldEnd _ => exact .next h
  | setPointRestore _ => exact .next h
  | flitRetransmit _ => exact .next h
  | laneShed _ => exact .next (.ite h h)
  | laneRestore _ => exact .next (.ite h h)
  | linkRetrained _ => exact .next h
  | fabricCompletionError _ _ _ => exact execFabricCompletionError_keeps h
  | timeMessage _ => exact .next h
  | timeSyncLoss => exact execTimeSyncLoss_keeps h
  | doorbell _ _ => exact execDoorbell_keeps h
  | queueSchedule => exact .next (.ite (.mapQueues h) h)
  | ringNop _ => exact execRingNop_keeps h
  | ringSignal _ => exact execRingSignal_keeps h
  | ringUnknownType _ => exact execRingUnknownType_keeps h
  | queueCreate _ _ => exact execQueueCreate_keeps h
  | queueReset _ => exact .next (.takeBells (.ite (.mapQueues (.modQueue h)) (.modQueue h)))
  | queueDestroy _ => exact .next (.takeBells h)
  | poolCreate _ _ _ => exact execPoolCreate_keeps h
  | poolSetLimit _ _ _ => exact execPoolSetLimit_keeps h
  | poolWithdraw _ _ => exact execPoolWithdraw_keeps h
  | pageTableChange _ _ _ _ => exact execPageTableChange_keeps h
  | setThermalLimits _ _ _ _ => exact .next h
  | setBudget _ _ => exact .next h
  | setTrafficFilter _ _ => exact execSetTrafficFilter_keeps h
  | halt _ => exact execHalt_keeps h
  | stopseq _ _ _ => exact .next h
  | brk _ _ => exact .next h
  | debugDisarm _ => exact .next h
  | debugStopMatch _ => exact execDebugStopMatch_keeps h
  | status _ => exact execStatus_keeps h
  | debugWrite _ _ => exact execDebugWrite_keeps h
  | errorWindowExpiry _ => exact .next h
  | deviceStart _ => exact execDeviceStart_keeps h
  | startWatchdog => exact execStartWatchdog_keeps h
  | writeImage _ => exact execWriteImage_keeps h
  | fullStart => exact execFullStart_keeps h
  | attest _ _ => exact execAttest_keeps h
  | commanderSignature _ _ => exact execCommanderSignature_keeps h
  | commanderRelease _ => exact .next h
  | waitevDeadline _ => exact execWaitevDeadline_keeps h
  | ctxqAnswer _ => exact execCtxqAnswer_keeps h
  | fabricEndpointAccess _ _ => exact execFabricEndpointAccess_keeps h
  | ringFetchFault _ => exact execRingFetchFault_keeps h
  | boardCapChange _ _ => exact execBoardCapChange_keeps h
  | marverRailStep _ => exact .next h
  | powerLoss => exact execPowerLoss_keeps

/-- Settles O55: what the schedule passes through keeps the canonical form (`Store.Canonical.plan`), and so does the meaning of what it
puts next (`exec_keeps`). -/
theorem memoryStaysCanonical : Obligations.MemoryStaysCanonical := by
  intro s t h e
  have hplan : s.plan.2.store.Canonical := .plan h
  unfold step at e
  split at e
  next i u hp =>
    rw [hp] at hplan
    exact exec_keeps i hplan t e
  next u hp =>
    rw [hp] at hplan
    cases e
    exact hplan

end Sys2Proof.Machine

/-! ### Where each stored error is poison (03 R85, R86): what stores keep, and what their merges find -/

namespace Sys2Proof.Machine

open Sys2Proof

/-- Each stored error is poison, no tag has an error, and the remote copies are correct: no read has anything to correct, to mark or to count. -/
structure Store.PoisonOnly (st : Store) : Prop where
  ecc : ∀ p ∈ st.ecc, p.2 = .poison
  hbmEcc : ∀ p ∈ st.hbmEcc, p.2 = .poison
  tagEcc : st.tagEcc = []
  remote : ∀ r ∈ st.remote, r.ecc = []

theorem Store.PoisonOnly.of_clean {st : Store} (h : st.clean = true) : st.PoisonOnly := by
  simp only [Store.clean, Bool.and_eq_true, List.isEmpty_iff, List.all_eq_true] at h
  obtain ⟨⟨⟨hecc, hhbm⟩, htag⟩, hremote⟩ := h
  exact ⟨by simp [hecc], by simp [hhbm], htag, hremote⟩

/-! #### Stores -/

theorem Store.PoisonOnly.fillLine {st : Store} (h : st.PoisonOnly) (line : Nat) : (st.fillLine line).PoisonOnly := by
  unfold Store.fillLine
  split
  · exact h
  · refine ⟨fun p hp => ?_, fun p hp => ?_, h.tagEcc, h.remote⟩
    · rcases List.mem_append.mp hp with hnew | hold
      · obtain ⟨u, -, rfl⟩ := List.mem_map.mp hnew
        rfl
      · exact h.ecc p hold
    · rcases List.mem_append.mp hp with hnew | hold
      · obtain ⟨u, -, rfl⟩ := List.mem_map.mp hnew
        rfl
      · exact h.hbmEcc p (List.mem_of_mem_filter hold)

theorem Store.PoisonOnly.setEcc_none {st : Store} (h : st.PoisonOnly) (u : Nat) : (st.setEcc u none).PoisonOnly :=
  ⟨fun p hp => h.ecc p (List.mem_of_mem_filter hp), h.hbmEcc, h.tagEcc, h.remote⟩

theorem Store.PoisonOnly.setEcc_poison {st : Store} (h : st.PoisonOnly) (u : Nat) : (st.setEcc u (some .poison)).PoisonOnly := by
  refine ⟨fun p hp => ?_, h.hbmEcc, h.tagEcc, h.remote⟩
  rcases List.mem_cons.mp hp with rfl | hold
  · rfl
  · exact h.ecc p (List.mem_of_mem_filter hold)

theorem Store.PoisonOnly.writeEcc {st : Store} (h : st.PoisonOnly) (l n u : Nat) : (st.writeEcc l n u).PoisonOnly := by
  have hbad : ({ st.setEcc u (some .poison) with latent := st.latent ++ [u] } : Store).PoisonOnly :=
    ⟨(h.setEcc_poison u).ecc, h.hbmEcc, h.tagEcc, h.remote⟩
  unfold Store.writeEcc
  split
  · exact h.setEcc_none u
  · split
    · exact hbad
    · exact hbad
    · exact h.setEcc_none u
    · exact h

theorem Store.PoisonOnly.writeBack {st : Store} (h : st.PoisonOnly) (lines : List Nat) : (st.writeBack lines).PoisonOnly := by
  unfold Store.writeBack
  simp only []
  split
  · exact h
  · refine ⟨h.ecc, fun p hp => ?_, h.tagEcc, h.remote⟩
    rcases List.mem_append.mp hp with hnew | hold
    · obtain ⟨u, -, rfl⟩ := List.mem_map.mp hnew
      rfl
    · exact h.hbmEcc p (List.mem_of_mem_filter hold)

theorem Store.PoisonOnly.evict {st : Store} (h : st.PoisonOnly) (line : Nat) : (st.evict line).PoisonOnly := by
  obtain ⟨hecc, hhbm, htag, hremote⟩ := h.writeBack [line]
  refine ⟨fun p hp => hecc p (List.mem_of_mem_filter hp), hhbm, ?_, hremote⟩
  unfold Store.evict
  simp only [htag, List.filter_nil]
  split <;> rfl

theorem RLine.update_ecc_nil {r : RLine} (h : r.ecc = []) (l : Nat) (bs : List Byte) : (r.update l bs).ecc = [] := by
  simp [RLine.update, h]

theorem Store.PoisonOnly.retest {st : Store} (h : st.PoisonOnly) (l n : Nat) : (st.retest l n).PoisonOnly :=
  ⟨h.ecc, h.hbmEcc, h.tagEcc, h.remote⟩

theorem Store.PoisonOnly.putAt {st : Store} (h : st.PoisonOnly) (d : Die) (l : Nat) (bs : List Byte) : (st.putAt d l bs).PoisonOnly := by
  have hfilled : (if st.hbmEcc.isEmpty then st else (linesOf l bs.length).foldl Store.fillLine st).PoisonOnly := by
    split
    · exact h
    · exact List.foldlRecOn _ _ h fun t ht x _ => ht.fillLine x
  have hwritten := List.foldlRecOn (unitsOf l bs.length) (fun st u => st.writeEcc l bs.length u) hfilled fun t ht u _ => ht.writeEcc l bs.length u
  have hupdated (r : RLine) (hr : r.ecc = []) : (if r.die = d then r.update l bs else r).ecc = [] := by
    split
    · exact RLine.update_ecc_nil hr l bs
    · exact hr
  unfold Store.putAt
  simp only []
  generalize (unitsOf l bs.length).foldl (fun (st : Store) u => st.writeEcc l bs.length u) _ = st1 at hwritten ⊢
  have hremote : ∀ r ∈ st1.remote.map (fun (r : RLine) => if r.die = d then r.update l bs else r), r.ecc = [] :=
    List.forall_mem_map.mpr fun r hr => hupdated r (hwritten.remote r hr)
  refine Store.PoisonOnly.retest ?_ l bs.length
  split
  · exact ⟨hwritten.ecc, hwritten.hbmEcc, hwritten.tagEcc, hremote⟩
  · exact List.foldlRecOn _ _ ⟨hwritten.ecc, hwritten.hbmEcc, hwritten.tagEcc, hremote⟩ fun t ht x _ => ht.evict x

theorem Store.PoisonOnly.put {st : Store} (h : st.PoisonOnly) (d : Die) (l : Nat) (bs : List Byte) : (st.put d l bs).PoisonOnly := by
  unfold Store.put
  simp only []
  split
  · exact h.putAt ..
  · refine List.foldlRecOn _ _ h fun t ht x _ => ?_
    split
    · exact ht.putAt ..
    · exact ht

theorem Store.PoisonOnly.perform {st : Store} (h : st.PoisonOnly) (d : Die) (p : Put) : (st.perform d p).PoisonOnly :=
  List.foldlRecOn _ _ h fun _ ht q _ => ht.put d q.1 q.2

/-! #### Merges -/

/-- What a merge may do where each stored error is poison: lines come from HBM into their L2 with the poison of their units, and nothing else
happens (03 R85). -/
def State.FillsTo (s t : State) : Prop :=
  (∃ e f, t = s.modStore fun st => { st with ecc := e, hbmEcc := f }) ∧ t.store.PoisonOnly

theorem State.FillsTo.refl {s : State} (h : s.store.PoisonOnly) : s.FillsTo s := ⟨⟨s.store.ecc, s.store.hbmEcc, rfl⟩, h⟩

theorem State.FillsTo.trans {s t u : State} (hst : s.FillsTo t) (htu : t.FillsTo u) : s.FillsTo u := by
  obtain ⟨⟨e, f, rfl⟩, -⟩ := hst
  obtain ⟨⟨e', f', rfl⟩, hu⟩ := htu
  exact ⟨⟨e', f', rfl⟩, hu⟩

theorem State.FillsTo.foldl {α : Type} {s t : State} {f : State → α → State} (h : s.FillsTo t)
    (hf : ∀ (u : State) x, u.store.PoisonOnly → u.FillsTo (f u x)) (xs : List α) : s.FillsTo (xs.foldl f t) :=
  List.foldlRecOn _ _ h fun u hu x _ => hu.trans (hf u x hu.2)

theorem State.senseHomeTag_poisonOnly {s : State} (h : s.store.PoisonOnly) (line : Nat) :
    s.senseHomeTagBy State.countError line = s := by
  rw [State.senseHomeTagBy, h.tagEcc]; rfl

theorem Store.PoisonOnly.hbmGroup {st : Store} (h : st.PoisonOnly) (g : Nat) : st.hbmGroup g = none := by
  rw [Store.hbmGroup, Option.map_eq_none_iff, List.find?_eq_none]
  intro p hp
  simp [h.hbmEcc p hp]

theorem State.senseHbm_poisonOnly {s : State} (h : s.store.PoisonOnly) (u : Nat) : s.FillsTo (s.senseHbm u) := by
  unfold State.senseHbm State.senseHbmBy
  split
  · exact .refl h
  · simp only [h.hbmGroup]
    rw [List.foldl_fixed' fun _ => rfl]
    refine ⟨⟨(s.store.fillLine (u / 16)).ecc, (s.store.fillLine (u / 16)).hbmEcc, ?_⟩, h.fillLine _⟩
    exact congrArg (fun st => { s with store := st }) (s.store.fillLine_frame _)

theorem State.senseUnit_poisonOnly {s : State} (h : s.store.PoisonOnly) (u : Nat) : s.FillsTo (s.senseUnit u) := by
  have hpoison (x : Ecc) (v : Nat) (hx : (s.store.ecc.find? fun p => p.1 == v).map (·.2) = some x) : x = .poison := by
    obtain ⟨p, hp, rfl⟩ := Option.map_eq_some_iff.mp hx
    exact h.ecc p (List.mem_of_find?_eq_some hp)
  unfold State.senseUnit State.senseUnitBy
  simp only [State.senseHomeTag_poisonOnly h]
  split
  next => exact State.senseHbm_poisonOnly h _
  next => exact .refl h
  next hx => cases hpoison _ _ hx
  next hx => cases hpoison _ _ hx

/-- A store's merge where each stored error is poison (03 R85, R89). -/
theorem State.senseMerge_poisonOnly {s : State} (h : s.store.PoisonOnly) (d : Die) (l n : Nat) : s.FillsTo (s.senseMerge d l n) := by
  have hlines (t : State) (x : Nat) (ht : t.store.PoisonOnly) :
      t.FillsTo ((t.senseHomeTagBy State.countError x).senseHbmBy State.countError (x * 16)) := by
    rw [State.senseHomeTag_poisonOnly ht]
    exact State.senseHbm_poisonOnly ht ..
  have hcopies (t : State) (u : Nat) (ht : t.store.PoisonOnly) :
      t.FillsTo (if (t.store.copyOf d (u / 16)).isSome then t.senseCopyBy State.countError d u else t) := by
    have hcopy : t.senseCopyBy State.countError d u = t := State.senseCopy_correct d u ht.tagEcc ht.remote
    rw [hcopy, ite_self]
    exact .refl ht
  unfold State.senseMerge State.senseMergeBy
  split
  · exact .refl h
  · simp only []
    split
    · exact .foldl (.foldl (.foldl (.refl h) hlines _) (fun _ u ht => State.senseUnit_poisonOnly ht u) _) hcopies _
    · exact .foldl (.foldl (.refl h) hlines _) (fun _ u ht => State.senseUnit_poisonOnly ht u) _

end Sys2Proof.Machine

/-! ### Completions (04 R97, R106; 07 R164, R167; 10 R235) -/

namespace Sys2Proof.Machine

open Sys2Proof

/-! #### Stores of an operation -/

theorem State.trafficStore_off {s : State} (h : s.filtersOff) (d : Die) (req : Die → Nat) (l n : Nat) : s.trafficStore d req l n = s := by
  simp only [State.trafficStore, h d, Bool.and_false, Bool.false_eq_true, if_false, s.traffic_off _ _ _ _ h]

theorem State.trafficPuts_off {s : State} (h : s.filtersOff) (b : BankId) (ps : List Put) : s.trafficPuts b ps = s := by
  have hput (p : Put) : p.left.foldl (fun (t : State) q => t.trafficStore (dieOf b) (reqOf b) q.1 q.2.length) s = s :=
    List.foldl_fixed' (fun q => State.trafficStore_off h _ _ q.1 q.2.length) _
  unfold State.trafficPuts
  exact List.foldl_fixed' hput ps

/-- The storage after the stores of an operation of die `d`. -/
def Store.performs (st : Store) (d : Die) (ps : List Put) : Store := ps.foldl (fun (st : Store) p => st.perform d p) st

theorem Store.performs_append (st : Store) (d : Die) (ps qs : List Put) : st.performs d (ps ++ qs) = (st.performs d ps).performs d qs :=
  List.foldl_append

theorem Store.put_epoch (st : Store) (d : Die) (l : Nat) (bs : List Byte) : (st.put d l bs).epoch = st.epoch := by
  unfold Store.put
  simp only []
  split
  · exact st.putAt_epoch ..
  · refine foldl_keeps Store.epoch (fun t x => ?_) _ st
    split
    · exact t.putAt_epoch ..
    · rfl

theorem Store.performs_epoch (st : Store) (d : Die) (ps : List Put) : (st.performs d ps).epoch = st.epoch :=
  foldl_keeps Store.epoch (fun t _ => foldl_keeps Store.epoch (fun u _ => u.put_epoch ..) _ t) ps st

theorem Store.PoisonOnly.performs {st : Store} (h : st.PoisonOnly) (d : Die) (ps : List Put) : (st.performs d ps).PoisonOnly :=
  List.foldlRecOn _ _ h fun _ ht p _ => ht.perform d p

/-- What decides where a store's bytes go, and the bytes: memory, the forwarding entries and the tags of unbacked lines. -/
def Store.bytesAndNames (st : Store) : Memory × List Forward × List (Nat × LineSt) := (st.mem, st.forwards, st.lines)

/-- Storages that agree in bytes and names agree in them after one store. -/
theorem Store.putAt_congr {st su : Store} (h : st.bytesAndNames = su.bytesAndNames) (d : Die) (l : Nat) (bs : List Byte) :
    (st.putAt d l bs).bytesAndNames = (su.putAt d l bs).bytesAndNames := by
  obtain ⟨hmem, hfwd, hlines⟩ : st.mem = su.mem ∧ st.forwards = su.forwards ∧ st.lines = su.lines := by
    simpa [Store.bytesAndNames] using h
  rw [Store.putAt_frame st, Store.putAt_frame su]
  simp only [Store.bytesAndNames, hmem, hfwd, hlines]

theorem Store.put_congr {st su : Store} (h : st.bytesAndNames = su.bytesAndNames) (d : Die) (l : Nat) (bs : List Byte) :
    (st.put d l bs).bytesAndNames = (su.put d l bs).bytesAndNames := by
  have hresolve : st.resolve l = su.resolve l := by
    unfold Store.resolve
    rw [show st.forwards = su.forwards from congrArg (fun q => q.2.1) h]
  have hline {t u : Store} (htu : t.bytesAndNames = u.bytesAndNames) (x : Nat) : t.lineSt x = u.lineSt x := by
    unfold Store.lineSt
    rw [show t.lines = u.lines from congrArg (fun q => q.2.2) htu]
  unfold Store.put
  simp only [hresolve, hline h]
  split
  · exact Store.putAt_congr h ..
  · refine List.foldl_rel (r := fun (t u : Store) => t.bytesAndNames = u.bytesAndNames) h fun x _ t u htu => ?_
    rw [hline htu]
    split
    · exact Store.putAt_congr htu ..
    · exact htu

theorem Store.performs_congr {st su : Store} (h : st.bytesAndNames = su.bytesAndNames) (d : Die) (ps : List Put) :
    (st.performs d ps).bytesAndNames = (su.performs d ps).bytesAndNames :=
  List.foldl_rel (r := fun (t u : Store) => t.bytesAndNames = u.bytesAndNames) h fun _ _ _ _ htu =>
    List.foldl_rel (r := fun (t u : Store) => t.bytesAndNames = u.bytesAndNames) htu fun _ _ _ _ hvw => Store.put_congr hvw ..

/-! #### The bank of an operation that completes -/

/-- A write to registers by a load changes scalar and vector registers only. -/
theorem Bank.regW_frame (b : Bank) (w : RegW) : b.regW w = { b with s := (b.regW w).s, v := (b.regW w).v, wroteV := (b.regW w).wroteV } := by
  cases w with
  | s r x => exact (b.setS_frame r x).trans (by rw [Bank.regW, Bank.setS_frame])
  | v r x rep => rfl
  | seg r k bs rep => rfl

/-- The bank's registers with the writes of some loads made. -/
def Bank.regWs (b : Bank) (ws : List RegW) : Bank := ws.foldl Bank.regW b

theorem Bank.regWs_streams (b : Bank) (ws : List RegW) : ((b.regWs ws).ops, (b.regWs ws).qdone) = (b.ops, b.qdone) :=
  foldl_keeps (fun b : Bank => (b.ops, b.qdone)) (fun c w => by rw [Bank.regW_frame]) ws b

/-- An operation completes in its bank: its registers are written, its stream counts, and it is gone (04 R97). -/
theorem Bank.complete_of_unspent (b : Bank) (o : Op) (h : o.spent = false) : b.complete o = { (b.regWs o.loads) with
    ops := b.ops.filter fun a => a.uid != o.uid, qdone := b.qdone.set o.stream.toNat (b.qdone.get o.stream.toFin + 1) o.stream.isLt
    tok := (b.complete o).tok, rsv := (b.complete o).rsv, reach := (b.complete o).reach } := by
  obtain ⟨hops, hqdone⟩ := Prod.mk.inj (b.regWs_streams o.loads)
  rw [Bank.regWs] at hops hqdone ⊢
  simp only [Bank.complete, h, Bool.false_eq_true, if_false]
  rw [Bank.pushTok_frame, Bank.countDone]
  simp only [hops, hqdone]

/-- The registers, the operations and the counts of completions of a bank. -/
def Bank.results (b : Bank) : Vector Word 32 × Vector Vec 64 × List Op × Vector (BitVec 16) 8 := (b.s, b.v, b.ops, b.qdone)

/-- The waits that a cut ends are those of the S head (17 R357). -/
theorem State.endWaits_results (s : State) (n : BankId) : ((s.endWaits n).bank n).results = (s.bank n).results := by
  have hbank : (s.endWaits n).bank n = { (s.bank n).endWaits with cutAt := s.time } := State.bank_modBank _ _ _
  rw [hbank, Bank.endWaits]
  split <;> rfl

/-- The test for a token deadlock leaves what completions leave in the bank, and the storage (07 R169). -/
theorem State.testDeadlock_results (s : State) (n : BankId) : ((s.testDeadlock n).bank n).results = (s.bank n).results := by
  unfold State.testDeadlock
  split
  · rw [State.endWaits_results, State.bank_modBank]; rfl
  · rfl

theorem State.testDeadlock_store (s : State) (n : BankId) : (s.testDeadlock n).store = s.store := by
  unfold State.testDeadlock
  split <;> rfl

end Sys2Proof.Machine

/-! ### What completes, polls and arrives (03 R79, R81; 04 R97, R106; 10 R235) -/

namespace Sys2Proof.Machine

open Sys2Proof

/-! #### The state after a completion -/

/-- An operation of a bank has completed, and the test for a token deadlock is made. -/
def State.completed (s : State) (n : BankId) (o : Op) : State := (s.complete n o).testDeadlock n

theorem State.completed_results {s : State} (hoff : s.filtersOff) (n : BankId) {o : Op} (hspent : o.spent = false) :
    ((s.completed n o).bank n).results = (((s.bank n).regWs o.loads).s, ((s.bank n).regWs o.loads).v,
      (s.bank n).ops.filter fun a => a.uid != o.uid,
      (s.bank n).qdone.set o.stream.toNat ((s.bank n).qdone.get o.stream.toFin + 1) o.stream.isLt) := by
  rw [State.completed, State.testDeadlock_results, State.complete, State.trafficPuts_off hoff, State.bank_modBank,
    Bank.complete_of_unspent _ o hspent]
  rfl

/-- An operation that has completed is gone (04 R97). -/
theorem State.completed_gone {s : State} (hoff : s.filtersOff) (n : BankId) {o : Op} (hspent : o.spent = false) :
    ∀ p ∈ ((s.completed n o).bank n).ops, p.uid ≠ o.uid := by
  have hops : ((s.completed n o).bank n).ops = _ := congrArg (fun q => q.2.2.1) (State.completed_results hoff n hspent)
  intro p hp
  rw [hops] at hp
  simpa using List.of_mem_filter hp

theorem State.mem_completed_ops {s : State} (hoff : s.filtersOff) {n : BankId} {o p : Op} (hspent : o.spent = false) (hp : p ∈ (s.bank n).ops)
    (hne : p.uid ≠ o.uid) : p ∈ ((s.completed n o).bank n).ops := by
  have hops : ((s.completed n o).bank n).ops = _ := congrArg (fun q => q.2.2.1) (State.completed_results hoff n hspent)
  rw [hops]
  exact List.mem_filter.mpr ⟨hp, by simpa using hne⟩

/-- Its stream counts (04 R97, R117). -/
theorem State.completed_qdone {s : State} (hoff : s.filtersOff) (n : BankId) {o : Op} (hspent : o.spent = false) :
    ((s.completed n o).bank n).qdone.get o.stream.toFin = (s.bank n).qdone.get o.stream.toFin + 1 := by
  have hqdone : ((s.completed n o).bank n).qdone = _ := congrArg (fun q => q.2.2.2) (State.completed_results hoff n hspent)
  rw [hqdone, vector_get_set]
  exact if_pos rfl

/-- The scalar register of its one write (07 R156, R164). -/
theorem State.completed_sreg {s : State} (hoff : s.filtersOff) (n : BankId) {o : Op} (hspent : o.spent = false) {r : BitVec 5} {x : Word}
    (hloads : o.loads = [.s r x]) : ((s.completed n o).bank n).sreg r = if r = 0 then 0 else x := by
  have hs : ((s.completed n o).bank n).s = ((s.bank n).setS r x).s :=
    (congrArg Prod.fst (State.completed_results hoff n hspent)).trans (by rw [hloads]; rfl)
  calc ((s.completed n o).bank n).sreg r = ((s.bank n).setS r x).sreg r := by rw [Bank.sreg, Bank.sreg, hs]
    _ = if r = 0 then 0 else x := by
      by_cases hr : r = 0
      · subst hr; rfl
      · rw [Bank.sreg_setS, if_pos ⟨rfl, hr⟩, if_neg hr]

/-- The vector register of its one write (07 R164). -/
theorem State.completed_vreg {s : State} (hoff : s.filtersOff) (n : BankId) {o : Op} (hspent : o.spent = false) {r : Fin 64} {x : Vec} {k : Nat}
    (hloads : o.loads = [.v r x k]) : ((s.completed n o).bank n).v.get r = x := by
  have hv : ((s.completed n o).bank n).v = (s.bank n).v.set r.val x r.isLt :=
    (congrArg (fun q => q.2.1) (State.completed_results hoff n hspent)).trans (by rw [hloads]; rfl)
  rw [hv, vector_get_set, if_pos rfl]

theorem Store.leaveArrival_mem (st : Store) (b : BankId) (uid : Nat) : (st.leaveArrival b uid).mem = st.mem := by rw [Store.leaveArrival_eq]

theorem Store.leaveArrival_epoch (st : Store) (b : BankId) (uid : Nat) : (st.leaveArrival b uid).epoch = st.epoch := by rw [Store.leaveArrival_eq]

theorem Store.advance_epoch (st : Store) (d e : Die) : (st.advance d).epoch.get e = st.epoch.get e + if e = d then 1 else 0 := by
  rw [Store.advance, vector_get_set]
  by_cases he : e = d
  · subst he; simp
  · rw [if_neg fun h => he (Fin.ext h.symm), if_neg he, Nat.add_zero]

/-- Its stores are performed, and the epoch of its die advances where it synchronises the device (03 R81; 04 R97). -/
theorem State.completed_store {s : State} (hoff : s.filtersOff) (n : BankId) (o : Op) :
    (s.completed n o).store.mem = (s.store.performs (dieOf n) o.puts).mem
      ∧ ∀ d, (s.completed n o).store.epoch.get d = s.store.epoch.get d
        + if d = dieOf n ∧ (o.scope.any fun k => decide (4 ≤ k)) = true then 1 else 0 := by
  have hperf : (o.puts.foldl (fun st p => st.perform (dieOf n) p) s.store) = s.store.performs (dieOf n) o.puts := rfl
  have hepoch := s.store.performs_epoch (dieOf n) o.puts
  rw [State.completed, State.testDeadlock_store, State.complete, State.trafficPuts_off hoff, State.modBank_store, hperf]
  generalize s.store.performs (dieOf n) o.puts = st at hepoch ⊢
  rw [← hepoch]
  simp only [Store.leaveArrival_mem, Store.leaveArrival_epoch]
  cases o.scope with
  | none => simp
  | some k =>
    by_cases hk : 4 ≤ k
    · exact ⟨by dsimp only; rw [if_pos hk]; rfl, fun d => by simp [hk, Store.advance_epoch]⟩
    · simp [hk]

/-! #### What an operation does as it completes -/

/-- The stores of an operation read what they merge with (03 R85, R89). -/
def State.merges (s : State) (d : Die) (ps : List Put) : State :=
  ps.foldl (fun (t : State) p => p.left.foldl (fun (t : State) q => t.senseMerge d q.1 q.2.length) t) s

theorem State.merges_clean {s : State} (h : s.store.clean = true) (d : Die) (ps : List Put) : s.merges d ps = s := by
  have hput (p : Put) : p.left.foldl (fun (t : State) q => t.senseMerge d q.1 q.2.length) s = s :=
    List.foldl_fixed' (fun q => s.senseMerge_clean d q.1 q.2.length h) _
  exact List.foldl_fixed' hput ps

theorem State.merges_poisonOnly {s : State} (h : s.store.PoisonOnly) (d : Die) (ps : List Put) : s.FillsTo (s.merges d ps) :=
  .foldl (.refl h) (fun _ _ ht => .foldl (.refl ht) (fun _ _ hu => State.senseMerge_poisonOnly hu ..) _) ps

/-- Nothing of an operation is left to perform but its stores: it was not left for its completion, has nothing to read, and has not completed
in a drain. -/
structure Op.OnlyStores (o : Op) : Prop where
  pend : o.pend = false
  late : o.ent.late = []
  spent : o.spent = false

/-- An operation with what it brings to its one scalar register. -/
def Op.brings (o : Op) (r : BitVec 5) (x : Word) : Op := { o with loads := [.s r x] }

theorem Op.OnlyStores.brings {o : Op} (h : o.OnlyStores) (r : BitVec 5) (x : Word) : (o.brings r x).OnlyStores := ⟨h.pend, h.late, h.spent⟩

/-- As such an operation is performed, its stores read what they merge with. -/
theorem State.perform_onlyStores (s : State) (n : BankId) {o : Op} (ho : o.OnlyStores) : s.perform n o = (s.merges (dieOf n) o.puts, o) := by
  unfold State.perform
  rw [if_neg (ne_true_of_eq_false ho.pend)]
  dsimp only
  rw [ho.late]
  rfl

theorem State.perform_clean {s : State} (h : s.store.clean = true) (n : BankId) {o : Op} (ho : o.OnlyStores) : s.perform n o = (s, o) := by
  rw [State.perform_onlyStores s n ho, State.merges_clean h]

/-- An atomic that was left for its completion is performed on its object (04 R96; 10 R232). -/
theorem State.perform_atomic {s : State} (h : s.store.clean = true) (n : BankId) {o : Op} {i : Instr} {j : AtomJob} (hpend : o.pend = true)
    (hwhat : o.ent.what = .word i) (hjob : atomJob i = some j) (hlate : o.ent.late = []) (hputs : o.puts = []) :
    s.perform n o = (s.modStore fun st => (st.rmw (dieOf n) j o.ent o.loc).1,
      { o with pend := false }.brings j.res (s.store.rmw (dieOf n) j o.ent o.loc).2) := by
  have hobject : s.performPend n { o with pend := false } = (s.modStore fun st => (st.rmw (dieOf n) j o.ent o.loc).1,
      { o with pend := false }.brings j.res (s.store.rmw (dieOf n) j o.ent o.loc).2) := by
    simp only [State.performPend, s.sense_clean _ _ h, Store.performObject, hwhat, hjob]
    rfl
  unfold State.perform
  rw [if_pos hpend, hobject, Op.brings]
  dsimp only
  rw [hlate, hputs]
  rfl

theorem State.slotHeld_of_not_pend (s : State) {o : Op} (h : o.pend = false) : s.slotHeld o = false := by
  rw [State.slotHeld, h]; rfl

/-- Only a COMMIT or a RETRACT waits at the lehr (16 R345). -/
theorem State.slotHeld_word {s : State} {o : Op} (h : s.slotHeld o = true) :
    ∃ a, o.ent.what = .word (.commit a) ∨ o.ent.what = .word (.retract a) := by
  simp only [State.slotHeld, Bool.and_eq_true] at h
  obtain ⟨⟨⟨-, hword⟩, -⟩, -⟩ := h
  split at hword
  next a hwhat => exact ⟨a, .inl hwhat⟩
  next a hwhat => exact ⟨a, .inr hwhat⟩
  next => cases hword

theorem State.slotHeld_atomic (s : State) {o : Op} {i : Instr} {j : AtomJob} (hwhat : o.ent.what = .word i) (hjob : atomJob i = some j) :
    s.slotHeld o = false := by
  refine Bool.eq_false_iff.mpr fun hheld => ?_
  obtain ⟨a, hslot | hslot⟩ := State.slotHeld_word hheld
  · cases hslot.symm.trans hwhat
    cases hjob
  · cases hslot.symm.trans hwhat
    cases hjob

/-! #### Predecessors in flight (04 R106) -/

theorem State.settleOp_absent {s : State} {n : BankId} {u : Nat} (h : ∀ q ∈ (s.bank n).ops, q.uid ≠ u) : State.settleOp n s u = s := by
  have hnone : ((s.bank n).ops.find? fun q => q.uid == u) = none := List.find?_eq_none.mpr fun q hq => by simpa using h q hq
  rw [State.settleOp, hnone]

theorem State.foldl_settleOp_absent {s : State} {n : BankId} {us : List Nat} (h : ∀ u ∈ us, ∀ q ∈ (s.bank n).ops, q.uid ≠ u) :
    us.foldl (State.settleOp n) s = s := by
  induction us with
  | nil => rfl
  | cons u us ih =>
    rw [List.foldl_cons, State.settleOp_absent (h u List.mem_cons_self)]
    exact ih fun v hv => h v (List.mem_cons_of_mem _ hv)

/-- An operation that pushes no token, or with no predecessor in flight, settles none. -/
theorem State.settlePreds_alone {s : State} {n : BankId} {o : Op} (h : o.push = 0 ∨ ∀ p ∈ (s.bank n).ops, p.uid ∉ o.ent.preds) :
    s.settlePreds n o = s := by
  rcases h with hpush | hpreds
  · exact s.settlePreds_none n o hpush
  · unfold State.settlePreds
    split
    · rfl
    · exact State.foldl_settleOp_absent fun u hu q hq e => hpreds q hq (e ▸ hu)
/-- The state in which an operation in flight is performed before it completes. -/
def State.settled (s : State) (n : BankId) (p : Op) : State :=
  (s.modStore fun st => st.performs (dieOf n) p.puts).modBank n fun b => { b with ops := b.ops.map fun (a : Op) =>
    if a.uid = p.uid then { p with puts := [], ent := { p.ent with late := [] } } else a }

theorem State.settleOp_plain {s : State} (hoff : s.filtersOff) (hclean : s.store.clean = true) {n : BankId} {p : Op}
    (hfind : ((s.bank n).ops.find? fun q => q.uid == p.uid) = some p) (hp : p.OnlyStores) (hwait : p.waiting = false)
    (hcopy : p.isCopy = false) : State.settleOp n s p.uid = s.settled n p := by
  have hgoes : ¬(p.waiting || p.isCopy || p.spent || s.slotHeld p) = true := by
    rw [hwait, hcopy, hp.spent, s.slotHeld_of_not_pend hp.pend]; exact Bool.false_ne_true
  rw [State.settleOp, hfind]
  dsimp only
  rw [if_neg hgoes, State.perform_clean hclean n hp]
  dsimp only
  rw [State.trafficPuts_off hoff]
  rfl

theorem State.settled_uids (s : State) (n : BankId) (p : Op) :
    ((s.settled n p).bank n).ops.map (·.uid) = (s.bank n).ops.map (·.uid) := by
  have huid (a : Op) : (if a.uid = p.uid then { p with puts := [], ent := { p.ent with late := [] } } else a : Op).uid = a.uid := by
    split
    next h => exact h.symm
    next => rfl
  rw [State.settled, State.bank_modBank, List.map_map]
  exact List.map_congr_left fun a _ => huid a

/-- One predecessor in flight, named once, is all that is settled (04 R106). -/
theorem State.foldl_settleOp_once {s : State} {n : BankId} {p : Op} (hp : State.settleOp n s p.uid = s.settled n p) {us : List Nat}
    (honce : (us.filter (· == p.uid)).length = 1) (hothers : ∀ u ∈ us, u ≠ p.uid → ∀ q ∈ (s.bank n).ops, q.uid ≠ u) :
    us.foldl (State.settleOp n) s = s.settled n p := by
  induction us with
  | nil => cases honce
  | cons u us ih =>
    have hrest : ∀ v ∈ us, v ≠ p.uid → ∀ q ∈ (s.bank n).ops, q.uid ≠ v := fun v hv => hothers v (List.mem_cons_of_mem _ hv)
    rw [List.foldl_cons]
    by_cases hu : u = p.uid
    · subst hu
      rw [List.filter_cons_of_pos (p := (· == p.uid)) (beq_self_eq_true p.uid), List.length_cons, Nat.add_eq_right, List.length_eq_zero_iff,
        List.filter_eq_nil_iff] at honce
      rw [hp]
      refine State.foldl_settleOp_absent fun v hv q hq hquid => ?_
      obtain ⟨a, ha, hauid⟩ := List.mem_map.mp (s.settled_uids n p ▸ List.mem_map_of_mem (f := Op.uid) hq)
      exact hrest v hv (fun h => honce v hv (beq_iff_eq.mpr h)) a ha (hauid.trans hquid)
    · rw [State.settleOp_absent (hothers u List.mem_cons_self hu)]
      rw [List.filter_cons_of_neg (p := (· == p.uid)) (by simpa using hu)] at honce
      exact ih honce hrest

/-- An operation among those of a bank, each with a number of its own, is the one that its number finds. -/
theorem find?_of_nodup_uids {ops : List Op} {p : Op} (hnodup : (ops.map (·.uid)).Nodup) (hp : p ∈ ops) :
    (ops.find? fun q => q.uid == p.uid) = some p := by
  obtain ⟨q, hq⟩ := Option.isSome_iff_exists.mp (List.find?_isSome (p := fun q : Op => q.uid == p.uid) |>.mpr ⟨p, hp, beq_self_eq_true p.uid⟩)
  have huid := List.find?_some hq
  rw [hq, List.inj_on_of_nodup_map hnodup (List.mem_of_find?_eq_some hq) hp (beq_iff_eq.mp huid)]

/-- An operation that pushes a token and has one predecessor in flight settles that one (04 R106). -/
theorem State.settlePreds_one {s : State} {n : BankId} {o p : Op} (hp : State.settleOp n s p.uid = s.settled n p) (hpush : o.push ≠ 0)
    (hspent : o.spent = false) (hpred : ((s.bank n).ops.filter fun q => o.ent.preds.contains q.uid) = [p])
    (honce : (o.ent.preds.filter (· == p.uid)).length = 1) : s.settlePreds n o = s.settled n p := by
  have hsettles : ¬(decide (o.push = 0) || o.spent) = true := by
    rw [hspent, Bool.or_false, decide_eq_true_eq]; exact hpush
  rw [State.settlePreds, if_neg hsettles]
  refine State.foldl_settleOp_once hp honce ?_
  rintro _ hu hup q hq rfl
  have hmem : q ∈ (s.bank n).ops.filter fun q => o.ent.preds.contains q.uid := List.mem_filter.mpr ⟨hq, List.contains_iff_mem.mpr hu⟩
  rw [hpred, List.mem_singleton] at hmem
  exact hup (congrArg Op.uid hmem)

/-! #### OPERATION_COMPLETE -/

/-- An operation that may write its registers completes, after what is ordered before its push (04 R97, R106). -/
theorem operationComplete_next {s : State} {n : BankId} {o o' : Op} (hfind : ((s.bank n).ops.find? fun p => p.uid == o.uid) = some o)
    (hready : s.store.ready n o = some o') (hmay : (s.bank n).mayWrite o' = true) (hheld : s.slotHeld o = false) :
    exec (.operationComplete n o.uid) s
      = .next (((s.settlePreds n o').perform n o').1.completed n ((s.settlePreds n o').perform n o').2) := by
  simp only [exec_operationComplete, execOperationComplete, hfind, hready, hmay, hheld]
  rfl

theorem Store.ready_of_not_waiting (st : Store) (n : BankId) {o : Op} (h : o.waiting = false) : st.ready n o = some o := by
  rw [Store.ready, h]; rfl

/-- With only its stores left and no predecessor to settle, it completes in the state as it stands. -/
theorem operationComplete_alone {s : State} {n : BankId} {o o' : Op} (hfind : ((s.bank n).ops.find? fun p => p.uid == o.uid) = some o)
    (hready : s.store.ready n o = some o') (hmay : (s.bank n).mayWrite o' = true) (hclean : s.store.clean = true) (ho : o.OnlyStores)
    (ho' : o'.OnlyStores) (halone : o'.push = 0 ∨ ∀ p ∈ (s.bank n).ops, p.uid ∉ o'.ent.preds) :
    exec (.operationComplete n o.uid) s = .next (s.completed n o') := by
  rw [operationComplete_next hfind hready hmay (s.slotHeld_of_not_pend ho.pend), State.settlePreds_alone halone,
    State.perform_clean hclean n ho']

/-- A waiting operation whose condition held brings the value of then (10 R235). -/
theorem Store.ready_met {st : Store} {n : BankId} {o : Op} {w : SyncWait} {v : Word} (hwait : o.waiting = true)
    (hfind : (st.waits.find? fun w => w.bank == n && w.uid == o.uid) = some w)
    (hmet : w.met = some v ∨ w.met = none ∧ w.unread = true ∧ w.holds st = some v) :
    st.ready n o = some (o.brings ((payloadUses o.ent.what).writes.getD 0 0) v) := by
  have hvalue : w.met.or (if w.unread then w.holds st else none) = some v := by
    rcases hmet with hmet | ⟨hmet, hunread, hholds⟩
    · rw [hmet, Option.some_or]
    · rw [hmet, Option.none_or, hunread, if_pos rfl, hholds]
  simp only [Store.ready, hwait, if_true, hfind, hvalue, Option.map_some, Op.brings]

/-- One whose condition has not held, and that has made its first read, waits on (10 R235). -/
theorem Store.ready_unmet {st : Store} {n : BankId} {o : Op} (hwait : o.waiting = true)
    (hunmet : ∀ w ∈ st.waits, w.bank = n → w.uid = o.uid → w.met = none ∧ w.unread = false) : st.ready n o = none := by
  simp only [Store.ready, hwait, if_true]
  split
  next w hfind =>
    have hkeys := List.find?_some hfind
    simp only [Bool.and_eq_true, beq_iff_eq] at hkeys
    obtain ⟨hmet, hunread⟩ := hunmet w (List.mem_of_find?_eq_some hfind) hkeys.1 hkeys.2
    simp [hmet, hunread]
  next => rfl

theorem operationComplete_waits {s : State} {n : BankId} {o : Op} (hfind : ((s.bank n).ops.find? fun p => p.uid == o.uid) = some o)
    (hready : s.store.ready n o = none) : exec (.operationComplete n o.uid) s = .next s := by
  simp only [exec_operationComplete, execOperationComplete, hfind, hready]

/-- 04 R106: as an operation completes that pushes a token, the one predecessor in flight has been performed: its stores come first, and it
stays in flight without them. -/
theorem operationComplete_pushes {s : State} {n : BankId} {o p : Op} (hfind : ((s.bank n).ops.find? fun q => q.uid == o.uid) = some o)
    (hoff : s.filtersOff) (hclean : s.store.clean = true) (ho : o.OnlyStores) (hwait : o.waiting = false) (hmay : (s.bank n).mayWrite o = true)
    (hsettled : s.settlePreds n o = s.settled n p) (hp : p ∈ (s.bank n).ops) (hne : p.uid ≠ o.uid) :
    ∃ t, exec (.operationComplete n o.uid) s = .next t ∧ (∀ q ∈ (t.bank n).ops, q.uid ≠ o.uid)
      ∧ (∃ q ∈ (t.bank n).ops, q.uid = p.uid ∧ q.puts = [] ∧ q.loads = p.loads)
      ∧ t.store.mem = (s.store.performs (dieOf n) (p.puts ++ o.puts)).mem := by
  have hpoison : (s.settled n p).store.PoisonOnly := (Store.PoisonOnly.of_clean hclean).performs _ _
  obtain ⟨⟨e, f, hmerged⟩, -⟩ := State.merges_poisonOnly hpoison (dieOf n) o.puts
  have hmoff : ((s.settled n p).merges (dieOf n) o.puts).filtersOff := by rw [hmerged]; exact hoff
  have hnames : ((s.settled n p).merges (dieOf n) o.puts).store.bytesAndNames = (s.store.performs (dieOf n) p.puts).bytesAndNames := by
    rw [hmerged]; rfl
  refine ⟨_, operationComplete_next hfind (Store.ready_of_not_waiting _ n hwait) hmay (s.slotHeld_of_not_pend ho.pend), ?_⟩
  rw [hsettled, State.perform_onlyStores _ n ho]
  refine ⟨State.completed_gone hmoff n ho.spent, ⟨{ p with puts := [], ent := { p.ent with late := [] } }, ?_, rfl, rfl, rfl⟩, ?_⟩
  · refine State.mem_completed_ops hmoff ho.spent ?_ hne
    rw [hmerged, State.bank_modStore, State.settled, State.bank_modBank]
    exact List.mem_map.mpr ⟨p, hp, if_pos rfl⟩
  · rw [(State.completed_store hmoff n o).1, Store.performs_append]
    exact congrArg Prod.fst (Store.performs_congr hnames (dieOf n) o.puts)

/-- 04 R96: an atomic that was left for its completion is performed on its object then, and brings the value of then. -/
theorem operationComplete_atomic {s : State} {n : BankId} {o : Op} {i : Instr} {j : AtomJob} {r : BitVec 5}
    (hfind : ((s.bank n).ops.find? fun p => p.uid == o.uid) = some o) (hoff : s.filtersOff) (hclean : s.store.clean = true)
    (hlate : o.ent.late = []) (hspent : o.spent = false) (hwait : o.waiting = false) (hpend : o.pend = true) (hwhat : o.ent.what = .word i)
    (hjob : atomJob i = some j) (hmay : (s.bank n).mayWrite o = true) (hres : r = j.res) (hputs : o.puts = [])
    (halone : o.push = 0 ∨ ∀ p ∈ (s.bank n).ops, p.uid ∉ o.ent.preds) :
    ∃ t, exec (.operationComplete n o.uid) s = .next t ∧ (∀ p ∈ (t.bank n).ops, p.uid ≠ o.uid)
      ∧ t.store.mem = (s.store.rmw (dieOf n) j o.ent o.loc).1.mem
      ∧ (t.bank n).sreg r = if r = 0 then 0 else (s.store.rmw (dieOf n) j o.ent o.loc).2 := by
  subst hres
  refine ⟨_, operationComplete_next hfind (Store.ready_of_not_waiting _ n hwait) hmay (s.slotHeld_atomic hwhat hjob), ?_⟩
  rw [State.settlePreds_alone halone, State.perform_atomic hclean n hpend hwhat hjob hlate hputs]
  generalize hq : { o with pend := false }.brings j.res (s.store.rmw (dieOf n) j o.ent o.loc).2 = q
  have hqspent : q.spent = false := hq ▸ hspent
  have hperf : (s.modStore fun st => (st.rmw (dieOf n) j o.ent o.loc).1).filtersOff := hoff
  have hqputs : q.puts = [] := hq ▸ hputs
  have hquid : q.uid = o.uid := hq ▸ rfl
  refine ⟨hquid ▸ State.completed_gone hperf n hqspent, ?_, State.completed_sreg hperf n hqspent (hq ▸ rfl)⟩
  · rw [(State.completed_store hperf n q).1, hqputs]; rfl

/-! #### REMOTE_FILL -/

theorem takeFirst_holds {α : Type} {p : α → Bool} {xs rest : List α} {x : α} (h : takeFirst p xs = some (x, rest)) : p x = true := by
  induction xs generalizing rest with
  | nil => cases h
  | cons z zs ih =>
    rw [takeFirst] at h
    split at h
    next hz => cases h; exact hz
    next =>
      obtain ⟨⟨y, ys⟩, hys, heq⟩ := Option.map_eq_some_iff.mp h
      cases heq
      exact ih hys

/-- A search is not changed by dropping members that it would not find. -/
theorem find?_filter_of_imp {α : Type} {p q : α → Bool} (h : ∀ x, q x = true → p x = true) (xs : List α) :
    (xs.filter p).find? q = xs.find? q := by
  rw [List.find?_filter]
  exact congrArg (fun r => xs.find? r) (funext fun x => Bool.eq_iff_iff.mpr (by simpa using h x))

/-- 03 R79, R81, 20 R416: a remote line that arrives is a copy, unless the epoch has advanced or its set is left out of use. -/
theorem remoteFill_arrives {s : State} {d : Die} {line : Nat} {r : RLine} {rest : List RLine} (hoff : s.filtersOff)
    (hfill : takeFirst (fun q => q.die == d && q.line == line) s.store.fills = some (r, rest)) :
    ∃ t, exec (.remoteFill d line) s = .next t ∧ t.store.fills = rest ∧ t.store.mem = s.store.mem
      ∧ t.store.copyOf d line = if r.epoch = s.store.epoch.get d ∧ s.store.out.contains (.remoteSet d (line / 16)) = false
          then some r else s.store.copyOf d line := by
  have hkeys := takeFirst_holds hfill
  simp only [exec_remoteFill, execRemoteFill, hfill, hoff d, Bool.false_eq_true, if_false]
  refine ⟨_, rfl, rfl, rfl, ?_⟩
  simp only [Store.copyOf, State.store_of_modStore]
  by_cases hout : s.store.out.contains (.remoteSet d (line / 16)) = true
  · rw [if_pos hout, if_neg fun h => Bool.false_ne_true (h.2.symm.trans hout)]
  · rw [if_neg hout]
    by_cases hepoch : r.epoch = s.store.epoch.get d
    · rw [if_pos hepoch, if_pos ⟨hepoch, Bool.eq_false_iff.mpr hout⟩]
      exact List.find?_cons_of_pos (by rw [hkeys, hepoch, beq_self_eq_true]; rfl)
    · rw [if_neg hepoch, if_neg fun h => hepoch h.1]
      exact find?_filter_of_imp (fun q hq => by simp [hepoch, beq_iff_eq.mp (Bool.and_eq_true_iff.mp hq).2]) _

/-- Settles O36, from what one operation's completion does, what it does where predecessors are in flight, and what a poll and a remote line
that arrives do. -/
theorem completionEvents : Obligations.CompletionEvents := by
  unfold Obligations.CompletionEvents
  intro s
  refine ⟨fun n o hfind hoff hclean hlate hspent => ⟨?alone, ?pushes, ?atomic, ?met, ?unmet⟩, ?poll, fun d line r rest => remoteFill_arrives⟩
  case alone =>
    intro hwait hpend hmay halone
    have ho : o.OnlyStores := ⟨hpend, hlate, hspent⟩
    obtain ⟨hmem, hepoch⟩ := State.completed_store hoff n o
    exact ⟨s.completed n o, operationComplete_alone hfind (Store.ready_of_not_waiting _ n hwait) hmay hclean ho ho halone,
      State.completed_gone hoff n hspent, hmem, State.completed_qdone hoff n hspent, fun r x => State.completed_sreg hoff n hspent,
      fun r x k => State.completed_vreg hoff n hspent, hepoch⟩
  case pushes =>
    intro p hwait hpend hmay hpush hnodup hpred hne honce hpwait hpcopy hpspent hppend hplate
    have hp : p ∈ (s.bank n).ops := List.mem_of_mem_filter (hpred ▸ List.mem_cons_self)
    have hsettle := State.settleOp_plain hoff hclean (find?_of_nodup_uids hnodup hp) ⟨hppend, hplate, hpspent⟩ hpwait hpcopy
    have hsettled := State.settlePreds_one hsettle hpush hspent hpred honce
    exact operationComplete_pushes hfind hoff hclean ⟨hpend, hlate, hspent⟩ hwait hmay hsettled hp hne
  case atomic =>
    intro i j r _ hwait hpend hwhat hjob hmay _ hres hputs halone
    exact operationComplete_atomic hfind hoff hclean hlate hspent hwait hpend hwhat hjob hmay hres hputs halone
  case met =>
    intro w v hwait hw hmet hpend r hfirst halone
    have ho : o.OnlyStores := ⟨hpend, hlate, hspent⟩
    have hmay : (s.bank n).mayWrite (o.brings r v) = true := by simpa [Bank.mayWrite, Op.brings] using hfirst
    exact ⟨_, operationComplete_alone hfind (Store.ready_met hwait hw hmet) hmay hclean ho (ho.brings r v) halone,
      State.completed_gone hoff n (o := o.brings r v) hspent, State.completed_sreg hoff n (o := o.brings r v) hspent rfl⟩
  case unmet => exact fun hwait hunmet => operationComplete_waits hfind (Store.ready_unmet hwait hunmet)
  case poll =>
    intro n uid
    refine ⟨_, exec_fabricWaitPoll n uid s, fun w hw hbank huid hmet hregion => ?_⟩
    exact List.mem_map.mpr ⟨w, hw, if_pos ⟨hbank, huid, hmet, hregion⟩⟩

end Sys2Proof.Machine

/-! ### The decoder and the encoder (07 R153, R158, R161) -/

namespace Sys2Proof

/-! #### Formats: what a format reads from a word, it lays out again (07 Tables 7.2-7.4) -/

/-- The bits of the format fields `f` from bit `s` on are `x`. -/
def FieldAt (f : BitVec 35) (s : Nat) {k : Nat} (x : BitVec k) : Prop := f.extractLsb' s k = x

@[simp] theorem fieldAt_extract (f : BitVec 35) (s k : Nat) : FieldAt f s (f.extractLsb' s k) := rfl

/-- Zero stands where the check of a zero field finds it (07 R161). -/
@[simp] theorem fieldAt_zero (f : BitVec 35) (s k : Nat) : FieldAt f s (0#k) ↔ f.extractLsb' s k = 0#k := Iff.rfl

@[simp] theorem fieldAt_bits_ofBits (f : BitVec 35) (s : Nat) : FieldAt f s (VTy.ofBits (f.extractLsb' s 3)).bits :=
  (VTy.bits_ofBits _).symm

theorem bit_beq_one (x : BitVec 1) : bit (x == 1#1) = x := by
  revert x; decide

@[simp] theorem fieldAt_bit (f : BitVec 35) (s : Nat) : FieldAt f s (bit (f.extractLsb' s 1 == 1#1)) := (bit_beq_one _).symm

@[simp] theorem fieldAt_ordOf_stream (f : BitVec 35) : FieldAt f 32 (ordOf f).stream := rfl

@[simp] theorem fieldAt_ordOf_mask (f : BitVec 35) : FieldAt f 24 (ordOf f).mask := rfl

/-- Two neighbouring fields stand where each of them stands. -/
@[simp] theorem fieldAt_append {f : BitVec 35} {s k l : Nat} (x : BitVec k) (y : BitVec l) :
    FieldAt f s (no_index (x ++ y)) ↔ FieldAt f (s + l) x ∧ FieldAt f s y := by
  simp only [FieldAt, ← extract_join s k l f]
  constructor
  · intro h
    have hx := congrArg (BitVec.extractLsb' l k) h
    have hy := congrArg (BitVec.extractLsb' 0 l) h
    rw [extract_append_hi _ _ _ _ (Nat.le_refl l), extract_append_hi _ _ _ _ (Nat.le_refl l), Nat.sub_self, extract_whole, extract_whole] at hx
    rw [extract_append_lo _ _ _ _ (by omega), extract_append_lo _ _ _ _ (by omega), extract_whole, extract_whole] at hy
    exact ⟨hx, hy⟩
  · rintro ⟨rfl, rfl⟩; rfl

/-- A format is faithful: what it lays out it reads back, and what it reads with its zero fields zero and its raw fields in range has the
sync fields and the bits that were read. -/
structure Faithful {α : Type} (rd : Sync → BitVec 35 → Parsed α) (sync : α → Sync) (bits : α → BitVec 35) : Prop where
  read : ∀ a, rd (sync a) (bits a) = { val := a, zero := true, range := true }
  sync_read : ∀ sy f, sync (rd sy f).val = sy
  bits_read : ∀ sy f, (rd sy f).zero = true → (rd sy f).range = true → bits (rd sy f).val = f

/-- A format is faithful that reads back what it lays out and each of whose fields stands where it was read. -/
theorem Faithful.of_fields {α : Type} {rd : Sync → BitVec 35 → Parsed α} {sync : α → Sync} {bits : α → BitVec 35}
    (hr : ∀ a, rd (sync a) (bits a) = { val := a, zero := true, range := true }) (hs : ∀ sy f, sync (rd sy f).val = sy)
    (hb : ∀ sy f, (rd sy f).zero = true → (rd sy f).range = true → FieldAt f 0 (bits (rd sy f).val)) : Faithful rd sync bits :=
  ⟨hr, hs, fun sy f hz hg => (hb sy f hz hg).symm.trans (extract_whole f)⟩

theorem S0.faithful : Faithful S0.read S0.sy S0.bits :=
  .of_fields S0.read_bits (fun _ _ => rfl) fun sy f => by simp +contextual [S0.read, S0.bits]

theorem SRrr.faithful : Faithful SRrr.read SRrr.sy SRrr.bits :=
  .of_fields SRrr.read_bits (fun _ _ => rfl) fun sy f => by simp +contextual [SRrr.read, SRrr.bits]

theorem SRr.faithful : Faithful SRr.read SRr.sy SRr.bits :=
  .of_fields SRr.read_bits (fun _ _ => rfl) fun sy f => by simp +contextual [SRr.read, SRr.bits]

theorem SRa.faithful : Faithful SRa.read SRa.sy SRa.bits :=
  .of_fields SRa.read_bits (fun _ _ => rfl) fun sy f => by simp +contextual [SRa.read, SRa.bits]

theorem SImm.faithful : Faithful SImm.read SImm.sy SImm.bits :=
  .of_fields SImm.read_bits (fun _ _ => rfl) fun sy f => by simp +contextual [SImm.read, SImm.bits]

theorem SShift.faithful : Faithful SShift.read SShift.sy SShift.bits :=
  .of_fields SShift.read_bits (fun _ _ => rfl) fun sy f => by simp +contextual [SShift.read, SShift.bits]

theorem SLi.faithful : Faithful SLi.read SLi.sy SLi.bits :=
  .of_fields SLi.read_bits (fun _ _ => rfl) fun sy f => by simp +contextual [SLi.read, SLi.bits]

theorem SBr.faithful : Faithful SBr.read SBr.sy SBr.bits :=
  .of_fields SBr.read_bits (fun _ _ => rfl) fun sy f => by simp +contextual [SBr.read, SBr.bits]

theorem SJal.faithful : Faithful SJal.read SJal.sy SJal.bits :=
  .of_fields SJal.read_bits (fun _ _ => rfl) fun sy f => by simp +contextual [SJal.read, SJal.bits]

theorem SLoop.faithful : Faithful SLoop.read SLoop.sy SLoop.bits :=
  .of_fields SLoop.read_bits (fun _ _ => rfl) fun sy f => by simp +contextual [SLoop.read, SLoop.bits]

theorem SCrd.faithful : Faithful SCrd.read SCrd.sy SCrd.bits :=
  .of_fields SCrd.read_bits (fun _ _ => rfl) fun sy f => by simp +contextual [SCrd.read, SCrd.bits]

theorem SCwr.faithful : Faithful SCwr.read SCwr.sy SCwr.bits :=
  .of_fields SCwr.read_bits (fun _ _ => rfl) fun sy f => by simp +contextual [SCwr.read, SCwr.bits]

theorem STrap.faithful : Faithful STrap.read STrap.sy STrap.bits :=
  .of_fields STrap.read_bits (fun _ _ => rfl) fun sy f => by simp +contextual [STrap.read, STrap.bits]

theorem SWait.faithful : Faithful SWait.read SWait.sy SWait.bits :=
  .of_fields SWait.read_bits (fun _ _ => rfl) fun sy f => by simp +contextual [SWait.read, SWait.bits]

theorem SXlate.faithful : Faithful SXlate.read SXlate.sy SXlate.bits :=
  .of_fields SXlate.read_bits (fun _ _ => rfl) fun sy f => by simp +contextual [SXlate.read, SXlate.bits]

theorem SHlocal.faithful : Faithful SHlocal.read SHlocal.sy SHlocal.bits :=
  .of_fields SHlocal.read_bits (fun _ _ => rfl) fun sy f => by simp +contextual [SHlocal.read, SHlocal.bits]

theorem SHinv.faithful : Faithful SHinv.read SHinv.sy SHinv.bits :=
  .of_fields SHinv.read_bits (fun _ _ => rfl) fun sy f => by simp +contextual [SHinv.read, SHinv.bits]

theorem SHget.faithful : Faithful SHget.read SHget.sy SHget.bits :=
  .of_fields SHget.read_bits (fun _ _ => rfl) fun sy f => by simp +contextual [SHget.read, SHget.bits]

theorem SYfield.faithful : Faithful SYfield.read SYfield.sy SYfield.bits :=
  .of_fields SYfield.read_bits (fun _ _ => rfl) fun sy f => by simp +contextual [SYfield.read, SYfield.bits]

theorem SYclr.faithful : Faithful SYclr.read SYclr.sy SYclr.bits :=
  .of_fields SYclr.read_bits (fun _ _ => rfl) fun sy f => by simp +contextual [SYclr.read, SYclr.bits]

theorem SFpushi.faithful : Faithful SFpushi.read SFpushi.sy SFpushi.bits :=
  .of_fields SFpushi.read_bits (fun _ _ => rfl) fun sy f => by simp +contextual [SFpushi.read, SFpushi.bits]

theorem MemS.faithful : Faithful MemS.read MemS.sy MemS.bits :=
  .of_fields MemS.read_bits (fun _ _ => rfl) fun sy f => by simp +contextual [MemS.read, MemS.bits]

theorem MemV.faithful : Faithful MemV.read MemV.sy MemV.bits :=
  .of_fields MemV.read_bits (fun _ _ => rfl) fun sy f => by simp +contextual [MemV.read, MemV.bits]

theorem Atom.faithful : Faithful Atom.read Atom.sy Atom.bits :=
  .of_fields Atom.read_bits (fun _ _ => rfl) fun sy f => by simp +contextual [Atom.read, Atom.bits]

theorem AtomN.faithful : Faithful AtomN.read AtomN.sy AtomN.bits :=
  .of_fields AtomN.read_bits (fun _ _ => rfl) fun sy f => by simp +contextual [AtomN.read, AtomN.bits]

theorem PageR.faithful : Faithful PageR.read PageR.sy PageR.bits :=
  .of_fields PageR.read_bits (fun _ _ => rfl) fun sy f => by simp +contextual [PageR.read, PageR.bits]

theorem PageP.faithful : Faithful PageP.read PageP.sy PageP.bits :=
  .of_fields PageP.read_bits (fun _ _ => rfl) fun sy f => by simp +contextual [PageP.read, PageP.bits]

theorem SlotOp.faithful : Faithful SlotOp.read SlotOp.sy SlotOp.bits :=
  .of_fields SlotOp.read_bits (fun _ _ => rfl) fun sy f => by simp +contextual [SlotOp.read, SlotOp.bits]

theorem CopyW.faithful : Faithful CopyW.read CopyW.sy CopyW.bits :=
  .of_fields CopyW.read_bits (fun _ _ => rfl) fun sy f => by simp +contextual [CopyW.read, CopyW.bits]

theorem GatherW.faithful : Faithful GatherW.read GatherW.sy GatherW.bits :=
  .of_fields GatherW.read_bits (fun _ _ => rfl) fun sy f => by simp +contextual [GatherW.read, GatherW.bits]

theorem CLocal.faithful : Faithful CLocal.read CLocal.sy CLocal.bits :=
  .of_fields CLocal.read_bits (fun _ _ => rfl) fun sy f => by simp +contextual [CLocal.read, CLocal.bits]

theorem CBin.faithful : Faithful CBin.read CBin.sy CBin.bits :=
  .of_fields CBin.read_bits (fun _ _ => rfl) fun sy f => by simp +contextual [CBin.read, CBin.bits]

theorem CUn.faithful : Faithful CUn.read CUn.sy CUn.bits :=
  .of_fields CUn.read_bits (fun _ _ => rfl) fun sy f => by simp +contextual [CUn.read, CUn.bits]

theorem CCvt.faithful : Faithful CCvt.read CCvt.sy CCvt.bits :=
  .of_fields CCvt.read_bits (fun _ _ => rfl) fun sy f => by simp +contextual [CCvt.read, CCvt.bits]

theorem CQnt.faithful : Faithful CQnt.read CQnt.sy CQnt.bits :=
  .of_fields CQnt.read_bits (fun _ _ => rfl) fun sy f => by simp +contextual [CQnt.read, CQnt.bits]

theorem CDqnt.faithful : Faithful CDqnt.read CDqnt.sy CDqnt.bits :=
  .of_fields CDqnt.read_bits (fun _ _ => rfl) fun sy f => by simp +contextual [CDqnt.read, CDqnt.bits]

theorem CCmp.faithful : Faithful CCmp.read CCmp.sy CCmp.bits :=
  .of_fields CCmp.read_bits (fun _ _ => rfl) fun sy f => by simp +contextual [CCmp.read, CCmp.bits]

theorem CTri.faithful : Faithful CTri.read CTri.sy CTri.bits :=
  .of_fields CTri.read_bits (fun _ _ => rfl) fun sy f => by simp +contextual [CTri.read, CTri.bits]

theorem CMov.faithful : Faithful CMov.read CMov.sy CMov.bits :=
  .of_fields CMov.read_bits (fun _ _ => rfl) fun sy f => by simp +contextual [CMov.read, CMov.bits]

theorem CMovi.faithful : Faithful CMovi.read CMovi.sy CMovi.bits :=
  .of_fields CMovi.read_bits (fun _ _ => rfl) fun sy f => by simp +contextual [CMovi.read, CMovi.bits]

theorem CFroms.faithful : Faithful CFroms.read CFroms.sy CFroms.bits :=
  .of_fields CFroms.read_bits (fun _ _ => rfl) fun sy f => by simp +contextual [CFroms.read, CFroms.bits]

theorem CTos.faithful : Faithful CTos.read CTos.sy CTos.bits :=
  .of_fields CTos.read_bits (fun _ _ => rfl) fun sy f => by simp +contextual [CTos.read, CTos.bits]

theorem CSlide.faithful : Faithful CSlide.read CSlide.sy CSlide.bits :=
  .of_fields CSlide.read_bits (fun _ _ => rfl) fun sy f => by simp +contextual [CSlide.read, CSlide.bits]

theorem CIota.faithful : Faithful CIota.read CIota.sy CIota.bits :=
  .of_fields CIota.read_bits (fun _ _ => rfl) fun sy f => by simp +contextual [CIota.read, CIota.bits]

theorem PBin.faithful : Faithful PBin.read PBin.sy PBin.bits :=
  .of_fields PBin.read_bits (fun _ _ => rfl) fun sy f => by simp +contextual [PBin.read, PBin.bits]

theorem PUn.faithful : Faithful PUn.read PUn.sy PUn.bits :=
  .of_fields PUn.read_bits (fun _ _ => rfl) fun sy f => by simp +contextual [PUn.read, PUn.bits]

theorem PSetW.faithful : Faithful PSetW.read PSetW.sy PSetW.bits :=
  .of_fields PSetW.read_bits (fun _ _ => rfl) fun sy f => by simp +contextual [PSetW.read, PSetW.bits]

theorem Rbset.faithful : Faithful Rbset.read Rbset.sy Rbset.bits :=
  .of_fields Rbset.read_bits (fun _ _ => rfl) fun sy f => by simp +contextual [-BitVec.reduceAppend, Rbset.read, Rbset.bits]

theorem SlackW.faithful : Faithful SlackW.read SlackW.sy SlackW.bits :=
  .of_fields SlackW.read_bits (fun _ _ => rfl) fun sy f => by simp +contextual [-BitVec.reduceAppend, SlackW.read, SlackW.bits]

theorem MmaW.faithful : Faithful MmaW.read MmaW.sy MmaW.bits :=
  .of_fields MmaW.read_bits (fun _ _ => rfl) fun sy f => by simp +contextual [MmaW.read, MmaW.bits]

theorem AclrW.faithful : Faithful AclrW.read AclrW.sy AclrW.bits :=
  .of_fields AclrW.read_bits (fun _ _ => rfl) fun sy f => by simp +contextual [AclrW.read, AclrW.bits]

theorem ArdW.faithful : Faithful ArdW.read ArdW.sy ArdW.bits :=
  .of_fields ArdW.read_bits (fun _ _ => rfl) fun sy f => by simp +contextual [ArdW.read, ArdW.bits]

theorem AwrW.faithful : Faithful AwrW.read AwrW.sy AwrW.bits :=
  .of_fields AwrW.read_bits (fun _ _ => rfl) fun sy f => by simp +contextual [AwrW.read, AwrW.bits]

theorem AstsW.faithful : Faithful AstsW.read AstsW.sy AstsW.bits :=
  .of_fields AstsW.read_bits (fun _ _ => rfl) fun sy f => by simp +contextual [AstsW.read, AstsW.bits]

/-! #### The opcode maps: each cell reads the words of its class and opcode (07 Tables 7.5-7.8) -/

/-- The cells of an opcode map of class `e` from opcode `n` on: each reads instructions of its own opcode whose fields are those read. -/
inductive TableReads (e : Engine) : Nat → List (Option Row) → Prop
  | nil {n : Nat} : TableReads e n []
  | hole {n : Nat} {cs : List (Option Row)} : TableReads e (n + 1) cs → TableReads e n (none :: cs)
  | reader {n : Nat} {r : Row} {cs : List (Option Row)} :
      (∀ sy f, (r sy f).zero = true → (r sy f).range = true → (r sy f).val.parts = some (e, BitVec.ofNat 6 n, sy, f)) →
      TableReads e (n + 1) cs → TableReads e n (some r :: cs)

/-- The cell of an instruction with a faithful format. -/
theorem TableReads.cell {α : Type} {rd : Sync → BitVec 35 → Parsed α} {sync : α → Sync} {bits : α → BitVec 35} {e : Engine} {n : Nat}
    {mk : α → Instr} {cs : List (Option Row)} (h : Faithful rd sync bits) (t : TableReads e (n + 1) cs)
    (hp : ∀ a, (mk a).parts = some (e, BitVec.ofNat 6 n, sync a, bits a) := by intro a; rfl) : TableReads e n (row mk rd :: cs) :=
  .reader (fun sy f hz hg => by rw [hp, h.sync_read, h.bits_read sy f hz hg]) t

theorem TableReads.append {e : Engine} {n : Nat} {xs ys : List (Option Row)} (hx : TableReads e n xs)
    (hy : TableReads e (n + xs.length) ys) : TableReads e n (xs ++ ys) := by
  induction hx with
  | nil => exact hy
  | hole _ ih => exact .hole (ih (by rwa [List.length_cons, Nat.add_comm _ 1, ← Nat.add_assoc] at hy))
  | reader h _ ih => exact .reader h (ih (by rwa [List.length_cons, Nat.add_comm _ 1, ← Nat.add_assoc] at hy))

/-- What the cell at a place of the map reads. -/
theorem TableReads.parts_getElem {e : Engine} {n k : Nat} {cs : List (Option Row)} {r : Row} (h : TableReads e n cs)
    (hk : cs[k]? = some (some r)) {sy : Sync} {f : BitVec 35} (hz : (r sy f).zero = true) (hg : (r sy f).range = true) :
    (r sy f).val.parts = some (e, BitVec.ofNat 6 (n + k), sy, f) := by
  induction h generalizing k with
  | nil => simp at hk
  | hole _ ih =>
    cases k with
    | zero => simp at hk
    | succ k => rw [ih hk, Nat.add_right_comm, Nat.add_assoc]
  | reader hr _ ih =>
    cases k with
    | zero => cases hk; exact hr sy f hz hg
    | succ k => rw [ih hk, Nat.add_right_comm, Nat.add_assoc]

theorem opRowS0_reads : TableReads .S 0 opRowS0 :=
  .cell S0.faithful <| .cell SRrr.faithful <| .cell SRrr.faithful <| .cell SRrr.faithful <|
    .cell SRrr.faithful <| .cell SRrr.faithful <| .cell SRrr.faithful <| .cell SRrr.faithful <| .nil

theorem opRowS1_reads : TableReads .S 8 opRowS1 :=
  .cell SRrr.faithful <| .cell SRrr.faithful <| .cell SRrr.faithful <| .cell SRrr.faithful <|
    .cell SRrr.faithful <| .cell SRrr.faithful <| .cell SRrr.faithful <| .cell SRrr.faithful <| .nil

theorem opRowS2_reads : TableReads .S 16 opRowS2 :=
  .cell SRrr.faithful <| .cell SRrr.faithful <| .cell SRrr.faithful <| .cell SRrr.faithful <|
    .cell SImm.faithful <| .cell SImm.faithful <| .cell SImm.faithful <| .cell SImm.faithful <| .nil

theorem opRowS3_reads : TableReads .S 24 opRowS3 :=
  .cell SShift.faithful <| .cell SShift.faithful <| .cell SShift.faithful <| .cell SImm.faithful <|
    .cell SLi.faithful <| .cell SLi.faithful <| .cell SBr.faithful <| .cell SBr.faithful <| .nil

theorem opRowS4_reads : TableReads .S 32 opRowS4 :=
  .cell SBr.faithful <| .cell SBr.faithful <| .cell SBr.faithful <| .cell SBr.faithful <|
    .cell SJal.faithful <| .cell SImm.faithful <| .cell SLoop.faithful <| .cell S0.faithful <| .nil

theorem opRowS5_reads : TableReads .S 40 opRowS5 :=
  .cell SCrd.faithful <| .cell SCwr.faithful <| .cell SCwr.faithful <| .cell SCwr.faithful <|
    .cell STrap.faithful <| .cell S0.faithful <| .cell SWait.faithful <| .cell SXlate.faithful <| .nil

theorem opRowS6_reads : TableReads .S 48 opRowS6 :=
  .cell SHlocal.faithful <| .cell SHinv.faithful <| .cell SHget.faithful <| .cell SYfield.faithful <|
    .cell SYfield.faithful <| .cell SYclr.faithful <| .cell SRa.faithful <| .cell SFpushi.faithful <| .nil

theorem opRowS7_reads : TableReads .S 56 opRowS7 :=
  .cell SRr.faithful <| .cell S0.faithful <| .cell SRr.faithful <| .cell SRrr.faithful <|
    .cell S0.faithful <| .hole <| .hole <| .hole <| .nil

theorem opRowL0_reads : TableReads .L 0 opRowL0 :=
  .cell MemS.faithful <| .cell MemS.faithful <| .cell MemS.faithful <| .cell MemS.faithful <|
    .cell MemS.faithful <| .cell MemS.faithful <| .cell MemS.faithful <| .cell MemV.faithful <| .nil

theorem opRowL1_reads : TableReads .L 8 opRowL1 :=
  .cell MemV.faithful <| .cell CopyW.faithful <| .cell GatherW.faithful <| .cell Atom.faithful <|
    .cell Atom.faithful <| .cell Atom.faithful <| .cell MemV.faithful <| .hole <| .nil

theorem opRowC0_reads : TableReads .C 0 opRowC0 :=
  .cell CLocal.faithful <| .cell CLocal.faithful <| .cell CLocal.faithful <| .cell CLocal.faithful <|
    .cell CBin.faithful <| .cell CBin.faithful <| .cell CBin.faithful <| .cell CBin.faithful <| .nil

theorem opRowC1_reads : TableReads .C 8 opRowC1 :=
  .cell CTri.faithful <| .cell CTri.faithful <| .cell CUn.faithful <| .cell CBin.faithful <|
    .cell CUn.faithful <| .cell CUn.faithful <| .cell CUn.faithful <| .cell CUn.faithful <| .nil

theorem opRowC2_reads : TableReads .C 16 opRowC2 :=
  .cell CUn.faithful <| .cell CCvt.faithful <| .cell CQnt.faithful <| .cell CDqnt.faithful <|
    .cell CCmp.faithful <| .cell CTri.faithful <| .cell CTri.faithful <| .cell CTri.faithful <| .nil

theorem opRowC3_reads : TableReads .C 24 opRowC3 :=
  .cell CTri.faithful <| .cell CBin.faithful <| .cell CTri.faithful <| .cell CTri.faithful <|
    .cell CMov.faithful <| .cell CMovi.faithful <| .cell CFroms.faithful <| .cell CTos.faithful <| .nil

theorem opRowC4_reads : TableReads .C 32 opRowC4 :=
  .cell CUn.faithful <| .cell CMov.faithful <| .cell CMov.faithful <| .cell CMov.faithful <|
    .cell CTri.faithful <| .cell CSlide.faithful <| .cell CSlide.faithful <| .cell CIota.faithful <| .nil

theorem opRowC5_reads : TableReads .C 40 opRowC5 :=
  .cell PBin.faithful <| .cell PBin.faithful <| .cell PBin.faithful <| .cell PUn.faithful <|
    .cell PSetW.faithful <| .cell Rbset.faithful <| .cell SlackW.faithful <| .hole <| .nil

theorem opRowC6_reads : TableReads .C 48 opRowC6 :=
  .cell MmaW.faithful <| .cell MmaW.faithful <| .cell AclrW.faithful <| .cell ArdW.faithful <|
    .cell AwrW.faithful <| .cell AstsW.faithful <| .hole <| .hole <| .nil

theorem opRowW0_reads : TableReads .W 0 opRowW0 :=
  .cell MemS.faithful <| .cell MemS.faithful <| .cell MemS.faithful <| .cell MemS.faithful <|
    .cell MemV.faithful <| .cell MemV.faithful <| .cell Atom.faithful <| .cell Atom.faithful <| .nil

theorem opRowW1_reads : TableReads .W 8 opRowW1 :=
  .cell Atom.faithful <| .cell Atom.faithful <| .cell Atom.faithful <| .cell Atom.faithful <|
    .cell Atom.faithful <| .cell Atom.faithful <| .cell Atom.faithful <| .cell AtomN.faithful <| .nil

theorem opRowW2_reads : TableReads .W 16 opRowW2 :=
  .cell Atom.faithful <| .cell CopyW.faithful <| .cell GatherW.faithful <| .cell PageR.faithful <|
    .cell PageR.faithful <| .cell PageP.faithful <| .cell PageP.faithful <| .cell PageP.faithful <| .nil

theorem opRowW3_reads : TableReads .W 24 opRowW3 :=
  .cell Atom.faithful <| .cell SlotOp.faithful <| .cell SlotOp.faithful <| .hole <|
    .hole <| .hole <| .hole <| .hole <| .nil

/-- The opcode map of every class (07 R158). -/
theorem opTable_reads (e : Engine) : TableReads e 0 (opTable e) := by
  cases e with
  | S =>
    exact (((((((opRowS0_reads.append opRowS1_reads).append opRowS2_reads).append opRowS3_reads).append opRowS4_reads).append
      opRowS5_reads).append opRowS6_reads).append opRowS7_reads)
  | L => exact opRowL0_reads.append opRowL1_reads
  | C =>
    exact ((((((opRowC0_reads.append opRowC1_reads).append opRowC2_reads).append opRowC3_reads).append opRowC4_reads).append
      opRowC5_reads).append opRowC6_reads)
  | W => exact ((opRowW0_reads.append opRowW1_reads).append opRowW2_reads).append opRowW3_reads

/-- The cell of an instruction reads what its format lays out. -/
theorem row_reads {α : Type} {rd : Sync → BitVec 35 → Parsed α} {sync : α → Sync} {bits : α → BitVec 35} {mk : α → Instr}
    (h : Faithful rd sync bits) (a : α) : ∃ r, row mk rd = some r ∧ r (sync a) (bits a) = { val := mk a, zero := true, range := true } :=
  ⟨_, rfl, by simp only [h.read]⟩

/-- The map has a cell for every instruction word, by its class and opcode, and the cell reads the instruction back. -/
theorem opTable_parts {i : Instr} {e : Engine} {op : BitVec 6} {sy : Sync} {f : BitVec 35} (h : i.parts = some (e, op, sy, f)) :
    ∃ c, (opTable e)[op.toNat]? = some c ∧ ∃ r, c = some r ∧ r sy f = { val := i, zero := true, range := true } := by
  cases i <;> cases h
  case nop a | endt a | eret a | pwrrel a | yield a => exact ⟨_, rfl, row_reads S0.faithful a⟩
  case add a | sub a | mul a | mulh a | mulhu a | div a | divu a | rem a | remu a | and a | or a | xor a | sll a | srl a |
      sra a | slt a | sltu a | min a | max a | ctxq a => exact ⟨_, rfl, row_reads SRrr.faithful a⟩
  case addi a | andi a | ori a | xori a | slti a | jalr a => exact ⟨_, rfl, row_reads SImm.faithful a⟩
  case slli a | srli a | srai a => exact ⟨_, rfl, row_reads SShift.faithful a⟩
  case li a | lih a => exact ⟨_, rfl, row_reads SLi.faithful a⟩
  case beq a | bne a | blt a | bge a | bltu a | bgeu a => exact ⟨_, rfl, row_reads SBr.faithful a⟩
  case jal a => exact ⟨_, rfl, row_reads SJal.faithful a⟩
  case loopb a => exact ⟨_, rfl, row_reads SLoop.faithful a⟩
  case crd a => exact ⟨_, rfl, row_reads SCrd.faithful a⟩
  case cwr a | cset a | cclr a => exact ⟨_, rfl, row_reads SCwr.faithful a⟩
  case trap a => exact ⟨_, rfl, row_reads STrap.faithful a⟩
  case waitev a => exact ⟨_, rfl, row_reads SWait.faithful a⟩
  case xlate a => exact ⟨_, rfl, row_reads SXlate.faithful a⟩
  case hlocal a => exact ⟨_, rfl, row_reads SHlocal.faithful a⟩
  case hinv a => exact ⟨_, rfl, row_reads SHinv.faithful a⟩
  case hget a => exact ⟨_, rfl, row_reads SHget.faithful a⟩
  case yset a | yget a => exact ⟨_, rfl, row_reads SYfield.faithful a⟩
  case yclr a => exact ⟨_, rfl, row_reads SYclr.faithful a⟩
  case fpush a => exact ⟨_, rfl, row_reads SRa.faithful a⟩
  case fpushi a => exact ⟨_, rfl, row_reads SFpushi.faithful a⟩
  case pwracq a | slotwait a => exact ⟨_, rfl, row_reads SRr.faithful a⟩
  case ldb a | ldbu a | ldh a | ldhu a | ldw a | ldwu a | ldd a | stb a | sth a | stw a | std a =>
    exact ⟨_, rfl, row_reads MemS.faithful a⟩
  case vld a | vlds a | vldb a | vst a | vsts a => exact ⟨_, rfl, row_reads MemV.faithful a⟩
  case cpin a | cpout a => exact ⟨_, rfl, row_reads CopyW.faithful a⟩
  case cpgather a | cpscatter a => exact ⟨_, rfl, row_reads GatherW.faithful a⟩
  case semwait a | barwait a | wltake a | aadd a | amin a | amax a | aand a | aor a | axor a | aswap a | acas a | afadd a |
      bararv a | wlappend a => exact ⟨_, rfl, row_reads Atom.faithful a⟩
  case vldl a | vstl a | vldm a | vstm a => exact ⟨_, rfl, row_reads CLocal.faithful a⟩
  case vadd a | vsub a | vmul a | vfma a | vdiv a | vshl a => exact ⟨_, rfl, row_reads CBin.faithful a⟩
  case vmin a | vmax a | vsel a | vand a | vor a | vxor a | vshr a | vshra a | vperm a => exact ⟨_, rfl, row_reads CTri.faithful a⟩
  case vabs a | vrcp a | vrsq a | vexp2 a | vlog2 a | vsqrt a | vredadd a => exact ⟨_, rfl, row_reads CUn.faithful a⟩
  case vcvt a => exact ⟨_, rfl, row_reads CCvt.faithful a⟩
  case vqnt a => exact ⟨_, rfl, row_reads CQnt.faithful a⟩
  case vdqnt a => exact ⟨_, rfl, row_reads CDqnt.faithful a⟩
  case vcmp a => exact ⟨_, rfl, row_reads CCmp.faithful a⟩
  case vmov a | vredmax a | vredmin a | vargmax a => exact ⟨_, rfl, row_reads CMov.faithful a⟩
  case vmovi a => exact ⟨_, rfl, row_reads CMovi.faithful a⟩
  case vfroms a => exact ⟨_, rfl, row_reads CFroms.faithful a⟩
  case vtos a => exact ⟨_, rfl, row_reads CTos.faithful a⟩
  case vslide a | vbcast a => exact ⟨_, rfl, row_reads CSlide.faithful a⟩
  case viota a => exact ⟨_, rfl, row_reads CIota.faithful a⟩
  case pand a | por a | pxor a => exact ⟨_, rfl, row_reads PBin.faithful a⟩
  case pnot a => exact ⟨_, rfl, row_reads PUn.faithful a⟩
  case pset a => exact ⟨_, rfl, row_reads PSetW.faithful a⟩
  case rbset a => exact ⟨_, rfl, row_reads Rbset.faithful a⟩
  case slack a => exact ⟨_, rfl, row_reads SlackW.faithful a⟩
  case mma a | mmat a => exact ⟨_, rfl, row_reads MmaW.faithful a⟩
  case aclr a => exact ⟨_, rfl, row_reads AclrW.faithful a⟩
  case ard a => exact ⟨_, rfl, row_reads ArdW.faithful a⟩
  case awr a => exact ⟨_, rfl, row_reads AwrW.faithful a⟩
  case asts a => exact ⟨_, rfl, row_reads AstsW.faithful a⟩
  case semsig a => exact ⟨_, rfl, row_reads AtomN.faithful a⟩
  case discard a | wback a => exact ⟨_, rfl, row_reads PageR.faithful a⟩
  case pgrsv a | pgrel a | pgmig a => exact ⟨_, rfl, row_reads PageP.faithful a⟩
  case commit a | retract a => exact ⟨_, rfl, row_reads SlotOp.faithful a⟩

/-! #### Words -/

/-- The word of a class, an opcode, sync fields and format fields (07 R154). -/
def wordOf (e : Engine) (op : BitVec 6) (sy : Sync) (f : BitVec 35) : IWord := e.bits ++ sy.pop ++ sy.push ++ op ++ f

theorem encode_eq_some {i : Instr} {w : IWord} :
    encode i = some w ↔ ∃ e op sy f, i.parts = some (e, op, sy, f) ∧ wordOf e op sy f = w := by
  simp only [encode, wordOf, Option.map_eq_some_iff, Prod.exists]

theorem Engine.ofBits_bits (e : Engine) : Engine.ofBits e.bits = e := by cases e <;> rfl

theorem Engine.bits_ofBits (b : BitVec 2) : (Engine.ofBits b).bits = b := by
  revert b; decide

theorem fields_wordOf (e : Engine) (op : BitVec 6) (sy : Sync) (f : BitVec 35) : (wordOf e op sy f).extractLsb' 0 35 = f := by
  rw [wordOf, extract_append_lo _ _ _ _ (by omega), extract_whole]

theorem opcode_wordOf (e : Engine) (op : BitVec 6) (sy : Sync) (f : BitVec 35) : (wordOf e op sy f).extractLsb' 35 6 = op := by
  rw [wordOf, extract_append_hi _ _ _ _ (by omega), extract_append_lo _ _ _ _ (by omega), extract_whole]

theorem syncOf_wordOf (e : Engine) (op : BitVec 6) (sy : Sync) (f : BitVec 35) : syncOf (wordOf e op sy f) = sy := by
  obtain ⟨pop, push⟩ := sy
  simp only [syncOf, wordOf, Sync.mk.injEq]
  constructor
  · rw [extract_append_hi _ _ _ _ (by omega), extract_append_hi _ _ _ _ (by omega), extract_append_hi _ _ _ _ (by omega),
      extract_append_lo _ _ _ _ (by omega), extract_whole]
  · rw [extract_append_hi _ _ _ _ (by omega), extract_append_hi _ _ _ _ (by omega), extract_append_lo _ _ _ _ (by omega), extract_whole]

theorem classOf_wordOf (e : Engine) (op : BitVec 6) (sy : Sync) (f : BitVec 35) : classOf (wordOf e op sy f) = e := by
  rw [classOf, wordOf, extract_append_hi _ _ _ _ (by omega), extract_append_hi _ _ _ _ (by omega), extract_append_hi _ _ _ _ (by omega),
    extract_append_hi _ _ _ _ (by omega), extract_whole, Engine.ofBits_bits]

/-- A word is made of the parts that are read from it (07 R154). -/
theorem wordOf_parts (w : IWord) : wordOf (classOf w) (w.extractLsb' 35 6) (syncOf w) (w.extractLsb' 0 35) = w := by
  have h : wordOf (classOf w) (w.extractLsb' 35 6) (syncOf w) (w.extractLsb' 0 35) = w.extractLsb' 0 (2 + 3 + 2 + 6 + 35) := by
    rw [wordOf, classOf, Engine.bits_ofBits, ← extract_join 0 (2 + 3 + 2 + 6) 35, ← extract_join (0 + 35) (2 + 3 + 2) 6,
      ← extract_join (0 + 35 + 6) (2 + 3) 2, ← extract_join (0 + 35 + 6 + 2) 2 3]
    rfl
  exact h.trans (extract_whole w)

/-- A parsed word passes every check: it is a well-formed instruction, its zero fields are zero and its raw fields in range (07 R161). -/
theorem judge_eq_ok {p : Parsed Instr} {i : Instr} :
    judge p = .ok i ↔ p.zero = true ∧ p.range = true ∧ p.val = i ∧ i.wf = true := by
  unfold judge Instr.wf
  split_ifs with hz hg hr
  case pos | pos | pos =>
    refine ⟨nofun, ?_⟩
    rintro ⟨_, _, rfl, _⟩
    simp_all
  case neg =>
    refine ⟨fun h => ?_, fun ⟨_, _, h, _⟩ => congrArg _ h⟩
    cases h
    simp_all

/-- A word decodes to an instruction by the cell of its class and opcode (07 R158). -/
theorem decode_eq_ok {w : IWord} {i : Instr} : decode w = .ok i ↔
    ∃ r, (opTable (classOf w))[(w.extractLsb' 35 6).toNat]? = some (some r) ∧ judge (r (syncOf w) (w.extractLsb' 0 35)) = .ok i := by
  unfold decode
  split
  next r h => exact ⟨fun hj => ⟨r, h, hj⟩, fun ⟨r', h', hj⟩ => by cases h.symm.trans h'; exact hj⟩
  next h => exact ⟨nofun, fun ⟨_, h', _⟩ => nomatch h.symm.trans h'⟩
  next h => exact ⟨nofun, fun ⟨_, h', _⟩ => nomatch h.symm.trans h'⟩

/-- The word of a well-formed instruction decodes to it (07 R153). -/
theorem decode_encode {i : Instr} {w : IWord} (hi : i.wf = true) (hw : encode i = some w) : decode w = .ok i := by
  obtain ⟨e, op, sy, f, hp, rfl⟩ := encode_eq_some.1 hw
  obtain ⟨_, hc, r, rfl, hr⟩ := opTable_parts hp
  rw [decode_eq_ok, classOf_wordOf, opcode_wordOf, syncOf_wordOf, fields_wordOf]
  exact ⟨r, hc, judge_eq_ok.2 (by simp [hr, hi])⟩

/-- What a word decodes to is well formed and has that word: no bit is dropped (07 R161). -/
theorem wf_and_encode_of_decode {w : IWord} {i : Instr} (h : decode w = .ok i) : i.wf = true ∧ encode i = some w := by
  obtain ⟨r, hc, hj⟩ := decode_eq_ok.1 h
  obtain ⟨hz, hg, rfl, hi⟩ := judge_eq_ok.1 hj
  refine ⟨hi, encode_eq_some.2 ⟨_, _, _, _, (opTable_reads _).parts_getElem hc hz hg, ?_⟩⟩
  rw [Nat.zero_add, BitVec.ofNat_toNat, BitVec.setWidth_eq, wordOf_parts]

/-- Settles O56: both directions go through the cell of the opcode map, which is faithful to its format. -/
theorem encodeDecode : Obligations.EncodeDecode := ⟨fun _ _ => decode_encode, fun _ _ => wf_and_encode_of_decode⟩

/-- Each printed word is the word of the well-formed instruction beside it. -/
theorem printedWords_encode : ∀ p ∈ Machine.printedWords, p.2.wf = true ∧ encode p.2 = some p.1 := by decide

/-- Settles O57: the decoder reads back the word of a well-formed instruction. -/
theorem decodesWords : Obligations.DecodesWords := fun p hp =>
  have ⟨hi, hw⟩ := printedWords_encode p hp
  decode_encode hi hw

end Sys2Proof

/-! ### Causes at a queue's head, and what a cut leaves (07 R160; 17 R357) -/

namespace Sys2Proof.Machine

open Sys2Proof

@[simp] theorem Bank.queue_setQueue (b : Bank) (e : Engine) (q : List Entry) : (b.setQueue e q).queue e = q := by cases e <;> rfl

theorem Bank.setQueue_queue (b : Bank) (e : Engine) : b.setQueue e (b.queue e) = b := by cases e <;> rfl

theorem Bank.hold_setQueue (b : Bank) (e : Engine) (x : Entry) (q : List Entry) : (b.setQueue e q).hold e x = b.setQueue e (x :: q) := by
  cases e <;> rfl

theorem Bank.queue_setQueue_ne (b : Bank) {e f : Engine} (q : List Entry) (h : f ≠ e) : (b.setQueue e q).queue f = b.queue f := by
  cases e <;> cases f <;> simp_all [Bank.queue, Bank.setQueue]

/-- The queue of one engine is replaced and nothing else. -/
theorem Bank.setQueue_frame (b : Bank) (e : Engine) (q : List Entry) :
    b.setQueue e q = { b with
      qS := (b.setQueue e q).qS, qL := (b.setQueue e q).qL, qC := (b.setQueue e q).qC, qW := (b.setQueue e q).qW } := by
  cases e <;> rfl

/-- A cut ends the waits of the S head: its answer, and the class granted to it, are given back, and nothing else changes (09 R222-R224;
17 R359). -/
theorem Bank.endWaits_frame (b : Bank) :
    b.endWaits = { b with swait := .none, qS := b.endWaits.qS, pwrCls := b.endWaits.pwrCls } := by
  unfold Bank.endWaits; split <;> rfl

/-- The entries of every queue stand in it as before. -/
theorem Bank.endWaits_uids (b : Bank) (e : Engine) : (b.endWaits.queue e).map (·.uid) = (b.queue e).map (·.uid) := by
  cases e with
  | S =>
    simp only [Bank.queue, Bank.endWaits]
    split <;> simp [*]
  | L | C | W => rw [b.endWaits_frame]; rfl

theorem State.bank_endWaits (s : State) (n : BankId) : (s.endWaits n).bank n = { (s.bank n).endWaits with cutAt := s.time } :=
  State.bank_modBank _ _ _

/-- The bank of a cut differs in the waits of its S head and in the TIME of the cut. -/
theorem State.endWaits_frame (s : State) (n : BankId) : (s.endWaits n).bank n = { s.bank n with
    swait := .none, qS := (s.bank n).endWaits.qS, pwrCls := (s.bank n).endWaits.pwrCls, cutAt := s.time } := by
  rw [s.bank_endWaits n]
  exact congrArg (fun b : Bank => { b with cutAt := s.time }) (s.bank n).endWaits_frame

theorem State.bank_endWaits_ne (s : State) {n m : BankId} (h : m ≠ n) : (s.endWaits n).bank m = s.bank m := State.bank_modBank_ne _ _ h

/-- A cause at the head of a queue: the head stays where it is, and TCAUSE, TVAL, TSTATE and the cut are written (17 R357, R366). -/
theorem Bank.raise_head {b : Bank} {c : Cause} {x : Entry} {rest : List Entry} (v : Word) (h : b.queue c.engine = x :: rest) :
    (b.setQueue c.engine rest).raise c x v true =
      { b with tcause := tcauseOf c, tval := v, tstate := tstateOf c b.inh x, cut := some (.cause c) } := by
  obtain ⟨group, kind, e⟩ := c
  have hhold : (b.setQueue e rest).hold e x = b := by rw [Bank.hold_setQueue, ← show b.queue e = x :: rest from h, Bank.setQueue_queue]
  have hinh : (b.setQueue e rest).inh = b.inh := by rw [Bank.setQueue_frame]; rfl
  rw [Bank.raise, if_pos rfl, hinh, hhold]

/-- A cause that a marked head raises is taken at it (17 R357). -/
theorem State.raiseHead_taken {s : State} {n : BankId} {c : Cause} {x : Entry} {rest : List Entry} (v : Word)
    (h : (s.bank n).queue c.engine = x :: rest) : causeTaken s (s.raiseHead n c x rest v) n c x v := by
  have hcut : (s.modBank n fun b => (b.setQueue c.engine rest).raise c x v true).bank n =
      { s.bank n with tcause := tcauseOf c, tval := v, tstate := tstateOf c (s.bank n).inh x, cut := some (.cause c) } := by
    rw [State.bank_modBank, Bank.raise_head v h]
  have hframe := (s.modBank n fun b => (b.setQueue c.engine rest).raise c x v true).endWaits_frame n
  rw [hcut] at hframe
  refine ⟨(congrArg Bank.tcause hframe :), (congrArg Bank.tval hframe :), (congrArg Bank.cut hframe :), (congrArg Bank.tstate hframe :), ?_,
    (congrArg Bank.s hframe :), (congrArg Bank.v hframe :), (congrArg Bank.p hframe :), (congrArg Bank.acc hframe :), rfl, fun m hm => ?_⟩
  · have huids := Bank.endWaits_uids ((s.modBank n fun b => (b.setQueue c.engine rest).raise c x v true).bank n) c.engine
    rw [hcut] at huids
    rw [State.raiseHead, State.bank_endWaits, hcut]
    exact huids
  · rw [State.raiseHead, State.bank_endWaits_ne _ hm, State.bank_modBank_ne _ _ hm]

/-- Settles O29: a marked word and a word that could not be fetched take their causes at the heads of their queues. -/
theorem markedWords : Obligations.MarkedWords := by
  intro s n x rest hrun hcut
  constructor
  · intro e k raw hq hx
    refine ⟨_, ?_, State.raiseHead_taken (raw.setWidth 64) hq⟩
    rw [exec_illegalWord, execIllegalWord]
    simp [hq, hx, hrun, hcut]
  · intro k hq hx
    refine ⟨_, ?_, State.raiseHead_taken x.idx hq⟩
    rw [exec_fetchFault, execFetchFault]
    simp [hq, hx, hrun, hcut]

end Sys2Proof.Machine

/-! ### Dispatch (07 R162, R163, R170, R177; 17 R356) -/

namespace Sys2Proof.Machine

open Sys2Proof

/-- A dispatch counts PC and the sequence number, blocks or stops the dispatcher, and joins its stream; nothing else changes (07 R163). -/
theorem Bank.account_frame (b : Bank) (w : Payload) : b.account w = { b with
    pc := b.pc + 1, uid := b.uid + 1, ctl := (b.account w).ctl, stopFetch := (b.account w).stopFetch, reach := (b.account w).reach } := rfl

/-- A place joins the tail of its queue, as it was captured before the dispatch counted (07 R162, R163). -/
theorem Bank.queue_enqueue (b : Bank) (w : Payload) : (b.enqueue w).queue (payloadEngine w) = b.queue (payloadEngine w) ++ [b.capture w] := by
  rw [Bank.enqueue, Bank.queue_setQueue, b.account_frame w]
  cases payloadEngine w <;> rfl

theorem Bank.queue_enqueue_ne (b : Bank) (w : Payload) {f : Engine} (h : f ≠ payloadEngine w) : (b.enqueue w).queue f = b.queue f := by
  rw [Bank.enqueue, Bank.queue_setQueue_ne _ _ h, b.account_frame w]
  cases f <;> rfl

theorem Bank.enqueue_counts (b : Bank) (w : Payload) :
    (b.enqueue w).pc = b.pc + 1 ∧ (b.enqueue w).uid = b.uid + 1 ∧ (b.enqueue w).s = b.s := by
  rw [Bank.enqueue, Bank.setQueue_frame]
  exact ⟨rfl, rfl, rfl⟩

/-- An instruction that no engine takes reads no register. -/
theorem usesOf_reads_of_event {i : Instr} (h : (usesOf i).eng = none) : (usesOf i).reads = [] ∧ (usesOf i).data = [] := by
  cases i <;> cases h <;> exact ⟨rfl, rfl⟩

/-- The scalar values of a word that goes to L, C or W are captured as it is dispatched (07 R163). -/
theorem Bank.capture_values (b : Bank) (i : Instr) (h : (usesOf i).eng ≠ some .S) :
    (b.capture (.word i)).caps = (usesOf i).reads.map b.sreg ∧ (b.capture (.word i)).vals = (usesOf i).data.map b.sreg := by
  cases he : (usesOf i).eng with
  | none =>
    obtain ⟨hr, hd⟩ := usesOf_reads_of_event he
    simp [Bank.capture, payloadUses, hr, hd]
  | some e =>
    have hne : (payloadEngine (.word i) != .S) = true := by
      simp only [payloadEngine, he, Option.getD_some, bne_iff_ne]
      exact fun hS => h (by rw [he, hS])
    simp only [Bank.capture, hne, if_true, payloadUses, and_self]

/-- The state differs in the remote lines that are asked for, if in anything (03 R79). -/
def State.fillsOnly (s t : State) : Prop := t = { s with store := { s.store with fills := t.store.fills } }

theorem State.fillsOnly.eq {s t : State} (h : s.fillsOnly t) : t = { s with store := { s.store with fills := t.store.fills } } := h

theorem State.fillsOnly.askFills {s t : State} (h : s.fillsOnly t) (c : Store → Prop) [DecidablePred c] (d : Die) (l n : Nat) :
    s.fillsOnly (t.modStore fun st => if c st then st.askFills d l n else st) := by
  rw [h.eq, State.fillsOnly, State.modStore]
  simp only []
  split <;> rfl

theorem State.trafficRead_off {s : State} (h : s.filtersOff) (d : Die) (req : Die → Nat) (l n : Nat) : s.trafficRead d req l n = s := by
  have hline (x : Nat) : (if (s.store.copyOf d x).isSome then (if s.gaffer.filtersOn d then s.logLine d (req d) 0 (some true) x else s)
      else s.traffic req 0 (x * 128) 128) = s := by
    simp only [h d, s.traffic_off _ _ _ _ h, Bool.false_eq_true, if_false, ite_self]
  unfold State.trafficRead
  simp only []
  split
  · exact List.foldl_fixed' hline _
  · exact s.traffic_off _ _ _ _ h

/-- Where nothing is logged and no error is stored, the fetch of a word asks for remote lines and does nothing else (03 R79, R85; 20 R423). -/
theorem State.fetched_fillsOnly {s : State} (n : BankId) (hoff : s.filtersOff) (hclean : s.store.clean = true) : s.fillsOnly (s.fetched n) := by
  unfold State.fetched
  refine List.foldlRecOn (List.range 6) _ (motive := s.fillsOnly) rfl fun t ht k _ => ?_
  have htoff : t.filtersOff := by rw [ht.eq]; exact hoff
  have htclean : t.store.clean = true := by rw [ht.eq]; exact hclean
  split
  · simp only [State.trafficRead_off htoff, ite_self, State.senseFor_clean _ _ _ _ htclean]
    exact ht.askFills _ _ _ _
  · exact ht

theorem State.dispatchOne_of_may {s : State} {n : BankId} {w : Payload} (h : s.mayDispatch n w) :
    s.dispatchOne n = some ((s.fetched n).modBank n fun x => x.enqueue w) := by
  obtain ⟨hd, hp, hc⟩ := h
  simp only [State.dispatchOne, hd, hp, hc, if_true]

theorem State.dispatchOne_of_not {s : State} {n : BankId} (h : ∀ w, ¬s.mayDispatch n w) : s.dispatchOne n = none := by
  unfold State.dispatchOne
  split
  · next hd =>
    split
    · next w hp => exact if_neg fun hc => h w ⟨hd, hp, hc⟩
    · rfl
  · rfl

/-- A rotate entry at the head of C leaves and moves the bases of its mask (07 R170, R177). -/
theorem execRotateEntry_head {s : State} {n : BankId} {x : Entry} {rest : List Entry} {m : BitVec 2} (hq : (s.bank n).qC = x :: rest)
    (hx : x.what = .rotate m) (hrun : (s.bank n).status = .running) (hcut : (s.bank n).cut = none) :
    execRotateEntry n s = .next (s.setBank n { s.bank n with
      qC := rest
      rbv := if m.getLsbD 0 then ((s.bank n).rbv + 47) % 48 else (s.bank n).rbv
      rbp := if m.getLsbD 1 then ((s.bank n).rbp + 7) % 8 else (s.bank n).rbp }) := by
  simp [execRotateEntry, hq, hx, hrun, hcut]

/-- Settles O28: a word that may be dispatched joins its queue in the state in which its bytes were read, and so does a second one. -/
theorem dispatching : Obligations.Dispatching := by
  refine ⟨fun s n hnone => ?_, fun s n w hmay hclean hoff => ?_, fun s n x rest m hq hx hrun hcut => ?_⟩
  · rw [exec_wordDispatch, execWordDispatch, State.dispatchOne_of_not hnone]
  · have hfetched : s.fillsOnly (s.fetched n) := s.fetched_fillsOnly n hoff hclean
    have hbank (m : BankId) : (s.fetched n).bank m = s.bank m := by rw [hfetched.eq]; rfl
    have hu : ((s.fetched n).modBank n fun x => x.enqueue w).bank n = (s.bank n).enqueue w := by rw [State.bank_modBank, hbank]
    obtain ⟨hpc, huid, hs⟩ := (s.bank n).enqueue_counts w
    refine ⟨(s.fetched n).modBank n fun x => x.enqueue w, (s.bank n).capture w, ?_, rfl, rfl, rfl, ?_, ?_, ?_, ?_, ?_, ?_, ?_, ?_, ?_⟩
    · rw [hu, Bank.queue_enqueue]
    · rintro i rfl hi
      exact (s.bank n).capture_values i hi
    · intro f hf
      rw [hu, Bank.queue_enqueue_ne _ _ hf]
    · rw [hu, hpc]
    · rw [hu, huid]
    · rw [hu, hs]
    · intro m hm
      rw [State.bank_modBank_ne _ _ hm, hbank]
    · rw [hfetched.eq]; rfl
    · intro hnone
      rw [exec_wordDispatch, execWordDispatch, State.dispatchOne_of_may hmay]
      simp only [State.dispatchOne_of_not hnone]
    · intro v hv
      rw [exec_wordDispatch, execWordDispatch, State.dispatchOne_of_may hmay]
      simp only [State.dispatchOne_of_may hv]
  · refine ⟨_, (exec_rotateEntry n s).trans (execRotateEntry_head hq hx hrun hcut), ?_⟩
    rw [State.bank_setBank]
    exact ⟨rfl, rfl, rfl, rfl, rfl, rfl, rfl⟩

end Sys2Proof.Machine

/-! ### Landings of C (07 R170-R174; 03 R86; 04 R106, R111) -/

namespace Sys2Proof.Machine

open Sys2Proof

/-! #### What the test for a token deadlock leaves (07 R169) -/

/-- Banks that agree in what lands in them: the flights and the engine cycle of C, and the registers that a flight writes. -/
structure Bank.SameLandings (b c : Bank) : Prop where
  flights : b.flights = c.flights
  engcyc : b.engcyc = c.engcyc
  v : b.v = c.v
  p : b.p = c.p
  s : b.s = c.s
  acc : b.acc = c.acc

theorem Bank.SameLandings.refl (b : Bank) : b.SameLandings b := ⟨rfl, rfl, rfl, rfl, rfl, rfl⟩

theorem Bank.SameLandings.sreg {b c : Bank} (h : b.SameLandings c) (r : BitVec 5) : b.sreg r = c.sreg r := by
  rw [Bank.sreg, Bank.sreg, h.s]

theorem State.endWaits_sameLandings (s : State) (n : BankId) : ((s.endWaits n).bank n).SameLandings (s.bank n) := by
  rw [s.endWaits_frame n]
  exact ⟨rfl, rfl, rfl, rfl, rfl, rfl⟩

/-- A token deadlock is a cause: it lands nothing and writes no register. -/
theorem State.testDeadlock_sameLandings (s : State) (n : BankId) : ((s.testDeadlock n).bank n).SameLandings (s.bank n) := by
  unfold State.testDeadlock
  split
  · rw [State.endWaits_frame, State.bank_modBank]
    exact ⟨rfl, rfl, rfl, rfl, rfl, rfl⟩
  · exact .refl _

/-- A bank that is cut is not tested (07 R169). -/
theorem State.testDeadlock_of_cut {s : State} {n : BankId} {k : CutKind} (h : (s.bank n).cut = some k) : s.testDeadlock n = s :=
  if_neg (by simp [State.deadlocked, h])

/-! #### One flight -/

/-- A landing writes registers and nothing else (07 R172). -/
theorem Bank.landWrite_frame (b : Bank) (t : FlightTgt) : b.landWrite t = { b with
    v := (b.landWrite t).v, p := (b.landWrite t).p, s := (b.landWrite t).s, acc := (b.landWrite t).acc
    wroteV := (b.landWrite t).wroteV, wroteAcc := (b.landWrite t).wroteAcc } := by
  cases t with
  | p r x m => simp only [Bank.landWrite, Bank.setP]; split <;> rfl
  | s r x => simp only [Bank.landWrite, Bank.setS]; split <;> rfl
  | v r x m | acc a ws | accClear a | store | nothing => rfl

theorem Bank.landWrite_flights (b : Bank) (t : FlightTgt) : (b.landWrite t).flights = b.flights := by rw [Bank.landWrite_frame]

theorem Bank.landWrite_engcyc (b : Bank) (t : FlightTgt) : (b.landWrite t).engcyc = b.engcyc := by rw [Bank.landWrite_frame]

/-- A flight that has landed leaves the flights, and the word's token is pushed with the last one (07 R168). -/
theorem Bank.flightDone_frame (b : Bank) (f : Flight) : b.flightDone f = { b with
    flights := b.flights.filter fun g => !(g.uid == f.uid && g.rep == f.rep)
    tok := (b.flightDone f).tok, rsv := (b.flightDone f).rsv } := by
  simp only [Bank.flightDone]
  split
  · rw [Bank.pushTok_frame]
  · rfl

/-- A vector register is written but for its excluded bytes (07 R172). -/
theorem Bank.landWrite_v (b : Bank) (r : Fin 64) (x : Vec) (m : Pred) (k : Fin 64) :
    (b.landWrite (.v r x m)).v.get k = if k = r then mergeBytes (b.v.get r) x m else b.v.get k := by
  simp only [Bank.landWrite, Bank.setV, vector_get_set, Fin.ext_iff, eq_comm]

theorem Bank.landWrite_p (b : Bank) (r : Fin 16) (x m : Pred) (k : Fin 16) :
    (b.landWrite (.p r x m)).p.get k = if k = r ∧ r ≠ 0 then (b.p.get r &&& ~~~m) ||| (x &&& m) else b.p.get k := by
  simp only [Bank.landWrite, Bank.setP]
  by_cases hr : r = 0
  · simp [hr]
  · have hv : ¬r.val = 0 := fun h => hr (Fin.ext h)
    simp only [hv, if_false, vector_get_set, hr, ne_eq, not_false_eq_true, and_true, Fin.ext_iff, eq_comm]

theorem Bank.landWrite_accClear (b : Bank) (a k : Fin 4) :
    (b.landWrite (.accClear a)).acc.get k = if k = a then Vector.replicate 12288 0 else b.acc.get k := by
  simp only [Bank.landWrite, vector_get_set, Fin.ext_iff, eq_comm]

theorem Bank.landWrite_acc (b : Bank) (a k : Fin 4) (ws : List (Nat × BitVec 32)) :
    (b.landWrite (.acc a ws)).acc.get k = if k = a then ws.foldl (fun w q => w.setIfInBounds q.1 q.2) (b.acc.get a) else b.acc.get k := by
  simp only [Bank.landWrite, vector_get_set, Fin.ext_iff, eq_comm]

/-! #### The pass over the flights that are due -/

/-- No earlier word has still to write the scalar register of a flight (07 R164). -/
def Bank.freeFor (b : Bank) (f : Flight) : Bool :=
  match f.reg with
  | .s r => b.firstWriter f.uid r
  | .v _ | .p _ | .acc _ | .none => true

theorem Bank.freeFor_of_first {b : Bank} {f : Flight} (h : ∀ r x, f.tgt = .s r x → b.firstWriter f.uid r = true) : b.freeFor f = true := by
  unfold Bank.freeFor Flight.reg
  cases ht : f.tgt with
  | s r x => exact h r x ht
  | v r x m | p r x m | acc a ws | accClear a | store | nothing => rfl

/-- The pass over one flight (07 R172-R174; 03 R86). -/
theorem Bank.landPass_cons (now : Nat) (f : Flight) (fs : List Flight) (late : List CReg) (b : Bank) :
    Bank.landPass now (f :: fs) late b =
      if now < f.due then (b, none)
      else if f.poison then ({ b with flights := stopsAt f b.flights }, some f)
      else if !f.arrived || late.contains f.reg || !b.freeFor f then Bank.landPass now fs (if f.reg = .none then late else f.reg :: late) b
      else Bank.landPass now fs late ((b.landWrite f.tgt).flightDone f) := rfl

/-- Nothing lands where nothing is due. -/
theorem Bank.landPass_none_due {now : Nat} {fs : List Flight} (late : List CReg) (b : Bank) (h : ∀ f ∈ fs, now < f.due) :
    Bank.landPass now fs late b = (b, none) := by
  cases fs with
  | nil => rfl
  | cons f fs => exact if_pos (h f List.mem_cons_self)

/-- The one flight that is due lands, where its data is there and no earlier word has still to write its register (07 R164, R172). -/
theorem Bank.landPass_first {now : Nat} {f : Flight} {fs : List Flight} (b : Bank) (hdue : f.due ≤ now) (harr : f.arrived = true)
    (hgood : f.poison = false) (hfirst : ∀ r x, f.tgt = .s r x → b.firstWriter f.uid r = true) (hrest : ∀ g ∈ fs, now < g.due) :
    Bank.landPass now (f :: fs) [] b = ((b.landWrite f.tgt).flightDone f, none) := by
  rw [Bank.landPass_cons, if_neg (Nat.not_lt.2 hdue), if_neg (Bool.eq_false_iff.1 hgood), if_neg, Bank.landPass_none_due _ _ hrest]
  rw [harr, Bank.freeFor_of_first hfirst]
  exact Bool.false_ne_true

/-- A load of poison that is due stops the pass, with its later repetitions (03 R86). -/
theorem Bank.landPass_poison {now : Nat} {f : Flight} (fs : List Flight) (late : List CReg) (b : Bank) (hdue : f.due ≤ now)
    (hbad : f.poison = true) : Bank.landPass now (f :: fs) late b = ({ b with flights := stopsAt f b.flights }, some f) := by
  rw [Bank.landPass_cons, if_neg (Nat.not_lt.2 hdue), if_pos hbad]

/-- Of the flights that stay, none is a later repetition of the load of poison, and none is the last of its word (07 R168). -/
theorem mem_stopsAt {f g : Flight} {gs : List Flight} (h : g ∈ stopsAt f gs) :
    ¬(g.uid = f.uid ∧ f.rep ≤ g.rep) ∧ (g.uid = f.uid → g.last = false) := by
  obtain ⟨g', hg', rfl⟩ := List.mem_map.1 h
  have hkeep := (List.mem_filter.1 hg').2
  split
  · next hu => simpa [hu] using hkeep
  · next hu => simp [hu]

/-! #### Loads that read at their landing (04 R106, R111) -/

/-- No load in flight has still to read. -/
def Bank.allRead (b : Bank) : Prop := ∀ f ∈ b.flights, f.relook = 0

theorem Bank.SameLandings.allRead {b c : Bank} (h : b.SameLandings c) (hc : c.allRead) : b.allRead := by
  unfold Bank.allRead
  rw [h.flights]
  exact hc

/-- The pass over what is due lets no load read again. -/
theorem Bank.landPass_allRead (now : Nat) (fs : List Flight) (late : List CReg) {b : Bank} (h : b.allRead) :
    (Bank.landPass now fs late b).1.allRead := by
  induction fs generalizing late b with
  | nil => exact h
  | cons f fs ih =>
    rw [Bank.landPass_cons]
    split
    · exact h
    split
    · intro g hg
      obtain ⟨g', hg', rfl⟩ := List.mem_map.1 hg
      have hread := h g' (List.mem_filter.1 hg').1
      split <;> exact hread
    split
    · exact ih _ h
    · refine ih _ fun g hg => h g ?_
      rw [Bank.flightDone_frame, b.landWrite_flights] at hg
      exact (List.mem_filter.1 hg).1

/-- No load reads again where none that is due has still to, and no word that is due makes a push. -/
theorem State.relook_none_due {s : State} {n : BankId}
    (h : ∀ f ∈ (s.bank n).flights, f.due ≤ (s.bank n).engcyc → f.relook = 0 ∧ f.push = 0) : s.relook n = s := by
  refine if_neg fun hany => ?_
  obtain ⟨f, hf, hdue⟩ := List.any_eq_true.1 hany
  simp only [Bool.and_eq_true, Bool.or_eq_true, bne_iff_ne, decide_eq_true_eq] at hdue
  obtain ⟨hneed, hdue⟩ := hdue
  obtain ⟨hr, hp⟩ := h f hf hdue
  exact hneed.elim (absurd hr) (absurd hp)

theorem State.relookAll_allRead {s : State} {n : BankId} (h : (s.bank n).allRead) : s.relookAll n = s :=
  if_pos (List.all_eq_true.2 fun f hf => beq_iff_eq.2 (h f hf))

theorem State.relook_allRead {s : State} {n : BankId} (h : (s.bank n).allRead) : s.relook n = s := by
  unfold State.relook
  simp only [State.relookAll_allRead h, ite_self]

/-- Once all loads have read, which are those of vector registers, none has still to. -/
theorem State.allRead_relookAll {s : State} {n : BankId} (h : ∀ f ∈ (s.bank n).flights, f.relook ≠ 0 → ∃ r x m, f.tgt = .v r x m) :
    ((s.relookAll n).bank n).allRead := by
  unfold State.relookAll
  simp only []
  split
  · next hall => exact fun f hf => beq_iff_eq.1 (List.all_eq_true.1 hall f hf)
  · rw [State.bank_setBank]
    intro g hg
    obtain ⟨f, hf, rfl⟩ := List.mem_map.1 hg
    by_cases hr : f.relook = 0
    · split
      · rfl
      all_goals exact hr
    · obtain ⟨r, x, m, ht⟩ := h f hf hr
      simp only [ht]

/-- A word that is due with a push makes all loads read (04 R106). -/
theorem State.relook_of_push {s : State} {n : BankId} {f : Flight} (hf : f ∈ (s.bank n).flights) (hdue : f.due ≤ (s.bank n).engcyc)
    (hneed : f.relook ≠ 0 ∨ f.push ≠ 0) : s.relook n = s.relookAll n :=
  if_pos (List.any_eq_true.2 ⟨f, hf, by simpa using ⟨hneed, hdue⟩⟩)

theorem State.landDue_allRead {s : State} {n : BankId} (h : ((s.relook n).bank n).allRead) : ((s.landDue n).1.bank n).allRead := by
  have hpass := Bank.landPass_allRead ((s.relook n).bank n).engcyc ((s.relook n).bank n).flights [] h
  unfold State.landDue
  simp only []
  split
  · next b hb =>
    rw [Bank.landDue] at hb
    rw [State.bank_setBank]
    exact (congrArg Prod.fst hb ▸ hpass :)
  · next b f hb =>
    rw [Bank.landDue] at hb
    refine (State.endWaits_sameLandings _ n).allRead ?_
    rw [State.bank_setBank]
    exact (congrArg Prod.fst hb ▸ hpass :)

/-! #### The events -/

theorem State.runs.execCWriteLand {s : State} {n : BankId} (h : s.runs n) : exec (.cWriteLand n) s = .next ((s.landDue n).1.testDeadlock n) := by
  rw [exec_cWriteLand, Machine.execCWriteLand]
  exact if_pos (by simp [h.1, h.2])

/-- What is due lands in the state in which the loads have read. -/
theorem State.landDue_of_pass {s u : State} {n : BankId} {b : Bank} (hu : s.relook n = u)
    (h : Bank.landPass (u.bank n).engcyc (u.bank n).flights [] (u.bank n) = (b, none)) : s.landDue n = (u.setBank n b, false) := by
  simp only [State.landDue, hu, Bank.landDue, h]

/-- Where nothing is due nothing lands. -/
theorem State.landDue_none_due {s : State} {n : BankId} (h : ∀ f ∈ (s.bank n).flights, (s.bank n).engcyc < f.due) :
    s.landDue n = (s.setBank n (s.bank n), false) :=
  State.landDue_of_pass (State.relook_none_due fun f hf hdue => absurd hdue (Nat.not_le.2 (h f hf))) (Bank.landPass_none_due _ _ h)

/-- C_WRITE_LAND of the one flight that is due: the bank holds its write, and the flight is gone (07 R168, R172). -/
theorem execCWriteLand_first {s u : State} {n : BankId} {f : Flight} {fs : List Flight} (hrun : s.runs n) (hu : s.relook n = u)
    (hfs : (u.bank n).flights = f :: fs) (hdue : f.due ≤ (u.bank n).engcyc) (harr : f.arrived = true) (hgood : f.poison = false)
    (hfirst : ∀ r x, f.tgt = .s r x → (u.bank n).firstWriter f.uid r = true) (hrest : ∀ g ∈ fs, (u.bank n).engcyc < g.due) :
    ∃ t, exec (.cWriteLand n) s = .next t ∧ (t.bank n).SameLandings (((u.bank n).landWrite f.tgt).flightDone f) := by
  refine ⟨_, hrun.execCWriteLand, ?_⟩
  rw [State.landDue_of_pass hu (by rw [hfs]; exact Bank.landPass_first _ hdue harr hgood hfirst hrest)]
  have hsame := (u.setBank n (((u.bank n).landWrite f.tgt).flightDone f)).testDeadlock_sameLandings n
  rwa [State.bank_setBank] at hsame

/-- C_WRITE_LAND of a load of poison that is due: 1.9.C is taken at its entry, and the cut bank is not tested for a deadlock (03 R86). -/
theorem execCWriteLand_poison {s : State} {n : BankId} {f : Flight} {fs : List Flight} (hrun : s.runs n) (hread : (s.bank n).allRead)
    (hfs : (s.bank n).flights = f :: fs) (hdue : f.due ≤ (s.bank n).engcyc) (hbad : f.poison = true) :
    exec (.cWriteLand n) s =
      .next ((s.setBank n (({ s.bank n with flights := stopsAt f (s.bank n).flights } : Bank).poisonTrap f)).endWaits n) := by
  have hland : s.landDue n =
      ((s.setBank n (({ s.bank n with flights := stopsAt f (s.bank n).flights } : Bank).poisonTrap f)).endWaits n, true) := by
    have hpass : (s.bank n).landDue = ({ s.bank n with flights := stopsAt f (s.bank n).flights }, some f) := by
      rw [Bank.landDue, hfs, Bank.landPass_poison fs _ _ hdue hbad, hfs]
    simp only [State.landDue, State.relook_allRead hread, hpass]
  rw [hrun.execCWriteLand, hland, State.testDeadlock_of_cut]
  rw [State.endWaits_frame, State.bank_setBank]
  rfl

/-- A load in flight that has read again what it left to its landing (04 R111). -/
def Flight.hasRead (f : Flight) (st : Store) (d : Die) (r : Fin 64) (x : Vec) (m : Pred) : Flight :=
  { f with tgt := .v r (vecOf (st.reread d f.loc f.relook (vecBytes x))) m, relook := 0 }

/-- The only load in flight, which is due, reads again. -/
theorem State.relook_single {s : State} {n : BankId} {f : Flight} {r : Fin 64} {x : Vec} {m : Pred} (hfs : (s.bank n).flights = [f])
    (ht : f.tgt = .v r x m) (hdue : f.due ≤ (s.bank n).engcyc) (hr : f.relook ≠ 0) :
    s.relook n = s.setBank n { s.bank n with flights := [f.hasRead s.store (dieOf n) r x m] } := by
  rw [State.relook_of_push (f := f) (by rw [hfs]; exact List.mem_singleton_self f) hdue (.inl hr)]
  unfold State.relookAll Flight.hasRead
  simp [hfs, ht, hr]

/-- LATE_LOAD_ARRIVAL where nothing is due: the data of the first late load arrives, and nothing lands (07 R174). -/
theorem execLateLoadArrival_none_due {s : State} {n : BankId} (h : ∀ f ∈ (s.bank n).flights, (s.bank n).engcyc < f.due) :
    ∃ t, exec (.lateLoadArrival n) s = .next t ∧ t.bank n = { s.bank n with
      flights := modFirst (fun f => !f.arrived) (fun f => { f with arrived := true }) (s.bank n).flights } := by
  rw [exec_lateLoadArrival, execLateLoadArrival]
  simp only []
  split
  · refine ⟨_, rfl, ?_⟩
    rw [State.landDue_none_due, State.bank_setBank, State.bank_modBank]
    rw [State.bank_modBank]
    intro g hg
    obtain hg | ⟨f, hf, rfl⟩ := mem_modFirst hg
    · exact h g hg
    · exact h f hf
  · exact ⟨_, rfl, State.bank_modBank ..⟩

/-- An idle engine cycle where nothing is due counts, and nothing lands (07 R170). -/
theorem execIdleEngineCycle_none_due {s : State} {n : BankId} (hidle : s.idles n = true)
    (h : ∀ f ∈ (s.bank n).flights, (s.bank n).engcyc < f.due) :
    exec (.idleEngineCycle n) s = .next ((s.setBank n (s.bank n)).modBank n fun b => { b with engcyc := b.engcyc + 1 }) := by
  rw [exec_idleEngineCycle, execIdleEngineCycle, if_pos hidle, State.idleCycle, State.landDue_none_due h]
  rfl

/-- Settles O32, from what one landing leaves in the bank, what makes the loads in flight read, and the cause of a load of poison. -/
theorem landings : Obligations.Landings := by
  intro s n b
  refine ⟨?_, ?_, ?_, ?_, ?_, ?_, ?_⟩
  · intro f fs hfs hrun hdue harr hgood hr hfirst hrest hpush
    have hrelook : s.relook n = s := by
      obtain hp | hread := hpush
      · refine State.relook_none_due fun g hg hg' => ?_
        obtain rfl | hg := List.mem_cons.1 (hfs ▸ hg)
        · exact ⟨hr, hp⟩
        · exact absurd hg' (Nat.not_le.2 (hrest g hg))
      · refine State.relook_allRead fun g hg => ?_
        obtain rfl | hg := List.mem_cons.1 (hfs ▸ hg)
        · exact hr
        · exact hread g hg
    obtain ⟨t, ht, hsame⟩ := execCWriteLand_first hrun hrelook hfs hdue harr hgood hfirst hrest
    rw [Bank.flightDone_frame] at hsame
    refine ⟨t, ht, fun g hg => ?_, hsame.engcyc.trans (Bank.landWrite_engcyc _ _), fun r x m htgt k => ?_, fun r x m htgt k => ?_,
      fun r x htgt k => ?_, fun a htgt k => ?_, fun a ws htgt k => ?_⟩
    · rw [hsame.flights] at hg
      obtain ⟨hg, hother⟩ := List.mem_filter.1 hg
      rw [Bank.landWrite_flights, hfs] at hg
      obtain rfl | hg := List.mem_cons.1 hg
      · simp at hother
      · exact hg
    · rw [hsame.v, htgt]; exact Bank.landWrite_v ..
    · rw [hsame.p, htgt]; exact Bank.landWrite_p ..
    · rw [hsame.sreg, htgt]; exact Bank.sreg_setS ..
    · rw [hsame.acc, htgt]; exact Bank.landWrite_accClear ..
    · rw [hsame.acc, htgt]; exact Bank.landWrite_acc ..
  · intro f fs hfs hrun hdue harr hgood hr hp hrest
    refine ⟨_, hrun.execCWriteLand, ?_⟩
    refine (State.testDeadlock_sameLandings _ n).allRead (State.landDue_allRead ?_)
    rw [State.relook_of_push (f := f) (by rw [hfs]; exact List.mem_cons_self) hdue (.inr hp)]
    refine State.allRead_relookAll fun g hg hg' => ?_
    obtain rfl | hg := List.mem_cons.1 (hfs ▸ hg)
    · exact absurd hr hg'
    · exact (hrest g hg).2 hg'
  · intro f r x m hfs htgt hrun hdue harr hgood hr
    obtain ⟨t, ht, hsame⟩ := execCWriteLand_first (f := f.hasRead s.store (dieOf n) r x m) (fs := []) hrun
      (State.relook_single hfs htgt hdue hr) (by rw [State.bank_setBank]) (by rw [State.bank_setBank]; exact hdue) harr hgood nofun
      fun _ hg => absurd hg List.not_mem_nil
    rw [State.bank_setBank, Bank.flightDone_frame] at hsame
    refine ⟨t, ht, ?_, fun k => ?_⟩
    · rw [hsame.flights]
      simp [Bank.landWrite_flights]
    · rw [hsame.v]; exact Bank.landWrite_v ..
  · intro f fs hfs hrun hdue hbad hread
    have hframe := (s.setBank n (({ b with flights := stopsAt f b.flights } : Bank).poisonTrap f)).endWaits_frame n
    rw [State.bank_setBank] at hframe
    refine ⟨_, f.entry { b with flights := stopsAt f b.flights }, execCWriteLand_poison hrun hread hfs hdue hbad,
      (congrArg Bank.tcause hframe :), (congrArg Bank.tval hframe :), (congrArg Bank.v hframe :), (congrArg Bank.tok hframe :),
      fun g hg => ?_, (congrArg Bank.qC hframe :), rfl, rfl, rfl⟩
    rw [(congrArg Bank.flights hframe :)] at hg
    exact mem_stopsAt hg
  · intro hnone
    obtain ⟨t, ht, hbank⟩ := execLateLoadArrival_none_due hnone
    exact ⟨t, ht, by rw [hbank], by rw [hbank]⟩
  · refine ⟨_, rfl, rfl, ?_, fun ⟨f, hf, harr, hslack⟩ => ?_⟩
    · rw [State.bank_modBank]
    · rw [State.bank_modBank]
      refine List.any_eq_true.2 ⟨{ f with expired := true }, List.mem_map.2 ⟨f, hf, if_pos ⟨by rw [harr]; decide, hslack⟩⟩, ?_⟩
      simp [harr]
  · intro hidle hnone
    refine ⟨_, execIdleEngineCycle_none_due hidle hnone, ?_⟩
    rw [State.bank_modBank, State.bank_setBank]
    exact ⟨rfl, rfl, rfl, rfl⟩

end Sys2Proof.Machine

/-! ### The step and the decoded instruction (07 R153, R160, R162) -/

namespace Sys2Proof.Machine

open Sys2Proof

/-- CRD s5 of the control register 6, which is not assigned (07 Table 7.10 kind 4; 09 R210). -/
def crdUnassigned : Instr := .crd { sy := { pop := 0, push := 0 }, rd := 5, cr := 6 }

/-- The device at whose bank 0 that word is the next one to be fetched. -/
def readingUnassigned : State := State.reset.withFetchWord 48 0x014140006000

/-- The device in the turn of its core 0. -/
def unassignedTurn : State := { readingUnassigned.tick readingUnassigned.pace with turn := Fin.ofNat 289 1 }

/-- An outcome is a state in which bank 0 is cut. -/
def cutsBank : Host.Outcome State Fault Refusal → Bool
  | .next t => (t.bank 0).cut.isSome
  | .fault _ | .refused _ => false

/-- The turn of bank 0 comes. -/
theorem readingUnassigned_turn : readingUnassigned.turnOf 0 0 unassignedTurn where
  agenda := rfl
  first := by decide +kernel
  state := rfl
  quiet := by decide +kernel
  runs := ⟨0, by decide +kernel, rfl⟩
  noneFailed := by decide +kernel

/-- Its dispatcher reads the word, whose queue is empty and which may be dispatched. -/
theorem readingUnassigned_reads :
    let v := unassignedTurn.modBank 0 fun x => { x with slot := .S }
    (unassignedTurn.bank 0).slot = .dispatch ∧ v.fetch 0 (v.bank 0).pc = .word 0x014140006000
      ∧ decode 0x014140006000 = .ok crdUnassigned ∧ ((v.bank 0).ofDet && isAfadd crdUnassigned) = false ∧ (v.bank 0).dispatches = true
      ∧ (v.bank 0).canDispatch (.word crdUnassigned) = true ∧ (v.bank 0).issuesAtOnce (.word crdUnassigned) = true := by
  decide +kernel

/-- The step dispatches the word as an illegal one, whose cause waits for the head of its queue (07 R160). -/
theorem readingUnassigned_step : cutsBank (step readingUnassigned) = false := by decide +kernel

/-- The word's own meaning takes cause 0.4.S at once. -/
theorem readingUnassigned_exec :
    let v := unassignedTurn.modBank 0 fun x => { x with slot := .S }
    cutsBank (exec crdUnassigned { v.fetched 0 with cur := 0, active := none }) = true := by
  decide +kernel

/-- Refutes O58: the statement leaves out words that the dispatcher marks illegal though they decode, a control register that is not assigned
and an ERET outside a handler (07 Table 7.10 kinds 4, 5). The step of such a word is WORD_DISPATCH, not its `exec`: CRD of register 6 joins
its queue as an illegal word, while its `exec` would cut the bank. -/
theorem not_stepRuns : ¬ Obligations.StepRuns := by
  intro h
  obtain ⟨hslot, hfetch, hdecode, hdet, hdispatches, hcan, honce⟩ := readingUnassigned_reads
  have hstep := h.1 _ _ _ _ _ _ readingUnassigned_turn hslot hfetch hdecode hdet hdispatches hcan honce
  have hcut := readingUnassigned_step
  rw [hstep, readingUnassigned_exec] at hcut
  exact Bool.noConfusion hcut

end Sys2Proof.Machine

/-! ### One K-step of the running MMA (13 R289, R290) -/

namespace Sys2Proof.Machine

open Sys2Proof

/-! #### What a K-step finds in the state -/

/-- States that agree in what a K-step of the MMA of a bank reads beside the MMA itself, and in the registers that it leaves. -/
structure State.SameMatrix (t s : State) (n : BankId) : Prop where
  store : t.store = s.store
  power : t.power = s.power
  vregs : (t.bank n).v = (s.bank n).v
  sregs : (t.bank n).s = (s.bank n).s
  acc : (t.bank n).acc = (s.bank n).acc
  spBase : (t.bank n).spBase = (s.bank n).spBase
  mvBase : (t.bank n).mvBase = (s.bank n).mvBase

theorem State.SameMatrix.refl (s : State) (n : BankId) : s.SameMatrix s n := ⟨rfl, rfl, rfl, rfl, rfl, rfl, rfl⟩

theorem State.SameMatrix.windowBase {t s : State} {n : BankId} (h : t.SameMatrix s n) (w : BitVec 2) :
    (t.bank n).windowBase n w = (s.bank n).windowBase n w := by
  rw [Bank.windowBase, Bank.windowBase, h.spBase, h.mvBase]

/-- The values of an operand in the window of its level (13 R287, R295). -/
def State.operandValues (s : State) (n : BankId) (o : Operand) (w : BitVec 2) : Array (Array Num) :=
  o.values (leNat (s.store.view (dieOf n) ((s.bank n).windowBase n w + o.tile) (tileBytes o.rows o.code)))
    fun a => s.store.badUnit (((s.bank n).windowBase n w + a) / 8)

theorem State.SameMatrix.operandValues {t s : State} {n : BankId} (h : t.SameMatrix s n) (o : Operand) (w : BitVec 2) :
    t.operandValues n o w = s.operandValues n o w := by
  rw [State.operandValues, State.operandValues, h.windowBase, h.store]

/-- The words of the accumulator after the next K-step of an MMA, by their numbers. -/
def State.kstepWords (s : State) (n : BankId) (m : Mma) (e : Nat) : BitVec 32 :=
  (m.kstep m.k ((s.bank n).acc.get m.acc) (s.operandValues n (m.operandA m.k) 0) (s.operandValues n (m.operandB m.k) 1) e).1

theorem State.SameMatrix.kstepWords {t s : State} {n : BankId} (h : t.SameMatrix s n) (m : Mma) :
    t.kstepWords n m = s.kstepWords n m := by
  funext e
  rw [State.kstepWords, State.kstepWords, h.acc, h.operandValues, h.operandValues]

/-- The nanoseconds from one K-step of an MMA to the next. -/
def State.kstepNs (s : State) (n : BankId) (m : Mma) : Nat :=
  clocksNs (clockMhz (s.clusterPower (clusterOf n)).cls) (kstepClocks m.fw)

theorem State.SameMatrix.kstepNs {t s : State} {n : BankId} (h : t.SameMatrix s n) (m : Mma) : t.kstepNs n m = s.kstepNs n m := by
  rw [State.kstepNs, State.kstepNs, State.clusterPower, State.clusterPower, h.power]

/-! #### Steps beside the K-step itself -/

theorem State.relookAll_sameMatrix (s : State) (n : BankId) : (s.relookAll n).SameMatrix s n := by
  unfold State.relookAll
  simp only []
  split
  · exact .refl s n
  · constructor <;> simp only [State.bank_setBank, State.setBank_store, State.setBank_power]

theorem State.relookAll_mma (s : State) (n : BankId) : ((s.relookAll n).bank n).mma = (s.bank n).mma := by
  unfold State.relookAll
  simp only []
  split
  · rfl
  · rw [State.bank_setBank]

/-- A token deadlock is a cause, and the MMAs stay (07 R169). -/
theorem State.testDeadlock_mma (s : State) (n : BankId) : ((s.testDeadlock n).bank n).mma = (s.bank n).mma := by
  unfold State.testDeadlock
  split
  · rw [State.endWaits_frame, State.bank_modBank]
    rfl
  · rfl

/-- A read finds nothing to change where every stored error is poison (03 R85). -/
theorem Store.onlyPoison.sense {s : State} (h : s.store.onlyPoison) (l k : Nat) : s.sense l k = s := by
  obtain ⟨hecc, hhbm, htag⟩ := h
  exact s.sense_poison l k hecc hhbm htag

theorem Store.onlyPoison.sense_reads {s : State} (h : s.store.onlyPoison) (base : Nat) (rs : List (Nat × Nat)) :
    rs.foldl (fun t r => t.sense (base + r.1) r.2) s = s := by
  induction rs with
  | nil => rfl
  | cons r rs ih => rw [List.foldl_cons, h.sense, ih]

/-- An MMA that has started does not start again. -/
theorem State.startMma_started {s : State} {n : BankId} {m : Mma} {rest : List Mma} (hmma : (s.bank n).mma = m :: rest)
    (hstarted : m.started = true) : s.startMma n = s := by
  simp only [State.startMma, hmma, hstarted, if_true]

/-- As an MMA starts, its operand scales are read, and it stays in its place (13 R287, R290). -/
theorem State.startMma_sameMatrix {s : State} {n : BankId} (h : s.store.onlyPoison) :
    (s.startMma n).SameMatrix s n ∧ ((s.startMma n).bank n).mma.map (·.uid) = (s.bank n).mma.map (·.uid) := by
  have hsame := s.relookAll_sameMatrix n
  have hmma := s.relookAll_mma n
  unfold State.startMma
  simp only []
  split
  · exact ⟨.refl s n, rfl⟩
  · next m rest hhead =>
    split
    · exact ⟨.refl s n, rfl⟩
    · generalize s.relookAll n = u at hsame hmma ⊢
      have hu : u.store.onlyPoison := hsame.store.symm ▸ h
      simp only [hu.sense]
      constructor
      · constructor <;> simp only [State.bank_modBank, State.modBank_store, State.modBank_power, hsame.store, hsame.power,
          hsame.vregs, hsame.sregs, hsame.acc, hsame.spBase, hsame.mvBase]
      · rw [State.bank_modBank, hmma, hhead]
        rfl

/-! #### The K-step -/

/-- The flags of substitutions are MSTAT and MERRLOG: the registers stay (13 R296). -/
theorem Bank.noteSubsts_registers (b : Bank) (a : Fin 4) (k : Nat) (sat : Bool) (subs : List (Nat × Nat × Nat × Nat)) :
    (b.noteSubsts a k sat subs).v = b.v ∧ (b.noteSubsts a k sat subs).s = b.s ∧ (b.noteSubsts a k sat subs).acc = b.acc := by
  cases subs <;> exact ⟨rfl, rfl, rfl⟩

theorem Bank.pushTok_registers (b : Bank) (e : Engine) (push : BitVec 2) :
    (b.pushTok e push).v = b.v ∧ (b.pushTok e push).s = b.s ∧ (b.pushTok e push).acc = b.acc ∧ (b.pushTok e push).mma = b.mma := by
  rw [Bank.pushTok_frame]
  exact ⟨rfl, rfl, rfl, rfl⟩

/-- The MMAs of a bank after a K-step of the first: it goes on to its next K-step, or leaves with its last (13 R290). -/
def Mma.after (m : Mma) (rest : List Mma) (step : Nat) : List Mma :=
  if m.n ≤ m.k + 1 then rest else { m with k := m.k + 1, nextNs := m.nextNs + step } :: rest

/-- What a K-step of an MMA leaves in its bank: the words of its accumulator, and what the MMA goes on to. -/
structure State.Kstepped (s : State) (n : BankId) (m : Mma) (rest : List Mma) (t : State) : Prop where
  store : t.store = s.store
  vregs : (t.bank n).v = (s.bank n).v
  sregs : (t.bank n).s = (s.bank n).s
  acc : (t.bank n).acc = (s.bank n).acc.set m.acc.val (tabulate 12288 (s.kstepWords n m)) m.acc.isLt
  mma : (t.bank n).mma = m.after rest (s.kstepNs n m)

/-- A K-step from a state that agrees in what it reads is a K-step from the other (13 R289). -/
theorem State.SameMatrix.kstepped {u s t : State} {n : BankId} {m : Mma} {rest : List Mma} (h : u.SameMatrix s n)
    (ht : u.Kstepped n m rest t) : s.Kstepped n m rest t where
  store := ht.store.trans h.store
  vregs := ht.vregs.trans h.vregs
  sregs := ht.sregs.trans h.sregs
  acc := by rw [ht.acc, h.acc, h.kstepWords]
  mma := by rw [ht.mma, h.kstepNs]

/-- The K-step of an MMA that has started: its reads change nothing, and its result is written (13 R289, R290). -/
theorem State.kstep_kstepped {s : State} {n : BankId} {m : Mma} {rest : List Mma} (hmma : (s.bank n).mma = m :: rest)
    (hstarted : m.started = true) (h : s.store.onlyPoison) : s.Kstepped n m rest (s.kstep n) := by
  have hsame := s.relookAll_sameMatrix n
  refine hsame.kstepped ?_
  rw [← s.relookAll_mma n] at hmma
  unfold State.kstep
  generalize s.relookAll n = u at hsame hmma ⊢
  have hu : u.store.onlyPoison := hsame.store.symm ▸ h
  simp only [State.startMma_started hmma hstarted, hmma, hu.sense_reads]
  split
  · next hlast =>
    constructor <;> simp only [State.setBank_store, State.bank_setBank, Bank.pushTok_registers, Bank.noteSubsts_registers]
    · rfl
    · rw [Mma.after, if_pos hlast]
  · next hmore =>
    constructor <;> simp only [State.setBank_store, State.bank_setBank, Bank.noteSubsts_registers]
    · rfl
    · rw [Mma.after, if_neg hmore]
      rfl

/-! #### The obligation -/

theorem State.runs.execKstepWrite {s : State} {n : BankId} {m : Mma} {rest : List Mma} (h : s.runs n) (hmma : (s.bank n).mma = m :: rest) :
    exec (.kstepWrite n) s = .next (((s.kstep n).startMma n).testDeadlock n) := by
  rw [exec_kstepWrite, Machine.execKstepWrite]
  exact if_pos (by simp [h.1, h.2, hmma])

/-- A word of the valid region is the sum of its products upon its base, and every other word stays (13 R289). -/
theorem State.kstepWords_eq (s : State) (n : BankId) (m : Mma) (e : Fin 12288) :
    s.kstepWords n m e =
      if e.val / 128 ≤ fwField m.fw 12 7 ∧ e.val % 128 ≤ fwField m.fw 19 7 then
        kstepValue m.fw (if m.k = 0 ∧ fwField m.fw 26 2 = 1 then 0 else ((s.bank n).acc.get m.acc).get e)
          ((s.operandValues n (m.operandA m.k) 0).getD (e.val / 128) #[]) ((s.operandValues n (m.operandB m.k) 1).getD (e.val % 128) #[])
      else ((s.bank n).acc.get m.acc).get e := by
  have hold : (((s.bank n).acc.get m.acc)[e.val]?).getD 0 = ((s.bank n).acc.get m.acc).get e := by
    rw [Vector.getElem?_eq_getElem e.isLt]
    rfl
  unfold State.kstepWords Mma.kstep
  simp only [hold]
  split
  · unfold kstepEl kstepValue
    simp only []
    split <;> rfl
  · rfl

/-- Settles O33: the K-step writes the words of the accumulator, and the start of the waiting MMA and the test for a deadlock keep them. -/
theorem kStep : Obligations.KStep := by
  intro s n m rest b hmma hstarted hrun hpoison
  have hk : s.Kstepped n m rest (s.kstep n) := State.kstep_kstepped hmma hstarted hpoison
  obtain ⟨hstart, huid⟩ := State.startMma_sameMatrix (s := s.kstep n) (n := n) (hk.store.symm ▸ hpoison)
  have htest := ((s.kstep n).startMma n).testDeadlock_sameLandings n
  have htestMma := ((s.kstep n).startMma n).testDeadlock_mma n
  have hacc := htest.acc.trans (hstart.acc.trans hk.acc)
  refine ⟨_, hrun.execKstepWrite hmma, (State.testDeadlock_store _ n).trans (hstart.store.trans hk.store),
    htest.v.trans (hstart.vregs.trans hk.vregs), htest.s.trans (hstart.sregs.trans hk.sregs), fun a ha => ?_, fun e => ?_,
    fun hmore => ?_, fun hlast => ?_⟩
  · rw [hacc, vector_get_set, if_neg fun heq => ha (Fin.ext heq.symm)]
  · rw [hacc, vector_get_set, if_pos rfl, tabulate_get]
    exact s.kstepWords_eq n m e
  · have hnext := hk.mma
    rw [Mma.after, if_neg (Nat.not_le.2 hmore)] at hnext
    rw [htestMma, State.startMma_started hnext hstarted]
    exact ⟨_, hnext, rfl, rfl, rfl⟩
  · rw [htestMma, huid, hk.mma, Mma.after, if_pos hlast]

end Sys2Proof.Machine

/-! ### Words that S takes: the bank once their sync fields have acted (09 R202) -/

namespace Sys2Proof.Machine

open Sys2Proof

/-- The bank that executes, once the sync fields of its word have acted (07 R166-R168). -/
def State.synced (s : State) (i : Instr) : Bank := (s.acting i).here.sSync (usesOf i).sy (s.inHand i)

/-- The sync fields and the dispatch of a word move tokens and the dispatcher, and nothing else (07 R163, R166-R168). -/
theorem State.synced_scalarsOnly (s : State) (i : Instr) : s.here.scalarsOnly (s.synced i) := by
  rw [Bank.scalarsOnly, State.synced, s.synced_bank i]

@[simp] theorem State.synced_sreg (s : State) (i : Instr) (r : BitVec 5) : (s.synced i).sreg r = s.here.sreg r :=
  (Bank.sreg_sSync ..).trans (s.acting_sreg i r)

@[simp] theorem State.synced_y (s : State) (i : Instr) : (s.synced i).y = s.here.y := by rw [s.synced_scalarsOnly i]

@[simp] theorem State.synced_fq (s : State) (i : Instr) : (s.synced i).fq = s.here.fq := by rw [s.synced_scalarsOnly i]

@[simp] theorem State.synced_qC (s : State) (i : Instr) : (s.synced i).qC = s.here.qC := by rw [s.synced_scalarsOnly i]

@[simp] theorem State.acting_fq (s : State) (i : Instr) : (s.acting i).here.fq = s.here.fq := by rw [State.acting, State.begin_bank]

@[simp] theorem State.acting_qS (s : State) (i : Instr) : (s.acting i).here.qS = s.here.qS := by rw [State.acting, State.begin_bank]

@[simp] theorem State.acting_qC (s : State) (i : Instr) : (s.acting i).here.qC = s.here.qC := by rw [State.acting, State.begin_bank]

@[simp] theorem State.acting_cut (s : State) (i : Instr) : (s.acting i).here.cut = s.here.cut := by rw [State.acting, State.begin_bank]

@[simp] theorem State.acting_tok (s : State) (i : Instr) : (s.acting i).here.tok = s.here.tok := by rw [State.acting, State.begin_bank]

end Sys2Proof.Machine

/-! ### Register, immediate and constant words (09 R203-R205) -/

namespace Sys2Proof.Machine

open Sys2Proof

/-! #### The values of Tables 9.2 and 9.3 -/

theorem boolWord_slt (x y : Word) : boolWord (x.slt y) = if x.toInt < y.toInt then 1 else 0 := by
  simp only [boolWord, BitVec.slt_iff_toInt_lt]

theorem boolWord_ult (x y : Word) : boolWord (x.ult y) = if x.toNat < y.toNat then 1 else 0 := by
  simp only [boolWord, BitVec.ult_iff_toNat_lt]

theorem toInt_sext {k : Nat} (hk : k ≤ 64) (x : BitVec k) : (sext x).toInt = x.toInt := BitVec.toInt_signExtend_of_le hk

theorem minS_eq (x y : Word) : minS x y = if x.toInt ≤ y.toInt then x else y := by
  simp only [minS, BitVec.slt_iff_toInt_lt]
  split
  next h => rw [if_pos h.le]
  next h =>
    split
    next h' => exact BitVec.eq_of_toInt_eq (Int.le_antisymm (not_lt.1 h) h')
    next => rfl

theorem maxS_eq (x y : Word) : maxS x y = if x.toInt ≤ y.toInt then y else x := by
  simp only [maxS, BitVec.slt_iff_toInt_lt]
  split
  next h => rw [if_pos h.le]
  next h =>
    split
    next h' => exact BitVec.eq_of_toInt_eq (Int.le_antisymm h' (not_lt.1 h))
    next => rfl

/-- A quotient of one word by another fits a word, but for −2^63 by −1 (09 Table 9.3). -/
theorem toInt_divS {x y : Word} (hy : y ≠ 0) (h : ¬(x = BitVec.intMin 64 ∧ y = BitVec.allOnes 64)) :
    (divS x y).toInt = x.toInt.tdiv y.toInt := by
  rw [divS, if_neg hy, BitVec.toInt_ofInt, ← BitVec.toInt_sdiv, BitVec.toInt_sdiv_of_ne_or_ne]
  exact not_and_or.1 h

theorem divS_overflow : divS (BitVec.intMin 64) (BitVec.allOnes 64) = BitVec.intMin 64 := by decide

theorem remS_overflow : remS (BitVec.intMin 64) (BitVec.allOnes 64) = 0 := by decide

theorem toInt_remS {x y : Word} (hy : y ≠ 0) : (remS x y).toInt = x.toInt.tmod y.toInt := by
  rw [remS, if_neg hy, ← BitVec.toInt_srem, BitVec.ofInt_toInt]

theorem toNat_divU {x y : Word} (hy : y ≠ 0) : (divU x y).toNat = x.toNat / y.toNat := by
  rw [divU, if_neg hy, BitVec.toNat_ofNat, Nat.mod_eq_of_lt ((Nat.div_le_self _ _).trans_lt x.isLt)]

theorem toNat_remU {x y : Word} (hy : y ≠ 0) : (remU x y).toNat = x.toNat % y.toNat := by
  rw [remU, if_neg hy, BitVec.toNat_ofNat, Nat.mod_eq_of_lt ((Nat.mod_le _ _).trans_lt x.isLt)]


/-! #### The words -/

/-- A value that is one of the scalar registers alone. -/
def Bank.ofScalars (val : Bank → Word) : Prop := ∀ b c : Bank, (∀ r, b.sreg r = c.sreg r) → val b = val c

/-- An S word writes a value of the scalar registers as they were before it (09 R203). -/
theorem State.sResult_scalars {s : State} {i : Instr} (rd : BitVec 5) {val : Bank → Word} (hval : Bank.ofScalars val) (h : s.sGo i) :
    s.scalarDone (s.sResult i rd val) rd (val s.here) := by
  have hsame : val ((s.acting i).here.sSync (usesOf i).sy (s.inHand i)) = val s.here :=
    hval _ _ fun r => (Bank.sreg_sSync ..).trans (s.acting_sreg i r)
  exact hsame ▸ s.sResult_done i rd val h

theorem Bank.ofScalars_two (f : Word → Word → Word) (ra rb : BitVec 5) : Bank.ofScalars fun b => f (b.sreg ra) (b.sreg rb) :=
  fun _ _ h => congrArg₂ f (h ra) (h rb)

theorem Bank.ofScalars_one (f : Word → Word) (ra : BitVec 5) : Bank.ofScalars fun b => f (b.sreg ra) :=
  fun _ _ h => congrArg f (h ra)

theorem exec_arithmetic (a : SRrr) (s : State) :
    ∀ p ∈ arithmetic a, exec p.1 s = .next (s.sResult p.1 a.rd fun b => p.2 (b.sreg a.ra) (b.sreg a.rb)) := by
  simp only [arithmetic, List.forall_mem_cons, ← boolWord_slt, ← boolWord_ult, ← minS_eq, ← maxS_eq]
  exact ⟨rfl, rfl, rfl, rfl, rfl, rfl, rfl, rfl, rfl, rfl, rfl, rfl, rfl, rfl, rfl, List.forall_mem_nil _⟩

theorem exec_immediate (a : SImm) (b : SShift) (s : State) :
    ∀ p ∈ immediate a b, exec p.1 s = .next (s.sResult p.1 p.2.1 fun b => p.2.2.2 (b.sreg p.2.2.1)) := by
  simp only [immediate, List.forall_mem_cons, ← toInt_sext (show 25 ≤ 64 by decide) a.imm, ← boolWord_slt]
  exact ⟨rfl, rfl, rfl, rfl, rfl, rfl, rfl, rfl, List.forall_mem_nil _⟩

/-- 09 R203: the register forms. -/
theorem saidArithmeticResults_holds : saidArithmeticResults := fun s a p hp hgo =>
  ⟨_, exec_arithmetic a s p hp, State.sResult_scalars a.rd (Bank.ofScalars_two p.2 a.ra a.rb) hgo⟩

/-- 09 R203: the immediate forms. -/
theorem saidImmediateResults_holds : saidImmediateResults := fun s a b p hp hgo =>
  ⟨_, exec_immediate a b s p hp, State.sResult_scalars p.2.1 (Bank.ofScalars_one p.2.2.2 p.2.2.1) hgo⟩

/-- 09 R205: LI and LIH. -/
theorem saidConstantResults_holds : saidConstantResults := fun _ a =>
  ⟨fun h => ⟨_, rfl, State.sResult_scalars a.rd (fun _ _ _ => rfl) h⟩,
    fun h => ⟨_, rfl, State.sResult_scalars a.rd (Bank.ofScalars_one (lihValue a.imm) a.rd) h⟩⟩

/-- The S opcodes 0x18 to 0x1A read the format of a shift (07 Table 7.5). -/
theorem opTable_shift : ∀ op ∈ [(0x18 : BitVec 6), 0x19, 0x1A], ∃ mk, (opTable .S)[op.toNat]? = some (row mk SShift.read) := by
  simp only [List.forall_mem_cons]
  exact ⟨⟨_, rfl⟩, ⟨_, rfl⟩, ⟨_, rfl⟩, List.forall_mem_nil _⟩

theorem classOf_scalar {w : IWord} (h : w.extractLsb' 46 2 = 0) : classOf w = .S := by
  rw [classOf, h]; rfl

/-- 09 R203, 07 R161: the zero field of a shift is checked first. -/
theorem saidShiftBitsZero_holds : saidShiftBitsZero := by
  intro w hclass hop hbits
  obtain ⟨mk, hrow⟩ := opTable_shift _ hop
  have hunused : (w.extractLsb' 0 35).extractLsb' 6 19 ≠ 0 := by
    rwa [BitVec.extractLsb'_extractLsb'_of_le (by decide)]
  have hzero : (SShift.read (syncOf w) (w.extractLsb' 0 35)).zero = false := beq_eq_false_iff_ne.2 hunused
  rw [decode, classOf_scalar hclass, hrow]
  simp only [row, judge, hzero, Bool.false_and, Bool.not_false, if_true]

/-- Settles O1: each word of Table 9.2 is an S word that writes a value of the scalar registers, and a shift's unused bits are zero bits of its
format. -/
theorem registerResults : Obligations.RegisterResults :=
  ⟨saidArithmeticResults_holds, saidImmediateResults_holds, saidShiftBitsZero_holds, saidConstantResults_holds⟩

/-- Settles O2: the four words write the results of Table 9.3, of which only −2^63 by −1 does not fit a word. -/
theorem divisionResults : Obligations.DivisionResults := by
  intro s a x y
  refine ⟨fun h => ⟨_, _, rfl, State.sResult_scalars a.rd (Bank.ofScalars_two divS a.ra a.rb) h, fun hy => if_pos hy, fun hx hy => ?_, toInt_divS⟩,
    fun h => ⟨_, _, rfl, State.sResult_scalars a.rd (Bank.ofScalars_two remS a.ra a.rb) h, fun hy => if_pos hy, fun hx hy => ?_, toInt_remS⟩,
    fun h => ⟨_, _, rfl, State.sResult_scalars a.rd (Bank.ofScalars_two divU a.ra a.rb) h, fun hy => if_pos hy, toNat_divU⟩,
    fun h => ⟨_, _, rfl, State.sResult_scalars a.rd (Bank.ofScalars_two remU a.ra a.rb) h, fun hy => if_pos hy, toNat_remU⟩⟩
  · exact (congrArg₂ divS hx hy).trans (divS_overflow.trans hx.symm)
  · exact (congrArg₂ remS hx hy).trans remS_overflow

end Sys2Proof.Machine

/-! ### Reset (09 Tables 9.5, 9.6; 20 R422) -/

namespace Sys2Proof.Machine

open Sys2Proof

@[simp] theorem State.bank_reset (n : BankId) : State.reset.bank n = Bank.reset := vector_get_replicate _ n

@[simp] theorem State.core_reset (c : CoreId) : State.reset.cores.get c = CoreSt.reset := vector_get_replicate _ c

theorem Bank.sreg_reset (r : BitVec 5) : Bank.reset.sreg r = 0 := by
  simp only [Bank.sreg, Bank.reset, vector_get_replicate, ite_self]

/-- What every bank reads at reset as one of the control registers that depend on the bank and its core alone. -/
theorem State.creg_reset_zero (n : BankId) : ∀ cr ∈ zeroAtReset, State.reset.creg n cr = some 0 := by
  simp only [zeroAtReset, List.forall_mem_cons]
  simp [State.creg, State.bcrow, Bank.reset, CoreSt.reset]

/-- The read-only registers DIE, CLUSTER, CORE and BANK give the place of a bank (09 Table 9.5; 00 R1, R4). -/
theorem State.creg_place (s : State) (n : BankId) :
    s.creg n 0x001 = some (BitVec.ofNat 64 (n.val / 144)) ∧ s.creg n 0x002 = some (BitVec.ofNat 64 (n.val / 16 % 9))
      ∧ s.creg n 0x003 = some (BitVec.ofNat 64 (n.val / 2 % 8)) ∧ s.creg n 0x004 = some (BitVec.ofNat 64 (n.val % 2)) := by
  have hdie : (dieOf n).val = n.val / 144 := Nat.div_div_eq_div_mul n.val 2 72
  have hcluster : (clusterOf n).val = n.val / 16 := Nat.div_div_eq_div_mul n.val 2 8
  rw [← hdie, ← hcluster]
  exact ⟨rfl, rfl, rfl, rfl⟩

/-- Settles O54: every bank and every core is the one of `Bank.reset` and `CoreSt.reset`. -/
theorem resetState : Obligations.ResetState := by
  refine ⟨State.creg_reset_zero, fun c k j => ?_, fun n => ?_, fun n => ?_, rfl, rfl, rfl, rfl, rfl, fun g => ?_, fun q => ?_, rfl, rfl⟩
  · rw [State.core_reset]
    simp only [CoreSt.reset, vector_get_replicate]
  · exact State.creg_place _ n
  · rw [State.bank_reset]
    exact ⟨rfl, rfl, Bank.sreg_reset, rfl, rfl, rfl, rfl, fun e => by cases e <;> rfl⟩
  · exact congrArg Grid.desc (vector_get_replicate Grid.reset g)
  · exact vector_get_replicate none q
end Sys2Proof.Machine

/-! ### Layout registers and the format queue (09 R219, R220) -/

namespace Sys2Proof.Machine

open Sys2Proof

/-! #### Fields of a layout record -/

theorem Layout.field_set (y : Layout) {f : Nat} (hf : f < 24) (x : BitVec 32) (g : Nat) :
    (y.setField f x).field g = if f = g then x else y.field g := by
  rw [Layout.setField, dif_pos hf, Layout.field, Layout.field, Vector.toList_set, List.getD_eq_getElem?_getD, List.getElem?_set,
    Vector.length_toList, if_pos hf, List.getD_eq_getElem?_getD]
  split <;> rfl

theorem Layout.field_zero (f : Nat) : Layout.field (Vector.replicate 24 0) f = 0 := by
  simp only [Layout.field, Vector.toList_replicate, List.getD_eq_getElem?_getD, List.getElem?_replicate]
  split <;> rfl

/-! #### The layout words -/

/-- A word that writes the layout registers leaves the rest of the device and of its bank (09 R219). -/
theorem State.layoutWord_frame (s : State) (i : Instr) (y : Vector Layout 8) :
    let t := (s.acting i).setBank s.cur { s.synced i with y := y }
    s.bankOnly t ∧ t.here.y = y ∧ s.here.scalarsOnly { t.here with y := s.here.y } ∧ ∀ r, t.here.sreg r = s.here.sreg r := by
  intro t
  have ht : t.here = { s.synced i with y := y } := s.here_setBank_acting i _
  refine ⟨s.bankOnly_setBank i _, congrArg Bank.y ht, ?_, fun r => (congrArg (Bank.sreg · r) ht).trans (s.synced_sreg i r)⟩
  rw [ht, ← s.synced_y i]
  exact s.synced_scalarsOnly i

theorem layouts_set (v : Vector Layout 8) (r : BitVec 3) (y : Layout) :
    (v.set r.toNat y r.isLt).get r.toFin = y ∧ ∀ k, k ≠ r.toFin → (v.set r.toNat y r.isLt).get k = v.get k :=
  ⟨(vector_get_set ..).trans (if_pos rfl), fun _ hk => (vector_get_set ..).trans (if_neg fun h => hk (Fin.ext h.symm))⟩

theorem execYset_go {s : State} {a : SYfield} (h : s.sGo (.yset a)) : exec (.yset a) s = .next ((s.acting (.yset a)).setBank s.cur
    { s.synced (.yset a) with
      y := s.here.y.set a.y.toNat ((s.here.y.get a.y.toFin).setField a.field.toNat ((s.here.sreg a.s).setWidth 32)) a.y.isLt }) := by
  rw [exec_yset, execYset, s.sWord_go _ _ h, ← s.synced_y (.yset a), ← s.synced_sreg (.yset a)]
  rfl

theorem execYclr_go {s : State} {a : SYclr} (h : s.sGo (.yclr a)) : exec (.yclr a) s = .next ((s.acting (.yclr a)).setBank s.cur
    { s.synced (.yclr a) with y := s.here.y.set a.y.toNat (Vector.replicate 24 0) a.y.isLt }) := by
  rw [exec_yclr, execYclr, s.sWord_go _ _ h, ← s.synced_y (.yclr a)]
  rfl

/-- 09 R219: YSET, YGET and YCLR. -/
theorem saidLayoutRegisters_holds : saidLayoutRegisters := by
  refine ⟨fun s a hf h => ?_, fun s a h => ?_, fun s a h => ?_⟩
  · obtain ⟨hbank, hy, hscalars, hregs⟩ := s.layoutWord_frame (.yset a) (s.here.y.set a.y.toNat
        ((s.here.y.get a.y.toFin).setField a.field.toNat ((s.here.sreg a.s).setWidth 32)) a.y.isLt)
    obtain ⟨hsame, hother⟩ := layouts_set s.here.y a.y
        ((s.here.y.get a.y.toFin).setField a.field.toNat ((s.here.sreg a.s).setWidth 32))
    refine ⟨_, execYset_go h, hbank, ?_, fun f hne => ?_, fun k hk => ?_, hscalars, hregs⟩
    · rw [hy, hsame, Layout.field_set _ hf, if_pos rfl]
    · rw [hy, hsame, Layout.field_set _ hf, if_neg hne.symm]
    · rw [hy, hother k hk]
  · have hdone := s.sResult_done (.yget a) a.s (fun b => ((b.y.get a.y.toFin).field a.field.toNat).setWidth 64) h
    exact ⟨_, rfl, s.synced_y (.yget a) ▸ hdone⟩
  · obtain ⟨hbank, hy, hscalars, hregs⟩ := s.layoutWord_frame (.yclr a) (s.here.y.set a.y.toNat (Vector.replicate 24 0) a.y.isLt)
    obtain ⟨hsame, hother⟩ := layouts_set s.here.y a.y (Vector.replicate 24 0)
    refine ⟨_, execYclr_go h, hbank, fun f => ?_, fun k hk => ?_, hscalars, hregs⟩
    · rw [hy, hsame, Layout.field_zero]
    · rw [hy, hother k hk]

/-! #### The format queue -/

/-- A word that S takes appends its format word, with its own number (09 R220, R221). -/
theorem State.pushFormat_go {s : State} {i : Instr} (w : Bank → BitVec 32) {x : BitVec 32} (hw : w (s.acting i).here = x) (h : s.sGo i)
    (hroom : s.here.fq.length < 16) : let t := s.pushFormat i (usesOf i).sy w
    s.bankOnly t ∧ t.here.fq = s.here.fq ++ [((s.inHand i).uid, x)] ∧ s.here.scalarsOnly { t.here with fq := s.here.fq } := by
  have ht : s.pushFormat i (usesOf i).sy w =
      (s.acting i).setBank s.cur { s.synced i with fq := s.here.fq ++ [((s.inHand i).uid, x)] } := by
    rw [← hw, ← s.acting_fq i]
    exact if_pos (Bool.and_eq_true_iff.2 ⟨h, decide_eq_true ((s.acting_fq i).symm ▸ hroom)⟩)
  have hhere := s.here_setBank_acting i { s.synced i with fq := s.here.fq ++ [((s.inHand i).uid, x)] }
  intro t
  rw [show t = _ from ht, hhere]
  refine ⟨s.bankOnly_setBank i _, rfl, ?_⟩
  rw [← s.synced_fq i]
  exact s.synced_scalarsOnly i

/-- Where the queue is full, the word waits at the S head and pushes nothing (09 R220). -/
theorem State.pushFormat_full {s : State} (i : Instr) (sy : Sync) (w : Bank → BitVec 32) (hfull : 16 ≤ s.here.fq.length) :
    let t := s.pushFormat i sy w
    t.here.fq = s.here.fq ∧ t.here.qS = s.inHand i :: s.here.qS := by
  have ht : s.pushFormat i sy w = (s.acting i).hold .S (s.inHand i) :=
    if_neg fun h => Nat.not_lt.2 hfull (s.acting_fq i ▸ of_decide_eq_true (Bool.and_eq_true_iff.1 h).2)
  have hhere : ((s.acting i).hold .S (s.inHand i)).here = { (s.acting i).here with qS := s.inHand i :: (s.acting i).here.qS } :=
    State.bank_modBank ..
  intro t
  rw [show t = _ from ht, hhere]
  exact ⟨s.acting_fq i, congrArg _ (s.acting_qS i)⟩

/-- 09 R220: FPUSH and FPUSHI, taken and waiting. -/
theorem saidFormatQueue_holds : saidFormatQueue :=
  ⟨fun s a h hroom => ⟨_, rfl, State.pushFormat_go _ (congrArg _ (s.acting_sreg (.fpush a) a.ra)) h hroom⟩,
    fun _ _ h hroom => ⟨_, rfl, State.pushFormat_go _ rfl h hroom⟩,
    fun _ a hfull => ⟨_, rfl, State.pushFormat_full (.fpush a) a.sy _ hfull⟩,
    fun _ a hfull => ⟨_, rfl, State.pushFormat_full (.fpushi a) a.sy _ hfull⟩⟩

/-- Settles O9: a layout word writes one record of the bank, and a format word stands last in the queue or waits. -/
theorem layoutsAndFormats : Obligations.LayoutsAndFormats := ⟨saidLayoutRegisters_holds, saidFormatQueue_holds⟩

end Sys2Proof.Machine

/-! ### PWRACQ and PWRREL (09 R222; 18 R385, R386) -/

namespace Sys2Proof.Machine

open Sys2Proof

@[simp] theorem Bank.sSync_pwrCls (b : Bank) (sy : Sync) (x : Entry) : (b.sSync sy x).pwrCls = b.pwrCls := by rw [Bank.sSync_frame]

@[simp] theorem Bank.sSync_swait (b : Bank) (sy : Sync) (x : Entry) : (b.sSync sy x).swait = b.swait := by rw [Bank.sSync_frame]

@[simp] theorem Bank.setS_pwrCls (b : Bank) (r : BitVec 5) (x : Word) : (b.setS r x).pwrCls = b.pwrCls := by rw [Bank.setS_frame]

@[simp] theorem Bank.setS_swait (b : Bank) (r : BitVec 5) (x : Word) : (b.setS r x).swait = b.swait := by rw [Bank.setS_frame]

@[simp] theorem State.acting_pwrCls (s : State) (i : Instr) : (s.acting i).here.pwrCls = s.here.pwrCls := by
  rw [State.acting, State.begin_bank]

@[simp] theorem State.acting_pwrDecl (s : State) (i : Instr) : (s.acting i).here.pwrDecl = s.here.pwrDecl := by
  rw [State.acting, State.begin_bank]

@[simp] theorem State.acting_swait (s : State) (i : Instr) : (s.acting i).here.swait = s.here.swait := by
  rw [State.acting, State.begin_bank]

/-- The device once a bank's request for headroom is withdrawn (18 R386). -/
def State.withdrawn (s : State) (n : BankId) : State :=
  s.modPower (dieOf n) fun p => { p with heads := p.heads.filter fun h => h.bank != n || h.placement }

/-- The device once a bank has asked for headroom (18 R386). -/
def State.asking (s : State) (h : HeadReq) : State := s.modPower (dieOf h.bank) fun p => { p with heads := p.heads ++ [h] }

theorem State.acting_withdrawn_cur (s : State) (i : Instr) : ((s.acting i).withdrawn s.cur).cur = s.cur := s.acting_cur i

theorem State.acting_asking_cur (s : State) (i : Instr) (h : HeadReq) : ((s.acting i).asking h).cur = s.cur := s.acting_cur i

theorem State.diePower_modPower (s : State) (d : Die) (f : PwrDie → PwrDie) (e : Die) :
    (s.modPower d f).diePower e = if e = d then f (s.diePower d) else s.diePower e := by
  simp only [State.diePower, State.modPower, vector_get_set, Fin.ext_iff, eq_comm]

theorem State.mem_asking (s : State) (h : HeadReq) : h ∈ ((s.asking h).diePower (dieOf h.bank)).heads := by
  rw [State.asking, State.diePower_modPower, if_pos rfl]
  exact List.mem_append_right _ (List.mem_singleton_self h)

theorem State.acting_diePower (s : State) (i : Instr) (d : Die) : (s.acting i).diePower d = s.diePower d := by
  rw [State.acting, State.begin_state]; rfl

/-- A word that sets its bank's class changes its bank and withdraws its request (09 R222). -/
theorem State.classOnly_withdrawn (s : State) (i : Instr) (b : Bank) : classOnly s (((s.acting i).withdrawn s.cur).setBank s.cur b) := by
  refine ⟨?_, fun n hn => ?_, fun d => ?_⟩
  · rw [State.acting, State.begin_state]; rfl
  · rw [State.bank_setBank_ne _ _ hn]
    exact (s.bankOnly_setBank i b).2 n hn ▸ (State.bank_setBank_ne _ _ hn).symm
  · refine Eq.trans (b := ((s.acting i).withdrawn s.cur).diePower d) rfl ?_
    rw [State.withdrawn, State.diePower_modPower, State.acting_diePower, State.acting_diePower]
    split
    next hd => rw [hd]
    next => rfl

/-! #### What setting a class does -/

/-- A class that does not raise the charge is set at once (09 R222). -/
theorem State.setClass_now {s : State} {i : Instr} {cls : Nat} (fin : Bank → Bank) (hans : (s.inHand i).answer = none)
    (hrise : (s.acting i).chargeRise s.cur cls ≤ 0) :
    (s.acting i).setClass i (s.inHand i) cls fin = ((s.acting i).withdrawn s.cur).setBank s.cur
      (fin (({ (s.acting i).here with swait := .none, pwrCls := cls } : Bank).sSync (usesOf i).sy (s.inHand i))) := by
  simp only [State.setClass, hans, s.acting_cur, if_pos hrise, State.withdrawn]

/-- A class that raises the charge asks for headroom, and the word waits at its head (09 R222). -/
theorem State.setClass_asks {s : State} {i : Instr} {cls : Nat} (fin : Bank → Bank) (hans : (s.inHand i).answer = none)
    (hrise : 0 < (s.acting i).chargeRise s.cur cls) (hwait : s.here.swait = .none) :
    (s.acting i).setClass i (s.inHand i) cls fin = ((s.acting i).asking
        { bank := s.cur, cls := cls, urgent := (s.acting i).here.ofTask (·.prio) == 7, placement := false }).setBank s.cur
      (({ (s.acting i).here with swait := .power cls } : Bank).hold .S (s.inHand i)) := by
  simp only [State.setClass, hans, s.acting_cur, if_neg (Int.not_le.2 hrise), s.acting_swait, hwait, State.asking]

/-- A class that was granted is set already, and the word completes (09 R222). -/
theorem State.setClass_granted {s : State} {i : Instr} {cls : Nat} (fin : Bank → Bank) {v : Word} (hans : (s.inHand i).answer = some v) :
    (s.acting i).setClass i (s.inHand i) cls fin = (s.acting i).setBank s.cur
      (fin (({ (s.acting i).here with swait := .none } : Bank).sSync (usesOf i).sy { s.inHand i with answer := none })) := by
  simp only [State.setClass, hans, s.acting_cur]

/-! #### The words -/

theorem execPwracq_class {s : State} {a : SRr} (h : s.sGo (.pwracq a)) (hlo : 1 ≤ (s.here.sreg a.ra).toNat)
    (hhi : (s.here.sreg a.ra).toNat ≤ 15) : exec (.pwracq a) s = .next ((s.acting (.pwracq a)).setClass (.pwracq a) (s.inHand (.pwracq a))
      (s.here.sreg a.ra).toNat fun y => y.setS a.rd 0) := by
  refine (if_pos h).trans ?_
  rw [show (s.begin (.pwracq a)).2.here.sreg a.ra = s.here.sreg a.ra from s.acting_sreg _ _]
  exact if_neg (by omega)

theorem execPwracq_outside {s : State} {a : SRr} (h : s.sGo (.pwracq a))
    (hc : (s.here.sreg a.ra).toNat = 0 ∨ 15 < (s.here.sreg a.ra).toNat) :
    exec (.pwracq a) s = .next (s.sResult (.pwracq a) a.rd fun _ => 1) := by
  refine (if_pos h).trans ?_
  rw [show (s.begin (.pwracq a)).2.here.sreg a.ra = s.here.sreg a.ra from s.acting_sreg _ _, State.sResult, s.sWord_go _ _ h]
  exact if_pos (by omega)

theorem execPwrrel_class {s : State} {a : S0} (h : s.sGo (.pwrrel a)) : exec (.pwrrel a) s =
    .next ((s.acting (.pwrrel a)).setClass (.pwrrel a) (s.inHand (.pwrrel a)) s.here.pwrDecl id) := by
  refine (if_pos h).trans ?_
  rw [show (s.begin (.pwrrel a)).2.here.pwrDecl = s.here.pwrDecl from s.acting_pwrDecl _]
  rfl

theorem State.here_setBank_of_cur {u : State} {n : BankId} (b : Bank) (h : u.cur = n) : (u.setBank n b).here = b := by
  subst h; exact u.here_setBank b

/-- The registers after a word that has written 0 as its result. -/
theorem State.sreg_zeroed {s : State} {b : Bank} (hb : ∀ r, b.sreg r = s.here.sreg r) (rd : BitVec 5) :
    (b.setS rd 0).sreg rd = 0 ∧ ∀ r, r ≠ rd → (b.setS rd 0).sreg r = s.here.sreg r := by
  refine ⟨?_, fun r hr => ?_⟩
  · rw [Bank.sreg_setS]
    split
    next => rfl
    next h => rw [by_contra fun h0 => h ⟨rfl, h0⟩, Bank.sreg_zero]
  · rw [Bank.sreg_setS, if_neg fun h => hr h.1, hb]

/-- The registers of a bank whose wait and class a word of a power class has changed. -/
theorem State.sreg_classed (s : State) (i : Instr) (w : HeadWait) (c : Nat) (sy : Sync) (x : Entry) (r : BitVec 5) :
    (({ (s.acting i).here with swait := w, pwrCls := c } : Bank).sSync sy x).sreg r = s.here.sreg r :=
  (Bank.sreg_sSync ..).trans (s.acting_sreg i r)

/-- 09 R222: PWRACQ refuses a class outside 1-15, sets one that does not raise the charge, and else asks for headroom and waits for it. -/
theorem execPwracq_result (s : State) (a : SRr) (hgo : s.sGo (.pwracq a)) : let i : Instr := .pwracq a; let c := (s.here.sreg a.ra).toNat
    ((c = 0 ∨ 15 < c) → ∃ t, exec i s = .next t ∧ s.scalarDone t a.rd 1)
    ∧ (1 ≤ c → c ≤ 15 → (s.inHand i).answer = none → (s.acting i).chargeRise s.cur c ≤ 0 →
        ∃ t, exec i s = .next t ∧ classOnly s t ∧ t.here.pwrCls = c ∧ t.here.sreg a.rd = 0
          ∧ ∀ r, r ≠ a.rd → t.here.sreg r = s.here.sreg r)
    ∧ (1 ≤ c → c ≤ 15 → (s.inHand i).answer = none → 0 < (s.acting i).chargeRise s.cur c → s.here.swait = .none →
        ∃ t, exec i s = .next t ∧ t.here.swait = .power c ∧ t.here.qS = s.inHand i :: s.here.qS ∧ t.here.pwrCls = s.here.pwrCls
          ∧ ∃ h ∈ (t.diePower (dieOf s.cur)).heads, h.bank = s.cur ∧ h.cls = c ∧ h.placement = false)
    ∧ (1 ≤ c → c ≤ 15 → ∀ v, (s.inHand i).answer = some v → ∃ t, exec i s = .next t ∧ s.bankOnly t ∧ t.here.swait = .none
        ∧ t.here.pwrCls = s.here.pwrCls ∧ t.here.sreg a.rd = 0 ∧ ∀ r, r ≠ a.rd → t.here.sreg r = s.here.sreg r) := by
  intro i c
  refine ⟨fun hc => ?outside, fun hlo hhi hans hrise => ?now, fun hlo hhi hans hrise hwait => ?asks, fun hlo hhi v hans => ?granted⟩
  case outside => exact ⟨_, execPwracq_outside hgo hc, State.sResult_done s i a.rd (fun _ => 1) hgo⟩
  case now =>
    refine ⟨_, (execPwracq_class hgo hlo hhi).trans (congrArg _ (State.setClass_now _ hans hrise)), s.classOnly_withdrawn i _, ?_⟩
    rw [State.here_setBank_of_cur _ (s.acting_withdrawn_cur i), Bank.setS_pwrCls, Bank.sSync_pwrCls]
    exact ⟨rfl, State.sreg_zeroed (s.sreg_classed i _ _ _ _) a.rd⟩
  case asks =>
    refine ⟨_, (execPwracq_class hgo hlo hhi).trans (congrArg _ (State.setClass_asks _ hans hrise hwait)), ?_⟩
    rw [State.here_setBank_of_cur _ (s.acting_asking_cur i _)]
    exact ⟨rfl, congrArg _ (s.acting_qS i), s.acting_pwrCls i, _, (s.acting i).mem_asking _, rfl, rfl, rfl⟩
  case granted =>
    refine ⟨_, (execPwracq_class hgo hlo hhi).trans (congrArg _ (State.setClass_granted _ hans)), s.bankOnly_setBank i _, ?_⟩
    rw [State.here_setBank_acting, Bank.setS_swait, Bank.sSync_swait, Bank.setS_pwrCls, Bank.sSync_pwrCls]
    exact ⟨rfl, s.acting_pwrCls i, State.sreg_zeroed (s.sreg_classed i _ _ _ _) a.rd⟩

/-- 09 R222: PWRREL of a class that does not raise the charge goes back to the declared class. -/
theorem execPwrrel_result (s : State) (a : S0) (hgo : s.sGo (.pwrrel a)) (hans : (s.inHand (.pwrrel a)).answer = none)
    (hrise : (s.acting (.pwrrel a)).chargeRise s.cur s.here.pwrDecl ≤ 0) :
    ∃ t, exec (.pwrrel a) s = .next t ∧ classOnly s t ∧ t.here.pwrCls = s.here.pwrDecl ∧ ∀ r, t.here.sreg r = s.here.sreg r := by
  refine ⟨_, (execPwrrel_class hgo).trans (congrArg _ (State.setClass_now _ hans hrise)), s.classOnly_withdrawn _ _, ?_⟩
  rw [State.here_setBank_of_cur _ (s.acting_withdrawn_cur _)]
  exact ⟨Bank.sSync_pwrCls .., s.sreg_classed _ _ _ _ _⟩

/-- Settles O7: setting a class completes at once, asks for headroom, or completes as granted, and each case changes its bank and its
request alone. -/
theorem powerClass : Obligations.PowerClass := ⟨execPwracq_result, execPwrrel_result⟩

end Sys2Proof.Machine

/-! ### Branches, jumps and LOOPB (09 R206, R207; 20 R422) -/

namespace Sys2Proof.Machine

open Sys2Proof

/-! #### Branches and jumps -/

/-- A control word that writes one scalar register does that, fixes the next index and frees the dispatcher (07 R163; 09 R206). -/
theorem State.sControl_done {s : State} {i : Instr} (rd : BitVec 5) (link : Entry → Word) (next : Entry → Bank → Word) (h : s.sGo i) :
    let t := s.sControl i (fun x b => b.setS rd (link x)) next
    s.scalarDone t rd (link (s.inHand i)) ∧ t.here.ctl = false ∧ t.here.pc = next (s.inHand i) (s.synced i) := by
  have ht : s.sControl i (fun x b => b.setS rd (link x)) next = (s.acting i).setBank s.cur
      { (s.synced i).setS rd (link (s.inHand i)) with pc := next (s.inHand i) (s.synced i), ctl := false } := s.sWord_go i _ h
  obtain ⟨hbank, hscalars, hsame, hother⟩ := s.sResult_done i rd (fun _ => link (s.inHand i)) h
  rw [State.sResult, s.sWord_go _ _ h, State.here_setBank_acting] at hscalars hsame hother
  intro t
  rw [show t = _ from ht, State.scalarDone, State.here_setBank_acting]
  refine ⟨⟨s.bankOnly_setBank i _, ?_, hsame, hother⟩, rfl, rfl⟩
  rw [Bank.scalarsOnly, State.synced, hscalars]

theorem bne_eq_decide (x y : Word) : (x != y) = decide (x ≠ y) := by rw [decide_not]; rfl

theorem bnot_slt (x y : Word) : (!x.slt y) = decide (y.toInt ≤ x.toInt) := by simp only [BitVec.slt, ← decide_not, not_lt]

theorem bnot_ult (x y : Word) : (!x.ult y) = decide (y.toNat ≤ x.toNat) := by simp only [BitVec.ult, ← decide_not, not_lt]

theorem exec_branches (a : SBr) (s : State) : ∀ p ∈ branches a, exec p.1 s = .next (s.sControl p.1 (fun _ b => b.setS 0 0) fun x b =>
    if p.2 (b.sreg a.ra) (b.sreg a.rb) then x.idx + a.off.signExtend 64 else x.idx + 1) := by
  simp only [branches, List.forall_mem_cons, ← bne_eq_decide, ← bnot_slt, ← bnot_ult]
  exact ⟨rfl, rfl, rfl, rfl, rfl, rfl, List.forall_mem_nil _⟩

/-- 09 R206: branches, JAL and JALR are control words that write one register, s0 for a branch. -/
theorem saidControlFlowResults_holds : saidControlFlowResults := by
  refine fun s => ⟨fun a p hp h => ?_, fun a h => ?_, fun a h => ?_⟩
  · obtain ⟨hdone, hctl, hpc⟩ := State.sControl_done 0 (fun _ => 0) (fun x b =>
      if p.2 (b.sreg a.ra) (b.sreg a.rb) then x.idx + a.off.signExtend 64 else x.idx + 1) h
    rw [s.synced_sreg, s.synced_sreg] at hpc
    exact ⟨_, exec_branches a s p hp, hdone, hctl, hpc⟩
  · exact ⟨_, rfl, State.sControl_done a.rd (fun x => x.idx + 1) (fun x _ => x.idx + sext a.off) h⟩
  · exact ⟨_, rfl, State.sControl_done a.rd (fun x => x.idx + 1) (fun _ _ => s.here.sreg a.ra + sext a.imm) h⟩

/-! #### The snapshot of the bank-conflict matrix -/

/-- The fields of a register of three fields (20 Table 20.5). -/
theorem fieldLow_regOf (a b c : Nat) (ha : a < 2 ^ 16) :
    let w := regOf [(16, a), (16, b), (32, c)]
    fieldLow w 0 16 = a ∧ fieldLow w 16 16 = b % 2 ^ 16 ∧ fieldLow w 32 32 = c % 2 ^ 32 := by
  intro w
  have hw : w.toNat = a + 2 ^ 16 * (b % 2 ^ 16 + 2 ^ 16 * (c % 2 ^ 32)) := by
    simp only [w, regOf, packFields, BitVec.toNat_ofNat]
    omega
  simp only [fieldLow, hw]
  omega

theorem Bank.scalarsOnly.trans_setS {b c : Bank} (h : b.scalarsOnly c) (r : BitVec 5) (x : Word) : b.scalarsOnly (c.setS r x) := by
  rw [Bank.scalarsOnly] at h
  rw [Bank.scalarsOnly, Bank.setS_frame, h]

/-- What a core's snapshot in a clock records, and where it is not taken a second time (20 R422, R428). -/
theorem CoreSt.snapshot_spec (q : CoreSt) (k : Fin 2) (idx : Word) (clock : Nat) : let q' := q.snapshot k idx clock
    q'.bcm = q.bcm
      ∧ (q.snapAt ≠ some (clock, 1 - k) →
          (∀ r, q'.bcRow.get r = (q.bcm.get r).toList.foldl (· + ·) 0 - BitVec.ofNat 32 (q.fresh.filter (· == (clock, r))).length)
            ∧ fieldLow q'.bcSnap 0 16 = k.val ∧ fieldLow q'.bcSnap 16 16 = (fieldLow q.bcSnap 16 16 + 1) % 2 ^ 16
            ∧ fieldLow q'.bcSnap 32 32 = idx.toNat % 2 ^ 32)
      ∧ (q.snapAt = some (clock, 1 - k) → q'.bcRow = q.bcRow ∧ (k = 1 → q'.bcSnap = q.bcSnap)
          ∧ (k = 0 → fieldLow q'.bcSnap 0 16 = 0 ∧ fieldLow q'.bcSnap 16 16 = fieldLow q.bcSnap 16 16
              ∧ fieldLow q'.bcSnap 32 32 = idx.toNat % 2 ^ 32)) := by
  have hk : k.val < 2 ^ 16 := by omega
  intro q'
  by_cases hother : q.snapAt = some (clock, 1 - k)
  · refine ⟨?_, fun h => absurd hother h, fun _ => ?_⟩
    · simp only [q', CoreSt.snapshot, if_pos hother]; split <;> rfl
    · simp only [q', CoreSt.snapshot, if_pos hother]
      split
      next h =>
        obtain ⟨hbank, hcount, hidx⟩ := fieldLow_regOf k.val (fieldLow q.bcSnap 16 16) idx.toNat hk
        refine ⟨rfl, fun h1 => absurd (h.symm.trans h1) (by decide), fun _ => ⟨hbank.trans (congrArg Fin.val h), hcount.trans ?_, hidx⟩⟩
        exact Nat.mod_mod ..
      next h => exact ⟨rfl, fun _ => rfl, fun h0 => absurd h0 h⟩
  · have hq : q' = _ := if_neg hother
    refine ⟨by rw [hq], fun _ => ?_, fun h => absurd h hother⟩
    rw [hq]
    exact ⟨fun r => by simp [Vector.get_eq_getElem], fieldLow_regOf _ _ _ hk⟩

/-! #### LOOPB -/

/-- A rotate entry for its mask joins the C queue, and nothing else changes (07 R177). -/
theorem Bank.addRotate_frame (b : Bank) (x : Entry) (m : BitVec 2) :
    b.addRotate x m = { b with qC := (b.addRotate x m).qC }
      ∧ (b.addRotate x m).qC.map (·.what) = b.qC.map (·.what) ++ (if m = 0 then [] else [.rotate m]) := by
  unfold Bank.addRotate
  split
  · exact ⟨rfl, (List.append_nil _).symm⟩
  · exact ⟨rfl, by rw [List.map_append]; rfl⟩

/-- The index at which a LOOPB goes on (09 R207). -/
def State.loopNext (s : State) (a : SLoop) : Word :=
  if a.counter ≠ 0 ∧ s.here.sreg a.counter - 1 ≠ 0 then (s.inHand (.loopb a)).idx + a.off.signExtend 64
  else (s.inHand (.loopb a)).idx + 1

/-- The bank of a LOOPB that S takes, once its counter is written (09 R207). -/
def State.counted (s : State) (a : SLoop) : Bank := (s.synced (.loopb a)).setS a.counter (s.here.sreg a.counter - 1)

/-- The bank after a LOOPB that S took (09 R207). -/
def State.looped (s : State) (a : SLoop) : Bank :=
  { (s.counted a).addRotate (s.inHand (.loopb a)) a.m with pc := s.loopNext a, ctl := false }

theorem State.counted_counter (s : State) (a : SLoop) :
    (s.counted a).sreg a.counter = if a.counter = 0 then 0 else s.here.sreg a.counter - 1 := by
  rw [State.counted, Bank.sreg_setS]
  by_cases h : a.counter = 0
  · rw [if_neg fun h' => h'.2 h, if_pos h, h, Bank.sreg_zero]
  · rw [if_pos ⟨rfl, h⟩, if_neg h]

theorem State.counted_other (s : State) (a : SLoop) {r : BitVec 5} (hr : r ≠ a.counter) : (s.counted a).sreg r = s.here.sreg r := by
  rw [State.counted, Bank.sreg_setS, if_neg fun h => hr h.1, s.synced_sreg]

/-- The counter that was written is not zero, which s0 never is (09 R207). -/
theorem State.counted_again (s : State) (a : SLoop) :
    ((s.counted a).sreg a.counter != 0) = true ↔ a.counter ≠ 0 ∧ s.here.sreg a.counter - 1 ≠ 0 := by
  rw [bne_iff_ne, s.counted_counter]
  by_cases h : a.counter = 0
  · rw [if_pos h]; exact ⟨fun h' => absurd rfl h', fun h' => absurd h h'.1⟩
  · rw [if_neg h]; exact ⟨fun h' => ⟨h, h'⟩, And.right⟩

theorem State.counted_scalarsOnly (s : State) (a : SLoop) : s.here.scalarsOnly (s.counted a) :=
  (s.synced_scalarsOnly _).trans_setS _ _

/-- A bank that differs in the C queue too. -/
theorem Bank.scalarsOnly.withQueue {b c d : Bank} (h : b.scalarsOnly c) (hd : d = { c with qC := d.qC, pc := d.pc, ctl := d.ctl }) :
    d = { b with
      s := d.s, qC := d.qC, tok := d.tok, rsv := d.rsv, pc := d.pc, uid := d.uid, ctl := d.ctl, stopFetch := d.stopFetch, reach := d.reach } := by
  rw [Bank.scalarsOnly] at h
  rw [h] at hd
  rw [hd]

theorem State.looped_frame (s : State) (a : SLoop) :
    s.looped a = { s.counted a with qC := (s.looped a).qC, pc := (s.looped a).pc, ctl := (s.looped a).ctl } := by
  unfold State.looped
  generalize s.counted a = b
  rw [(b.addRotate_frame _ _).1]

theorem State.looped_qC (s : State) (a : SLoop) :
    (s.looped a).qC.map (·.what) = s.here.qC.map (·.what) ++ (if a.m = 0 then [] else [.rotate a.m]) := by
  refine (Bank.addRotate_frame ..).2.trans ?_
  rw [State.counted, Bank.setS_frame, s.synced_qC]

theorem State.looped_sreg (s : State) (a : SLoop) (r : BitVec 5) : (s.looped a).sreg r = (s.counted a).sreg r := by
  rw [State.looped, (Bank.addRotate_frame ..).1]
  rfl

/-- The device after a LOOPB that S took, but for the snapshot (09 R207). -/
def State.loopDone (s : State) (a : SLoop) : State := (s.acting (.loopb a)).setBank s.cur (s.looped a)

theorem execLoopb_go {s : State} {a : SLoop} (h : s.sGo (.loopb a)) (hroom : a.m = 0 ∨ s.here.qC.length < 128) :
    exec (.loopb a) s = .next (if a.counter ≠ 0 ∧ s.here.sreg a.counter - 1 ≠ 0 then s.loopDone a
      else (s.loopDone a).snapshot (bankNo s.cur) (s.inHand (.loopb a)).idx) := by
  have hgo : ((s.acting (.loopb a)).here.sReady (.loopb a) (s.inHand (.loopb a))
      && (decide (a.m = 0) || (s.acting (.loopb a)).here.hasRoom .C)) = true := by
    have hqueue : (s.acting (.loopb a)).here.queue .C = s.here.qC := s.acting_qC _
    rw [Bank.hasRoom, hqueue, Bool.and_eq_true, Bool.or_eq_true, decide_eq_true_iff, decide_eq_true_iff]
    exact ⟨h, hroom⟩
  refine (if_pos hgo).trans ?_
  have hagain := s.counted_again a
  rw [State.counted, ← s.acting_sreg (.loopb a)] at hagain
  simp only [State.loopDone, State.looped, State.loopNext, State.counted, State.synced, ← hagain, ← s.acting_sreg (.loopb a)]
  rfl

theorem State.core_snapshot (s : State) (k : Fin 2) (idx : Word) (c : CoreId) : (s.snapshot k idx).cores.get c =
    if c = coreOf s.cur then (s.cores.get c).snapshot k idx (s.time * clockMhz (s.clusterPower (clusterOf s.cur)).cls / 1000)
    else s.cores.get c := by
  simp only [State.snapshot, State.modCore, vector_get_set, Fin.ext_iff]
  split
  next h => rw [if_pos h.symm, Fin.ext h]
  next h => rw [if_neg fun h' => h h'.symm]

/-- A state that differs from another in its cores alone. -/
def State.coresOnly (u t : State) : Prop := t = { u with cores := t.cores }

theorem State.coresOnly.here {u t : State} (h : u.coresOnly t) : t.here = u.here := by rw [h]; rfl

theorem State.coresOnly.bank {u t : State} (h : u.coresOnly t) (n : BankId) : t.bank n = u.bank n := by rw [h]; rfl

theorem State.coresOnly.of_bankOnly {s u t : State} (h : u.coresOnly t) (hu : s.bankOnly u) :
    t = { s with active := none, banks := t.banks, cores := t.cores } := by
  rw [State.coresOnly, hu.1] at h
  rw [h]

theorem State.loopDone_bankOnly (s : State) (a : SLoop) : s.bankOnly (s.loopDone a) := s.bankOnly_setBank _ _

theorem State.loopDone_here (s : State) (a : SLoop) : (s.loopDone a).here = s.looped a := s.here_setBank_acting _ _

/-- The snapshot that a LOOPB takes is one of its own core in the present core clock (20 R422). -/
theorem State.core_loopSnapshot (s : State) (a : SLoop) (k : Fin 2) (idx : Word) (c : CoreId) :
    ((s.loopDone a).snapshot k idx).cores.get c =
      if c = coreOf s.cur then (s.cores.get c).snapshot k idx (s.time * clockMhz (s.clusterPower (clusterOf s.cur)).cls / 1000)
      else s.cores.get c := by
  rw [State.core_snapshot, (s.loopDone_bankOnly a).1]
  rfl

/-- 09 R207, 20 R422: LOOPB, with the snapshot where it falls through. -/
theorem saidLoopResult_holds : saidLoopResult := by
  intro s a i x n hgo hroom
  have hall {t : State} (h : (s.loopDone a).coresOnly t) : t.here = s.looped a ∧ (∀ b, b ≠ s.cur → t.bank b = s.bank b)
      ∧ t = { s with active := none, banks := t.banks, cores := t.cores } :=
    ⟨h.here.trans (s.loopDone_here a), fun b hb => (h.bank b).trans ((s.loopDone_bankOnly a).2 b hb), h.of_bankOnly (s.loopDone_bankOnly a)⟩
  have hbank : (s.looped a).sreg a.counter = (if a.counter = 0 then 0 else n)
      ∧ (∀ r, r ≠ a.counter → (s.looped a).sreg r = s.here.sreg r) :=
    ⟨(s.looped_sreg a _).trans (s.counted_counter a), fun r hr => (s.looped_sreg a r).trans (s.counted_other a hr)⟩
  have hframe := (s.counted_scalarsOnly a).withQueue (s.looped_frame a)
  by_cases hagain : a.counter ≠ 0 ∧ n ≠ 0
  · obtain ⟨hhere, hothers, hrest⟩ := hall (t := s.loopDone a) rfl
    refine ⟨s.loopDone a, (execLoopb_go hgo hroom).trans (congrArg _ (if_pos hagain)), ?_⟩
    rw [hhere]
    exact ⟨hbank.1, hbank.2, rfl, rfl, s.looped_qC a, hframe, hothers, hrest, fun _ => by rw [(s.loopDone_bankOnly a).1],
      fun h => absurd hagain h⟩
  · obtain ⟨hhere, hothers, hrest⟩ := hall (t := (s.loopDone a).snapshot (bankNo s.cur) x.idx) rfl
    refine ⟨(s.loopDone a).snapshot (bankNo s.cur) x.idx, (execLoopb_go hgo hroom).trans (congrArg _ (if_neg hagain)), ?_⟩
    rw [hhere]
    refine ⟨hbank.1, hbank.2, rfl, rfl, s.looped_qC a, hframe, hothers, hrest, fun h => absurd h hagain, fun _ => ?_⟩
    intro q q' clock
    have hq' : q' = q.snapshot (bankNo s.cur) x.idx clock := (s.core_loopSnapshot a _ _ _).trans (if_pos rfl)
    obtain ⟨hmatrix, hfirst, hsecond⟩ := q.snapshot_spec (bankNo s.cur) x.idx clock
    rw [hq']
    exact ⟨hmatrix, fun c hc => (s.core_loopSnapshot a _ _ c).trans (if_neg hc), hfirst, hsecond⟩

/-- Settles O3: a control word fixes the next index beside its register, and a LOOPB adds its rotate entry and its core's snapshot. -/
theorem controlFlow : Obligations.ControlFlow := ⟨saidControlFlowResults_holds, saidLoopResult_holds⟩

end Sys2Proof.Machine

/-! ### Control registers (09 R210-R213) -/

namespace Sys2Proof.Machine

open Sys2Proof

/-! #### What a write stores -/

/-- The number of the register that a write goes to (09 Table 9.4). -/
def CregW.number : CregW → BitVec 13
  | .evpend _ => 0x022 | .mstat _ => 0x060 | .merrlog _ => 0x061 | .srstate _ => 0x063 | .freqreq _ => 0x082 | .tvec _ => 0x0C3
  | .tsave _ => 0x0C4

/-- What the register reads after the write. -/
def CregW.value : CregW → Word
  | .evpend x | .mstat x | .merrlog x | .freqreq x | .tvec x | .tsave x => x
  | .srstate x => x.setWidth 64

theorem setWidth_setWidth_low (x : Word) : (x.setWidth 32).setWidth 64 = x &&& 0xFFFFFFFF := by
  apply BitVec.eq_of_toNat_eq
  rw [BitVec.toNat_and, show (0xFFFFFFFF : Word).toNat = 2 ^ 32 - 1 from rfl, Nat.and_two_pow_sub_one_eq_mod, BitVec.toNat_setWidth,
    BitVec.toNat_setWidth]
  omega

/-- The low 32 bits of a word, of which 0 is replaced by 1 (08 Table 8.5). -/
theorem srstate_value (x : Word) : (CregW.srstate (if x.setWidth 32 = (0 : BitVec 32) then 1 else x.setWidth 32)).value =
    if x &&& 0xFFFFFFFF = 0 then 1 else x &&& 0xFFFFFFFF := by
  have hzero : x.setWidth 32 = (0 : BitVec 32) ↔ x &&& 0xFFFFFFFF = 0 := by
    rw [← setWidth_setWidth_low]
    refine ⟨fun h => by rw [h]; rfl, fun h => BitVec.eq_of_toNat_eq ?_⟩
    have hnat : ((x.setWidth 32).setWidth 64).toNat = 0 := congrArg BitVec.toNat h
    rwa [BitVec.toNat_setWidth_of_le (by decide)] at hnat
  by_cases h : x.setWidth 32 = (0 : BitVec 32)
  · rw [if_pos h, if_pos (hzero.1 h)]; rfl
  · rw [if_neg h, if_neg (mt hzero.2 h)]; exact setWidth_setWidth_low x

/-- The registers whose access is RW, each with what a write stores: the two tables agree (09 R210, R213). -/
theorem cregWrite_of_stored {n : BitVec 13} {old new w : Word} (h : cregStored n old new = some w) :
    ∃ c, cregWrite n old new = some c ∧ c.number = n ∧ c.value = w := by
  unfold cregStored at h
  by_cases hsr : n = 0x063
  · subst hsr
    exact ⟨_, rfl, rfl, (srstate_value new).trans (Option.some.inj h)⟩
  · rw [if_neg hsr] at h
    split_ifs at h
    all_goals
      cases h
      subst n
      exact ⟨_, rfl, rfl, rfl⟩

/-- A register to which no write stores anything takes none (09 R210). -/
theorem cregWrite_none {n : BitVec 13} (h : cregStored n 0 0 = none) (old new : Word) : cregWrite n old new = none := by
  unfold cregWrite
  split
  case h_8 => rfl
  all_goals
    next hn =>
      have hnumber := congrArg (BitVec.ofNat 13) hn
      rw [BitVec.ofNat_toNat, BitVec.setWidth_eq] at hnumber
      subst hnumber
      cases h

/-! #### A register after its write -/

theorem Bank.srView_cregSet (b : Bank) (uid : Nat) (x : BitVec 32) : (b.cregSet uid (.srstate x)).srView = x := by
  simp only [Bank.cregSet]
  split
  next h =>
    have hpend : (b.setSr uid x).srPend = [] := List.isEmpty_iff.1 (Bool.and_eq_true_iff.1 h).2
    rw [Bank.srView, hpend]; rfl
  next => simp only [Bank.srView, List.getLast?_concat]

theorem State.bank_cregSet (s : State) (n : BankId) (uid : Nat) (c : CregW) : (s.cregSet n uid c).bank n = (s.bank n).cregSet uid c :=
  Eq.trans (b := (s.modBank n fun b => b.cregSet uid c).bank n) (by cases c <;> rfl) (s.bank_modBank n _)

theorem State.bank_cregSet_ne (s : State) {n m : BankId} (uid : Nat) (c : CregW) (h : m ≠ n) : (s.cregSet n uid c).bank m = s.bank m :=
  Eq.trans (b := (s.modBank n fun b => b.cregSet uid c).bank m) (by cases c <;> rfl) (s.bank_modBank_ne _ h)

theorem State.cur_cregSet (s : State) (n : BankId) (uid : Nat) (c : CregW) : (s.cregSet n uid c).cur = s.cur := by cases c <;> rfl

/-- A register reads as it was written (09 R210). -/
theorem State.creg_cregSet (s : State) (n : BankId) (uid : Nat) (c : CregW) : (s.cregSet n uid c).creg n c.number = some c.value := by
  have hbank := s.bank_cregSet n uid c
  cases c
  case srstate x =>
    refine Eq.trans (b := some ((((s.cregSet n uid (.srstate x)).bank n).srView).setWidth 64)) rfl ?_
    rw [hbank, Bank.srView_cregSet]; rfl
  case evpend x => exact congrArg (some ∘ Bank.evpend) hbank
  case mstat x => exact congrArg (some ∘ Bank.mstat) hbank
  case merrlog x => exact congrArg (some ∘ Bank.merrlog) hbank
  case freqreq x => exact congrArg (some ∘ Bank.freqreq) hbank
  case tvec x => exact congrArg (some ∘ Bank.tvec) hbank
  case tsave x => exact congrArg (some ∘ Bank.tsave) hbank

/-- A write of a control register keeps the scalar registers (09 R210). -/
theorem Bank.s_cregSet (b : Bank) (uid : Nat) (c : CregW) : (b.cregSet uid c).s = b.s := by
  cases c
  case srstate x => simp only [Bank.cregSet]; split <;> rfl
  all_goals rfl

/-- A write of a control register changes its bank and, for FREQREQ, the requests and when the last one arrived (09 R210; 18 R383, R396). -/
theorem State.cregSet_frame (s : State) (n : BankId) (uid : Nat) (c : CregW) : let t := s.cregSet n uid c
    t = { s with banks := (s.modBank n fun b => b.cregSet uid c).banks
                 power := { s.power with freqOrder := t.power.freqOrder, clusters := t.power.clusters } }
      ∧ ∀ k, t.clusterPower k = { s.clusterPower k with asked := (t.clusterPower k).asked } := by
  cases c
  case freqreq x =>
    refine ⟨rfl, fun k => ?_⟩
    simp only [State.cregSet, State.clusterPower, vector_get_set]
    split
    next h => rw [← Fin.ext h]; rfl
    next => rfl
  all_goals exact ⟨rfl, fun _ => rfl⟩

/-! #### The words -/

theorem exec_cregWrites (a : SCwr) (s : State) : ∀ p ∈ cregWrites a, exec p.1 s = .next (s.cregWord p.1 a p.2) := by
  simp only [cregWrites, List.forall_mem_cons]
  exact ⟨rfl, rfl, rfl, List.forall_mem_nil _⟩

/-- The three writes have the sync fields of their format, and a word. -/
theorem cregWrites_words (a : SCwr) : ∀ p ∈ cregWrites a, (usesOf p.1).sy = a.sy ∧ ∃ w, encode p.1 = some w := by
  simp only [cregWrites, List.forall_mem_cons]
  exact ⟨⟨rfl, _, rfl⟩, ⟨rfl, _, rfl⟩, ⟨rfl, _, rfl⟩, List.forall_mem_nil _⟩

/-- 09 R210: CRD writes the value of its register. -/
theorem saidControlRegisterRead_holds : saidControlRegisterRead := by
  intro s a v h hv
  refine ⟨s.sResult (.crd a) a.rd fun _ => v, ?_, s.sResult_done _ a.rd (fun _ => v) h⟩
  have hv' : (s.begin (.crd a)).2.creg s.cur a.cr = some v := hv
  rw [exec_crd, execCrd]
  simp only [hv']
  exact (if_pos h).trans (congrArg _ (s.sWord_go (.crd a) (fun _ b => b.setS a.rd v) h).symm)

/-- A write that S takes stores its bits (09 R210). -/
theorem State.cregWord_go {s : State} {i : Instr} {a : SCwr} {f : Word → Word → Word} {old : Word} {c : CregW} (h : s.sGo i)
    (hsy : (usesOf i).sy = a.sy) (hold : (s.acting i).creg s.cur a.cr = some old)
    (hc : cregWrite a.cr old (f old (s.here.sreg a.ra)) = some c) :
    s.cregWord i a f = ((s.acting i).setBank s.cur (s.synced i)).cregSet s.cur (s.inHand i).uid c := by
  have hold' : (s.begin i).2.creg s.cur a.cr = some old := hold
  have hreg : (s.begin i).2.here.sreg a.ra = s.here.sreg a.ra := s.acting_sreg i _
  unfold State.cregWord
  simp only [hold', hreg, Option.getD_some, hc]
  rw [State.synced, hsy]
  exact if_pos h

/-- A write of a register that takes none raises 0.4.S, whatever it waits for (07 R160; 09 R210). -/
theorem State.cregWord_bad {s : State} (i : Instr) {a : SCwr} (f : Word → Word → Word) (h : cregStored a.cr 0 0 = none) :
    s.cregWord i a f = (s.acting i).badCreg i (s.inHand i) := by
  unfold State.cregWord
  simp only [cregWrite_none h]
  rfl

/-- 09 R210, R213: CWR, CSET and CCLR store the writable bits. -/
theorem saidControlRegisterWrite_holds : saidControlRegisterWrite := by
  intro s a p hp old w hgo hold hstored
  obtain ⟨c, hc, hnumber, hvalue⟩ := cregWrite_of_stored hstored
  have hbankOnly := s.bankOnly_setBank p.1 (s.synced p.1)
  have hexec := (exec_cregWrites a s p hp).trans (congrArg _ (State.cregWord_go hgo (cregWrites_words a p hp).1 hold hc))
  have hbank : ((s.acting p.1).setBank s.cur (s.synced p.1)).bank s.cur = s.synced p.1 := State.bank_setBank ..
  generalize (s.acting p.1).setBank s.cur (s.synced p.1) = u at hbankOnly hexec hbank
  obtain ⟨hrest, hothers⟩ := hbankOnly
  have hcur : (u.cregSet s.cur (s.inHand p.1).uid c).cur = s.cur := by rw [u.cur_cregSet, hrest]
  obtain ⟨hframe, hpower⟩ := u.cregSet_frame s.cur (s.inHand p.1).uid c
  refine ⟨_, hexec, hnumber ▸ hvalue ▸ u.creg_cregSet .., fun r => ?_, fun n hn => (u.bank_cregSet_ne _ c hn).trans (hothers n hn), ?_,
    fun k => ?_⟩
  · rw [State.here, hcur, u.bank_cregSet, hbank, ← s.synced_sreg p.1 r, Bank.sreg, Bank.sreg, Bank.s_cregSet]
  · rw [hframe, hrest]
  · rw [hpower k, hrest]; rfl

/-- 07 R160, 09 R210: cause 0.4.S at the S head. -/
theorem State.badCreg_taken {s : State} (i : Instr) (h : s.here.cut = none) : let t := (s.acting i).badCreg i (s.inHand i)
    t.here.tcause = 0x8010 ∧ t.here.tval = ((encode i).getD 0).setWidth 64
      ∧ t.here.cut = some (.cause { group := 0, kind := 4, engine := .S }) ∧ t.here.tok = s.here.tok
      ∧ ∀ r, t.here.sreg r = s.here.sreg r := by
  have hcut : ¬(s.acting i).here.cut.isSome = true := by rw [s.acting_cut, h]; exact Bool.false_ne_true
  intro t
  have ht : t = ((s.acting i).modBank (s.acting i).cur fun b => b.raise { group := 0, kind := 4, engine := .S } (s.inHand i)
      (((encode i).getD 0).setWidth 64) true).endWaits (s.acting i).cur := if_neg hcut
  have hhere : t.here = _ := (congrArg State.here ht).trans (State.endWaits_frame _ (s.acting i).cur)
  rw [hhere, State.bank_modBank]
  exact ⟨rfl, rfl, rfl, s.acting_tok i, s.acting_sreg i⟩

theorem execCrd_bad {s : State} {a : SCrd} (h : (s.acting (.crd a)).creg s.cur a.cr = none) :
    exec (.crd a) s = .next ((s.acting (.crd a)).badCreg (.crd a) (s.inHand (.crd a))) := by
  have h' : (s.begin (.crd a)).2.creg s.cur a.cr = none := h
  rw [exec_crd, execCrd]
  simp only [h']
  rfl

/-- 07 R160, 09 R210: a number that is not assigned, and a write of a register that takes none. -/
theorem saidControlRegisterTraps_holds : saidControlRegisterTraps := by
  intro s
  constructor
  · intro a hcut hnone
    exact ⟨_, _, execCrd_bad hnone, rfl, State.badCreg_taken (.crd a) hcut⟩
  · intro a p hp hcut hnone
    obtain ⟨w, hw⟩ := (cregWrites_words a p hp).2
    have hcause := State.badCreg_taken p.1 hcut
    rw [hw] at hcause
    exact ⟨_, w, (exec_cregWrites a s p hp).trans (congrArg _ (State.cregWord_bad p.1 p.2 hnone)), hw, hcause⟩

/-- Settles O4: a CRD is an S word that writes one register, a write stores its bits in the one register of its number, and the two
refusals take cause 0.4.S. -/
theorem controlRegisters : Obligations.ControlRegisters :=
  ⟨saidControlRegisterRead_holds, saidControlRegisterWrite_holds, saidControlRegisterTraps_holds⟩

end Sys2Proof.Machine

/-! ### END beside a bank whose MMA starts (09 R208; 13 R287, R297; 03 R85) -/

namespace Sys2Proof.Machine

open Sys2Proof

/-- An MMA of one K-step that has not started: A has the NX code 0x18, whose operand scale stands behind its tile (13 Tables 13.2, 13.3). -/
def waitingMma : Mma where
  uid := 3
  acc := 0
  transposed := false
  pa := 0
  pb := 0
  n := 1
  k := 0
  fw := 0x18
  gA := []
  gB := []
  badA := []
  badB := []
  started := false
  nextNs := 0
  endNs := 0
  push := 0

/-- The unit of the core's scratchpad that holds the operand scale of that MMA. -/
def scaleUnit : Nat := (padBase 0 + tileBytes 96 0x18) / 8

/-- Bank 0 of core 0 runs a task that has issued nothing, bank 1 is ready with that MMA, and the unit of its operand scale has a single-bit
error. -/
def endingBeside : State :=
  let s := (State.reset.setBank 0 { Bank.reset with status := .running, task := some placedTask }).setBank 1
    { Bank.reset with status := .ready, task := some placedTask, mma := [waitingMma] }
  { s.modCore 0 fun c => { c with run := some 0 } with store := { State.reset.store with ecc := [(scaleUnit, .single)] } }

/-- END without sync fields. -/
def plainEnd : S0 := { sy := { pop := 0, push := 0 } }

/-- Whether an outcome is a state in which no unit of a level has an error. -/
def noUnitErrors : Host.Outcome State Fault Refusal → Bool
  | .next t => t.store.ecc.isEmpty
  | .fault _ | .refused _ => false

/-- END may end the task. -/
theorem endingBeside_ends : let u := (endingBeside.acting (.endt plainEnd)).here
    u.cut = none ∧ u.popsOk .S plainEnd.sy (endingBeside.inHand (.endt plainEnd)) = true ∧ u.canPush .S plainEnd.sy.push = true
      ∧ u.allDone = true ∧ endingBeside.here.kind = 0 := by
  decide +kernel

/-- The core goes on with bank 1, whose MMA starts and reads its operand scale: the error is corrected. -/
theorem endingBeside_corrects : noUnitErrors (exec (.endt plainEnd) endingBeside) = true := by decide +kernel

/-- Refutes O6: END frees its core, which goes on with its other bank at once (17 R362). Where an MMA of that bank starts, its operand scales are
read (13 R297), and an error that the read finds is corrected in the storage (03 R85): after END the storage is not the one before. -/
theorem not_waitsAndEnds : ¬ Obligations.WaitsAndEnds := by
  rintro ⟨-, -, -, -, hend⟩
  obtain ⟨hcut, hpops, hpush, hdone, hkind⟩ := endingBeside_ends
  obtain ⟨t, ht, -, -, -, -, -, -, -, -, -, hstore⟩ := hend endingBeside plainEnd hcut hpops hpush hdone
  have hcorrects := endingBeside_corrects
  rw [ht, noUnitErrors, hstore hkind] at hcorrects
  exact Bool.noConfusion hcorrects

end Sys2Proof.Machine

/-! ### ERET over an image whose loads are still to be read (09 R215; 17 R365; 04 R111; 13 R297) -/

namespace Sys2Proof.Machine

open Sys2Proof

/-- A local load of v0 on its way, of which one unit is still to be read (log entry 61). -/
def unreadLoad : Flight where
  uid := 4
  due := 9
  tgt := .v 0 0 (BitVec.allOnes 256)
  arrived := true
  slackEnd := 0
  expired := false
  poison := false
  last := true
  push := 0
  idx := 0
  rep := 0
  addr := 0
  loc := padBase 0
  relook := 1
  ent := none

/-- What a handler's entry left behind: that load, and an MMA that has not started. -/
def unreadImage : HImage where
  qS := []
  qL := []
  qC := []
  qW := []
  flights := [unreadLoad]
  mma := [waitingMma]
  copies := []
  ops := []
  tok := Vector.replicate 12 0
  rsv := Vector.replicate 12 0
  pc := 40
  uid := 7
  ctl := false
  stopFetch := false
  swait := .none
  sr := 1
  srPend := []

/-- Bank 0 of core 0 runs a handler of a task with that image. -/
def returningUnread : State :=
  (State.reset.setBank 0 { Bank.reset with
    status := .running, task := some placedTask, image := some unreadImage, tstate := 1, kind := 2 }).modCore 0 fun c =>
      { c with run := some 0 }

/-- ERET without sync fields. -/
def plainEret : S0 := { sy := { pop := 0, push := 0 } }

/-- Whether an outcome is a state in which a load of bank 0 is still to be read. -/
def leavesUnread : Host.Outcome State Fault Refusal → Bool
  | .next t => t.here.flights.any fun f => f.relook != 0
  | .fault _ | .refused _ => false

/-- ERET may return. -/
theorem returningUnread_returns : let u := (returningUnread.acting (.eret plainEret)).here
    u.image = some unreadImage ∧ u.status = .running ∧ u.cut = none ∧ u.popsOk .S plainEret.sy (returningUnread.inHand (.eret plainEret)) = true
      ∧ u.canPush .S plainEret.sy.push = true ∧ u.quiet = true ∧ returningUnread.store.clean = true := by
  decide +kernel

/-- The MMA starts as the bank goes on, and what is still to be read of the loads is read before (04 R111). -/
theorem returningUnread_reads : leavesUnread (exec (.eret plainEret) returningUnread) = false := by decide +kernel

/-- Refutes O5: the statement is about every image, and so about one with a load that is still to be read and an MMA that has not started. ERET
starts the MMA, before which the load is read, and its flight does not come back as the image holds it. The drain before a handler's entry
leaves no part of a load to be read (17 R359; log entry 61), so that the device makes no such image. -/
theorem not_trapAndReturn : ¬ Obligations.TrapAndReturn := by
  rintro ⟨-, hreturn, -⟩
  obtain ⟨himage, hrun, hcut, hpops, hpush, hquiet, hclean⟩ := returningUnread_returns
  obtain ⟨hread, -, hnext⟩ := hreturn returningUnread plainEret unreadImage himage hrun hcut hpops hpush hquiet
  obtain ⟨t, ht, -, -, -, -, -, -, -, hflights, -⟩ := hnext (congrArg Prod.snd (hread hclean))
  have hreads := returningUnread_reads
  rw [ht, leavesUnread, hflights] at hreads
  exact Bool.noConfusion hreads

end Sys2Proof.Machine

/-! ### Reads where every unit that they touch is correct (03 R79, R84, R85) -/

namespace Sys2Proof.Machine

open Sys2Proof

/-- Nothing is wrong with a unit, at its home and in the dies' copies of it: what `State.clean` says of each unit of a range. -/
structure Store.CorrectUnit (st : Store) (u : Nat) : Prop where
  ecc : st.unitEcc (st.resolve (u * 8) / 8) = none
  good : st.badUnit u = false
  hbmEcc : ∀ p ∈ st.hbmEcc, p.1 / 16 ≠ st.resolve (u * 8) / 8 / 16
  tagEcc : ∀ p ∈ st.tagEcc, p.2.1 ≠ st.resolve (u * 8) / 8 / 16
  remote : ∀ r ∈ st.remote, ∀ p ∈ r.ecc, p.1 ≠ st.resolve (u * 8) / 8

theorem State.clean.correctUnit {s : State} {l n u : Nat} (h : s.clean l n) (hu : u ∈ unitsOf l n) : s.store.CorrectUnit u := by
  obtain ⟨hecc, hgood, hhbm, htag, hremote⟩ := h u hu
  exact ⟨hecc, hgood, hhbm, htag, hremote⟩

section

variable (count : State → ErrLoc → Nat → State) {s : State} {line : Nat}

/-- No tag of the line has an error to find. -/
theorem State.senseTag_correct (h : ∀ p ∈ s.store.tagEcc, p.2.1 ≠ line) (d : Die) : s.senseTagBy count d line = s := by
  have hnone : (s.store.tagEcc.find? fun p => p.1 == d && p.2.1 == line) = none :=
    List.find?_eq_none.mpr fun p hp => by simp [h p hp]
  rw [State.senseTagBy, hnone]

theorem State.senseHomeTag_correct (h : ∀ p ∈ s.store.tagEcc, p.2.1 ≠ line) : s.senseHomeTagBy count line = s := by
  unfold State.senseHomeTagBy
  split
  · rfl
  · split
    · exact State.senseTag_correct count h _
    · rfl

end

/-- HBM holds no error against the units of the line. -/
theorem Store.hbmUnit_correct {st : Store} {u : Nat} (h : ∀ p ∈ st.hbmEcc, p.1 / 16 ≠ u / 16) : st.hbmUnit u = none := by
  unfold Store.hbmUnit
  split
  · rfl
  · rw [if_neg, Option.map_eq_none_iff, List.find?_eq_none]
    · intro p hp hc
      have := h p hp
      simp only [Bool.and_eq_true, beq_iff_eq] at hc
      omega
    · rw [List.any_eq_true]
      rintro ⟨p, hp, hc⟩
      have := h p hp
      simp only [Bool.and_eq_true, beq_iff_eq] at hc
      omega

/-- Its line comes from HBM as it is. -/
theorem Store.fillLine_correct {st : Store} {line : Nat} (h : ∀ p ∈ st.hbmEcc, p.1 / 16 ≠ line) : st.fillLine line = st := by
  have hbad : st.badOfLine line = [] := by
    refine List.filter_eq_nil_iff.mpr fun u hu => ?_
    obtain ⟨k, hk, rfl⟩ := List.mem_map.mp hu
    have hline : (line * 16 + k) / 16 = line := by have := List.mem_range.mp hk; omega
    rw [Store.fillsBad, Store.hbmUnit_correct fun p hp => by rw [hline]; exact h p hp]
    exact Bool.false_ne_true
  have hkept : (st.hbmEcc.filter fun p => p.1 / 16 != line) = st.hbmEcc := List.filter_eq_self.mpr fun p hp => by simp [h p hp]
  cases hopen : st.hbmEcc.isEmpty || st.dirty.contains line with
  | true => rw [Store.fillLine, if_pos hopen]
  | false => rw [Store.fillLine_eq hopen, hbad, hkept]; rfl

/-- A read of it finds nothing in HBM. -/
theorem State.senseHbm_correct (count : State → ErrLoc → Nat → State) {s : State} {u : Nat} (h : ∀ p ∈ s.store.hbmEcc, p.1 / 16 ≠ u / 16) :
    s.senseHbmBy count u = s := by
  have hgroup (k : Nat) (hk : k ∈ List.range 4) : s.store.hbmGroup (u / 16 * 4 + k) = none := by
    rw [Store.hbmGroup, Option.map_eq_none_iff, List.find?_eq_none]
    intro p hp hc
    have := h p hp
    have := List.mem_range.mp hk
    simp only [Bool.and_eq_true, beq_iff_eq] at hc
    omega
  have hfilled : (s.modStore fun st => st.fillLine (u / 16)) = s := by rw [State.modStore, Store.fillLine_correct h]
  unfold State.senseHbmBy
  split
  · rfl
  · dsimp only
    rw [hfilled]
    exact List.foldlRecOn (motive := (· = s)) _ _ rfl fun t ht k hk => by rw [hgroup k hk]; exact ht

/-- A read of a correct unit at its home changes nothing. -/
theorem State.senseUnit_correct {s : State} {u : Nat} (h : s.store.CorrectUnit u) : s.senseUnit u = s := by
  have hown : (s.store.ecc.find? fun p => p.1 == s.store.resolve (u * 8) / 8).map (·.2) = none := (Option.or_eq_none_iff.mp h.ecc).1
  unfold State.senseUnit State.senseUnitBy
  simp only [State.senseHomeTag_correct State.countError h.tagEcc, hown]
  exact State.senseHbm_correct _ h.hbmEcc

/-- Nor does a read of a die's copy of it. -/
theorem State.senseCopy_correctUnit {s : State} {u : Nat} (h : s.store.CorrectUnit u) (d : Die) :
    s.senseCopy d (s.store.resolve (u * 8) / 8) = s := by
  let a := s.store.resolve (u * 8) / 8
  have htag : (if s.store.tagEcc.isEmpty then s else s.senseTagBy State.countError d (a / 16)) = s := by
    rw [State.senseTag_correct State.countError h.tagEcc, ite_self]
  have hcopy : ((s.store.copyOf d (a / 16)).bind fun (r : RLine) => (r.ecc.find? fun p => p.1 == a).map (·.2)) = none := by
    refine Option.bind_eq_none_iff.mpr fun r hr => ?_
    rw [Option.map_eq_none_iff, List.find?_eq_none]
    exact fun p hp => by simp [a, h.remote r (List.mem_of_find?_eq_some hr) p hp]
  unfold State.senseCopy State.senseCopyBy
  simp only [a] at htag hcopy
  simp only [htag, hcopy]

/-- It is not bad for any die. -/
theorem Store.CorrectUnit.badFor {st : Store} {u : Nat} (h : st.CorrectUnit u) (d : Die) : st.badFor d u = false := by
  unfold Store.badFor
  simp only []
  split
  next r hr =>
    have hmem : r ∈ st.remote := by
      split at hr
      · exact List.mem_of_find?_eq_some hr
      · cases hr
    rw [List.any_eq_false]
    exact fun p hp => by simp [h.remote r hmem p hp]
  next => exact h.good

section

variable {s : State} {l n : Nat} (h : s.clean l n)
include h

/-- A read of a correct range at its home leaves the state. -/
theorem State.sense_correct : s.sense l n = s := by
  unfold State.sense
  split
  · rfl
  · exact List.foldlRecOn (motive := (· = s)) _ _ rfl fun t ht u hu => by rw [ht, State.senseUnit_correct (h.correctUnit hu)]

/-- And so does one by an agent of a die. -/
theorem State.senseFor_correct (d : Die) : s.senseFor d l n = s := by
  unfold State.senseFor
  split
  · rfl
  · refine List.foldlRecOn (motive := (· = s)) _ _ rfl fun t ht u hu => ?_
    dsimp only
    rw [ht, State.senseUnit_correct (h.correctUnit hu), State.senseCopy_correctUnit (h.correctUnit hu), ite_self]

/-- It touches no poison. -/
theorem State.anyBad_correct : s.store.anyBad l n = false :=
  List.any_eq_false.mpr fun _ hu => ne_true_of_eq_false (h.correctUnit hu).good

theorem State.anyBadFor_correct (d : Die) : s.store.anyBadFor d l n = false :=
  List.any_eq_false.mpr fun _ hu => ne_true_of_eq_false ((h.correctUnit hu).badFor d)

theorem State.acting_clean (i : Instr) : (s.acting i).clean l n := by rw [State.clean, State.acting_store]; exact h

end

end Sys2Proof.Machine

/-! ### Accesses of L and W words that may go on (01 R28; 02 R49, R52; 04 R97) -/

namespace Sys2Proof.Machine

open Sys2Proof

/-! #### The word in hand, and its access -/

@[simp] theorem State.acting_time (s : State) (i : Instr) : (s.acting i).time = s.time := by rw [State.acting, State.begin_state]; rfl

@[simp] theorem State.acting_rbv (s : State) (i : Instr) : (s.acting i).here.rbv = s.here.rbv := by rw [State.acting, State.begin_bank]

@[simp] theorem State.acting_v (s : State) (i : Instr) : (s.acting i).here.v = s.here.v := by rw [State.acting, State.begin_bank]

@[simp] theorem State.acting_ofDet (s : State) (i : Instr) : (s.acting i).here.ofDet = s.here.ofDet := by
  rw [State.acting, State.begin_bank]; rfl

@[simp] theorem State.acting_queue (s : State) (i : Instr) (e : Engine) : (s.acting i).here.queue e = s.here.queue e := by
  rw [State.acting, State.begin_bank]; cases e <;> rfl

theorem State.acting_bank_ne (s : State) (i : Instr) {n : BankId} (h : n ≠ s.cur) : (s.acting i).bank n = s.bank n := by
  rw [State.acting, State.begin_state]; exact State.bank_setBank_ne _ _ h

/-- The entry with which a word makes an access: what it waited for has come, and the access is noted with its TIME. -/
def Entry.atAccess (x : Entry) (time : Nat) : Entry := { x with
  full := false, alloc := if x.alloc = .arrived then .none else x.alloc, since := x.since.take x.accessNo ++ [time] }

/-- The entry with which a word writes: its allocation answer has been used (02 R49). -/
def Entry.atWrite (x : Entry) (time : Nat) : Entry := { x.atAccess time with alloc := .none }

theorem Entry.atPage_since (x : Entry) (time : Nat) :
    { x.atPage with since := x.atPage.since.take x.atPage.accessNo ++ [time] } = x.atAccess time := by
  unfold Entry.atPage Entry.atAccess
  dsimp only
  split <;> rfl

/-- An access that may go on acts, and leaves the home of its page (02 R52). -/
theorem State.access_go {s : State} {e : Engine} {i : Instr} {acc : Entry → Access} {last : Entry → Bool} (go : State → Entry → Nat → State)
    {c : Capture} (h : s.accessGo e i (acc (s.inHand i)) (last (s.inHand i)) c) : s.access e i acc last go =
      (s.acting i).leaving (s.inHand i).uid (go (s.acting i) ((s.inHand i).atAccess s.time) (c.h.loc + (acc (s.inHand i)).o)) := by
  obtain ⟨hcap, hgate, hcheck, hlock, hbehind⟩ := h
  rw [← s.acting_store i] at hgate hlock hbehind
  rw [← s.acting_cur i] at hbehind
  have hfst : (s.begin i).1 = s.inHand i := rfl
  have hsnd : (s.begin i).2 = s.acting i := rfl
  unfold State.access
  simp only [hfst, hsnd]
  split
  next hnone => cases hcap.symm.trans hnone
  next c' hsome =>
    obtain rfl : c = c' := Option.some.inj (hcap.symm.trans hsome)
    rw [if_neg (not_not.mpr hgate)]
    split
    next hwait => cases hcheck.symm.trans hwait
    next hfail => cases hcheck.symm.trans hfail
    next =>
      rw [State.atHome_go (x := { s.inHand i with full := false }) _ hlock hbehind, State.acting_time, ← (s.inHand i).atPage_since]
      rfl

section

variable {s : State} {x : Entry} {c : Capture} {l : Nat} (hcap : x.cap = some c) (z : Nat) (go : State → Entry → State)
include hcap

/-- A write that needs no allocation answer, or has been given it, goes on (02 R49). -/
theorem State.allocGate_go (h : (c.h.unbacked = false ∨ s.store.resolve l < 2 ^ 48) ∨ x.alloc = .granted) :
    s.allocGate x l z go = go s { x with alloc := .none } := by
  unfold State.allocGate
  rw [hcap]
  dsimp only
  split
  next hneeds =>
    rw [Bool.and_eq_true, decide_eq_true_eq] at hneeds
    obtain ⟨hunbacked, hhigh⟩ := hneeds
    rcases h with (hbacked | hlow) | hgranted
    · cases hunbacked.symm.trans hbacked
    · omega
    · rw [hgranted]
  next => rfl

/-- A write to an unbacked line whose request has had no answer asks the home L2 for its lines, and waits at the W head (02 R49). -/
theorem State.allocGate_asks (hunbacked : c.h.unbacked = true) (hhigh : 2 ^ 48 ≤ s.store.resolve l) (halloc : x.alloc = .none ∨ x.alloc = .arrived) :
    s.allocGate x l z go = s.hold .W { x with alloc := .asked (l - c.h.loc) (linesOf (s.store.resolve l) z) } := by
  unfold State.allocGate
  rw [hcap, if_pos (by rw [Bool.and_eq_true, decide_eq_true_eq]; exact ⟨hunbacked, hhigh⟩)]
  rcases halloc with h | h <;> rw [h]

end

/-- The current access of a word that writes may go on (02 R49). -/
theorem State.allocGate_acting {s : State} {i : Instr} {c : Capture} {l : Nat} (hcap : (s.inHand i).cap = some c) (h : s.allocGo i c l) (z : Nat)
    (go : State → Entry → State) : (s.acting i).allocGate ((s.inHand i).atAccess s.time) l z go = go (s.acting i) ((s.inHand i).atWrite s.time) := by
  refine State.allocGate_go (x := (s.inHand i).atAccess s.time) hcap z go ?_
  rw [State.acting_store]
  exact h.imp_right fun hgranted => by simp [Entry.atAccess, hgranted]

/-! #### States that differ in no bank -/

/-- Two changes of one bank are one. -/
theorem State.modBank_modBank (s : State) (b : BankId) (f g : Bank → Bank) : (s.modBank b f).modBank b g = s.modBank b fun x => g (f x) := by
  simp [State.modBank]

/-- The bank that acts and the banks are the same in both. -/
structure State.SameBanks (s t : State) : Prop where
  cur : t.cur = s.cur
  banks : t.banks = s.banks

theorem State.SameBanks.bank {s t : State} (h : s.SameBanks t) (n : BankId) : t.bank n = s.bank n := by rw [State.bank, h.banks]; rfl

theorem State.SameBanks.here {s t : State} (h : s.SameBanks t) : t.here = s.here := by rw [State.here, h.cur, h.bank]; rfl

theorem State.SameBanks.refl (s : State) : s.SameBanks s := ⟨rfl, rfl⟩

theorem State.SameBanks.trans {s t u : State} (h : s.SameBanks t) (h' : t.SameBanks u) : s.SameBanks u :=
  ⟨h'.cur.trans h.cur, h'.banks.trans h.banks⟩

theorem State.SameBanks.of_standing {s t : State} (h : t.standing = s.standing) : s.SameBanks t :=
  ⟨congrArg Prod.fst h, congrArg (fun q => q.2.1) h⟩

/-- The traffic log changes no bank (20 R423). -/
theorem State.traffic_sameBanks (s : State) (req : Die → Nat) (op l n : Nat) : s.SameBanks (s.traffic req op l n) :=
  .of_standing (s.traffic_standing req op l n)

theorem State.trafficRead_sameBanks (s : State) (d : Die) (req : Die → Nat) (l n : Nat) : s.SameBanks (s.trafficRead d req l n) := by
  refine .of_standing ?_
  unfold State.trafficRead
  simp only []
  split
  · refine foldl_keeps State.standing (fun t x => ?_) _ s
    split
    · split
      · exact t.logLine_standing ..
      · rfl
    · exact t.traffic_standing ..
  · exact s.traffic_standing ..

/-- Nor does leaving the home of a page. -/
theorem State.leaving_sameBanks (a : State) (uid : Nat) (t : State) : t.SameBanks (a.leaving uid t) := by
  obtain ⟨as, h⟩ := a.leaving_eq uid t
  rw [h]; exact ⟨rfl, rfl⟩

theorem State.leaving_marksAside (a : State) (uid : Nat) (t : State) : (a.leaving uid t).store.marksAside = t.store.marksAside := by
  obtain ⟨as, h⟩ := a.leaving_eq uid t
  rw [h]; rfl

/-- What a die reads does not go by the marks of accesses that wait at homes. -/
theorem State.viewByte_leaving (a : State) (uid : Nat) (t : State) : (a.leaving uid t).store.viewByte = t.store.viewByte := by
  obtain ⟨as, h⟩ := a.leaving_eq uid t
  rw [h]; rfl

/-! #### A repetition that passes, and an operation that issues -/

theorem Bank.sameRegisters.refl (b : Bank) : b.sameRegisters b :=
  ⟨rfl, rfl, rfl, rfl, rfl, rfl, rfl, rfl, rfl, rfl, rfl, rfl, rfl, rfl, rfl, rfl, rfl, rfl⟩

/-- An entry whose pops are taken and that keeps its queue head changes tokens and its queue, and nothing else (04 R97; 07 R166). -/
theorem Bank.keepHead_frame (b : Bank) (e : Engine) (sy : Sync) (x y : Entry) : (b.doPops e sy x).hold e y = { b with
    tok := (b.doPops e sy x).tok, qS := ((b.doPops e sy x).hold e y).qS, qL := ((b.doPops e sy x).hold e y).qL
    qC := ((b.doPops e sy x).hold e y).qC, qW := ((b.doPops e sy x).hold e y).qW } := by
  rw [Bank.hold, Bank.setQueue_frame]
  rw [Bank.doPops_frame]

theorem Bank.queue_keepHead (b : Bank) (e : Engine) (sy : Sync) (x y : Entry) : ((b.doPops e sy x).hold e y).queue e = y :: b.queue e := by
  rw [Bank.hold, Bank.queue_setQueue, Bank.doPops_frame]
  cases e <;> rfl

/-- The word keeps its head: registers and operations are as before. -/
structure keptHead (s t : State) (e : Engine) (y : Entry) : Prop where
  registers : s.here.sameRegisters t.here
  others : ∀ n, n ≠ s.cur → t.bank n = s.bank n
  ops : t.here.ops = s.here.ops
  queue : t.here.queue e = y :: s.here.queue e

section

variable {s u t : State} {i : Instr} {e : Engine} (hu : (s.acting i).SameBanks u)
include hu

/-- The banks after a change of the bank that executes. -/
theorem State.SameBanks.changed {f : Bank → Bank} (ht : (u.modBank u.cur f).SameBanks t) :
    t.here = f (s.acting i).here ∧ ∀ n, n ≠ s.cur → t.bank n = s.bank n := by
  refine ⟨by rw [ht.here, State.here_modBank, hu.here], fun n hn => ?_⟩
  have hcur : n ≠ u.cur := by rw [hu.cur, State.acting_cur]; exact hn
  rw [ht.bank, State.bank_modBank_ne _ _ hcur, hu.bank, s.acting_bank_ne i hn]

theorem keptHead_of_hold {sy : Sync} {x y : Entry} (ht : (u.modBank u.cur fun b => (b.doPops e sy x).hold e y).SameBanks t) :
    keptHead s t e y := by
  obtain ⟨hhere, hothers⟩ := hu.changed ht
  refine ⟨?_, hothers, ?_, ?_⟩
  · rw [hhere, Bank.keepHead_frame]; exact s.acting_sameRegisters i
  · rw [hhere, Bank.keepHead_frame]; exact s.acting_ops i
  · rw [hhere, Bank.queue_keepHead, State.acting_queue]

/-- The bank after an operation has issued in it, and the others. -/
theorem issued_of_issue {us : Uses} {y : Entry} {o : Op} (ht : (u.modBank u.cur fun b => b.issue e us y o).SameBanks t) :
    s.here.sameRegisters t.here ∧ (∀ n, n ≠ s.cur → t.bank n = s.bank n) ∧ t.here.ops = s.here.ops ++ [o] := by
  obtain ⟨hhere, hothers⟩ := hu.changed ht
  refine ⟨?_, hothers, ?_⟩
  · rw [hhere]; exact Bank.issue_sameRegisters _ _ _ _ (s.acting_sameRegisters i)
  · rw [hhere, Bank.issue_ops, State.acting_ops]

/-- A repetition that has passed, of an entry of that number and repetition (04 R97; 07 R178). -/
theorem repetitionDone_passed {x y : Entry} {last : Bool} {blocks : List Nat} (huid : y.uid = x.uid) (hrep : y.rep = x.rep)
    (ht : (u.passed e i y last blocks).SameBanks t) : repetitionDone s t e x last y.got y.puts := by
  cases last with
  | true =>
    obtain ⟨hregs, hothers, hops⟩ := issued_of_issue hu (o := opOf e (usesOf i) y blocks y.got y.puts) ht
    exact ⟨hregs, hothers, _, hops, huid, rfl, rfl, rfl, rfl⟩
  | false =>
    obtain ⟨hregs, hothers, hops, hqueue⟩ := keptHead_of_hold hu (y := { y with popped := true, rep := y.rep + 1, seg := 0 }) ht
    exact ⟨hregs, hothers, hops, _, hqueue, huid, congrArg (· + 1) hrep, rfl, rfl, rfl⟩

/-- The last segment of a repetition has passed with it (10 R231). -/
theorem repetitionDone_passedSeg {x y : Entry} {last : Bool} {blocks : List Nat} (hseg : y.seg = 7) (huid : y.uid = x.uid) (hrep : y.rep = x.rep)
    (ht : (u.passedSeg e i y last blocks).SameBanks t) : repetitionDone s t e x last y.got y.puts := by
  rw [State.passedSeg, if_pos hseg] at ht
  exact repetitionDone_passed hu huid hrep ht

/-- Another segment keeps the head for the next. -/
theorem keptHead_passedSeg {y : Entry} {last : Bool} {blocks : List Nat} (hseg : y.seg ≠ 7)
    (ht : (u.passedSeg e i y last blocks).SameBanks t) : keptHead s t e { y with popped := true, seg := y.seg + 1 } := by
  rw [State.passedSeg, if_neg hseg] at ht
  exact keptHead_of_hold hu ht

/-- A synchronising operation that has issued (04 R97, R103). -/
theorem syncIssued_of_issue {us : Uses} {x y : Entry} {o : Op} {scope l : Nat} (huid : o.uid = x.uid) (heng : o.eng = e) (hputs : o.puts = [])
    (hscope : o.scope = some (effScope scope l)) (ht : (u.modBank u.cur fun b => b.issue e us y o).SameBanks t) :
    syncIssued s t e x scope l o.loads o.waiting := by
  obtain ⟨hregs, hothers, hops⟩ := issued_of_issue hu ht
  exact ⟨hregs, hothers, o, hops, huid, heng, rfl, hputs, hscope, rfl⟩

end

/-! #### What is still to be performed as an access ends (02 R52) -/

/-- An operation that is still to be performed, or stores. -/
theorem Bank.unperformed_of_op {b : Bank} {o : Op} (ho : o ∈ b.ops) (h : o.pend = true ∨ o.puts ≠ []) : b.unperformed o.uid = true := by
  have hstill : (o.pend || !o.puts.isEmpty || !o.ent.late.isEmpty) = true := by
    rcases h with h | h
    · simp [h]
    · simp [h]
  have hany : (b.ops.any fun q => q.uid == o.uid && (q.pend || !q.puts.isEmpty || !q.ent.late.isEmpty)) = true :=
    List.any_eq_true.mpr ⟨o, ho, by rw [beq_self_eq_true, hstill]; rfl⟩
  rw [Bank.unperformed, hany]
  rfl

/-- A word at the W head that waits for its lines, or has something to store. -/
theorem Bank.unperformed_of_head {b : Bank} {x : Entry} {rest : List Entry} (hx : b.qW = x :: rest) (h : x.alloc ≠ .none ∨ x.puts ≠ []) :
    b.unperformed x.uid = true := by
  have hstill : (x.alloc != .none || !x.puts.isEmpty || !x.late.isEmpty) = true := by
    rcases h with h | h
    · simp [h]
    · simp [h]
  have hany : ((b.qL ++ b.qW).any fun q => q.uid == x.uid && (q.alloc != .none || !q.puts.isEmpty || !q.late.isEmpty)) = true :=
    List.any_eq_true.mpr ⟨x, by simp [hx], by rw [beq_self_eq_true, hstill]; rfl⟩
  rw [Bank.unperformed, hany, Bool.or_true]
  rfl

end Sys2Proof.Machine

/-! ### Scalar and vector loads (10 R229-R231) -/

namespace Sys2Proof.Machine

open Sys2Proof

/-! #### What a load reads -/

/-- The state after a read of a correct range: a choice is used, the access is logged, and remote lines are asked for (03 R79; 20 R423). -/
def State.afterRead (s : State) (l z : Nat) : State :=
  (s.choose.2.trafficRead (dieOf s.cur) (reqOf s.cur) l z).modStore fun st => st.askFills (dieOf s.cur) l z

theorem State.afterRead_sameBanks (s : State) (l z : Nat) : s.SameBanks (s.afterRead l z) := by
  have h := s.choose.2.trafficRead_sameBanks (dieOf s.cur) (reqOf s.cur) l z
  exact ⟨h.cur, h.banks⟩

/-- Where nothing is logged, a read changes no byte that any die reads. -/
theorem State.viewByte_afterRead {s : State} (hoff : s.filtersOff) (l z : Nat) : (s.afterRead l z).store.viewByte = s.store.viewByte := by
  rw [State.afterRead, State.trafficRead_off (s := s.choose.2) hoff]; rfl

theorem State.readFor_correct {s : State} {l z : Nat} (h : s.clean l z) (x : Entry) (o : Nat) (go : State → List Byte → Nat → State) :
    s.readFor x o l z go = go (s.afterRead l z) (s.store.view (dieOf s.cur) l z) (lateMask x (s.choices.headD 0) l z) := by
  unfold State.readFor
  simp only [State.senseFor_correct h, State.anyBadFor_correct h]
  rfl

/-- An access of a load that may go on, to a correct range, gives its bytes and the units of it to be read later. -/
theorem State.accessRead_go {s : State} {i : Instr} {acc : Entry → Access} {last : Entry → Bool} {c : Capture} {z : Nat} (off : Entry → Nat)
    (body : Entry → Nat → State → List Byte → Nat → State) (hgo : s.accessGo .L i (acc (s.inHand i)) (last (s.inHand i)) c)
    (hclean : s.clean (c.h.loc + (acc (s.inHand i)).o) z) :
    let l := c.h.loc + (acc (s.inHand i)).o
    s.access .L i acc last (fun t x l => t.readFor x (off x) l z (body x l)) = (s.acting i).leaving (s.inHand i).uid
      (body ((s.inHand i).atAccess s.time) l ((s.acting i).afterRead l z) (s.store.view (dieOf s.cur) l z)
        (lateMask (s.inHand i) (s.choices.headD 0) l z)) := by
  intro l
  rw [State.access_go _ hgo]
  simp only [State.readFor_correct (State.acting_clean hclean i), State.acting_store, State.acting_cur, State.acting_choices]
  rfl

/-- The entry of a load with what its access has read, and the parts of it that are read later. -/
def Entry.withRead (x : Entry) (l : Nat) (bs : List Byte) (form : LoadForm) (mask : Nat) (w : RegW) : Entry := { x with
  late := (x.noteLate x.got.length l bs form mask).late, got := x.got ++ [w] }

theorem Entry.noteLate_got (x : Entry) (l : Nat) (bs : List Byte) (form : LoadForm) (mask : Nat) (w : RegW) :
    { x.noteLate x.got.length l bs form mask with got := x.got ++ [w] } = x.withRead l bs form mask w := by
  unfold Entry.withRead Entry.noteLate
  split <;> rfl

theorem Store.length_view (st : Store) (d : Die) (l n : Nat) : (st.view d l n).length = n := by simp [Store.view]

@[simp] theorem State.passed_store (s : State) (e : Engine) (i : Instr) (x : Entry) (last : Bool) (blocks : List Nat) :
    (s.passed e i x last blocks).store = s.store := rfl

@[simp] theorem State.passedSeg_store (s : State) (e : Engine) (i : Instr) (x : Entry) (last : Bool) (blocks : List Nat) :
    (s.passedSeg e i x last blocks).store = s.store := by
  unfold State.passedSeg; split <;> rfl

/-- No byte of memory reads otherwise after a load, which leaves the home of its page with the storage that its read left. -/
theorem State.viewByte_loaded {s t : State} {i : Instr} (l z : Nat) {uid : Nat} (ht : t.store = ((s.acting i).afterRead l z).store) (hoff : s.filtersOff)
    (d : Die) (b : Nat) : ((s.acting i).leaving uid t).store.viewByte d b = s.store.viewByte d b := by
  rw [State.viewByte_leaving, ht, State.viewByte_afterRead (s.acting_filtersOff i hoff), State.acting_store]

/-! #### Scalar loads -/

section

variable {s : State} {i : Instr} {a : MemS} {z : Nat} {form : LoadForm} {c : Capture}
  (hgo : s.accessGo .L i (loadAccess a.step z z (s.inHand i)) ((s.inHand i).rep == a.rep.toNat) c)
  (hclean : s.clean (c.h.loc + (s.inHand i).repOffset a.step z) z)

/-- The register of the current repetition (07 R178). -/
def Entry.repReg (x : Entry) (reg : BitVec 5) : BitVec 5 := reg + BitVec.ofNat 5 x.rep

/-- A scalar load's repetition is done with at once: it is not the last, no part of it is read later, and no earlier word has still to write
its register (07 R164; 10 R229; log entry 61). -/
def State.loadsNow (s : State) (i : Instr) (a : MemS) (l z : Nat) : Bool :=
  !((s.inHand i).rep == a.rep.toNat) && lateMask (s.inHand i) (s.choices.headD 0) l z == 0
    && (s.acting i).here.firstWriter (s.inHand i).uid ((s.inHand i).repReg a.reg)

include hgo hclean

/-- What a scalar load that may go on does. -/
theorem State.loadScalar_go : let x := s.inHand i; let y := x.atAccess s.time; let l := c.h.loc + x.repOffset a.step z
    let u := (s.acting i).afterRead l z; let bs := s.store.view (dieOf s.cur) l z; let last := x.rep == a.rep.toNat
    s.loadScalar i a z form = (s.acting i).leaving x.uid (if s.loadsNow i a l z then
      (u.modBank u.cur fun b => b.setS (x.repReg a.reg) (extended form bs)).passed .L i { y with done := x.done ++ [x.repReg a.reg] } false
        (u.repBlocks y a.rep a.step z)
      else u.passed .L i (y.withRead l bs form (lateMask x (s.choices.headD 0) l z) (.s (x.repReg a.reg) (extended form bs))) last
        (u.repBlocks y a.rep a.step z)) := by
  intro x y l u bs last
  have hnow : (!last && decide (lateMask x (s.choices.headD 0) l z = 0) && u.here.firstWriter x.uid (x.repReg a.reg)) = s.loadsNow i a l z := by
    rw [((s.acting i).afterRead_sameBanks l z).here]; rfl
  rw [← hnow, ← Entry.noteLate_got]
  exact State.accessRead_go _ _ hgo hclean

/-- A repetition whose data does not arrive at once passes with it. -/
theorem State.loadScalar_later (hnow : s.loadsNow i a (c.h.loc + (s.inHand i).repOffset a.step z) z = false) :
    let x := s.inHand i; let bs := s.store.view (dieOf s.cur) (c.h.loc + x.repOffset a.step z) z
    repetitionDone s (s.loadScalar i a z form) .L x (x.rep == a.rep.toNat) (x.got ++ [.s (x.repReg a.reg) (extended form bs)]) x.puts := by
  intro x bs
  rw [State.loadScalar_go hgo hclean, if_neg (by rw [hnow]; exact Bool.false_ne_true)]
  exact repetitionDone_passed (State.afterRead_sameBanks ..) rfl rfl (State.leaving_sameBanks ..)

/-- One whose data arrives at once writes its register, and the word keeps its head (07 R164; 10 R229). -/
theorem State.loadScalar_now (hnow : s.loadsNow i a (c.h.loc + (s.inHand i).repOffset a.step z) z = true) :
    let x := s.inHand i; let r := x.repReg a.reg; let t := s.loadScalar i a z form
    let v := extended form (s.store.view (dieOf s.cur) (c.h.loc + x.repOffset a.step z) z)
    t.here.sreg r = (if r = 0 then 0 else v) ∧ (∀ k, k ≠ r → t.here.sreg k = s.here.sreg k)
      ∧ s.here.sameRegisters { t.here with s := s.here.s } ∧ t.here.ops = s.here.ops ∧ (∀ n, n ≠ s.cur → t.bank n = s.bank n)
      ∧ ∃ y, t.here.qL = y :: s.here.qL ∧ y.uid = x.uid ∧ y.rep = x.rep + 1 ∧ y.seg = 0 ∧ y.got = x.got ∧ y.done = x.done ++ [r] := by
  intro x r t v
  let y : Entry := { x.atAccess s.time with done := x.done ++ [r] }
  let w : Entry := { y with popped := true, rep := y.rep + 1, seg := 0 }
  let u := (s.acting i).afterRead (c.h.loc + x.repOffset a.step z) z
  have ht : t = (s.acting i).leaving x.uid (u.modBank u.cur fun b => ((b.setS r v).doPops .L (usesOf i).sy y).hold .L w) :=
    (State.loadScalar_go hgo hclean).trans ((congrArg _ (if_pos hnow)).trans (congrArg _
      (State.modBank_modBank u u.cur (fun b => b.setS r v) fun b => (b.doPops .L (usesOf i).sy y).hold .L w)))
  obtain ⟨hhere, hothers⟩ := ((s.acting i).afterRead_sameBanks _ z).changed (t := t) (by rw [ht]; exact State.leaving_sameBanks ..)
  have hsreg (k : BitVec 5) : t.here.sreg k = ((s.acting i).here.setS r v).sreg k := by rw [hhere, Bank.keepHead_frame]; rfl
  refine ⟨?_, fun k hk => ?_, ?_, ?_, hothers, w, ?_, rfl, rfl, rfl, rfl, rfl⟩
  · rw [hsreg, Bank.sreg_setS]
    by_cases hr : r = 0
    · rw [if_neg fun h => h.2 hr, if_pos hr, hr]; rfl
    · rw [if_pos ⟨rfl, hr⟩, if_neg hr]
  · rw [hsreg, Bank.sreg_setS, if_neg fun h => hk h.1, State.acting_sreg]
  · rw [hhere, Bank.keepHead_frame, Bank.setS_frame]; exact ⟨rfl, (s.acting_sameRegisters i).2⟩
  · rw [hhere, Bank.keepHead_frame, Bank.setS_frame]; exact s.acting_ops i
  · have hqueue := ((s.acting i).here.setS r v).queue_keepHead .L (usesOf i).sy y w
    rw [← hhere, Bank.setS_frame] at hqueue
    exact hqueue.trans (congrArg _ (s.acting_queue i .L))

/-- Memory reads as before. -/
theorem State.loadScalar_viewByte (hoff : s.filtersOff) (d : Die) (b : Nat) :
    (s.loadScalar i a z form).store.viewByte d b = s.store.viewByte d b := by
  rw [State.loadScalar_go hgo hclean]
  refine State.viewByte_loaded (c.h.loc + (s.inHand i).repOffset a.step z) z ?_ hoff d b
  split <;> rfl

end

/-- The scalar loads with their sizes and extensions (10 Table 10.1). -/
theorem exec_scalarLoads (a : MemS) (s : State) : ∀ p ∈ scalarLoads a, ∃ form, exec p.1 s = .next (s.loadScalar p.1 a p.2.1 form)
    ∧ ∀ bs : List Byte, bs.length = p.2.1 → extended form bs = p.2.2 (leNat bs) := by
  have hsigned {bs : List Byte} {z : Nat} (h : bs.length = z) : extended .sext bs = (BitVec.ofNat (8 * z) (leNat bs)).signExtend 64 := by
    rw [extended, signed, h]
  simp only [scalarLoads, List.forall_mem_cons]
  exact ⟨⟨.sext, rfl, fun _ => hsigned⟩, ⟨.zext, rfl, fun _ _ => rfl⟩, ⟨.sext, rfl, fun _ => hsigned⟩, ⟨.zext, rfl, fun _ _ => rfl⟩,
    ⟨.sext, rfl, fun _ => hsigned⟩, ⟨.zext, rfl, fun _ _ => rfl⟩, ⟨.zext, rfl, fun _ _ => rfl⟩, List.forall_mem_nil _⟩

end Sys2Proof.Machine

namespace Sys2Proof

open Sys2Proof.Machine

/-- Settles O10: a scalar load's repetition passes with its bytes, extended, or has written its register at once. -/
theorem scalarLoads : Obligations.ScalarLoads := by
  intro s a c p hp x o last r v now hgo hclean
  obtain ⟨form, hexec, hextended⟩ := exec_scalarLoads a s p hp
  have hv : extended form (s.store.view (dieOf s.cur) (c.h.loc + o) p.2.1) = v := hextended _ (Store.length_view ..)
  refine ⟨_, hexec, fun hnow => ?later, fun hnow => ?now, State.loadScalar_viewByte hgo hclean⟩
  case later => rw [← hv]; exact State.loadScalar_later hgo hclean hnow
  case now => rw [← hv]; exact State.loadScalar_now hgo hclean hnow

end Sys2Proof
/-! #### Vector loads -/

namespace Sys2Proof.Machine

open Sys2Proof

/-- The physical register of a vector word's repetition goes by the base that stands as the word acts (07 R176; log entry 65). -/
theorem State.SameBanks.vecTarget {s u : State} {i : Instr} (hu : (s.acting i).SameBanks u) (reg : BitVec 6) (x : Entry) :
    u.vecTarget reg x = physV s.here.rbv (reg.toNat + x.rep) := by
  rw [State.vecTarget, hu.here, State.acting_rbv]

section

variable {s : State} {i : Instr} {acc : Entry → Access} {last : Entry → Bool} {c : Capture} {z : Nat} (off : Entry → Nat) (form : LoadForm)
  (write : State → Entry → List Byte → RegW) (pass : State → Entry → Entry → State)

/-- A word that loads: each access reads, takes the write that it brings, and passes. -/
def State.loadWord (s : State) (i : Instr) (acc : Entry → Access) (last : Entry → Bool) (z : Nat) (off : Entry → Nat) (form : LoadForm)
    (write : State → Entry → List Byte → RegW) (pass : State → Entry → Entry → State) : State :=
  s.access .L i acc last fun s x l => s.readFor x (off x) l z fun s bs mask =>
    pass s x { x.noteLate x.got.length l bs form mask with got := x.got ++ [write s x bs] }

variable (hgo : s.accessGo .L i (acc (s.inHand i)) (last (s.inHand i)) c) (hclean : s.clean (c.h.loc + (acc (s.inHand i)).o) z)
include hgo hclean

/-- What a word that loads does with an access that may go on. -/
theorem State.loadWord_go : let y := (s.inHand i).atAccess s.time; let l := c.h.loc + (acc (s.inHand i)).o; let u := (s.acting i).afterRead l z
    let bs := s.store.view (dieOf s.cur) l z
    s.loadWord i acc last z off form write pass = (s.acting i).leaving y.uid
      (pass u y (y.withRead l bs form (lateMask (s.inHand i) (s.choices.headD 0) l z) (write u y bs))) := by
  intro y l u bs
  rw [← Entry.noteLate_got]
  exact State.accessRead_go off (fun x l s bs mask => pass s x { x.noteLate x.got.length l bs form mask with got := x.got ++ [write s x bs] })
    hgo hclean

theorem State.loadWord_viewByte (hpass : ∀ u x y, (pass u x y).store = u.store) (hoff : s.filtersOff) (d : Die) (b : Nat) :
    (s.loadWord i acc last z off form write pass).store.viewByte d b = s.store.viewByte d b := by
  rw [State.loadWord_go off form write pass hgo hclean]
  exact State.viewByte_loaded (c.h.loc + (acc (s.inHand i)).o) z (hpass _ _ _) hoff d b

end

section

variable {s : State} {a : MemV} {c : Capture}

/-- VLD and VLDB: a whole register in one access (10 Table 10.3). -/
theorem State.loadWord_register {i : Instr} {z : Nat} (form : LoadForm) (reg : BitVec 6) (step : BitVec 4) (rep : BitVec 5)
    (value : List Byte → Vec) (hgo : s.accessGo .L i (loadAccess step z 8 (s.inHand i)) ((s.inHand i).rep == rep.toNat) c)
    (hclean : s.clean (c.h.loc + (s.inHand i).repOffset step z) z) :
    let x := s.inHand i
    let t := s.loadWord i (loadAccess step z 8) (fun x => x.rep == rep.toNat) z (·.repOffset step z) form
      (fun s x bs => .v (s.vecTarget reg x) (value bs) x.rep)
      fun s x y => s.passed .L i y (x.rep == rep.toNat) (s.repBlocks x rep step z)
    repetitionDone s t .L x (x.rep == rep.toNat) (x.got ++ [.v (physV s.here.rbv (reg.toNat + x.rep))
        (value (s.store.view (dieOf s.cur) (c.h.loc + x.repOffset step z) z)) x.rep]) x.puts
      ∧ (s.filtersOff → ∀ d l, t.store.viewByte d l = s.store.viewByte d l) := by
  intro x t
  have hu := (s.acting i).afterRead_sameBanks (c.h.loc + x.repOffset step z) z
  refine ⟨?_, State.loadWord_viewByte _ form _ _ hgo hclean fun _ _ _ => rfl⟩
  rw [show t = _ from State.loadWord_go _ form _ _ hgo hclean, ← hu.vecTarget reg x]
  exact repetitionDone_passed hu rfl rfl (State.leaving_sameBanks ..)

end

/-- What a segment of a VLDS brings, and how its word goes on. -/
def vldsWrite (a : MemV) (s : State) (x : Entry) (bs : List Byte) : RegW := .seg (s.vecTarget a.reg x) x.seg bs x.rep

def vldsPass (a : MemV) (s : State) (x y : Entry) : State :=
  s.passedSeg .L (.vlds a) y (x.rep == a.rep.toNat) (s.segBlocks x a.rep a.step)

/-- VLDS as a word that loads. -/
def State.vlds (s : State) (a : MemV) : State :=
  s.loadWord (.vlds a) (segAccess a.step true false) (fun x => x.rep == a.rep.toNat && x.seg == 7) 32 (·.segOffset a.step) .seg
    (vldsWrite a) (vldsPass a)

theorem exec_vlds_loadWord (a : MemV) (s : State) : exec (.vlds a) s = .next (s.vlds a) := rfl

section

variable {s : State} {a : MemV} {c : Capture} (hgo : s.accessGo .L (.vlds a) (segAccess a.step true false (s.inHand (.vlds a)))
    ((s.inHand (.vlds a)).rep == a.rep.toNat && (s.inHand (.vlds a)).seg == 7) c)
  (hclean : s.clean (c.h.loc + (s.inHand (.vlds a)).segOffset a.step) 32)
include hgo hclean

/-- One segment of a VLDS goes on to the next, or past its repetition (10 R230, R231). -/
theorem State.vlds_segment : let i : Instr := .vlds a; let x := s.inHand i; let t := s.vlds a
    let got := x.got ++ [.seg (physV s.here.rbv (a.reg.toNat + x.rep)) x.seg
      (s.store.view (dieOf s.cur) (c.h.loc + x.segOffset a.step) 32) x.rep]
    (x.seg = 7 → repetitionDone s t .L x (x.rep == a.rep.toNat) got x.puts)
      ∧ (x.seg ≠ 7 → ∃ z, keptHead s t .L z ∧ z.uid = x.uid ∧ z.rep = x.rep ∧ z.seg = x.seg + 1 ∧ z.got = got) := by
  intro i x t got
  let l := c.h.loc + x.segOffset a.step
  let u := (s.acting i).afterRead l 32
  let bs := s.store.view (dieOf s.cur) l 32
  let y := (x.atAccess s.time).withRead l bs .seg (lateMask x (s.choices.headD 0) l 32) (vldsWrite a u x bs)
  have hu : (s.acting i).SameBanks u := State.afterRead_sameBanks ..
  have hgot : y.got = got := congrArg (fun r => x.got ++ [.seg r x.seg bs x.rep]) (hu.vecTarget a.reg x)
  have ht : (vldsPass a u x y).SameBanks t := by
    rw [show t = (s.acting i).leaving x.uid (vldsPass a u x y) from State.loadWord_go _ .seg (vldsWrite a) (vldsPass a) hgo hclean]
    exact State.leaving_sameBanks ..
  rw [← hgot]
  exact ⟨fun hseg => repetitionDone_passedSeg hu hseg rfl rfl ht, fun hseg => ⟨_, keptHead_passedSeg (y := y) hu hseg ht, rfl, rfl, rfl, rfl⟩⟩

theorem State.vlds_viewByte (hoff : s.filtersOff) (d : Die) (b : Nat) : (s.vlds a).store.viewByte d b = s.store.viewByte d b :=
  State.loadWord_viewByte _ .seg (vldsWrite a) (vldsPass a) hgo hclean (fun _ _ _ => State.passedSeg_store ..) hoff d b

end

/-- Settles O11: VLD and VLDB bring a whole register with one access, VLDS a segment of it. -/
theorem vectorLoads : Obligations.VectorLoads := by
  refine fun s a c => ⟨fun hgo hclean => ?vld, fun hgo hclean => ?vldb, fun hgo hclean => ?vlds⟩
  case vld => exact ⟨_, rfl, State.loadWord_register .vec a.reg a.step a.rep vecOf hgo hclean⟩
  case vldb =>
    exact ⟨_, rfl, State.loadWord_register .bcast a.reg a.step a.rep (fun bs => vecOf ((List.range 32).flatMap fun _ => bs)) hgo hclean⟩
  case vlds =>
    obtain ⟨hlast, hnext⟩ := State.vlds_segment hgo hclean
    refine ⟨_, exec_vlds_loadWord a s, hlast, fun hseg => ?_, State.vlds_viewByte hgo hclean⟩
    obtain ⟨y, hkept, hy⟩ := hnext hseg
    exact ⟨hkept.registers, hkept.ops, y, hkept.queue, hy⟩

end Sys2Proof.Machine
/-! ### Stores (10 R229-R231; 02 R49) -/

namespace Sys2Proof.Machine

open Sys2Proof

/-! #### Words that are still to store do not leave the home of their page -/

/-- A word that keeps the W head and waits for its lines, or has something to store, stays at the home of its page. -/
theorem State.leaving_keepHead {a : State} {us : Uses} {x y : Entry} (h : y.alloc ≠ .none ∨ y.puts ≠ []) :
    let u := a.modBank a.cur fun b => (b.doPops .W us.sy x).hold .W y
    a.leaving y.uid u = u := by
  intro u
  refine State.leaving_unperformed ?_
  rw [State.bank_modBank]
  exact Bank.unperformed_of_head (Bank.queue_keepHead _ .W us.sy x y) h

/-- So does one that waits there as it came. -/
theorem State.leaving_hold {a : State} {y : Entry} (h : y.alloc ≠ .none) : a.leaving y.uid (a.hold .W y) = a.hold .W y := by
  refine State.leaving_unperformed ?_
  rw [State.hold, State.bank_modBank]
  exact Bank.unperformed_of_head rfl (.inl h)

/-- And an operation that is still to be performed, or stores. -/
theorem State.leaving_issue {a t u : State} {e : Engine} {us : Uses} {y : Entry} {o : Op} (ht : (t.modBank a.cur fun b => b.issue e us y o) = u)
    (h : o.pend = true ∨ o.puts ≠ []) : a.leaving o.uid u = u := by
  refine State.leaving_unperformed ?_
  rw [← ht, State.bank_modBank]
  exact Bank.unperformed_of_op (by rw [Bank.issue_ops]; exact List.mem_append_right _ (List.mem_singleton_self o)) h

theorem State.leaving_passed {a : State} {i : Instr} {y : Entry} {last : Bool} {blocks : List Nat} (h : y.puts ≠ []) :
    a.leaving y.uid (a.passed .W i y last blocks) = a.passed .W i y last blocks := by
  cases last with
  | true => exact State.leaving_issue (o := opOf .W (usesOf i) y blocks y.got y.puts) rfl (.inr h)
  | false => exact State.leaving_keepHead (us := usesOf i) (y := { y with popped := true, rep := y.rep + 1, seg := 0 }) (.inr h)

theorem State.leaving_passedSeg {a : State} {i : Instr} {y : Entry} {last : Bool} {blocks : List Nat} (h : y.puts ≠ []) :
    a.leaving y.uid (a.passedSeg .W i y last blocks) = a.passedSeg .W i y last blocks := by
  unfold State.passedSeg
  split
  · exact State.leaving_passed h
  · exact State.leaving_keepHead (us := usesOf i) (y := { y with popped := true, seg := y.seg + 1 }) (.inr h)

/-! #### The words -/

section

variable {s : State} {i : Instr} {acc : Entry → Access} {last : Entry → Bool} {c : Capture} {z : Nat}
  (hgo : s.accessGo .W i (acc (s.inHand i)) (last (s.inHand i)) c)
include hgo

/-- An access of a word that writes, with its allocation answer or without need of one, may go on (02 R49). -/
theorem State.accessWrite_go (body : Nat → State → Entry → State) (halloc : s.allocGo i c (c.h.loc + (acc (s.inHand i)).o)) :
    s.access .W i acc last (fun t x l => t.allocGate x l z (body l)) = (s.acting i).leaving (s.inHand i).uid
      (body (c.h.loc + (acc (s.inHand i)).o) (s.acting i) ((s.inHand i).atWrite s.time)) := by
  rw [State.access_go _ hgo, State.allocGate_acting hgo.1 halloc]

/-- One to an unbacked line whose request has had no answer asks for the lines that it touches, and waits at the W head (02 R49). -/
theorem State.accessWrite_asks (body : Nat → State → Entry → State) (hunbacked : c.h.unbacked = true)
    (hhigh : 2 ^ 48 ≤ s.store.resolve (c.h.loc + (acc (s.inHand i)).o)) (hnone : (s.inHand i).alloc = .none ∨ (s.inHand i).alloc = .arrived) :
    s.access .W i acc last (fun t x l => t.allocGate x l z (body l)) = (s.acting i).hold .W { (s.inHand i).atAccess s.time with
      alloc := .asked (acc (s.inHand i)).o (linesOf (s.store.resolve (c.h.loc + (acc (s.inHand i)).o)) z) } := by
  have hfree : ((s.inHand i).atAccess s.time).alloc = .none ∨ ((s.inHand i).atAccess s.time).alloc = .arrived := by
    rcases hnone with h | h <;> simp [Entry.atAccess, h]
  rw [← s.acting_store i] at hhigh
  rw [State.access_go _ hgo, State.allocGate_asks (x := (s.inHand i).atAccess s.time) hgo.1 z _ hunbacked hhigh hfree, State.acting_store,
    Nat.add_sub_cancel_left]
  exact State.leaving_hold (by simp)

end

/-- The entry of a store with the bytes that its access has taken, and their place. -/
def Entry.withPut (x : Entry) (p : Put) : Entry := { x with puts := x.puts ++ [p] }

theorem Entry.withPut_puts (x : Entry) (p : Put) : (x.withPut p).puts ≠ [] := by simp [Entry.withPut]

/-- The registers that a store takes its bytes from are those of its bank. -/
theorem State.vecTarget_acting (s : State) (i : Instr) (reg : BitVec 6) (x : Entry) :
    (s.acting i).vecTarget reg x = physV s.here.rbv (reg.toNat + x.rep) := (State.SameBanks.refl _).vecTarget reg x

/-- The scalar stores with their sizes (10 Table 10.1). -/
theorem exec_scalarStores (a : MemS) (s : State) : ∀ p ∈ scalarStores a, exec p.1 s = .next (s.storeScalar p.1 a p.2) := by
  simp only [scalarStores, List.forall_mem_cons]
  exact ⟨rfl, rfl, rfl, rfl, List.forall_mem_nil _⟩

/-- A store's repetition that has passed with its bytes: no storage has changed. -/
theorem storePassed {s t : State} {i : Instr} {last : Bool} {blocks : List Nat} (p : Put) (ht : t = (s.acting i).leaving (s.inHand i).uid
      ((s.acting i).passed .W i (((s.inHand i).atWrite s.time).withPut p) last blocks)) :
    t.store = s.store ∧ repetitionDone s t .W (s.inHand i) last (s.inHand i).got ((s.inHand i).puts ++ [p]) := by
  have hstays := ht.trans (State.leaving_passed (y := ((s.inHand i).atWrite s.time).withPut p) (Entry.withPut_puts _ _))
  rw [hstays]
  exact ⟨s.acting_store i, repetitionDone_passed (y := ((s.inHand i).atWrite s.time).withPut p) (.refl _) rfl rfl (.refl _)⟩

/-- The same of a word that goes by segments (10 R230, R231). -/
theorem storePassedSeg {s t : State} {i : Instr} {last : Bool} {blocks : List Nat} (p : Put) (ht : t = (s.acting i).leaving (s.inHand i).uid
      ((s.acting i).passedSeg .W i (((s.inHand i).atWrite s.time).withPut p) last blocks)) :
    let x := s.inHand i; let puts := x.puts ++ [p]
    t.store = s.store ∧ (x.seg = 7 → repetitionDone s t .W x last x.got puts)
      ∧ (x.seg ≠ 7 → ∃ z, keptHead s t .W z ∧ z.uid = x.uid ∧ z.rep = x.rep ∧ z.seg = x.seg + 1 ∧ z.puts = puts) := by
  intro x puts
  let y := (x.atWrite s.time).withPut p
  rw [ht.trans (State.leaving_passedSeg (y := y) (Entry.withPut_puts _ _))]
  refine ⟨(State.passedSeg_store ..).trans (s.acting_store i), fun hseg => ?_, fun hseg =>
    ⟨_, keptHead_passedSeg (y := y) (.refl _) hseg (.refl _), rfl, rfl, rfl, rfl⟩⟩
  exact repetitionDone_passedSeg (y := y) (.refl _) hseg rfl rfl (.refl _)

/-- The bytes that a segment of a VSTS takes, with their place. -/
def vstsPut (a : MemV) (l : Nat) (s : State) (x : Entry) : Put where
  loc := l
  bytes := ((vecBytes (s.here.v.get (s.vecTarget a.reg x))).drop (32 * x.seg)).take 32

theorem vstsPut_acting (a : MemV) (l : Nat) (s : State) (i : Instr) (x : Entry) : vstsPut a l (s.acting i) x = {
    loc := l, bytes := ((vecBytes (s.here.v.get (physV s.here.rbv (a.reg.toNat + x.rep)))).drop (32 * x.seg)).take 32 } := by
  rw [vstsPut, State.acting_v, State.vecTarget_acting]

/-- VSTS as a word that writes by segments. -/
def State.vsts (s : State) (a : MemV) : State :=
  s.access .W (.vsts a) (segAccess a.step false true) (fun x => x.rep == a.rep.toNat && x.seg == 7) fun s x l =>
    s.allocGate x l 32 fun s x =>
      s.passedSeg .W (.vsts a) (x.withPut (vstsPut a l s x)) (x.rep == a.rep.toNat) (s.segBlocks x a.rep a.step)

theorem exec_vsts_segments (a : MemV) (s : State) : exec (.vsts a) s = .next (s.vsts a) := rfl

/-- 10 R229-R231: the bytes of each repetition, or segment, are taken with their place. -/
theorem saidStoresIssue_holds : saidStoresIssue := by
  refine fun s c => ⟨fun a p hp => ?scalar, fun a => ⟨?vst, ?vsts⟩⟩
  case scalar =>
    intro x o last hgo halloc
    exact ⟨_, exec_scalarStores a s p hp, storePassed _ (State.accessWrite_go (acc := storeAccess a.step p.2 p.2) hgo _ halloc)⟩
  case vst =>
    intro i x o last hgo halloc
    refine ⟨_, rfl, ?_⟩
    rw [← s.acting_v i, ← s.vecTarget_acting i]
    exact storePassed _ (State.accessWrite_go (acc := storeAccess a.step 256 8) hgo _ halloc)
  case vsts =>
    intro i x o last puts hgo halloc
    have hword : s.vsts a = _ := State.accessWrite_go (acc := segAccess a.step false true) hgo _ halloc
    have hpassed := storePassedSeg (vstsPut a (c.h.loc + o) (s.acting i) (x.atWrite s.time)) hword
    rw [vstsPut_acting] at hpassed
    obtain ⟨hstore, hlast, hnext⟩ := hpassed
    refine ⟨_, exec_vsts_segments a s, hstore, hlast, fun hseg => ?_⟩
    obtain ⟨y, hkept, hy⟩ := hnext hseg
    exact ⟨hkept.registers, hkept.ops, y, hkept.queue, hy⟩

/-- 02 R49: a store to an unbacked line asks for it first. -/
theorem saidStoreAsksAllocation_holds : saidStoreAsksAllocation := by
  intro s a c p hp x o last hgo hunbacked hhigh hnone
  let y : Entry := { x.atAccess s.time with alloc := .asked o (linesOf (s.store.resolve (c.h.loc + o)) p.2) }
  have hasks : s.storeScalar p.1 a p.2 = (s.acting p.1).hold .W y :=
    State.accessWrite_asks (acc := storeAccess a.step p.2 p.2) hgo _ hunbacked hhigh hnone
  have hhere : ((s.acting p.1).hold .W y).here = (s.acting p.1).here.hold .W y := State.here_modBank ..
  refine ⟨_, (exec_scalarStores a s p hp).trans (congrArg _ hasks), s.acting_store p.1, ?_, ?_⟩
  · rw [hhere]; exact s.acting_ops p.1
  · rw [hhere]; exact congrArg (y :: ·) (s.acting_queue p.1 .W)

/-- Settles O12: a store takes its bytes and their place as it issues, and asks for an unbacked line before it. -/
theorem storesIssue : Obligations.StoresIssue := ⟨saidStoresIssue_holds, saidStoreAsksAllocation_holds⟩

end Sys2Proof.Machine
/-! ### Atomics, signals and waits (10 R232-R235; 04 R96, R103) -/

namespace Sys2Proof.Machine

open Sys2Proof

/-- A choice leaves a word on an object for later (04 R96; log entry 61). -/
theorem State.not_atOnce {s : State} (h : ¬ s.atOnce) : (s.choices.headD 0).testBit 0 = true := Bool.eq_true_of_not_eq_false h

/-- A choice has been used, and the storage is `st`. -/
def State.chosen (s : State) (st : Store) : State := { s.choose.2 with store := st }

theorem State.chosen_filtersOff {s : State} (i : Instr) (st : Store) (h : s.filtersOff) : ((s.acting i).chosen st).filtersOff :=
  s.acting_filtersOff i h

/-- Nor does an access that is logged then change a bank (20 R423). -/
theorem State.chosen_sameBanks (s : State) (st : Store) (req : Die → Nat) (op l n : Nat) : s.SameBanks ((s.chosen st).traffic req op l n) := by
  have h := (s.chosen st).traffic_sameBanks req op l n
  exact ⟨h.cur, h.banks⟩

/-! #### Read-modify-writes -/

/-- What a read-modify-write does at its object, once its access may go on: it is performed as it issues, or left for later, or asks its home L2
anew where a line of the object has gone meanwhile (02 R49, R65; 04 R96). -/
def State.atomicAt (s : State) (i : Instr) (j : AtomJob) (x : Entry) (l : Nat) : State :=
  let r := s.store.rmw (dieOf s.cur) j x l
  if s.store.objectHeld l j.z then
    if (s.choices.headD 0).testBit 0 then ((s.chosen s.store).traffic (reqOf s.cur) 2 l j.z).issuePend .W i x j.scope l j.z [.s j.res r.2]
    else ((s.chosen r.1).traffic (reqOf s.cur) 2 l j.z).issueSync .W i x j.scope l j.z [.s j.res r.2] false
  else s.hold .W { x with alloc := .asked (x.caps.getD 0 0).toNat (linesOf (s.store.resolve l) j.z) }

section

variable {s : State} {i : Instr} {j : AtomJob} {c : Capture} (hgo : s.accessGo .W i (atomAccess j.z true (s.inHand i)) true c)
  (hclean : s.clean (c.h.loc + ((s.inHand i).caps.getD 0 0).toNat) j.z)
  (halloc : s.allocGo i c (c.h.loc + ((s.inHand i).caps.getD 0 0).toNat))
include hgo hclean halloc

theorem State.atomic_go : s.atomic i j = (s.acting i).leaving (s.inHand i).uid
    ((s.acting i).atomicAt i j ((s.inHand i).atWrite s.time) (c.h.loc + ((s.inHand i).caps.getD 0 0).toNat)) := by
  have hclean' := State.acting_clean hclean i
  refine (State.access_go (acc := atomAccess j.z true) (last := fun _ => true) _ hgo).trans (congrArg _ ?_)
  have hloc : c.h.loc + (atomAccess j.z true (s.inHand i)).o = c.h.loc + ((s.inHand i).caps.getD 0 0).toNat := rfl
  simp only [hloc, State.sense_correct hclean', State.anyBad_correct hclean', Bool.false_eq_true, if_false, State.allocGate_acting hgo.1 halloc]
  rfl

section

variable (hheld : s.store.objectHeld (c.h.loc + ((s.inHand i).caps.getD 0 0).toNat) j.z = true)
include hheld

/-- Performed as it issues. -/
theorem State.atomic_now (hnow : s.atOnce) : let l := c.h.loc + ((s.inHand i).caps.getD 0 0).toNat; let y := (s.inHand i).atWrite s.time
    let r := s.store.rmw (dieOf s.cur) j y l
    s.atomic i j = (s.acting i).leaving (s.inHand i).uid ((((s.acting i).chosen r.1).traffic (reqOf s.cur) 2 l j.z).issueSync .W i y j.scope l j.z [.s j.res r.2] false) := by
  have hbit : ¬((s.acting i).choices.headD 0).testBit 0 = true := by
    rw [State.acting_choices]; exact ne_true_of_eq_false hnow
  rw [State.atomic_go hgo hclean halloc, State.atomicAt, State.acting_store, if_pos hheld, if_neg hbit, State.acting_cur]

/-- Left for later. -/
theorem State.atomic_later (hlate : ¬s.atOnce) : let l := c.h.loc + ((s.inHand i).caps.getD 0 0).toNat; let y := (s.inHand i).atWrite s.time
    s.atomic i j = (s.acting i).leaving (s.inHand i).uid ((((s.acting i).chosen s.store).traffic (reqOf s.cur) 2 l j.z).issuePend .W i y j.scope
      l j.z [.s j.res (s.store.rmw (dieOf s.cur) j y l).2]) := by
  have hbit : ((s.acting i).choices.headD 0).testBit 0 = true := by
    rw [State.acting_choices]; exact State.not_atOnce hlate
  rw [State.atomic_go hgo hclean halloc, State.atomicAt, State.acting_store, if_pos hheld, if_pos hbit, State.acting_cur]

/-- One whose object is held issues with the old value, whether it has been performed or not. -/
theorem State.atomic_issued : let x := s.inHand i; let l := c.h.loc + (x.caps.getD 0 0).toNat
    syncIssued s (s.atomic i j) .W x j.scope.toNat l [.s j.res (s.store.rmw (dieOf s.cur) j (x.atWrite s.time) l).2] false := by
  intro x l
  let y := x.atWrite s.time
  let r := s.store.rmw (dieOf s.cur) j y l
  by_cases hnow : s.atOnce
  · let u := ((s.acting i).chosen r.1).traffic (reqOf s.cur) 2 l j.z
    have hu : (s.acting i).SameBanks u := State.chosen_sameBanks ..
    rw [State.atomic_now hgo hclean halloc hheld hnow]
    exact syncIssued_of_issue hu (o := { u.store.syncOp .W i y j.scope l j.z [.s j.res r.2] with waiting := false }) rfl rfl rfl rfl
      (State.leaving_sameBanks ..)
  · let u := ((s.acting i).chosen s.store).traffic (reqOf s.cur) 2 l j.z
    have hu : (s.acting i).SameBanks u := State.chosen_sameBanks ..
    rw [State.atomic_later hgo hclean halloc hheld hnow]
    exact syncIssued_of_issue hu (o := { u.store.syncOp .W i y j.scope l j.z [.s j.res r.2] with pend := true }) rfl rfl rfl rfl
      (State.leaving_sameBanks ..)

/-- Performed as it issues, it has done to the storage what its job says, where nothing is logged. -/
theorem State.atomic_performed (hoff : s.filtersOff) (hnow : s.atOnce) : let x := s.inHand i; let l := c.h.loc + (x.caps.getD 0 0).toNat
    (s.atomic i j).store.marksAside = (s.store.rmw (dieOf s.cur) j (x.atWrite s.time) l).1.marksAside := by
  intro x l
  rw [State.atomic_now hgo hclean halloc hheld hnow, State.leaving_marksAside, State.traffic_off _ _ _ _ _ (State.chosen_filtersOff i _ hoff)]
  rfl

/-- Left for later, it has not touched the storage, where nothing is logged. -/
theorem State.atomic_late (hoff : s.filtersOff) (hlate : ¬ s.atOnce) :
    (s.atomic i j).store = s.store ∧ ∃ o ∈ (s.atomic i j).here.ops, o.uid = (s.inHand i).uid ∧ o.pend = true := by
  let l := c.h.loc + ((s.inHand i).caps.getD 0 0).toNat
  let y := (s.inHand i).atWrite s.time
  let u := (s.acting i).chosen s.store
  let o : Op := { u.store.syncOp .W i y j.scope l j.z [.s j.res (s.store.rmw (dieOf s.cur) j y l).2] with pend := true }
  have hstays : (s.acting i).leaving o.uid (u.modBank u.cur fun b => b.issue .W (usesOf i) y o)
    = u.modBank u.cur fun b => b.issue .W (usesOf i) y o := State.leaving_issue rfl (.inl rfl)
  have ht : s.atomic i j = u.modBank u.cur fun b => b.issue .W (usesOf i) y o := by
    rw [State.atomic_later hgo hclean halloc hheld hlate, State.traffic_off _ _ _ _ _ (State.chosen_filtersOff i _ hoff)]
    exact hstays
  rw [ht]
  refine ⟨rfl, o, ?_, rfl, rfl⟩
  rw [State.here_modBank, Bank.issue_ops]
  exact List.mem_append_right _ (List.mem_singleton_self o)

end

/-- One whose object has lost a line asks its home L2 anew. -/
theorem State.atomic_asks (hgone : s.store.objectHeld (c.h.loc + ((s.inHand i).caps.getD 0 0).toNat) j.z = false) :
    let x := s.inHand i; let o := (x.caps.getD 0 0).toNat; let t := s.atomic i j
    t.store = s.store ∧ t.here.ops = s.here.ops
      ∧ ∃ y, t.here.qW = y :: s.here.qW ∧ y.uid = x.uid ∧ y.alloc = .asked o (linesOf (s.store.resolve (c.h.loc + o)) j.z) := by
  intro x o t
  let y : Entry := { x.atWrite s.time with alloc := .asked o (linesOf (s.store.resolve (c.h.loc + o)) j.z) }
  have ht : t = (s.acting i).hold .W y := by
    rw [show t = _ from State.atomic_go hgo hclean halloc, State.atomicAt, State.acting_store, if_neg (by rw [hgone]; exact Bool.false_ne_true)]
    exact State.leaving_hold (y := y) (by simp [y])
  have hhere : ((s.acting i).hold .W y).here = (s.acting i).here.hold .W y := State.here_modBank ..
  rw [ht]
  refine ⟨s.acting_store i, ?_, y, ?_, rfl, rfl⟩
  · rw [hhere]; exact s.acting_ops i
  · rw [hhere]; exact congrArg (y :: ·) (s.acting_queue i .W)

end

end Sys2Proof.Machine
/-! #### The atomics of Table 10.4, SEMSIG and BARARV -/

namespace Sys2Proof.Machine

open Sys2Proof

section

variable {st : Store} {d : Die} {a : Atom} {f : Word → Word → Word → Option Word} {x : Entry} {l : Nat}

/-- An atomic on an 8-byte object returns the old value (10 Table 10.4). -/
theorem Store.rmw_job8_result : (st.rmw d (job8 a f) x l).2 = BitVec.ofNat 64 (st.homeNat l 8) := rfl

theorem Store.rmw_job8_writes {n : Word} (h : f (BitVec.ofNat 64 (st.homeNat l 8)) (x.caps.getD 1 0) (x.caps.getD 2 0) = some n) :
    (st.rmw d (job8 a f) x l).1 = (st.dropCopies d l 8).put d l (leBytes 8 n.toNat) := by
  have hjob : ((job8 a f).f x ((List.range 8).map fun k => st.homeByte (l + k))).1 = some (0, leBytes 8 n.toNat) := by
    simp only [job8]
    exact congrArg (Option.map _) h
  have hz : (job8 a f).z = 8 := rfl
  simp only [Store.rmw, hz, hjob, Nat.add_zero]

theorem Store.rmw_job8_keeps (h : f (BitVec.ofNat 64 (st.homeNat l 8)) (x.caps.getD 1 0) (x.caps.getD 2 0) = none) :
    (st.rmw d (job8 a f) x l).1 = st.dropCopies d l 8 := by
  have hjob : ((job8 a f).f x ((List.range 8).map fun k => st.homeByte (l + k))).1 = none := by
    simp only [job8]
    exact congrArg (Option.map _) h
  have hz : (job8 a f).z = 8 := rfl
  simp only [Store.rmw, hz, hjob]

/-- A field of the 16 bytes of a barrier is a number at its point of coherence (10 Table 10.6). -/
theorem barField_home {k : Nat} (hk : k < 4) :
    barField ((List.range 16).map fun i => st.homeByte (l + i)) k = st.homeNat (l + 4 * k) 4 := by
  have hbytes : (((List.range 16).map fun i => st.homeByte (l + i)).drop (4 * k)).take 4 = (List.range 4).map fun i => st.homeByte (l + 4 * k + i) := by
    refine List.ext_getElem ?_ fun i _ _ => ?_
    · simp; omega
    · simp [Nat.add_assoc]
  rw [barField, hbytes, Store.homeNat]

/-- BARARV adds its arrivals, and steps the phase where they reach EXPECTED; the phase before is its result (10 R234). -/
theorem Store.rmw_bararv : let expected := st.homeNat l 4; let phase := st.homeNat (l + 8) 4
    let arrived := st.homeNat (l + 4) 4 + (x.caps.getD 1 0).toNat % 2 ^ 32
    st.rmw d (bararvJob a) x l = ((st.dropCopies d l 16).put d (l + 4)
      (if expected ≤ arrived then leBytes 4 0 ++ leBytes 4 ((phase + 1) % 2 ^ 32) else leBytes 4 arrived), BitVec.ofNat 64 phase) := by
  intro expected phase arrived
  have h0 := barField_home (st := st) (l := l) (k := 0) (by decide)
  have h1 := barField_home (st := st) (l := l) (k := 1) (by decide)
  have h2 := barField_home (st := st) (l := l) (k := 2) (by decide)
  simp only [Store.rmw, bararvJob, barArrive, h0, h1, h2]
  rfl

end

/-- The words of Table 10.4 by their jobs. -/
theorem exec_atomics (a : Atom) (s : State) : ∀ p ∈ atomics a, exec p.1 s = .next (s.atomic p.1 (job8 a p.2)) := by
  simp only [atomics, List.forall_mem_cons, ← minS_eq, ← maxS_eq]
  exact ⟨rfl, rfl, rfl, rfl, rfl, rfl, rfl, rfl, List.forall_mem_nil _⟩

/-- AFADD outside a deterministic launch (10 R233). -/
theorem exec_afadd_job {s : State} (a : Atom) (h : s.here.ofDet = false) :
    exec (.afadd a) s = .next (s.atomic (.afadd a) (job8 a fun old v _ => some (afaddValue old v))) := by
  rw [← s.acting_ofDet (.afadd a)] at h
  exact if_neg (ne_true_of_eq_false h)

end Sys2Proof.Machine

namespace Sys2Proof

open Sys2Proof.Machine

/-- Settles O13: an atomic on an object that is held issues with the old value, performed or left for later; on one that has lost a line it asks
anew. -/
theorem atomics : Obligations.Atomics := by
  intro s a c done
  have hdone (i : Instr) (f : Word → Word → Word → Option Word) (hexec : exec i s = .next (s.atomic i (job8 a f))) : done i f := by
    intro hgo hclean halloc old st
    refine ⟨fun hheld => ⟨_, hexec, ?issued, fun hoff hnow => ?performed, fun hoff hlate => ?late⟩, fun hgone => ?asks⟩
    case issued => exact State.atomic_issued (j := job8 a f) hgo hclean halloc hheld
    case performed =>
      refine (State.atomic_performed (j := job8 a f) hgo hclean halloc hheld hoff hnow).trans (congrArg Store.marksAside ?_)
      cases hf : f old ((s.inHand i).caps.getD 1 0) ((s.inHand i).caps.getD 2 0) with
      | some n => exact Store.rmw_job8_writes hf
      | none => exact Store.rmw_job8_keeps hf
    case late => exact State.atomic_late (j := job8 a f) hgo hclean halloc hheld hoff hlate
    case asks =>
      obtain ⟨hstore, hops, y, hy⟩ := State.atomic_asks (j := job8 a f) hgo hclean halloc hgone
      exact ⟨_, y, hexec, hstore, hops, hy⟩
  exact ⟨fun p hp => hdone _ _ (exec_atomics a s p hp), fun hdet => hdone _ _ (exec_afadd_job a hdet)⟩

end Sys2Proof

namespace Sys2Proof.Machine

open Sys2Proof

/-- 10 R234: SEMSIG and BARARV as read-modify-writes. -/
theorem saidSignals_holds : saidSignals := by
  intro s c d
  refine ⟨fun a => ?semsig, fun a => ?bararv⟩
  case semsig =>
    intro i x o l hgo hclean halloc hheld
    obtain ⟨-, -, q, hops, huid, -, -, -, hscope, -⟩ := State.atomic_issued (j := semsigJob a) hgo hclean halloc hheld
    exact ⟨_, rfl, ⟨q, hops, huid, hscope⟩, State.atomic_performed (j := semsigJob a) hgo hclean halloc hheld⟩
  case bararv =>
    intro i x o l expected phase arrived hgo hclean halloc hheld
    let r := s.store.rmw d (bararvJob a) (x.atWrite s.time) l
    have hr : r = _ := Store.rmw_bararv
    have hissued : syncIssued s (s.atomic i (bararvJob a)) .W x a.scope.toNat l [.s a.res r.2] false :=
      State.atomic_issued (j := bararvJob a) hgo hclean halloc hheld
    have hperformed (hoff : s.filtersOff) (hnow : s.atOnce) : (s.atomic i (bararvJob a)).store.marksAside = r.1.marksAside :=
      State.atomic_performed (j := bararvJob a) hgo hclean halloc hheld hoff hnow
    rw [hr] at hissued hperformed
    exact ⟨_, rfl, hissued, hperformed⟩

/-! #### SEMWAIT and BARWAIT -/

/-- The request of a wait at its object (10 R234, R235). -/
def waitOf (s : State) (x : Entry) (isBar : Bool) (l : Nat) : SyncWait where
  bank := s.cur
  uid := x.uid
  loc := l
  isBar := isBar
  val := x.caps.getD 1 0
  met := none

/-- The access that a word makes does not change its request. -/
theorem waitOf_acting (s : State) (i : Instr) (x : Entry) (isBar : Bool) (l : Nat) :
    waitOf (s.acting i) (x.atAccess s.time) isBar l = waitOf s x isBar l := by
  unfold waitOf
  rw [State.acting_cur]
  rfl

/-- The size of the object of a wait. -/
def waitSize (isBar : Bool) : Nat := if isBar then 16 else 8

/-- The storage with a request registered at its object. -/
def Store.withWait (st : Store) (w : SyncWait) : Store := { st with waits := st.waits ++ [w] }

/-- What a wait does at its object, once its access may go on and nothing is logged: its condition holds and it completes, or, by a choice, has
its first read later; or its condition does not hold and it waits there (10 R234, R235; log entry 61). -/
def State.waitAt (s : State) (i : Instr) (a : Atom) (x : Entry) (isBar : Bool) (l : Nat) : State :=
  let w := waitOf s x isBar l
  match w.holds s.store with
  | some v =>
    if (s.choices.headD 0).testBit 0 then
      (s.chosen (s.store.withWait { w with unread := true })).issueSync .L i x a.scope l (waitSize isBar) [] true
    else (s.chosen s.store).issueSync .L i x a.scope l (waitSize isBar) [.s a.res v] false
  | none => (s.modStore fun st => st.withWait w).issueSync .L i x a.scope l (waitSize isBar) [] true

/-- A wait that issues from a state with the same banks. -/
theorem State.issueSync_leaving {s u : State} {i : Instr} (hu : (s.acting i).SameBanks u) {x y : Entry} (huid : y.uid = x.uid) (scope : BitVec 3)
    (l z : Nat) (loads : List RegW) (waiting : Bool) :
    let t := (s.acting i).leaving x.uid (u.issueSync .L i y scope l z loads waiting)
    syncIssued s t .L x scope.toNat l loads waiting ∧ t.store.marksAside = u.store.marksAside :=
  ⟨syncIssued_of_issue hu (o := { u.store.syncOp .L i y scope l z loads with waiting := waiting }) huid rfl rfl rfl
    (State.leaving_sameBanks ..), State.leaving_marksAside ..⟩

section

variable {s : State} {i : Instr} {a : Atom} {c : Capture} {isBar : Bool}
  (hgo : s.accessGo .L i (atomAccess (waitSize isBar) false (s.inHand i)) true c)
  (hclean : s.clean (c.h.loc + ((s.inHand i).caps.getD 0 0).toNat) (waitSize isBar)) (hoff : s.filtersOff)
include hgo hclean hoff

theorem State.syncWait_go : s.syncWait i a isBar = (s.acting i).leaving (s.inHand i).uid
    ((s.acting i).waitAt i a ((s.inHand i).atAccess s.time) isBar (c.h.loc + ((s.inHand i).caps.getD 0 0).toNat)) := by
  have hclean' := State.acting_clean hclean i
  have hz : (if isBar then 16 else 8) = waitSize isBar := rfl
  have hloc : c.h.loc + (atomAccess (waitSize isBar) false (s.inHand i)).o = c.h.loc + ((s.inHand i).caps.getD 0 0).toNat := rfl
  unfold State.syncWait
  dsimp only
  rw [hz, State.access_go (acc := atomAccess (waitSize isBar) false) (last := fun _ => true) _ hgo, hloc]
  simp only [State.sense_correct hclean', State.traffic_off _ _ _ _ _ (s.acting_filtersOff i hoff), State.anyBad_correct hclean',
    Bool.false_eq_true, if_false]
  rfl

/-- A wait whose condition holds completes with its first read (10 R234, R235). -/
theorem State.syncWait_met {v : Word} (hv : (waitOf s (s.inHand i) isBar (c.h.loc + ((s.inHand i).caps.getD 0 0).toNat)).holds s.store = some v)
    (hnow : s.atOnce) : let x := s.inHand i; let t := s.syncWait i a isBar
    syncIssued s t .L x a.scope.toNat (c.h.loc + (x.caps.getD 0 0).toNat) [.s a.res v] false ∧ t.store.marksAside = s.store.marksAside := by
  intro x t
  let l := c.h.loc + (x.caps.getD 0 0).toNat
  have hbit : ¬((s.acting i).choices.headD 0).testBit 0 = true := by
    rw [State.acting_choices]; exact ne_true_of_eq_false hnow
  have ht : t = (s.acting i).leaving x.uid (((s.acting i).chosen s.store).issueSync .L i (x.atAccess s.time) a.scope l
      (waitSize isBar) [.s a.res v] false) := by
    rw [show t = _ from State.syncWait_go hgo hclean hoff, State.waitAt, waitOf_acting, State.acting_store, hv]
    exact congrArg _ (if_neg hbit)
  rw [ht]
  exact State.issueSync_leaving (u := (s.acting i).chosen s.store) ⟨rfl, rfl⟩ rfl ..

/-- One whose condition does not hold is registered at its object (10 R235). -/
theorem State.syncWait_unmet (hnone : (waitOf s (s.inHand i) isBar (c.h.loc + ((s.inHand i).caps.getD 0 0).toNat)).holds s.store = none) :
    let x := s.inHand i; let l := c.h.loc + (x.caps.getD 0 0).toNat; let t := s.syncWait i a isBar
    syncIssued s t .L x a.scope.toNat l [] true ∧ t.store.marksAside = (s.store.withWait (waitOf s x isBar l)).marksAside := by
  intro x l t
  let w := waitOf s x isBar l
  have ht : t = (s.acting i).leaving x.uid (((s.acting i).modStore fun st => st.withWait w).issueSync .L i (x.atAccess s.time) a.scope l
      (waitSize isBar) [] true) := by
    rw [show t = _ from State.syncWait_go hgo hclean hoff, State.waitAt, waitOf_acting, State.acting_store, hnone]
  rw [ht, ← s.acting_store i]
  exact State.issueSync_leaving (u := (s.acting i).modStore fun st => st.withWait w) ⟨rfl, rfl⟩ rfl ..

/-- One whose first read a choice has come later is registered as not read yet (04 R96; log entry 61). -/
theorem State.syncWait_unread {v : Word} (hv : (waitOf s (s.inHand i) isBar (c.h.loc + ((s.inHand i).caps.getD 0 0).toNat)).holds s.store = some v)
    (hlate : ¬ s.atOnce) : let x := s.inHand i; let l := c.h.loc + (x.caps.getD 0 0).toNat; let t := s.syncWait i a isBar
    syncIssued s t .L x a.scope.toNat l [] true
      ∧ t.store.marksAside = (s.store.withWait { waitOf s x isBar l with unread := true }).marksAside := by
  intro x l t
  let w : SyncWait := { waitOf s x isBar l with unread := true }
  have hbit : ((s.acting i).choices.headD 0).testBit 0 = true := by
    rw [State.acting_choices]; exact State.not_atOnce hlate
  have ht : t = (s.acting i).leaving x.uid (((s.acting i).chosen (s.store.withWait w)).issueSync .L i (x.atAccess s.time) a.scope l
      (waitSize isBar) [] true) := by
    rw [show t = _ from State.syncWait_go hgo hclean hoff, State.waitAt, waitOf_acting, State.acting_store, hv]
    exact congrArg _ (if_pos hbit)
  rw [ht]
  exact State.issueSync_leaving (u := (s.acting i).chosen (s.store.withWait w)) ⟨rfl, rfl⟩ rfl ..

/-- A wait by its condition, as a truth value. -/
theorem State.syncWait_does {holds : Bool} {v : Word}
    (hholds : (waitOf s (s.inHand i) isBar (c.h.loc + ((s.inHand i).caps.getD 0 0).toNat)).holds s.store = if holds then some v else none) :
    let x := s.inHand i; let l := c.h.loc + (x.caps.getD 0 0).toNat; let t := s.syncWait i a isBar
    (holds = true → s.atOnce → syncIssued s t .L x a.scope.toNat l [.s a.res v] false ∧ t.store.marksAside = s.store.marksAside)
      ∧ (holds = false ∨ ¬ s.atOnce → syncIssued s t .L x a.scope.toNat l [] true
        ∧ t.store.marksAside = (s.store.withWait { waitOf s x isBar l with unread := holds }).marksAside) := by
  cases holds with
  | true =>
    refine ⟨fun _ hnow => State.syncWait_met hgo hclean hoff hholds hnow, ?_⟩
    rintro (h | hlate)
    · exact (Bool.false_ne_true h.symm).elim
    · exact State.syncWait_unread hgo hclean hoff hholds hlate
  | false => exact ⟨fun h => (Bool.false_ne_true h).elim, fun _ => State.syncWait_unmet hgo hclean hoff hholds⟩

end

/-- The condition of SEMWAIT (10 R234). -/
theorem semwait_holds (s : State) (x : Entry) (l : Nat) : (waitOf s x false l).holds s.store =
    if decide ((x.caps.getD 1 0).toNat ≤ s.store.homeNat l 8) then some (BitVec.ofNat 64 (s.store.homeNat l 8)) else none :=
  (if_neg Bool.false_ne_true).trans (if_congr decide_eq_true_iff rfl rfl).symm

/-- The condition of BARWAIT (10 R234). -/
theorem barwait_holds (s : State) (x : Entry) (l : Nat) : (waitOf s x true l).holds s.store =
    if decide (s.store.homeNat (l + 8) 4 ≠ (x.caps.getD 1 0).toNat % 2 ^ 32) then some (BitVec.ofNat 64 (s.store.homeNat (l + 8) 4)) else none :=
  (if_pos rfl).trans (if_congr decide_eq_true_iff rfl rfl).symm

/-- 10 R234, R235: SEMWAIT and BARWAIT. -/
theorem saidWaits_holds : saidWaits := by
  intro s a c
  refine ⟨?semwait, ?barwait⟩
  case semwait =>
    intro hgo hclean hoff
    exact ⟨_, rfl, State.syncWait_does (isBar := false) hgo hclean hoff (semwait_holds s _ _)⟩
  case barwait =>
    intro hgo hclean hoff
    exact ⟨_, rfl, State.syncWait_does (isBar := true) hgo hclean hoff (barwait_holds s _ _)⟩

/-- Settles O14: the signals are read-modify-writes, the waits are registered at their objects or complete with their first read. -/
theorem signalsAndWaits : Obligations.SignalsAndWaits := ⟨saidSignals_holds, saidWaits_holds⟩

end Sys2Proof.Machine

/-! ### C words: what they wait for, and what a repetition that issues leaves (07 R166-R174, R178) -/

namespace Sys2Proof.Machine

open Sys2Proof

/-! #### The bank from which a repetition issues -/

/-- A landing leaves the queue of C and the cut (07 R172). -/
theorem Bank.landed_queue_cut (b : Bank) (f : Flight) :
    ((b.landWrite f.tgt).flightDone f).qC = b.qC ∧ ((b.landWrite f.tgt).flightDone f).cut = b.cut := by
  rw [Bank.flightDone_frame, Bank.landWrite_frame]
  exact ⟨rfl, rfl⟩

/-- And so does a pass over the flights that are due. -/
theorem Bank.landPass_queue_cut (now : Nat) (fs : List Flight) (late : List CReg) (b : Bank) :
    (Bank.landPass now fs late b).1.qC = b.qC ∧ (Bank.landPass now fs late b).1.cut = b.cut := by
  induction fs generalizing late b with
  | nil => exact ⟨rfl, rfl⟩
  | cons f fs ih =>
    rw [Bank.landPass_cons]
    split
    · exact ⟨rfl, rfl⟩
    split
    · exact ⟨rfl, rfl⟩
    split
    · exact ih ..
    · obtain ⟨hq, hcut⟩ := b.landed_queue_cut f
      obtain ⟨hq', hcut'⟩ := ih late ((b.landWrite f.tgt).flightDone f)
      exact ⟨hq'.trans hq, hcut'.trans hcut⟩

/-- The writes of SRSTATE that a C word takes over change the stochastic state, and what of it a handler's image keeps (08 Table 8.11). -/
theorem Bank.takeSr_frame (b : Bank) (uid : Nat) : b.takeSr uid = { b with
    srstate := (b.takeSr uid).srstate, image := (b.takeSr uid).image, srPend := (b.takeSr uid).srPend } := by
  unfold Bank.takeSr
  split <;> rfl

/-- Loads that read what they left to their landing change the flights of their bank, and nothing else (04 R111). -/
theorem State.relookAll_frame (s : State) (n : BankId) :
    s.relookAll n = s.setBank n { s.bank n with flights := ((s.relookAll n).bank n).flights } := by
  by_cases hread : (s.bank n).allRead
  · rw [State.relookAll_allRead hread, State.setBank, State.bank, vector_set_get]
  · have hall : ¬((s.bank n).flights.all fun f => f.relook == 0) = true := fun h =>
      hread fun f hf => beq_iff_eq.1 (List.all_eq_true.1 h f hf)
    simp only [State.relookAll, if_neg hall, State.bank_setBank]

/-- Such loads stay in flight, each to land when it was to. -/
theorem State.relookAll_flights (s : State) (n : BankId) :
    ((s.relookAll n).bank n).flights.map (·.uid) = (s.bank n).flights.map (·.uid)
      ∧ ((s.relookAll n).bank n).flights.map (·.due) = (s.bank n).flights.map (·.due) := by
  unfold State.relookAll
  simp only []
  split
  · exact ⟨rfl, rfl⟩
  · rw [State.bank_setBank, List.map_map, List.map_map]
    constructor <;> exact List.map_congr_left fun f _ => by simp only [Function.comp]; split <;> rfl

/-- What is read before a landing changes the flights alone, too (04 R106, R111). -/
theorem State.relook_frame (s : State) (n : BankId) :
    s.relook n = s.setBank n { s.bank n with flights := ((s.relook n).bank n).flights } := by
  unfold State.relook
  simp only []
  split
  · exact s.relookAll_frame n
  · rw [State.setBank, State.bank, vector_set_get]

@[simp] theorem State.relook_cur (s : State) (n : BankId) : (s.relook n).cur = s.cur := by rw [State.relook_frame]; rfl

@[simp] theorem State.relook_store (s : State) (n : BankId) : (s.relook n).store = s.store := by rw [State.relook_frame]; rfl

@[simp] theorem State.relook_time (s : State) (n : BankId) : (s.relook n).time = s.time := by rw [State.relook_frame]; rfl

@[simp] theorem State.relook_choices (s : State) (n : BankId) : (s.relook n).choices = s.choices := by rw [State.relook_frame]; rfl

@[simp] theorem State.relook_delays (s : State) (n : BankId) : (s.relook n).delays = s.delays := by rw [State.relook_frame]; rfl

theorem State.bank_relook_ne (s : State) {n m : BankId} (h : m ≠ n) : (s.relook n).bank m = s.bank m := by
  rw [State.relook_frame, State.bank_setBank_ne _ _ h]

@[simp] theorem State.acting_delays (s : State) (i : Instr) : (s.acting i).delays = s.delays := by rw [State.acting, State.begin_state]; rfl

/-- The queue of C and the cut are as they were in the bank from which a C word issues. -/
theorem State.cGo.queue_cut {s : State} {i : Instr} {sr writes : Bool} {charge : Nat} {reads : Bank → Entry → List CReg} {b : Bank}
    (h : s.cGo i sr charge reads b writes) : b.qC = s.here.qC ∧ b.cut = none := by
  obtain ⟨hcut, -, -, -, ⟨b1, hland, rfl⟩, -⟩ := h
  have hlook := congrArg (State.bank · s.cur) ((s.acting i).relook_frame s.cur)
  simp only [State.bank_setBank] at hlook
  have hhere : ((s.acting i).relook s.cur).here = ((s.acting i).relook s.cur).bank s.cur := by
    rw [State.here, State.relook_cur, State.acting_cur]
  have hacting : (s.acting i).bank s.cur = (s.acting i).here := by rw [State.here, State.acting_cur]
  obtain ⟨hq, hc⟩ := Bank.landPass_queue_cut (((s.acting i).relook s.cur).bank s.cur).engcyc
    (((s.acting i).relook s.cur).bank s.cur).flights [] (((s.acting i).relook s.cur).bank s.cur)
  rw [hhere, Bank.landDue] at hland
  rw [hland, hlook, hacting] at hq hc
  rw [Bank.takeSr_frame]
  exact ⟨hq.trans (s.acting_qC i), hc.trans hcut⟩

/-- The state in which a C word makes its checks: `b` is its bank, with what is due landed. -/
def State.checking (s : State) (i : Instr) (b : Bank) : State := ((s.acting i).relook s.cur).setBank s.cur b

@[simp] theorem State.checking_here (s : State) (i : Instr) (b : Bank) : (s.checking i b).here = b := by simp [State.checking, State.here]

@[simp] theorem State.checking_cur (s : State) (i : Instr) (b : Bank) : (s.checking i b).cur = s.cur := by simp [State.checking]

@[simp] theorem State.checking_time (s : State) (i : Instr) (b : Bank) : (s.checking i b).time = s.time := by simp [State.checking]

/-- The charge of a repetition in the bucket of the TIME (18 R387). -/
def State.charges (s : State) (charge : Nat) : List (Nat × Nat) := if charge = 0 then [] else [(bucketOf s.time, charge)]

/-- The state from which a repetition acts: the one of its checks, with its charge booked (18 R387). -/
def State.issuing (s : State) (i : Instr) (b : Bank) (charge : Nat) : State :=
  (s.checking i b).modBank s.cur fun c => c.book (bucketOf s.time) (s.charges charge)

section

variable (s : State) (i : Instr) (b : Bank) (charge : Nat)

@[simp] theorem State.issuing_cur : (s.issuing i b charge).cur = s.cur := by simp [State.issuing, State.checking]

@[simp] theorem State.issuing_store : (s.issuing i b charge).store = s.store := by simp [State.issuing, State.checking]

@[simp] theorem State.issuing_choices : (s.issuing i b charge).choices = s.choices := by simp [State.issuing, State.checking]

@[simp] theorem State.issuing_delays : (s.issuing i b charge).delays = s.delays := by simp [State.issuing, State.checking]

/-- Its bank is `b` but for the charges. -/
theorem State.issuing_here : (s.issuing i b charge).here = { b with activity := (s.issuing i b charge).here.activity } := by
  rw [State.here, State.issuing_cur, State.issuing, State.bank_modBank, State.checking, State.bank_setBank]
  rfl

theorem State.issuing_bank_ne {n : BankId} (h : n ≠ s.cur) : (s.issuing i b charge).bank n = s.bank n := by
  rw [State.issuing, State.bank_modBank_ne _ _ h, State.checking, State.bank_setBank_ne _ _ h, State.bank_relook_ne _ h, State.acting_bank_ne s i h]

end

/-- What a C word does once it may go on: its group-1 fault is raised, or the repetition issues. -/
theorem State.cWord_go {s : State} {i : Instr} {j : CJob} {b : Bank} (hgo : s.cGo i j.sr j.charge j.reads b j.writes)
    (hwait : j.wait (s.acting i) (s.inHand i) = false) :
    let x := s.inHand i; let u := s.checking i b; let t := s.issuing i b j.charge
    (∀ kind tval, j.fault u x = some (kind, tval) → s.cWord i j = u.raise { group := 1, kind := kind, engine := .C } x tval)
      ∧ (j.fault u x = none → s.cWord i j = t.cIssue i x (decide (j.reps ≤ x.rep + 1)) (j.eff t x)) := by
  obtain ⟨hcut, hpops, hpush, hsr, ⟨b1, hland, rfl⟩, hreads, hslack, hplace, hcls⟩ := hgo
  have hfst : (s.begin i).1 = s.inHand i := rfl
  have hsnd : (s.begin i).2 = s.acting i := rfl
  have hfree : (!(s.inHand i).popped && !(s.acting i).here.canPush .C (usesOf i).sy.push) = false := by
    rcases hpush with h | h <;> simp [h]
  have hset : (j.sr && (s.acting i).here.srAwaited (s.inHand i).uid) = false := by
    cases h : j.sr with
    | false => rfl
    | true => exact hsr h
  have hroom : (j.writes && decide (16 ≤ (b1.takeSr (s.inHand i).uid).flights.length)) = false := by
    cases h : j.writes with
    | false => rfl
    | true => simpa using hplace h
  have hchecks : ((s.acting i).relook s.cur).setBank s.cur (b1.takeSr (s.inHand i).uid) = s.checking i (b1.takeSr (s.inHand i).uid) := rfl
  intro x u t
  unfold State.cWord
  simp only [hfst, hsnd, hcut, hpops, hfree, hset, hwait, State.acting_cur, State.relook_cur, hland, hreads, hslack, hroom,
    Option.isSome_none, Bool.not_true, Bool.or_self, Bool.false_eq_true, if_false, hchecks, State.checking_cur, State.checking_time]
  refine ⟨fun kind tval hfault => ?_, fun hfault => ?_⟩
  · rw [hfault]
  · rw [hfault]
    simp only [hcls]
    rfl

/-! #### A repetition that issues -/

/-- The pops and the reservation of a repetition, which are made at the first (07 R166, R167). -/
def Bank.cSync (b : Bank) (sy : Sync) (x : Entry) : Bank := if x.popped then b else (b.takePops .C sy.pop).reserve .C sy.push

theorem Bank.cSync_frame (b : Bank) (sy : Sync) (x : Entry) :
    b.cSync sy x = { b with tok := (b.cSync sy x).tok, rsv := (b.cSync sy x).rsv } := by
  unfold Bank.cSync
  split
  · rfl
  · rw [Bank.reserve_frame, Bank.takePops_frame]

/-- Without sync fields nothing is popped or reserved. -/
theorem Bank.cSync_plain {b : Bank} {sy : Sync} (x : Entry) (hpop : sy.pop = 0) (hpush : sy.push = 0) : b.cSync sy x = b := by
  unfold Bank.cSync
  rw [hpop, hpush]
  exact ite_self b

/-- The write in flight of a repetition that issues from the bank `b` (07 R172-R174; 03 R86). -/
def CEff.flight (e : CEff) (b : Bank) (push : BitVec 2) (x : Entry) (tgt : FlightTgt) : Flight where
  uid := x.uid
  due := b.engcyc + e.lat
  tgt := tgt
  arrived := !e.late
  slackEnd := b.engcyc + e.lat + b.slack
  expired := false
  poison := e.poison
  last := false
  push := push
  idx := x.idx
  rep := x.rep
  addr := e.addr
  loc := e.loc
  relook := e.relook
  ent := if e.poison then some { x with popped := true } else none

/-- The bank after a repetition with a write: the write is in flight, an engine cycle has passed, and the entry has left its queue, or stands
there for the next repetition (07 R168, R170, R172, R178). -/
theorem State.cIssue_bank (u : State) (i : Instr) (x : Entry) (last : Bool) {e : CEff} {tgt : FlightTgt} (h : e.tgt = some tgt) :
    let c := (u.cIssue i x last e).bank u.cur; let b := e.st.bank u.cur
    let fs := insertFlight (e.flight b (usesOf i).sy.push x tgt) b.flights
    c = { b with
      flights := if last then fs.map (markLast x.uid) else fs
      engcyc := b.engcyc + 1
      qC := if last then b.qC else { x with popped := true, rep := x.rep + 1 } :: b.qC
      tok := c.tok, rsv := c.rsv } := by
  intro c b fs
  have hc : c = (u.cIssue i x last e).bank u.cur := rfl
  have hsync := b.cSync_frame (usesOf i).sy x
  rw [State.cIssue, h] at hc
  simp only [Option.isNone_some, Bool.and_false, Bool.false_and, Bool.false_eq_true, if_false, State.bank_modBank] at hc
  rw [← Bank.cSync.eq_def, hsync] at hc
  cases last <;> exact hc ▸ rfl

/-- What an effect at issue leaves of the bank `b` of its word and of the other banks of `s`: all that a C word holds or keeps. -/
structure CEff.Leaves (e : CEff) (s : State) (b : Bank) : Prop where
  cur : e.st.cur = s.cur
  flights : (e.st.bank s.cur).flights = b.flights
  engcyc : (e.st.bank s.cur).engcyc = b.engcyc
  slack : (e.st.bank s.cur).slack = b.slack
  qC : (e.st.bank s.cur).qC = s.here.qC
  sregs : (e.st.bank s.cur).s = b.s
  vregs : (e.st.bank s.cur).v = b.v
  pregs : (e.st.bank s.cur).p = b.p
  hregs : (e.st.bank s.cur).h = b.h
  yregs : (e.st.bank s.cur).y = b.y
  acc : (e.st.bank s.cur).acc = b.acc
  others : ∀ n, n ≠ s.cur → e.st.bank n = s.bank n

section

variable {s u : State} {i : Instr} {x : Entry} {e : CEff} {tgt : FlightTgt} (htgt : e.tgt = some tgt) (hu : u.cur = s.cur)
include htgt

theorem State.cIssue_store (last : Bool) : (u.cIssue i x last e).store = e.st.store := by
  rw [State.cIssue, htgt]
  simp

include hu

theorem CEff.Leaves.cIssue_here {b : Bank} (h : e.Leaves s b) (last : Bool) : (u.cIssue i x last e).here = (u.cIssue i x last e).bank u.cur := by
  rw [State.here, State.cIssue, htgt]
  simp [h.cur, hu]

/-- A repetition with a write issues: its effect is made, and its write is in flight (07 R172, R178). -/
theorem CEff.Leaves.cIssued {b : Bank} (h : e.Leaves s b) (reps : Nat) (hgood : e.poison = false) {data : Flight → Prop}
    (hdata : data (e.flight b (usesOf i).sy.push x tgt)) :
    cIssued s (u.cIssue i x (decide (reps ≤ x.rep + 1)) e) b x reps e.lat tgt data := by
  have hbank := u.cIssue_bank i x (decide (reps ≤ x.rep + 1)) htgt
  have hflight : e.flight (e.st.bank s.cur) (usesOf i).sy.push x tgt = e.flight b (usesOf i).sy.push x tgt := by
    rw [CEff.flight, CEff.flight, h.engcyc, h.slack]
  have hhere := h.cIssue_here (i := i) (x := x) htgt hu (decide (reps ≤ x.rep + 1))
  simp only [hu, hflight, h.flights, h.engcyc, h.qC] at hbank hhere
  unfold Machine.cIssued
  simp only [hhere]
  generalize (u.cIssue i x (decide (reps ≤ x.rep + 1)) e).bank s.cur = c at hbank
  refine ⟨⟨e.flight b (usesOf i).sy.push x tgt, rfl, rfl, rfl, rfl, hgood, hdata, (congrArg Bank.flights hbank :)⟩,
    (congrArg Bank.engcyc hbank :), ?_, (congrArg Bank.s hbank).trans h.sregs, (congrArg Bank.v hbank).trans h.vregs,
    (congrArg Bank.p hbank).trans h.pregs, (congrArg Bank.h hbank).trans h.hregs, (congrArg Bank.y hbank).trans h.yregs,
    (congrArg Bank.acc hbank).trans h.acc, fun n hn => ?_⟩
  · have hq := congrArg Bank.qC hbank
    split at hq
    next hlast => rw [if_pos hlast]; exact hq
    next hmore => rw [if_neg hmore]; exact ⟨_, hq, rfl, rfl⟩
  · rw [State.cIssue, htgt]
    simp [hu, State.bank_modBank_ne _ _ hn, h.others n hn]

/-- SRSTATE is as the effect leaves it. -/
theorem CEff.Leaves.cIssue_srstate {b : Bank} (h : e.Leaves s b) (last : Bool) :
    (u.cIssue i x last e).here.srstate = (e.st.bank s.cur).srstate := by
  rw [h.cIssue_here htgt hu, ← hu]
  exact (congrArg Bank.srstate (u.cIssue_bank i x last htgt) :)

end

/-- An effect leaves them where it changes no more of its bank than charges and SRSTATE. -/
theorem CEff.leaves_of_bank {e : CEff} {s : State} {b : Bank} (hcur : e.st.cur = s.cur) (hq : b.qC = s.here.qC)
    (hbank : e.st.bank s.cur = { b with activity := (e.st.bank s.cur).activity, srstate := (e.st.bank s.cur).srstate })
    (hothers : ∀ n, n ≠ s.cur → e.st.bank n = s.bank n) : e.Leaves s b where
  cur := hcur
  flights := (congrArg Bank.flights hbank :)
  engcyc := (congrArg Bank.engcyc hbank :)
  slack := (congrArg Bank.slack hbank :)
  qC := (congrArg Bank.qC hbank).trans hq
  sregs := (congrArg Bank.s hbank :)
  vregs := (congrArg Bank.v hbank :)
  pregs := (congrArg Bank.p hbank :)
  hregs := (congrArg Bank.h hbank :)
  yregs := (congrArg Bank.y hbank :)
  acc := (congrArg Bank.acc hbank :)
  others := hothers

/-- The effect of a word that changes no bank at its issue leaves what its bank and the other banks hold. -/
theorem State.cGo.leaves {s : State} {i : Instr} {sr writes : Bool} {charge : Nat} {reads : Bank → Entry → List CReg} {b : Bank}
    (h : s.cGo i sr charge reads b writes) {e : CEff} (he : (s.issuing i b charge).SameBanks e.st) : e.Leaves s b := by
  have hcur := s.issuing_cur i b charge
  have hbank : e.st.bank s.cur = (s.issuing i b charge).here := by rw [he.bank, State.here, hcur]
  refine CEff.leaves_of_bank (he.cur.trans hcur) h.queue_cut.1 ?_ fun n hn => (he.bank n).trans (s.issuing_bank_ne i b charge hn)
  rw [hbank, s.issuing_here i b charge]

section

variable {s : State} {i : Instr} {j : CJob} {b : Bank} (hgo : s.cGo i j.sr j.charge j.reads b j.writes)
  (hwait : j.wait (s.acting i) (s.inHand i) = false)
include hgo hwait

/-- A C word with a write issues its repetition from the bank that it found. -/
theorem State.cWord_issues (hfault : j.fault (s.checking i b) (s.inHand i) = none) {e : CEff}
    (he : j.eff (s.issuing i b j.charge) (s.inHand i) = e) {tgt : FlightTgt} (htgt : e.tgt = some tgt) {b' : Bank} (hleaves : e.Leaves s b')
    (hgood : e.poison = false) {data : Flight → Prop} (hdata : data (e.flight b' (usesOf i).sy.push (s.inHand i) tgt)) :
    cIssued s (s.cWord i j) b' (s.inHand i) j.reps e.lat tgt data ∧ (s.cWord i j).store = e.st.store
      ∧ (s.cWord i j).here.srstate = (e.st.bank s.cur).srstate := by
  rw [(State.cWord_go hgo hwait).2 hfault, he]
  have hcur := s.issuing_cur i b j.charge
  exact ⟨hleaves.cIssued htgt hcur _ hgood hdata, State.cIssue_store htgt _, hleaves.cIssue_srstate htgt hcur _⟩

end

/-! #### C words that wait or trap -/

/-- A C word that waits for its interlock stands at the head of its queue as it was, and nothing of it has issued (13 R294). -/
theorem State.cWord_waits {s : State} {i : Instr} {j : CJob} (hwait : j.wait (s.acting i) (s.inHand i) = true) :
    heldAtC s (s.cWord i j) i := by
  have ht : s.cWord i j = (s.acting i).hold .C (s.inHand i) := by
    have hfst : (s.begin i).1 = s.inHand i := rfl
    have hsnd : (s.begin i).2 = s.acting i := rfl
    unfold State.cWord
    simp only [hfst, hsnd, hwait, Bool.or_true, if_true]
  have hhere : ((s.acting i).hold .C (s.inHand i)).here = (s.acting i).here.hold .C (s.inHand i) := State.bank_modBank _ _ _
  have hbegin : (s.acting i).here = _ := s.begin_bank i
  unfold heldAtC
  rw [ht, hhere]
  refine ⟨congrArg (s.inHand i :: ·) (congrArg Bank.qC hbegin :), (congrArg Bank.flights hbegin :), (congrArg Bank.engcyc hbegin :),
    (congrArg Bank.v hbegin :), (congrArg Bank.acc hbegin :), ?_, fun n hn => ?_⟩
  · rw [State.hold_store, State.acting_store]
  · rw [State.hold, State.acting_cur, State.bank_modBank_ne _ _ hn, State.acting_bank_ne s i hn]

/-- A C word with a group-1 fault takes it as its cause (17 R357). -/
theorem State.cWord_traps {s : State} {i : Instr} {j : CJob} {b : Bank} (hgo : s.cGo i j.sr j.charge j.reads b j.writes)
    (hwait : j.wait (s.acting i) (s.inHand i) = false) {kind : Nat} {tval : Word}
    (hfault : j.fault (s.checking i b) (s.inHand i) = some (kind, tval)) :
    (s.cWord i j).here.tcause = tcauseOf { group := 1, kind := kind, engine := .C } ∧ (s.cWord i j).here.tval = tval
      ∧ (s.cWord i j).store = s.store := by
  have hcut : ¬((s.checking i b).bank (s.checking i b).cur).cut.isSome = true := by
    rw [← State.here, State.checking_here, hgo.queue_cut.2]
    exact Bool.false_ne_true
  rw [(State.cWord_go hgo hwait).1 kind tval hfault, State.raise, if_neg hcut]
  generalize hu : s.checking i b = u
  have hstore : u.store = s.store := by
    rw [← hu, State.checking, State.setBank_store, State.relook_store, State.acting_store]
  have hbank := (u.modBank u.cur fun b => b.raise { group := 1, kind := kind, engine := .C } (s.inHand i) tval true).endWaits_frame u.cur
  rw [State.bank_modBank] at hbank
  exact ⟨(congrArg Bank.tcause hbank :), (congrArg Bank.tval hbank :), hstore⟩

end Sys2Proof.Machine

/-! ### The vector words (12 R266-R279) -/

namespace Sys2Proof.Machine

open Sys2Proof

/-- What a repetition of a word that writes a vector register does: SRSTATE steps at its issue, and its results are in flight. -/
def VecWord.eff (q : VecWord) (t : State) (x : Entry) : CEff where
  st := t.modBank t.cur fun b => { b with srstate := (q.out t.here x).L }
  tgt := some (.v (vIx t.here q.vd x) (q.out t.here x).val (q.out t.here x).mask)
  lat := q.lat
  late := false
  poison := false
  addr := 0

/-- The parts of such a word, as C takes them. -/
def VecWord.job (q : VecWord) : CJob where
  reps := q.rep.toNat + 1
  sr := q.sr
  charge := q.charge
  reads := q.reads
  wait := fun _ _ => false
  fault := fun _ _ => none
  eff := q.eff

theorem VecWord.vWord_job (q : VecWord) (s : State) :
    s.vWord q.i q.vd q.rep q.lat q.charge q.sr q.reads q.out = s.cWord q.i q.job := rfl

/-- A word that writes a vector register writes what its results are, where they do not go by the charges of its bank. -/
theorem VecWord.writes.of_vWord {q : VecWord} (hexec : ∀ s, exec q.i s = .next (s.vWord q.i q.vd q.rep q.lat q.charge q.sr q.reads q.out))
    (hout : ∀ (b : Bank) (x : Entry) (acts : List (Nat × Nat)), q.out { b with activity := acts } x = q.out b x) : q.writes := by
  intro s b hgo x o
  let u := s.issuing q.i b q.charge
  have hcur : u.cur = s.cur := s.issuing_cur q.i b q.charge
  have hhere : u.here = { b with activity := u.here.activity } := s.issuing_here q.i b q.charge
  have ho : q.out u.here x = o := by rw [hhere]; exact hout b x _
  have hreg : vIx u.here q.vd x = physV b.rbv (q.vd.toNat + x.rep) := by rw [hhere]; rfl
  have htgt : (q.eff u x).tgt = some (.v (physV b.rbv (q.vd.toNat + x.rep)) o.val o.mask) := by
    rw [VecWord.eff, ho, hreg]
  have hbank : (q.eff u x).st.bank s.cur = { u.here with srstate := o.L } := by
    rw [VecWord.eff, ho, hcur, State.bank_modBank, State.here, hcur]
  have hothers (n : BankId) (hn : n ≠ s.cur) : (q.eff u x).st.bank n = s.bank n := by
    rw [VecWord.eff, hcur, State.bank_modBank_ne _ _ hn, State.issuing_bank_ne _ _ _ _ hn]
  have hleaves : (q.eff u x).Leaves s b := CEff.leaves_of_bank hcur hgo.queue_cut.1 (by rw [hbank, hhere]) hothers
  obtain ⟨hissued, hstore, hsr⟩ := State.cWord_issues (j := q.job) hgo rfl rfl rfl htgt hleaves rfl
    (data := fun f => f.arrived = true ∧ f.relook = 0) ⟨rfl, rfl⟩
  rw [← q.vWord_job] at hissued hstore hsr
  exact ⟨_, hexec s, hissued, hsr.trans (congrArg Bank.srstate hbank), hstore.trans (s.issuing_store q.i b q.charge)⟩

/-- The arithmetic words of two sources (12 R266-R268, R274). -/
theorem arithWords_write (a : CBin) : ∀ q ∈ arithWords a, q.writes := by
  intro q hq
  simp only [arithWords, List.mem_cons, List.not_mem_nil, or_false] at hq
  obtain rfl | rfl | rfl | rfl | rfl | rfl := hq
  · exact .of_vWord (exec_vadd a) fun _ _ _ => rfl
  · exact .of_vWord (exec_vsub a) fun _ _ _ => rfl
  · exact .of_vWord (exec_vmul a) fun _ _ _ => rfl
  · exact .of_vWord (exec_vfma a) fun _ _ _ => rfl
  · exact .of_vWord (exec_vdiv a) fun _ _ _ => rfl
  · exact .of_vWord (exec_vshl a) fun _ _ _ => rfl

/-- The words of one source (12 R266-R268). -/
theorem unWords_write (a : CUn) : ∀ q ∈ unWords a, q.writes := by
  intro q hq
  simp only [unWords, List.mem_cons, List.not_mem_nil, or_false] at hq
  obtain rfl | rfl | rfl | rfl | rfl | rfl := hq
  · exact .of_vWord (exec_vabs a) fun _ _ _ => rfl
  · exact .of_vWord (exec_vrcp a) fun _ _ _ => rfl
  · exact .of_vWord (exec_vrsq a) fun _ _ _ => rfl
  · exact .of_vWord (exec_vexp2 a) fun _ _ _ => rfl
  · exact .of_vWord (exec_vlog2 a) fun _ _ _ => rfl
  · exact .of_vWord (exec_vsqrt a) fun _ _ _ => rfl

/-- Settles O20, word by word. -/
theorem vectorArithmetic : Obligations.VectorArithmetic := ⟨arithWords_write, unWords_write⟩

/-- The words of two sources without a mod field (12 R266, R272-R274, R278). -/
theorem triWords_write (a : CTri) : ∀ q ∈ triWords a, q.writes := by
  intro q hq
  simp only [triWords, List.mem_cons, List.not_mem_nil, or_false] at hq
  obtain rfl | rfl | rfl | rfl | rfl | rfl | rfl | rfl | rfl := hq
  · exact .of_vWord (exec_vmin a) fun _ _ _ => rfl
  · exact .of_vWord (exec_vmax a) fun _ _ _ => rfl
  · exact .of_vWord (exec_vshr a) fun _ _ _ => rfl
  · exact .of_vWord (exec_vshra a) fun _ _ _ => rfl
  · exact .of_vWord (exec_vperm a) fun _ _ _ => rfl
  · exact .of_vWord (exec_vand a) fun _ _ _ => rfl
  · exact .of_vWord (exec_vor a) fun _ _ _ => rfl
  · exact .of_vWord (exec_vxor a) fun _ _ _ => rfl
  · exact .of_vWord (exec_vsel a) fun _ _ _ => rfl

/-- The words that move, convert, quantise and reduce (12 R269, R270, R275, R277, R278). -/
theorem moveWords_write (m : CMov) (mi : CMovi) (fr : CFroms) (sl : CSlide) (io : CIota) (cv : CCvt) (qn : CQnt) (dq : CDqnt) (ra : CUn) :
    ∀ q ∈ moveWords m mi fr sl io cv qn dq ra, q.writes := by
  intro q hq
  simp only [moveWords, List.mem_cons, List.not_mem_nil, or_false] at hq
  obtain rfl | rfl | rfl | rfl | rfl | rfl | rfl | rfl | rfl | rfl | rfl | rfl | rfl := hq
  · exact .of_vWord (exec_vmov m) fun _ _ _ => rfl
  · exact .of_vWord (exec_vmovi mi) fun _ _ _ => rfl
  · exact .of_vWord (exec_vfroms fr) fun _ _ _ => rfl
  · exact .of_vWord (exec_vslide sl) fun _ _ _ => rfl
  · exact .of_vWord (exec_vbcast sl) fun _ _ _ => rfl
  · exact .of_vWord (exec_viota io) fun _ _ _ => rfl
  · have hsr : (cv.rnd.toNat == 5) = (cv.rnd == 5) := by
      rw [Bool.eq_iff_iff, beq_iff_eq, beq_iff_eq, ← BitVec.toNat_inj]; rfl
    refine .of_vWord (fun s => ?_) fun _ _ _ => rfl
    rw [exec_vcvt, execVcvt, hsr]
    rfl
  · exact .of_vWord (exec_vqnt qn) fun _ _ _ => rfl
  · exact .of_vWord (exec_vdqnt dq) fun _ _ _ => rfl
  · exact .of_vWord (exec_vredadd ra) fun _ _ _ => rfl
  · exact .of_vWord (exec_vredmax m) fun _ _ _ => rfl
  · exact .of_vWord (exec_vredmin m) fun _ _ _ => rfl
  · exact .of_vWord (exec_vargmax m) fun _ _ _ => rfl

/-- Settles O21, word by word. -/
theorem vectorMovement : Obligations.VectorMovement := ⟨triWords_write, moveWords_write⟩

end Sys2Proof.Machine

/-! ### Lanes and masks (12 R260, R261; 08 R184, R192) -/

namespace Sys2Proof.Machine

open Sys2Proof

/-! #### Lanes of a register -/

/-- A lane of packed lanes is the list's member, cut to the lane's width. -/
theorem packLanes_lane (w : Nat) (xs : List Nat) (k : Nat) :
    packLanes w xs / 2 ^ (8 * w * k) % 2 ^ (8 * w) = xs.getD k 0 % 2 ^ (8 * w) := by
  induction xs generalizing k with
  | nil => simp [packLanes]
  | cons x xs ih =>
    have hlt : x % 2 ^ (8 * w) < 2 ^ (8 * w) := Nat.mod_lt _ (Nat.two_pow_pos _)
    cases k with
    | zero => simp [packLanes]
    | succ k =>
      have hrest : (x % 2 ^ (8 * w) + 2 ^ (8 * w) * packLanes w xs) / 2 ^ (8 * w) = packLanes w xs := by
        rw [Nat.add_mul_div_left _ _ (Nat.two_pow_pos _), Nat.div_eq_of_lt hlt, Nat.zero_add]
      rw [packLanes, Nat.mul_succ, Nat.add_comm (8 * w * k), Nat.pow_add, ← Nat.div_div_eq_div_mul, hrest, ih, List.getD_cons_succ]

/-- Bits that lie within a bit vector are those of the number that it was made from. -/
theorem toNat_ofNat_div_mod (x : Nat) {m a c : Nat} (h : a + c ≤ m) : (BitVec.ofNat m x).toNat / 2 ^ a % 2 ^ c = x / 2 ^ a % 2 ^ c := by
  rw [BitVec.toNat_ofNat, ← pow_mul_pow_sub 2 (show a ≤ m by omega), Nat.mod_mul_right_div_self,
    Nat.mod_mod_of_dvd _ (Nat.pow_dvd_pow 2 (by omega))]

/-- A lane within the register's 256 bytes, of a register made from its lanes (08 R184). -/
theorem lane_vecOfLanes {w k : Nat} (xs : List Nat) (h : (k + 1) * w ≤ 256) : lane w (vecOfLanes w xs) k = xs.getD k 0 % 2 ^ (8 * w) := by
  have hfit : 8 * w * k + 8 * w ≤ 2048 := by
    rw [Nat.mul_assoc, Nat.mul_comm w k]
    rw [Nat.succ_mul] at h
    omega
  exact (toNat_ofNat_div_mod _ hfit).trans (packLanes_lane w xs k)

/-! #### Bits of a mask -/

/-- A bit of packed bits is the list's member. -/
theorem packBits_testBit (xs : List Bool) (k : Nat) : (laneMask.packBits xs).testBit k = xs.getD k false := by
  induction xs generalizing k with
  | nil => simp [laneMask.packBits]
  | cons x xs ih =>
    cases k with
    | zero => cases x <;> simp [laneMask.packBits, Nat.testBit_zero, Nat.add_mod]
    | succ k =>
      have hhalf : ((if x = true then 1 else 0) + 2 * laneMask.packBits xs) / 2 = laneMask.packBits xs := by split <;> omega
      rw [laneMask.packBits, Nat.testBit_succ, hhalf, ih, List.getD_cons_succ]

/-- A byte is written where its lane is active (12 R260). -/
theorem laneMask_getLsbD (p : Pred) (w : Nat) {n : Nat} (h : n < 256) : (laneMask p w).getLsbD n = p.getLsbD (n / w * w) := by
  rw [laneMask, BitVec.getLsbD_ofNat, packBits_testBit]
  simp [h]

/-! #### Element-wise results -/

/-- The stochastic state after `n` computed lanes (08 R192). -/
def steppedL (sr : Bool) (n : Nat) (l : BitVec 32) : BitVec 32 := if sr then stepL^[n] l else l

/-- A computed lane comes before the others: they begin from its state. -/
theorem steppedL_succ (sr : Bool) (n : Nat) (l : BitVec 32) : steppedL sr (n + 1) l = steppedL sr n (if sr then stepL l else l) := by
  cases sr <;> rfl

section

variable (sr : Bool) (act : Nat → Bool) (f : Nat → Nat → Nat)

/-- The state steps once for each active lane (08 R192). -/
theorem lanesFrom_state (is : List Nat) (l : BitVec 32) : (lanesFrom sr act f is l).2 = steppedL sr (is.filter act).length l := by
  induction is generalizing l with
  | nil => cases sr <;> rfl
  | cons i is ih =>
    cases hact : act i with
    | true => simp only [lanesFrom, hact, if_true, ih, List.filter_cons, List.length_cons, steppedL_succ]
    | false => simp only [lanesFrom, hact, Bool.false_eq_true, if_false, ih, List.filter_cons]

/-- An active lane is computed from the state after its own step (08 R192). -/
theorem lanesFrom_active {is : List Nat} {k : Nat} (hk : k < is.length) (hact : act is[k] = true) (l : BitVec 32) :
    (lanesFrom sr act f is l).1.getD k 0 = f (steppedL sr ((is.take (k + 1)).filter act).length l).toNat is[k] := by
  induction is generalizing k l with
  | nil => simp at hk
  | cons i is ih =>
    cases k with
    | zero =>
      simp only [List.getElem_cons_zero] at hact ⊢
      simp [lanesFrom, hact, steppedL_succ]
      cases sr <;> rfl
    | succ k =>
      simp only [List.getElem_cons_succ] at hact ⊢
      have hk' : k < is.length := by simpa using hk
      cases hi : act i with
      | true =>
        simp only [lanesFrom, hi, if_true, List.getD_cons_succ, ih hk' hact, List.take_succ_cons, List.filter_cons, List.length_cons, steppedL_succ]
      | false =>
        simp only [lanesFrom, hi, Bool.false_eq_true, if_false, List.getD_cons_succ, ih hk' hact, List.take_succ_cons, List.filter_cons]

end

/-- The widths divide the register. -/
theorem width_pos (ty : VTy) : 0 < ty.width := by cases ty <;> decide

/-- A lane of a type lies within the register. -/
theorem lane_end_le {ty : VTy} {k : Nat} (h : k < lanesOf ty) : (k + 1) * ty.width ≤ 256 :=
  (Nat.le_div_iff_mul_le (width_pos ty)).1 h

/-- Settles O22: masks and lanes bit by bit, and the results in the order in which they are computed. -/
theorem lanesMasked : Obligations.LanesMasked := by
  intro ty p sr l f k hk o steps
  have hend := lane_end_le hk
  have hlane : laneActive p ty.width k = p.getLsbD (k * ty.width) := by rw [laneActive, Nat.mul_comm]
  refine ⟨hlane, fun j hj => ?_, fun hact => ?_, ?_⟩
  · have hn : k * ty.width + j < 256 := by rw [Nat.succ_mul] at hend; omega
    have hk' : (k * ty.width + j) / ty.width = k := by
      rw [Nat.mul_comm, Nat.mul_add_div (width_pos ty), Nat.div_eq_of_lt hj, Nat.add_zero]
    rw [show o.mask = laneMask p ty.width from rfl, laneMask_getLsbD p _ hn, hk', hlane]
  · have hlen : k < (List.range (lanesOf ty)).length := by simpa using hk
    have hres := lanesFrom_active sr (laneActive p ty.width) f hlen (by simpa using hact) l
    rw [List.getElem_range, List.take_range, Nat.min_eq_left hk] at hres
    rw [show o.val = vecOfLanes ty.width (lanesFrom sr (laneActive p ty.width) f (List.range (lanesOf ty)) l).1 from rfl,
      lane_vecOfLanes _ hend, hres, steppedL]
    cases sr <;> rfl
  · exact lanesFrom_state sr (laneActive p ty.width) f (List.range (lanesOf ty)) l

end Sys2Proof.Machine

/-! ### The predicate words and VTOS (12 R271, R276, R279) -/

namespace Sys2Proof.Machine

open Sys2Proof

/-- What a repetition of a word that writes a predicate register does. -/
def PredWord.eff (q : PredWord) (t : State) (x : Entry) : CEff where
  st := t
  tgt := some (if q.pd.toNat + x.rep = 0 then .nothing
    else .p (physP t.here.rbp (q.pd.toNat + x.rep)) (q.out t.here x).1 (q.out t.here x).2)
  lat := 2
  late := false
  poison := false
  addr := 0

/-- The parts of such a word, as C takes them. -/
def PredWord.job (q : PredWord) : CJob where
  reps := q.rep.toNat + 1
  sr := false
  charge := 2
  reads := q.reads
  wait := fun _ _ => false
  fault := fun _ _ => none
  eff := q.eff

theorem PredWord.pWord_job (q : PredWord) (s : State) : s.pWord q.i q.pd q.rep q.reads q.out = s.cWord q.i q.job := rfl

/-- What a word that writes a predicate register is to do (12 R260). -/
def PredWord.writes (q : PredWord) : Prop := ∀ (s : State) (b : Bank), s.cGo q.i false 2 q.reads b →
  let x := s.inHand q.i; let o := q.out b x; let n := q.pd.toNat + x.rep
  ∃ t, exec q.i s = .next t ∧ t.store = s.store
    ∧ cIssued s t b x (q.rep.toNat + 1) 2 (if n = 0 then .nothing else .p (physP b.rbp n) o.1 o.2)

/-- It does that where its results do not go by the charges of its bank. -/
theorem PredWord.writes.of_pWord {q : PredWord} (hexec : ∀ s, exec q.i s = .next (s.pWord q.i q.pd q.rep q.reads q.out))
    (hout : ∀ (b : Bank) (x : Entry) (acts : List (Nat × Nat)), q.out { b with activity := acts } x = q.out b x) : q.writes := by
  intro s b hgo x o n
  let u := s.issuing q.i b 2
  have hhere : u.here = { b with activity := u.here.activity } := s.issuing_here q.i b 2
  have ho : q.out u.here x = o := by rw [hhere]; exact hout b x _
  have hreg : physP u.here.rbp n = physP b.rbp n := by rw [hhere]
  have htgt : (q.eff u x).tgt = some (if n = 0 then .nothing else .p (physP b.rbp n) o.1 o.2) := by
    rw [PredWord.eff, ho, hreg]
  obtain ⟨hissued, hstore, -⟩ := State.cWord_issues (j := q.job) hgo rfl rfl rfl htgt (hgo.leaves (.refl _)) rfl
    (data := fun f => f.arrived = true ∧ f.relook = 0) ⟨rfl, rfl⟩
  rw [← q.pWord_job] at hissued hstore
  exact ⟨_, hexec s, hstore.trans (s.issuing_store q.i b 2), hissued⟩

/-- The words of 12 R271 and R279. -/
theorem predWords_write (c : CCmp) (a : PBin) (u : PUn) (k : PSetW) : ∀ q ∈ predWords c a u k, q.writes := by
  intro q hq
  simp only [predWords, List.mem_cons, List.not_mem_nil, or_false] at hq
  obtain rfl | rfl | rfl | rfl | rfl | rfl := hq
  · exact .of_pWord (exec_vcmp c) fun _ _ _ => rfl
  · exact .of_pWord (exec_pand a) fun _ _ _ => rfl
  · exact .of_pWord (exec_por a) fun _ _ _ => rfl
  · exact .of_pWord (exec_pxor a) fun _ _ _ => rfl
  · exact .of_pWord (exec_pnot u) fun _ _ _ => rfl
  · exact .of_pWord (exec_pset k) fun _ _ _ => rfl

/-- An integer in `w` bits, by its encoding (08 R182). -/
theorem ofNat_bitsOfInt (w : Nat) (z : Int) : BitVec.ofNat w (bitsOfInt w z) = BitVec.ofInt w z := by
  refine BitVec.eq_of_toNat_eq ?_
  have hpos : (0 : Int) < (2 ^ w : Nat) := Int.natCast_pos.2 (Nat.two_pow_pos w)
  have hlt : (z % (2 ^ w : Nat)).toNat < 2 ^ w := by
    rw [Int.toNat_lt (Int.emod_nonneg z hpos.ne')]
    exact Int.emod_lt_of_pos z hpos
  rw [BitVec.toNat_ofNat, BitVec.toNat_ofInt, bitsOfInt, Nat.mod_eq_of_lt hlt]

/-- What VTOS does: one lane goes to a scalar register, extended (12 R276). -/
def vtosEff (a : CTos) (t : State) (x : Entry) : CEff :=
  let w := a.ty.width
  let v := lane w (vSrc t.here a.va x) ((x.caps.getD 0 0).toNat % lanesOf a.ty)
  let r : Word := if a.ty.isFloat then BitVec.ofNat 64 v else BitVec.ofNat 64 (bitsOfInt 64 (intOf (8 * w) v))
  { st := t, tgt := some (if a.sd = 0 then .nothing else .s a.sd r), lat := 4, late := false, poison := false, addr := 0 }

/-- The parts of VTOS, as C takes them. -/
def vtosJob (a : CTos) : CJob where
  reps := 1
  sr := false
  charge := 2
  reads := fun b x => [vRd b a.va x]
  wait := fun _ _ => false
  fault := fun _ _ => none
  eff := vtosEff a

theorem execVtos_job (a : CTos) (s : State) : execVtos a s = .next (s.cWord (.vtos a) (vtosJob a)) := rfl

/-- VTOS issues its write of a scalar register, or of nothing for s0. -/
theorem vtos_issues (a : CTos) {s : State} {b : Bank} (hgo : s.cGo (.vtos a) false 2 (fun b x => [vRd b a.va x]) b) :
    let x := s.inHand (.vtos a); let w := a.ty.width; let v := lane w (vSrc b a.va x) ((x.caps.getD 0 0).toNat % lanesOf a.ty)
    ∃ t, exec (.vtos a) s = .next t ∧ t.store = s.store
      ∧ cIssued s t b x 1 4 (if a.sd = 0 then .nothing
          else .s a.sd (if a.ty.isFloat then BitVec.ofNat 64 v else BitVec.ofInt 64 (intOf (8 * w) v))) := by
  intro x w v
  let u := s.issuing (.vtos a) b 2
  have hhere : u.here = { b with activity := u.here.activity } := s.issuing_here (.vtos a) b 2
  have hsrc : vSrc u.here a.va x = vSrc b a.va x := by rw [hhere]; rfl
  have htgt : (vtosEff a u x).tgt = some (if a.sd = 0 then .nothing
      else .s a.sd (if a.ty.isFloat then BitVec.ofNat 64 v else BitVec.ofInt 64 (intOf (8 * w) v))) := by
    simp only [vtosEff, hsrc, ofNat_bitsOfInt, v, w]
  obtain ⟨hissued, hstore, -⟩ := State.cWord_issues (j := vtosJob a) hgo rfl rfl rfl htgt (hgo.leaves (.refl _)) rfl
    (data := fun f => f.arrived = true ∧ f.relook = 0) ⟨rfl, rfl⟩
  exact ⟨_, execVtos_job a s, hstore.trans (s.issuing_store _ b 2), hissued⟩

/-- Settles O23, word by word. -/
theorem predicateWords : Obligations.PredicateWords := ⟨predWords_write, fun a _ _ hgo => vtos_issues a hgo⟩

end Sys2Proof.Machine

/-! ### RBSET and SLACK (12 R280, R281) -/

namespace Sys2Proof.Machine

open Sys2Proof

/-- The state in which a C word without a write makes its push: the loads in flight have read before (04 R106, R111). -/
def State.atPush (u : State) (n : BankId) (push : BitVec 2) : State := if push != 0 then u.relookAll n else u

section

variable (u : State) (n : BankId) (push : BitVec 2)

theorem State.atPush_frame :
    u.atPush n push = u.setBank n { u.bank n with flights := ((u.atPush n push).bank n).flights } := by
  unfold State.atPush
  split
  · exact u.relookAll_frame n
  · rw [State.setBank, State.bank, vector_set_get]

@[simp] theorem State.atPush_cur : (u.atPush n push).cur = u.cur := by rw [State.atPush_frame, State.setBank_cur]

@[simp] theorem State.atPush_store : (u.atPush n push).store = u.store := by rw [State.atPush_frame, State.setBank_store]

theorem State.bank_atPush_ne {m : BankId} (h : m ≠ n) : (u.atPush n push).bank m = u.bank m := by
  rw [State.atPush_frame, State.bank_setBank_ne _ _ h]

theorem State.bank_atPush : (u.atPush n push).bank n = { u.bank n with flights := ((u.atPush n push).bank n).flights } := by
  have h := congrArg (State.bank · n) (u.atPush_frame n push)
  simpa only [State.bank_setBank] using h

/-- What is in flight stays in flight. -/
theorem State.atPush_flights : ((u.atPush n push).bank n).flights.map (·.uid) = (u.bank n).flights.map (·.uid)
    ∧ ((u.atPush n push).bank n).flights.map (·.due) = (u.bank n).flights.map (·.due) := by
  unfold State.atPush
  split
  · exact u.relookAll_flights n
  · exact ⟨rfl, rfl⟩

/-- It is as it was where nothing is pushed, or nothing is left to read. -/
theorem State.atPush_eq (h : push = 0 ∨ (u.bank n).allRead) : u.atPush n push = u := by
  unfold State.atPush
  split
  next hpush => exact State.relookAll_allRead (h.resolve_left (bne_iff_ne.1 hpush))
  next => rfl

end

/-- The bank of a C word without a write after its sync fields and one engine cycle (07 R166-R168, R170). -/
def Bank.issuePlain (c : Bank) (sy : Sync) (x : Entry) : Bank :=
  ({ c.cSync sy x with engcyc := (c.cSync sy x).engcyc + 1 } : Bank).pushTok .C sy.push

theorem Bank.issuePlain_frame (c : Bank) (sy : Sync) (x : Entry) : c.issuePlain sy x = { c with
    tok := (c.issuePlain sy x).tok, rsv := (c.issuePlain sy x).rsv, engcyc := c.engcyc + 1 } := by
  rw [Bank.issuePlain, Bank.pushTok_frame, Bank.cSync_frame]

theorem Bank.issuePlain_tok (c : Bank) {sy : Sync} (x : Entry) (hpop : sy.pop = 0) (hpush : sy.push = 0) :
    (c.issuePlain sy x).tok = c.tok := by
  rw [Bank.issuePlain, Bank.cSync_plain x hpop hpush, hpush]
  rfl

/-- The last repetition of a C word without a write (07 R168, R170). -/
theorem State.cIssue_plain (u : State) (i : Instr) (x : Entry) {e : CEff} (h : e.tgt = none) :
    u.cIssue i x true e = (e.st.atPush u.cur (usesOf i).sy.push).modBank u.cur fun c => c.issuePlain (usesOf i).sy x := by
  rw [State.cIssue, h]
  rfl

/-- Its bank `d`, from the bank `c` that its effect has made. -/
structure Bank.PlainIssued (c : Bank) (sy : Sync) (d : Bank) : Prop where
  frame : d = { c with flights := d.flights, tok := d.tok, rsv := d.rsv, engcyc := c.engcyc + 1 }
  uids : d.flights.map (·.uid) = c.flights.map (·.uid)
  dues : d.flights.map (·.due) = c.flights.map (·.due)
  flights : sy.push = 0 ∨ c.allRead → d.flights = c.flights
  tok : sy.push = 0 → sy.pop = 0 → d.tok = c.tok

theorem State.cIssue_plainIssued (u : State) (i : Instr) (x : Entry) {e : CEff} (h : e.tgt = none) :
    (e.st.bank u.cur).PlainIssued (usesOf i).sy ((u.cIssue i x true e).bank u.cur) := by
  let sy := (usesOf i).sy
  have hd : (u.cIssue i x true e).bank u.cur = ((e.st.atPush u.cur sy.push).bank u.cur).issuePlain sy x := by
    rw [State.cIssue_plain _ _ _ h, State.bank_modBank]
  have hframe := ((e.st.atPush u.cur sy.push).bank u.cur).issuePlain_frame sy x
  rw [← hd] at hframe
  have hflights : ((u.cIssue i x true e).bank u.cur).flights = ((e.st.atPush u.cur sy.push).bank u.cur).flights :=
    (congrArg Bank.flights hframe :)
  obtain ⟨huids, hdues⟩ := e.st.atPush_flights u.cur sy.push
  refine ⟨?_, by rw [hflights, huids], by rw [hflights, hdues], fun hread => by rw [hflights, State.atPush_eq _ _ _ hread],
    fun hpush hpop => ?_⟩
  · rw [State.bank_atPush] at hframe
    rw [hflights]
    exact hframe
  · rw [hd, Bank.issuePlain_tok _ x hpop hpush, State.atPush_eq _ _ _ (.inl hpush)]

/-- A C word without a write, and without a charge, that may issue does so: its effect `f` is made, an engine cycle passes, and it makes
its push (07 R168, R170). -/
theorem State.cPlain_issues {s : State} {i : Instr} {b : Bank} (hgo : s.cGo i false 0 (fun _ _ => []) b false) (f : Bank → Bank) :
    (f (s.issuing i b 0).here).PlainIssued (usesOf i).sy (s.cPlain i f).here ∧ (s.cPlain i f).store = s.store
      ∧ ∀ n, n ≠ s.cur → (s.cPlain i f).bank n = s.bank n := by
  let u := s.issuing i b 0
  have hcur : u.cur = s.cur := s.issuing_cur i b 0
  let e : CEff := { st := u.modBank u.cur f, tgt := none, lat := 0, late := false, poison := false, addr := 0 }
  have ht : s.cPlain i f = u.cIssue i (s.inHand i) true e := by
    rw [State.cPlain, (State.cWord_go hgo rfl).2 rfl, decide_eq_true (Nat.le_add_left ..)]
  have hissued := u.cIssue_plainIssued i (s.inHand i) (e := e) rfl
  have hplain := u.cIssue_plain i (s.inHand i) (e := e) rfl
  rw [State.bank_modBank] at hissued
  rw [ht]
  refine ⟨?_, ?_, fun n hn => ?_⟩
  · have hhere : (u.cIssue i (s.inHand i) true e).here = (u.cIssue i (s.inHand i) true e).bank u.cur := by
      rw [State.here, hplain, State.modBank_cur, State.atPush_cur]
      rfl
    rw [hhere]
    exact hissued
  · rw [hplain, State.modBank_store, State.atPush_store]
    exact s.issuing_store i b 0
  · rw [← hcur] at hn
    rw [hplain, State.bank_modBank_ne _ _ hn, State.bank_atPush_ne _ _ _ hn, State.bank_modBank_ne _ _ hn]
    exact s.issuing_bank_ne i b 0 (hcur ▸ hn)

/-- Settles O25: both words issue without a write, and what they change of the bank is its rotation bases or its slack. -/
theorem rotationAndSlack : Obligations.RotationAndSlack := by
  intro s b done
  have hdone (i : Instr) (f : Bank → Bank) (hacts : ∀ acts, f { b with activity := acts } = { f b with activity := acts })
      (hf : f b = { b with rbv := (f b).rbv, rbp := (f b).rbp, slack := (f b).slack }) (hgo : s.cGo i false 0 (fun _ _ => []) b false) :
      done i (s.cPlain i f) ∧ (s.cPlain i f).here.rbv = (f b).rbv ∧ (s.cPlain i f).here.rbp = (f b).rbp
        ∧ (s.cPlain i f).here.slack = (f b).slack := by
    obtain ⟨hbank, hstore, hothers⟩ := State.cPlain_issues hgo f
    rw [s.issuing_here i b 0, hacts, hf] at hbank
    have h := hbank.frame
    exact ⟨⟨(congrArg Bank.engcyc h :), (congrArg Bank.s h :), hbank.flights, hbank.uids, hbank.dues, (congrArg Bank.v h :),
      (congrArg Bank.p h :), (congrArg Bank.h h :), (congrArg Bank.y h :), (congrArg Bank.acc h :), (congrArg Bank.qC h).trans hgo.queue_cut.1,
      hstore, hothers, fun _ => hbank.tok⟩, (congrArg Bank.rbv h :), (congrArg Bank.rbp h :), (congrArg Bank.slack h :)⟩
  refine ⟨fun a hgo => ⟨_, exec_rbset a s, hdone (.rbset a) _ (fun _ => rfl) rfl hgo⟩, fun a hgo => ⟨_, exec_slack a s, ?_⟩⟩
  obtain ⟨hall, hrbv, hrbp, hslack⟩ := hdone (.slack a) (fun b => { b with slack := a.n.toNat }) (fun _ => rfl) rfl hgo
  exact ⟨hall, hslack, hrbv, hrbp⟩

end Sys2Proof.Machine

/-! ### VLDL, VLDM, VSTL and VSTM (12 R264, R265; 13 R294) -/

namespace Sys2Proof.Machine

open Sys2Proof

/-! #### Checks -/

section

variable {b : Bank} {w : BitVec 2} {o n : Nat}

theorem localFault_none (halign : o % 32 = 0) (hin : o + n ≤ b.windowSize w) : localFault b w o n = none := by
  rw [localFault, if_neg (not_not.2 halign), if_neg (Nat.not_lt.2 hin)]

theorem localFault_misaligned (h : o % 32 ≠ 0) : localFault b w o n = some (6, BitVec.ofNat 64 o) := if_pos h

theorem localFault_outside (halign : o % 32 = 0) (h : b.windowSize w < o + n) : localFault b w o n = some (3, BitVec.ofNat 64 o) := by
  rw [localFault, if_neg (not_not.2 halign), if_pos h]

end

/-- A local access that may issue traps on an address that is not a multiple of 32, and past the reservation (12 R264). -/
theorem State.localAccess_traps {s : State} {i : Instr} {j : CJob} {b : Bank} {a : CLocal} {w : BitVec 2}
    (hgo : s.cGo i j.sr j.charge j.reads b j.writes) (hwait : j.wait (s.acting i) (s.inHand i) = false)
    (hchecks : j.fault = fun t x => localFault t.here w (localAddr a x) 256) (hexec : exec i s = .next (s.cWord i j)) :
    let o := localAddr a (s.inHand i)
    let traps := fun k => ∃ t, exec i s = .next t ∧ t.here.tcause = tcauseOf { group := 1, kind := k, engine := .C }
      ∧ t.here.tval = BitVec.ofNat 64 o ∧ t.store = s.store
    (o % 32 ≠ 0 → traps 6) ∧ (o % 32 = 0 → b.windowSize w < o + 256 → traps 3) := by
  refine ⟨fun halign => ⟨_, hexec, State.cWord_traps hgo hwait ?_⟩, fun halign hout => ⟨_, hexec, State.cWord_traps hgo hwait ?_⟩⟩
  · simp only [hchecks, State.checking_here, localFault_misaligned halign]
  · simp only [hchecks, State.checking_here, localFault_outside halign hout]

/-! #### Loads -/

/-- What a repetition of a local load does: it reads, and its register is in flight (12 R264; 04 R111; 07 R174). -/
def localLoadEff (a : CLocal) (w : BitVec 2) (lat : Nat) (t0 : State) (x : Entry) : CEff :=
  let l := t0.here.windowBase t0.cur w + localAddr a x
  let c := (t0.sense l 256).choose
  let t := c.2
  { st := { t with delays := t.delays.drop 1 }
    tgt := some (.v (physV t.here.rbv (a.v.toNat + x.rep)) (vecOf (t.store.view (dieOf t.cur) l 256)) (BitVec.allOnes 256))
    lat := lat, late := t.delays.headD false, poison := t.store.anyBad l 256, addr := BitVec.ofNat 64 (localAddr a x)
    loc := l, relook := t.here.relookMask c.1 }

/-- The parts of a local load, as C takes them. -/
def localLoadJob (a : CLocal) (w : BitVec 2) (lat : Nat) : CJob where
  reps := a.rep.toNat + 1
  sr := false
  charge := 1
  reads := fun _ _ => []
  wait := fun _ _ => false
  fault := fun t x => localFault t.here w (localAddr a x) 256
  eff := localLoadEff a w lat

theorem State.localLoad_job (s : State) (i : Instr) (a : CLocal) (w : BitVec 2) (lat : Nat) :
    s.localLoad i a w lat = s.cWord i (localLoadJob a w lat) := rfl

/-- A local load of a correct range of its reservation brings it into its register (12 R264). -/
theorem State.localLoad_issues {s : State} {i : Instr} {a : CLocal} {w : BitVec 2} (lat : Nat) {b : Bank}
    (hgo : s.cGo i false 1 (fun _ _ => []) b) : let x := s.inHand i; let o := localAddr a x; let l := b.windowBase s.cur w + o
    o % 32 = 0 → o + 256 ≤ b.windowSize w → s.clean l 256 →
    (s.localLoad i a w lat).store = s.store ∧ cIssued s (s.localLoad i a w lat) b x (a.rep.toNat + 1) lat
      (.v (physV b.rbv (a.v.toNat + x.rep)) (vecOf (s.store.view (dieOf s.cur) l 256)) (BitVec.allOnes 256))
      fun f => f.arrived = !(s.delays.headD false) ∧ f.relook = b.relookMask (s.choices.headD 0) ∧ f.loc = l
        ∧ f.slackEnd = f.due + b.slack := by
  intro x o l halign hin hclean
  let u := s.issuing i b 1
  have hhere : u.here = { b with activity := u.here.activity } := s.issuing_here i b 1
  have hcur : u.cur = s.cur := s.issuing_cur i b 1
  have hstore : u.store = s.store := s.issuing_store i b 1
  have hl : u.here.windowBase s.cur w + localAddr a x = l := by rw [hhere]; rfl
  have hsense : u.sense l 256 = u := State.sense_correct (s := u) (by rw [State.clean, hstore]; exact hclean)
  have hgood : s.store.anyBad l 256 = false := State.anyBad_correct hclean
  have hchoice : u.choose.1 = s.choices.headD 0 := congrArg (·.headD 0) (s.issuing_choices i b 1)
  have hcur' : u.choose.2.cur = s.cur := hcur
  have hstore' : u.choose.2.store = s.store := hstore
  have hdelays : u.choose.2.delays = s.delays := s.issuing_delays i b 1
  have hhere' : u.choose.2.here = { b with activity := u.here.activity } := hhere
  have he : localLoadEff a w lat u x = {
      st := { u.choose.2 with delays := s.delays.drop 1 }
      tgt := some (.v (physV b.rbv (a.v.toNat + x.rep)) (vecOf (s.store.view (dieOf s.cur) l 256)) (BitVec.allOnes 256))
      lat := lat, late := s.delays.headD false, poison := false, addr := BitVec.ofNat 64 o
      loc := l, relook := b.relookMask (s.choices.headD 0) } := by
    simp only [localLoadEff, hcur, hl, hsense, hcur', hstore', hdelays, hgood, hchoice, hhere']
    rfl
  have hfault : localFault (s.checking i b).here w o 256 = none := by rw [State.checking_here, localFault_none halign hin]
  obtain ⟨hissued, hstored, -⟩ := State.cWord_issues (j := localLoadJob a w lat) hgo rfl hfault he rfl (hgo.leaves (.of_standing rfl)) rfl
    (data := fun f => f.arrived = !(s.delays.headD false) ∧ f.relook = b.relookMask (s.choices.headD 0) ∧ f.loc = l
        ∧ f.slackEnd = f.due + b.slack) ⟨rfl, rfl, rfl, rfl⟩
  exact ⟨hstored.trans hstore, hissued⟩

/-! #### Stores -/

/-- What a repetition of a local store does: its register is stored as it issues, and nothing is to land (12 R264, R265; 04 R111). -/
def localStoreEff (a : CLocal) (w : BitVec 2) (lat : Nat) (t : State) (x : Entry) : CEff :=
  let l := t.here.windowBase t.cur w + localAddr a x
  { st := (t.modBank t.cur fun b => b.settleReads l 256).modStore fun st =>
      st.put (dieOf t.cur) l (vecBytes (t.here.vreg (a.v.toNat + x.rep)))
    tgt := some .store, lat := lat, late := false, poison := false, addr := 0 }

/-- A repetition of a local store reaches the operand region of an incomplete MMA (13 R294). -/
def State.localStoreWaits (a : CLocal) (w : BitVec 2) (t : State) (x : Entry) : Bool :=
  (List.range (a.rep.toNat + 1)).any fun j => t.here.mmaOverlap w (localAddr a { x with rep := j }) 256

/-- The parts of a local store, as C takes them. -/
def localStoreJob (a : CLocal) (w : BitVec 2) (lat : Nat) : CJob where
  reps := a.rep.toNat + 1
  sr := false
  charge := 1
  reads := fun b x => [.v (physV b.rbv (a.v.toNat + x.rep))]
  wait := State.localStoreWaits a w
  fault := fun t x => localFault t.here w (localAddr a x) 256
  eff := localStoreEff a w lat

theorem State.localStore_job (s : State) (i : Instr) (a : CLocal) (w : BitVec 2) (lat : Nat) :
    s.localStore i a w lat = s.cWord i (localStoreJob a w lat) := rfl

theorem State.localStoreWaits_eq_true {a : CLocal} {w : BitVec 2} {t : State} {x : Entry} :
    t.localStoreWaits a w x = true ↔ ∃ j, j ≤ a.rep.toNat ∧ t.here.mmaOverlap w (localAddr a { x with rep := j }) 256 = true := by
  simp only [State.localStoreWaits, List.any_eq_true, List.mem_range, Nat.lt_succ_iff]

theorem State.localStoreWaits_eq_false {a : CLocal} {w : BitVec 2} {t : State} {x : Entry} (h : ∀ j, j ≤ a.rep.toNat →
    t.here.mmaOverlap w (localAddr a { x with rep := j }) 256 = false) : t.localStoreWaits a w x = false := by
  refine Bool.eq_false_iff.2 fun hwaits => ?_
  obtain ⟨j, hj, hreach⟩ := State.localStoreWaits_eq_true.1 hwaits
  exact ne_true_of_eq_false (h j hj) hreach

/-- Loads that have read where a store writes change in the flights of their bank (04 R111). -/
theorem Bank.settleReads_frame (b : Bank) (l n : Nat) : b.settleReads l n = { b with flights := (b.settleReads l n).flights } := by
  unfold Bank.settleReads
  split <;> rfl

theorem Bank.settleReads_activity (b : Bank) (acts : List (Nat × Nat)) (l n : Nat) :
    ({ b with activity := acts } : Bank).settleReads l n = { b.settleReads l n with activity := acts } := by
  unfold Bank.settleReads
  split <;> rfl

/-- A local store within its reservation stores its register (12 R264, R265). -/
theorem State.localStore_issues {s : State} {i : Instr} {a : CLocal} {w : BitVec 2} (lat : Nat) {b : Bank}
    (hgo : s.cGo i false 1 (fun b x => [.v (physV b.rbv (a.v.toNat + x.rep))]) b)
    (hfree : (s.acting i).localStoreWaits a w (s.inHand i) = false) :
    let x := s.inHand i; let o := localAddr a x; let l := b.windowBase s.cur w + o
    o % 32 = 0 → o + 256 ≤ b.windowSize w →
    cIssued s (s.localStore i a w lat) (b.settleReads l 256) x (a.rep.toNat + 1) lat .store
      ∧ (s.localStore i a w lat).store = s.store.put (dieOf s.cur) l (vecBytes (b.v.get (physV b.rbv (a.v.toNat + x.rep)))) := by
  intro x o l halign hin
  let u := s.issuing i b 1
  have hhere : u.here = { b with activity := u.here.activity } := s.issuing_here i b 1
  have hcur : u.cur = s.cur := s.issuing_cur i b 1
  have hl : u.here.windowBase s.cur w + localAddr a x = l := by rw [hhere]; rfl
  have hreg : u.here.vreg (a.v.toNat + x.rep) = b.v.get (physV b.rbv (a.v.toNat + x.rep)) := by rw [hhere]; rfl
  have he : localStoreEff a w lat u x = {
      st := (u.modBank s.cur fun b => b.settleReads l 256).modStore fun st =>
        st.put (dieOf s.cur) l (vecBytes (b.v.get (physV b.rbv (a.v.toNat + x.rep))))
      tgt := some .store, lat := lat, late := false, poison := false, addr := 0 } := by
    simp only [localStoreEff, hcur, hl, hreg]
  have hbank : (u.modBank s.cur fun b => b.settleReads l 256).bank s.cur = { b.settleReads l 256 with activity := u.here.activity } := by
    rw [State.bank_modBank, ← hcur, ← State.here, hhere, Bank.settleReads_activity]
  have hleaves : (localStoreEff a w lat u x).Leaves s (b.settleReads l 256) := by
    rw [he]
    refine CEff.leaves_of_bank hcur ?_ ?_ fun n hn => ?_
    · rw [Bank.settleReads_frame]
      exact hgo.queue_cut.1
    · rw [State.bank_modStore, hbank]
    · rw [State.bank_modStore, State.bank_modBank_ne _ _ hn]
      exact s.issuing_bank_ne i b 1 hn
  rw [he] at hleaves
  have hfault : localFault (s.checking i b).here w o 256 = none := by rw [State.checking_here, localFault_none halign hin]
  obtain ⟨hissued, hstored, -⟩ := State.cWord_issues (j := localStoreJob a w lat) hgo hfree hfault he rfl hleaves rfl
    (data := fun f => f.arrived = true ∧ f.relook = 0) ⟨rfl, rfl⟩
  refine ⟨hissued, hstored.trans ?_⟩
  rw [State.store_of_modStore, State.modBank_store, show u.store = s.store from s.issuing_store i b 1]

/-! #### The obligation -/

/-- Settles O24: the loads, the stores, and the stores that wait. -/
theorem localAccesses : Obligations.LocalAccesses := by
  intro s a b traps
  refine ⟨fun p hp => ?loads, fun p hp => ?stores, fun p hp => ?waits⟩
  case loads =>
    simp only [List.mem_cons, List.not_mem_nil, or_false] at hp
    obtain rfl | rfl := hp
    · exact fun hgo => ⟨fun halign hin hclean => ⟨_, exec_vldl a s, State.localLoad_issues 6 hgo halign hin hclean⟩,
        State.localAccess_traps (j := localLoadJob a 0 6) hgo rfl rfl (exec_vldl a s)⟩
    · exact fun hgo => ⟨fun halign hin hclean => ⟨_, exec_vldm a s, State.localLoad_issues 12 hgo halign hin hclean⟩,
        State.localAccess_traps (j := localLoadJob a 1 12) hgo rfl rfl (exec_vldm a s)⟩
  case stores =>
    simp only [List.mem_cons, List.not_mem_nil, or_false] at hp
    obtain rfl | rfl := hp
    · intro x o l hgo reach hreach
      have hfree := State.localStoreWaits_eq_false hreach
      exact ⟨fun halign hin => ⟨_, exec_vstl a s, State.localStore_issues 6 hgo hfree halign hin⟩,
        State.localAccess_traps (j := localStoreJob a 0 6) hgo hfree rfl (exec_vstl a s)⟩
    · intro x o l hgo reach hreach
      have hfree := State.localStoreWaits_eq_false hreach
      exact ⟨fun halign hin => ⟨_, exec_vstm a s, State.localStore_issues 12 hgo hfree halign hin⟩,
        State.localAccess_traps (j := localStoreJob a 1 12) hgo hfree rfl (exec_vstm a s)⟩
  case waits =>
    simp only [List.mem_cons, List.not_mem_nil, or_false] at hp
    obtain rfl | rfl := hp
    · exact fun hreach => ⟨_, exec_vstl a s, State.cWord_waits (j := localStoreJob a 0 6) (State.localStoreWaits_eq_true.2 hreach)⟩
    · exact fun hreach => ⟨_, exec_vstm a s, State.cWord_waits (j := localStoreJob a 1 12) (State.localStoreWaits_eq_true.2 hreach)⟩

end Sys2Proof.Machine
